-- ==== Sys2Proof/Word.lean ====
section
/-! DEFINITION. The words of the PX6410: parameter values and engine registers are 32 bits
(R69, R432), memory is bytes (R6). Counts, instants and indexes are natural numbers. -/

namespace Sys2Proof

/-- A 32-bit word: a parameter value (R69), an engine register (R432), an ACK count (R100). -/
abbrev Word := BitVec 32

/-- One byte of a slot, a record or a memory image (R6). -/
abbrev Byte := BitVec 8

end Sys2Proof
end

