-- ==== Sys2Proof/Syntax.lean ====
section
/-! DEFINITION. The commands the block takes: one constructor of `Instr` for each row of the
spec's table of operations and events, with the operands that the row's rule gives it. -/

namespace Sys2Proof

/-! ### Operands of host commands -/

/-- The header of a command slot (R37), without the opcode: the ring it came from and the fields
every command carries. Reserved bits are absent: a slot whose reserved bits are set reaches the
model as bytes, through `Instr.slotFetchComplete`. -/
structure Hdr where
  ring : Fin 16
  tag : BitVec 16
  defer : Bool
  irq : Bool
  order : Bool
  resDma : Bool
  chain : BitVec 7
  inst : BitVec 12
  scope : BitVec 4
  deferGen : BitVec 32
  resultPtr : BitVec 64
  resultLen : BitVec 32
  deriving DecidableEq, Repr

/-- An (ID, value) pair of STAGE or ACK_WRITE (R78, R103). -/
structure Pair where
  id : Word
  value : Word
  deriving DecidableEq, Repr

/-- One entry of SP_SEQUENCE (R283). -/
structure SeqEntry where
  berth : BitVec 6
  waitGood : Bool
  chain : BitVec 7
  delay : BitVec 16
  target : BitVec 32
  deriving DecidableEq, Repr

/-- The operation of a host command with the fields of its parameter block (R65, R591). -/
inductive HostOp where
  | nop
  | identify
  | getState
  | park (mode : Byte)
  | unpark (instant : BitVec 64)
  | berthPower (on : Byte)
  | clearFault
  | abort (tag : BitVec 16)
  | resetScope (type : Byte) (engines : Option Byte)
  | stage (tray : Byte) (pairs : List Pair)
  | proof (tray : Byte)
  | bake (instant : BitVec 64) (tray : BitVec 3) (check relative : Bool) (expected : Word)
  | read (selector : Byte) (ids : List Word)
  | trayClear (tray : Byte)
  | trayStatus (tray : Byte)
  | ackWrite (pairs : List Pair)
  | segLoad (bank : Byte) (offset : BitVec 32) (source : BitVec 64) (length : BitVec 32)
  | arm (entry : BitVec 32) (mask : BitVec 4) (tset : BitVec 6)
  | start (mode : Byte) (source : Byte) (instant : BitVec 64)
  | halt
  | jump (target : BitVec 32)
  | disarm
  | clearHalt
  | seqStatus
  | ppmuMeasure (current slow : Bool) (range : Byte) (samples : BitVec 32)
  | acqArm (setup : BitVec 2) (pre post : BitVec 32)
  | acqRead (record : BitVec 32)
  | tmuArm (mode : BitVec 3) (source : BitVec 3) (gateSel : BitVec 2) (gateFall : Bool)
      (markSel : BitVec 4) (chainLine : BitVec 4)
  | tmuRead
  | resultUpload (content : Byte)
  | failLogRead (first : BitVec 64) (count : BitVec 32)
  | spRamp (target slew : BitVec 32)
  | spSequence (entries : List SeqEntry)
  | spOff (mode : Byte)
  | spStatus
  | chainEnum
  | chainStatus
  | laneTest (lane : Byte) (pattern : BitVec 2) (loopback single burst : Bool)
      (burstLen : BitVec 6) (time : BitVec 32)
  | laneBitslip (lane count : Byte)
  | bcastLoad (source dest : BitVec 64) (length : BitVec 32)
  | tideAlign
  | calRun (items : BitVec 32) (positions : BitVec 16)
  | calSave
  | calRestore (image : List Byte)
  | relieve
  | unrelieve
  | calStatus
  | refSelect (ref : Byte)
  | freqMeasure (inst : Byte) (kind : BitVec 4) (gate : BitVec 32)
  | thermRead (first count : Byte)
  | thermClear (zone : Byte)
  | clockMode (mask : BitVec 64) (run sleep deep : Bool) (kind : Byte)
  | tpXfer (port : BitVec 3) (sel : BitVec 2) (bits lead : Byte) (units : List (BitVec 32))
  | tpStatus (port : BitVec 3)
  | mcPatchLoad (mask : BitVec 5) (image : List Byte)
  | mcVersion
  | fuseRead (word : BitVec 8)
  deriving DecidableEq, Repr

/-! ### Operands of events -/

/-- The cause of an engine fault that is not raised by the microword's own action (R446). -/
inductive EngCause where
  | undefinedOp | parity | microword (code : BitVec 16)
  deriving DecidableEq, Repr

/-- The content of a chain frame (R353 to R358, R360, R361). -/
inductive FrameBody where
  /-- F0: ENUM, with the topology, the sender's position and its leg bound (R353). -/
  | enum (topology : Fin 4) (x y leg : Nat)
  /-- F0: a device reports its position, leg bound and state upstream, the tree links it has
  downstream, east to (x + 1, y) and south to (0, y + 1), its microcode version, and the rate codes of those links
  (R353). -/
  | enumReport (x y leg : Nat) (booting east south : Bool) (mcver : BitVec 64) (eastRate southRate : Nat)
  /-- F0: the pilot gives the device at a position its chain index, or excludes it (R353). -/
  | assignIndex (x y : Nat) (index : Fin 128) (excluded : Bool)
  /-- F0: the child's stamps of one tide exchange (R360). -/
  | tideData (exchange : BitVec 16) (t1 t2 : Nat)
  /-- F0: the correction of a follower and the tide count at which it applies (R361). -/
  | correction (index : Fin 128) (c : Int) (applyAt : Nat)
  /-- F0: the measured θ, in units, of the tree link whose child is `index`, or of a cross link of
  device `index` (R361). -/
  | residual (index : Fin 128) (theta : Int) (cross : Bool)
  /-- F1: the orderly PARK at device scope that the pilot forwards at a reference loss (R477). -/
  | lossPark
  /-- F0: a follower's zone stop (R421). -/
  | thermalReport (index : Fin 128) (zone : Fin 24) (sensor : Fin 104)
  /-- F0: the devices of the chain, indices 0 to count - 1, which the pilot tells every follower (R353, R369; DESIGN
  CHOICE, log 129). -/
  | chainCount (count : Nat)
  /-- F0: Θ of a follower as the pilot has measured it last (R361, R374; DESIGN CHOICE, log 129). -/
  | theta (index : Fin 128) (theta : Int)
  /-- F0: a follower has set its TideAligned to 0 (R354, R362; DESIGN CHOICE, log 129). -/
  | unaligned (index : Fin 128)
  /-- F0: the outcome of TIDE_ALIGN (R361). -/
  | aligned (ok : Bool)
  /-- F1: a forwarded command (R63). -/
  | command (h : Hdr) (op : HostOp)
  /-- F1: the reply of a forwarded command: status, its chain index, its data (R63). -/
  | reply (tag : BitVec 16) (index : Fin 128) (status : BitVec 16) (gen : Word)
      (stamp : BitVec 63) (data : List Byte)
  /-- F1: the SnapTide of a result upload, for every device (R313). -/
  | snapTide (tag : BitVec 16) (tide : BitVec 64)
  /-- F1: result bytes of a forwarded command, up to 4 KiB (R355). -/
  | result (index : Fin 128) (bytes : List (BitVec 8))
  /-- A full frame of a longer message, before the one that ends it (R355). -/
  | piece (cls : Fin 4) (bytes : Nat)
  /-- F2: a device's part of a result upload, or a larger result (R313, R355). -/
  | resultPart (index : Fin 128) (bytes : List Byte)
  /-- F3: bytes of a broadcast load (R358); `last` closes the image. -/
  | broadcast (addr : Nat) (bytes : List Byte) (last : Bool)
  /-- F1: the CRC a device computed over a broadcast (R324). -/
  | bcastCrc (index : Fin 128) (crc : Word) (wrote : Bool)
  deriving DecidableEq, Repr

/-- The three uses of a LINK block (R356). -/
inductive LinkUse where
  | ack (seq : BitVec 16)
  | nak (seq : BitVec 16)
  | credit (cls : Fin 4) (bytes : Nat)
  deriving DecidableEq, Repr

/-- A comparator result (R107). -/
inductive CmpResult where
  | low | high | mid | both
  deriving DecidableEq, Repr

/-- One position's part of a vector whose windows have reached fail capture (R302, R305): the
vector code and the judged result (the first differing result of a window, or the result at CO). -/
structure PosResult where
  pos : Fin 16
  code : BitVec 4
  result : CmpResult
  deriving DecidableEq, Repr

/-- The three window monitors of a site power controller (R286). -/
inductive Mon where
  | ov | uv | oc
  deriving DecidableEq, Repr

/-- Why a quay starves (R175); BANK_BUSY and STALE starves come with the segment entry. -/
inductive StarveWhy where
  | underrun | holdEcc | bankBusy | stale
  deriving DecidableEq, Repr

/-- What the diagnostic of a thermal sensor says (R405). -/
inductive Diag where
  | ok | opened | shorted
  deriving DecidableEq, Repr

/-- One sensor's sample: its reading in 1/256 degree C and its diagnostic (R402, R404). -/
structure SensorIn where
  sensor : Fin 104
  reading : Int
  diag : Diag
  deriving DecidableEq, Repr

/-- The kind of an automatic calibration trigger (R382). -/
inductive CalTrigger where
  | temperature | period
  deriving DecidableEq, Repr

/-- A read access of BAR0 (R531): its offset and its length in bytes. -/
structure BarRead where
  off : Nat
  len : Nat
  deriving DecidableEq, Repr

/-- The captured straps (R547). -/
structure Straps where
  chainRole : BitVec 2
  refSel : BitVec 2
  thermMode : BitVec 2
  parkSrc : Bool
  bootSrc : Bool
  pcieEn : Bool
  linkWidth : BitVec 2
  deriving DecidableEq, Repr

/-- What a boot flash read delivers (R556 to R563): the bytes that stand in the flash. -/
inductive FlashContent where
  /-- SFDP and the directories: whether a signature was found, and the bytes of copy A and of copy B (R557, R558). -/
  | directories (sfdp : Bool) (copyA copyB : List Byte)
  | patch (content : List Byte)
  | configuration (content : List Byte)
  | parkTable (content : List Byte)
  | correction (content : List Byte)
  deriving DecidableEq, Repr

/-- The monitored rails (R554, R584) and the rails whose validity gates outputs (R555). -/
inductive Rail where
  | vddCore | vddaFe | vddHbm | vpinHi | vpinLo
  deriving DecidableEq, Repr

inductive IoRail where
  | vddIo | vddaFe
  deriving DecidableEq, Repr

/-- The fast-status blocks of BAR0 (R530). -/
inductive FsBlock where
  | device | quay (q : Fin 16) | berth (b : Fin 64)
  deriving DecidableEq, Repr

/-! ### The commands -/

/-- One constructor for each row of the table of operations and events. -/
inductive Instr where
  -- host commands (R65)
  | nop (h : Hdr)
  | identify (h : Hdr)
  | getState (h : Hdr)
  | park (h : Hdr) (mode : Byte)
  | unpark (h : Hdr) (instant : BitVec 64)
  | berthPower (h : Hdr) (on : Byte)
  | clearFault (h : Hdr)
  | abort (h : Hdr) (tag : BitVec 16)
  | resetScope (h : Hdr) (type : Byte) (engines : Option Byte)
  | stage (h : Hdr) (tray : Byte) (pairs : List Pair)
  | proof (h : Hdr) (tray : Byte)
  | bake (h : Hdr) (instant : BitVec 64) (tray : BitVec 3) (check relative : Bool)
      (expected : Word)
  | read (h : Hdr) (selector : Byte) (ids : List Word)
  | trayClear (h : Hdr) (tray : Byte)
  | trayStatus (h : Hdr) (tray : Byte)
  | ackWrite (h : Hdr) (pairs : List Pair)
  | segLoad (h : Hdr) (bank : Byte) (offset : BitVec 32) (source : BitVec 64)
      (length : BitVec 32)
  | arm (h : Hdr) (entry : BitVec 32) (mask : BitVec 4) (tset : BitVec 6)
  | start (h : Hdr) (mode : Byte) (source : Byte) (instant : BitVec 64)
  | halt (h : Hdr)
  | jump (h : Hdr) (target : BitVec 32)
  | disarm (h : Hdr)
  | clearHalt (h : Hdr)
  | seqStatus (h : Hdr)
  | ppmuMeasure (h : Hdr) (current slow : Bool) (range : Byte) (samples : BitVec 32)
  | acqArm (h : Hdr) (setup : BitVec 2) (pre post : BitVec 32)
  | acqRead (h : Hdr) (record : BitVec 32)
  | tmuArm (h : Hdr) (mode : BitVec 3) (source : BitVec 3) (gateSel : BitVec 2)
      (gateFall : Bool) (markSel : BitVec 4) (chainLine : BitVec 4)
  | tmuRead (h : Hdr)
  | resultUpload (h : Hdr) (content : Byte)
  | failLogRead (h : Hdr) (first : BitVec 64) (count : BitVec 32)
  | spRamp (h : Hdr) (target slew : BitVec 32)
  | spSequence (h : Hdr) (entries : List SeqEntry)
  | spOff (h : Hdr) (mode : Byte)
  | spStatus (h : Hdr)
  | chainEnum (h : Hdr)
  | chainStatus (h : Hdr)
  | laneTest (h : Hdr) (lane : Byte) (pattern : BitVec 2) (loopback single burst : Bool)
      (burstLen : BitVec 6) (time : BitVec 32)
  | laneBitslip (h : Hdr) (lane count : Byte)
  | bcastLoad (h : Hdr) (source dest : BitVec 64) (length : BitVec 32)
  | tideAlign (h : Hdr)
  | calRun (h : Hdr) (items : BitVec 32) (positions : BitVec 16)
  | calSave (h : Hdr)
  | calRestore (h : Hdr) (image : List Byte)
  | relieve (h : Hdr)
  | unrelieve (h : Hdr)
  | calStatus (h : Hdr)
  | refSelect (h : Hdr) (ref : Byte)
  | freqMeasure (h : Hdr) (inst : Byte) (kind : BitVec 4) (gate : BitVec 32)
  | thermRead (h : Hdr) (first count : Byte)
  | thermClear (h : Hdr) (zone : Byte)
  | clockMode (h : Hdr) (mask : BitVec 64) (run sleep deep : Bool) (kind : Byte)
  | tpXfer (h : Hdr) (port : BitVec 3) (sel : BitVec 2) (bits lead : Byte)
      (units : List (BitVec 32))
  | tpStatus (h : Hdr) (port : BitVec 3)
  | mcPatchLoad (h : Hdr) (mask : BitVec 5) (image : List Byte)
  | mcVersion (h : Hdr)
  | fuseRead (h : Hdr) (word : BitVec 8)
  -- doorbells, descriptors, BAR accesses (R32 to R34, R99, R322, R531, R534, R552)
  | sqTailDoorbell (n : Fin 16) (w : Word)
  | rqHeadDoorbell (m : Fin 16) (w : Word)
  | sqRingEnable (n : Fin 16) (base : BitVec 64) (log2 reply : BitVec 4)
  | sqRingDisable (n : Fin 16) (base : BitVec 64) (log2 reply : BitVec 4)
  | rqRingEnable (m : Fin 16) (base : BitVec 64) (log2 : BitVec 4) (vector : BitVec 6)
      (count : BitVec 8) (time : BitVec 16)
  | rqRingDisable (m : Fin 16) (base : BitVec 64) (log2 : BitVec 4) (vector : BitVec 6)
      (count : BitVec 8) (time : BitVec 16)
  | ackMirrorWrite (off : Nat) (w : Word)
  | counterLowRead (access : BarRead)
  | bar0Write (off : Nat) (data : List Byte) (poisoned : Bool)
  | bar2Write (off : Nat) (data : List Byte) (poisoned : Bool)
  | bar2Read (off len : Nat)
  | configRequest (reg : Nat) (write : Option Word)
  -- acceptance and dispatch (R38, R54, R60, R62, R430)
  | slotFetchComplete (n : Fin 16) (slot block : List Byte)
  | fetchResume (n : Fin 16) (slot block : List Byte)
  | commandDispatch (e : Fin 5)
  | deferredCommandStart
  | replyCoalesceTimeout (m : Fin 16)
  -- microwords of context c of engine e (R433)
  | nopMicroword (e : Fin 5) (c : Fin 16)
  | mov (e : Fin 5) (c : Fin 16) (a b : Fin 32)
  | ldi (e : Fin 5) (c : Fin 16) (a : Fin 32) (imm : BitVec 16)
  | ldh (e : Fin 5) (c : Fin 16) (a : Fin 32) (imm : BitVec 16)
  | add (e : Fin 5) (c : Fin 16) (a b : Fin 32)
  | addi (e : Fin 5) (c : Fin 16) (a : Fin 32) (imm : BitVec 16)
  | sub (e : Fin 5) (c : Fin 16) (a b : Fin 32)
  | and (e : Fin 5) (c : Fin 16) (a b : Fin 32)
  | or (e : Fin 5) (c : Fin 16) (a b : Fin 32)
  | xor (e : Fin 5) (c : Fin 16) (a b : Fin 32)
  | shl (e : Fin 5) (c : Fin 16) (a : Fin 32) (n : Fin 32)
  | shr (e : Fin 5) (c : Fin 16) (a : Fin 32) (n : Fin 32)
  | cmp (e : Fin 5) (c : Fin 16) (a b : Fin 32)
  | cmpi (e : Fin 5) (c : Fin 16) (a : Fin 32) (imm : BitVec 16)
  | jmp (e : Fin 5) (c : Fin 16) (imm : BitVec 16)
  | br (e : Fin 5) (c : Fin 16) (cond : Fin 14) (imm : BitVec 16)
  | call (e : Fin 5) (c : Fin 16) (imm : BitVec 16)
  | ret (e : Fin 5) (c : Fin 16)
  | switch (e : Fin 5) (c : Fin 16) (b : Fin 32) (imm : BitVec 16)
  | frd (e : Fin 5) (c : Fin 16) (a b : Fin 32) (imm : BitVec 16)
  | fwr (e : Fin 5) (c : Fin 16) (a b : Fin 32) (imm : BitVec 16)
  | trd (e : Fin 5) (c : Fin 16) (a b : Fin 32) (value : Bool)
  | twr (e : Fin 5) (c : Fin 16) (a b : Fin 32) (value : Bool)
  | shw (e : Fin 5) (c : Fin 16) (a b : Fin 32)
  | hrd (e : Fin 5) (c : Fin 16) (a : Fin 32) (imm : BitVec 16)
  | hwr (e : Fin 5) (c : Fin 16) (a b : Fin 32) (imm : BitVec 16)
  | pst (e : Fin 5) (c : Fin 16)
  | wait (e : Fin 5) (c : Fin 16) (a b : Fin 32) (cond : Byte) (invert : Bool)
  | waitWake (e : Fin 5) (c : Fin 16)
  | waitTimeout (e : Fin 5) (c : Fin 16)
  | poll (e : Fin 5) (c : Fin 16)
  | commit (e : Fin 5) (c : Fin 16)
  | endc (e : Fin 5) (c : Fin 16)
  | prog (e : Fin 5) (c : Fin 16) (imm : BitVec 16)
  | tide (e : Fin 5) (c : Fin 16) (a : Fin 32) (high : Bool)
  | tarm (e : Fin 5) (c : Fin 16) (a b : Fin 32)
  | sig (e : Fin 5) (c : Fin 16) (a : Fin 32) (code : Byte)
  | fwd (e : Fin 5) (c : Fin 16) (a : Fin 32)
  | evt (e : Fin 5) (c : Fin 16) (imm : BitVec 16)
  | fault (e : Fin 5) (c : Fin 16) (cause : EngCause)
  | engineRestart (e : Fin 5)
  -- bakes, chain SIGNALs (R20, R92, R93, R360 to R367)
  | bakeStrobe (loaded : Bool)
  | chainBakeDecision
  | bakeArm (i36 : BitVec 36) (tray : Fin 8)
  | bakeReady (p : Fin 4) (i36 : BitVec 36)
  | bakeGo (i36 : BitVec 36)
  | bakeCancel (i36 : BitVec 36)
  | token (i36 : BitVec 36)
  | tokenDeadline
  | trigRaise (line : Fin 16) (i36 : BitVec 36)
  | trigDeliver (line : Fin 16) (i36 : BitVec 36)
  | trigDeliveryInstant (line : Fin 16)
  | oven (ok : Bool)
  | ovenTimeout
  | tidePing (p : Fin 4) (exchange : BitVec 16) (t1 t2 : Nat)
  | tidePong (p : Fin 4) (exchange : BitVec 16) (t0 t3 : Nat)
  | lost (index : Fin 128)
  | tideCorrectionApply
  | tideTrackMeasure (theta : Int)
  | tideTrackStep
  -- chain frames, blocks and lanes (R335 to R358, R367)
  | frameReceive (p : Fin 4) (seq : BitVec 16) (crcOk : Bool) (body : FrameBody)
  | enumFrame (q : Fin 4) (topology : Fin 4) (x y leg : Nat)
  | linkBlock (p : Fin 4) (use : LinkUse)
  | alignMarker (l : Fin 48) (seq : BitVec 16) (mismatches : Fin 17)
  | trainBlock (l : Fin 48) (preReq postReq preStat postStat : Fin 4) (rxReady refGood ready : Bool)
  | adaptWindowEnd (l : Fin 48) (idle : Nat)
  | laneDetectAttempt (l : Fin 48)
  | laneReceiverDetected (l : Fin 48)
  | trainTimeout (p : Fin 4)
  | bitLockAchieved (l : Fin 48)
  | bitLockTimeout (l : Fin 48)
  | blockLockAchieved (l : Fin 48)
  | blockLockTimeout (l : Fin 48)
  | deskewMatch (l : Fin 48) (skew : Fin 65)
  | deskewTimeout (l : Fin 48)
  | capabilityFrame (p : Fin 4) (isPx6410 pilot : Bool) (laneMask : BitVec 12) (rate : Fin 3)
  | capabilityTimeout (p : Fin 4)
  | laneLost (l : Fin 48)
  | laneTestEnd (l : Fin 48) (errors : BitVec 64) (locked : Bool)
  | linkDown (p : Fin 4)
  -- the quay sequencer (R154 to R175)
  | burstStart (q : Fin 16)
  | successorCommit (q : Fin 16)
  | segmentPassEnd (q : Fin 16)
  | decisionPauseEnd (q : Fin 16)
  | haltTaken (q : Fin 16)
  | jumpTaken (q : Fin 16)
  | starve (q : Fin 16) (index : Nat) (why : StarveWhy)
  | starveHalt (q : Fin 16)
  | streamPrefillDone (q : Fin 16)
  | streamReadComplete (q : Fin 16) (bytes : Nat) (uncorrectable : Bool)
  -- fail capture and results (R302 to R313)
  | compareResult (b : Fin 64) (index : Nat) (seg : Byte) (pass : BitVec 16)
      (matchWait : Bool) (results : List PosResult)
  | resultDone (q : Fin 16)
  | failLogSpill (b : Fin 64)
  | captureSpill (b : Fin 64)
  | resultSnapshot
  | resultPartTimeout
  -- channels, handover, levels, park, PPMU (R109, R134, R189, R194 to R198, R207, R217)
  | shortLimitEvent (c : Fin 1088)
  | substOverlap (b : Fin 64)
  | substCompareMove (b : Fin 64)
  | substSwitch (b : Fin 64)
  | lwSample (q : Fin 16)
  | unparkInstant
  | parkModeApply (b : Fin 64)
  | orderlyParkDeadline (b : Fin 64)
  | rangeSwRegulationMove (c : Fin 1088)
  | rangeSwOldDisconnect (c : Fin 1088)
  | rangeSwEnd (c : Fin 1088)
  | ppmuClampEntry (c : Fin 1088)
  | ppmuSample (c : Fin 1088) (value : Int)
  -- acquisition and time measurement (R219 to R233, R245 to R256)
  | acqBaseSample (b : Fin 64) (sa sb : Int) (events : Byte) (clip : Bool)
      (marker : Option (BitVec 64))
  | acqRecordClose (b : Fin 64)
  | acqRearmEnd (b : Fin 64)
  | acqSpill (b : Fin 64)
  | tmuEdge (b : Fin 64) (input : Fin 19) (edge : Fin 4) (stamp : Nat)
  | tmuArmingEvent (b : Fin 64) (source : Fin 5) (a : Nat)
  | tmuWindowOpen (b : Fin 64)
  | tmuWindowClose (b : Fin 64)
  | gateEdge (g : Fin 4) (rising : Bool)
  | ovenRdyRise
  | ovenRdyFall
  | ovenQualified
  -- site power (R273 to R290)
  | peakComparatorTrip (b : Fin 64) (n : Fin 4) (sinceEdge : Nat) (onClamp : Bool)
  | maxDutyTimeout (b : Fin 64) (n : Fin 4)
  | zeroCurrentDetect (b : Fin 64) (n : Fin 4)
  | stageReady (b : Fin 64) (vout : Int) (fltLow : Bool)
  | rampStep (b : Fin 64)
  | rampTargetReached (b : Fin 64) (vout : Int)
  | enFallDelay (b : Fin 64) (vout : Int)
  | offGroupStart
  | spSeqEntryStart
  | monitorLevelChange (b : Fin 64) (m : Mon) (level : Bool)
  | monitorBlankingEnd (b : Fin 64) (m : Mon) (level : Bool)
  | monitorFilterExpiry (b : Fin 64) (m : Mon)
  | stageFaultFlag (b : Fin 64)
  | openSenseDetect (b : Fin 64)
  | hiccupRestart (b : Fin 64)
  | holdStackDown (k : Fin 2)
  -- calibration and thermal supervision (R382 to R390, R404 to R421)
  | calAutoTrigger (b : Fin 64) (why : CalTrigger)
  | calMeasureDone (b : Fin 64) (failed : BitVec 11)
  | calRideTimeout (b : Fin 64)
  | calServiceRetry (b : Fin 64)
  | thermalSample (samples : List SensorIn)
  | followerThermalReport (index : Fin 128) (zone : Fin 24) (sensor : Fin 104)
  -- clocks and references (R464 to R481)
  | refLossDeclared
  | coastMinExpiry
  | coastLongTimeout
  | fallbackLocked
  | fallbackTimeout
  | refQualified
  | relockDone
  | pllLock
  | hkSettled
  | trimMeasurement (ppm : Int)
  | domainSleep (kind : Fin 9) (inst : Fin 64) (deep : Bool)
  | domainWake (kind : Fin 9) (inst : Fin 64)
  -- crossings and resets (R15, R497, R500 to R503)
  | d2dLinkLoss (w : Fin 4) (writes reads : Nat)
  | d2dLinkRetrained (w : Fin 4)
  | d2dRetrainTimeout (w : Fin 4)
  | resetIndication (w : Fin 4) (deck front reads device : Nat)
  | resetAcknowledge
  -- tender ports (R510 to R519)
  | tpTransactionStart (p : Fin 8)
  | tpReadyHigh (p : Fin 8) (din : BitVec 32)
  | tpReadyTimeout (p : Fin 8)
  | tpSelBreak (p : Fin 8)
  | tpStatusByte (p : Fin 8) (v : Byte)
  | tpTransactionEnd (p : Fin 8) (edges : BitVec 32)
  -- fast status and the host link (R97, R535 to R543, R546, R552)
  | fastStatusRewrite (k : FsBlock)
  | busMasterEnableClear
  | busMasterEnableSet
  | replyHoldExpiry
  | d3hotEntry
  | d0Return
  | hostLinkDown
  | msixUnmask (vector : Option (Fin 64))
  | aspmL1Entry
  | aspmL1Exit
  | hostReadCompletion (tag : BitVec 16) (data : List Byte)
  | poisonedCompletion (read : Fin 16 ⊕ BitVec 16)
  | completionTimeout (read : Fin 16 ⊕ BitVec 16)
  | urCaCompletion (read : Fin 16 ⊕ BitVec 16)
  | fatalLinkError
  | correctableLinkError
  | perstNAssert
  | perstNRelease
  -- start-up (R548 to R567)
  | rstNFall
  | strapCapture (x : Straps)
  | aonPowerUp
  | aonSupplyLoss
  | railFault (r : Rail)
  | trstNAssert
  | flashContentRead (content : FlashContent)
  | holdTrainingDone (failed : BitVec 2)
  | quayPowerUpDone (q : Fin 16)
  | parkLoad
  | bootComplete
  -- SMBus (R422, R584)
  | smbZoneTemp (z : Fin 24)
  | smbHottest
  | smbWarnMask
  | smbThrottleMask
  | smbStopMask
  | smbBadSensors
  | smbRunState
  | smbPowerEstimate
  | smbRailStatus
  | smbRailFaults
  | smbRstEvents
  | smbLastFault
  | smbAddressResolution (address : BitVec 7)
  | smbValueUpdate
  -- rows added at the table's end
  | pwmCycleEdge (b : Fin 64) (n : Fin 4) (at_ : Nat)
  | redirectPauseEnd (q : Fin 16)
  | hostLinkUp (speed : Fin 6) (width : Fin 17) (reversed : Bool)
  | refPresentChange (ref : Fin 3) (present : Bool)
  | bootReferenceQualified
  | railValid (r : IoRail)
  | fusesReadDone
  | signalBad (l : Fin 48)
  | blockErr (l : Fin 48)
  deriving DecidableEq, Repr

end Sys2Proof
end

