-- ==== Sys2Proof/Config.lean ====
section
/-! DEFINITION. What an implementation fixes and what the spec leaves open: constants with no
value that Lean can see. A claim about them holds whatever they are (log 3). -/

namespace Sys2Proof

/-- A fresh value for each use (indexed by the state's counter): the contents of fabric words, of
undefined readings, of measured quantities that no operand gives. -/
opaque Config.freeWord : Nat → BitVec 32

/-- Bytes of a record whose content the spec leaves to the device (the correction image of R395,
IDENTIFY's die revisions). -/
opaque Config.freeBytes : Nat → List (BitVec 8)

/-- The ROM's microcode version (R457) and the deck die revision (R528, R530). -/
opaque Config.romVer : BitVec 16
opaque Config.deckRevision : BitVec 8

/-- The fused serial number (IDENTIFY, R529) and the fuse words (FUSE_READ). -/
opaque Config.serial : BitVec 64
opaque Config.fuseWord : BitVec 8 → BitVec 32

/-- The fused anti-rollback level at power-up (R453) and whether a key hash is fused (R452). -/
opaque Config.fuseLevel : BitVec 6
opaque Config.keyFused : Bool

/-- SHA-384 of a public key against the fused key hash, and ECDSA P-384 over header and payload
(R452): algorithms the spec cites and does not define. -/
opaque Config.keyHashOk : List (BitVec 8) → Bool
opaque Config.signatureOk : List (BitVec 8) → Bool

/-- Whether programming the anti-rollback fuses succeeds (R454), by the state's counter. -/
opaque Config.fuseProgramOk : Nat → Bool

/-- The ROM's microwords by control-store address (R448). -/
opaque Config.romWord : BitVec 16 → BitVec 32

/-- The parameter ID that rule 0x0600_0001 reports (R85): the spec names none. -/
opaque Config.currencyId : BitVec 32

/-- The 256 bytes of IDENTIFY for model, deck revision, serial, chain index, chain size, straps and
MCVER: the spec lists these contents and gives no layout of them. -/
opaque Config.identifyBytes : List Nat → List (BitVec 8)

/-- The sensed output of a site power controller in µV and its summed current in mA (R301), by time, berth
and which of the two. -/
opaque Config.spSense : Nat → Nat → Bool → BitVec 32

/-- Whether a driver that is on stands in current limit (R130), by time and channel: what its pin draws is no command's
to say. -/
opaque Config.limitSense : Nat → Nat → Bool

/-- What a register of the configuration space holds whose place or content the spec leaves to the PCI
Express specification (R524, R529), by its offset and what was last written to it. -/
opaque Config.configWord : Nat → Option (BitVec 32) → BitVec 32

/-- The UDID that the SMBus target forms from the serial number (R584). -/
opaque Config.udid : List (BitVec 8)

/-- The payload length, in words, of a chain frame whose contents R353, R361 and others give without a layout. -/
opaque Config.frameWords : FrameBody → BitVec 6

/-- Packet rate counters of R458: microwords per µs over the last 1 ms. -/
opaque Config.engineRate : Nat → BitVec 11

/-- Whether flag C after SUB, CMP and CMPI is set by a borrow or by the absence of one (R433 names the
flags of A − B and no convention). -/
opaque Config.carryIsBorrow : Bool

end Sys2Proof
end

