-- ==== Sys2Proof/Decode.lean ====
section
/-! DEFINITION. The table's bits and the microwords. The table gives no row any bits, so no word of it
spells a command. Microwords have an encoding of their own (R431, R433 to R435): a word of the control store
that an engine runs in a context is read here, and written. -/

namespace Sys2Proof

/-- The command that a word spells by the bits of the table of operations: the table gives none. -/
def decodeTableWord (_nbits _w : Nat) : Option Instr := none

/-! ### Microwords (R431, R433) -/

/-- The fields of a microword. -/
def microOp (w : BitVec 32) : BitVec 6 := w.extractLsb' 26 6
def microA (w : BitVec 32) : Fin 32 := (w.extractLsb' 21 5).toFin
def microB (w : BitVec 32) : Fin 32 := (w.extractLsb' 16 5).toFin
def microImm (w : BitVec 32) : BitVec 16 := w.extractLsb' 0 16

/-- A microword from its fields. -/
def microWord (op : BitVec 6) (a b : Fin 32) (imm : BitVec 16) : BitVec 32 :=
  op ++ (BitVec.ofFin a : BitVec 5) ++ (BitVec.ofFin b : BitVec 5) ++ imm

/-- An immediate of one bit, or of a shift count. -/
def immBit (x : Bool) : BitVec 16 := if x then 1#16 else 0#16

/-- The word of a microword command; none for any other command. -/
def microEncode (i : Instr) : Option (BitVec 32) :=
  match i with
  | .nopMicroword _ _ => some (microWord 0x00 0 0 0)
  | .mov _ _ a b => some (microWord 0x01 a b 0)
  | .ldi _ _ a imm => some (microWord 0x02 a 0 imm)
  | .ldh _ _ a imm => some (microWord 0x03 a 0 imm)
  | .add _ _ a b => some (microWord 0x04 a b 0)
  | .addi _ _ a imm => some (microWord 0x05 a 0 imm)
  | .sub _ _ a b => some (microWord 0x06 a b 0)
  | .and _ _ a b => some (microWord 0x07 a b 0)
  | .or _ _ a b => some (microWord 0x08 a b 0)
  | .xor _ _ a b => some (microWord 0x09 a b 0)
  | .shl _ _ a n => some (microWord 0x0A a 0 (BitVec.ofNat 16 n.val))
  | .shr _ _ a n => some (microWord 0x0B a 0 (BitVec.ofNat 16 n.val))
  | .cmp _ _ a b => some (microWord 0x0C a b 0)
  | .cmpi _ _ a imm => some (microWord 0x0D a 0 imm)
  | .jmp _ _ imm => some (microWord 0x10 0 0 imm)
  | .br _ _ cond imm => some (microWord 0x11 (cond.castLE (by decide)) 0 imm)
  | .call _ _ imm => some (microWord 0x12 0 0 imm)
  | .ret _ _ => some (microWord 0x13 0 0 0)
  | .switch _ _ b imm => some (microWord 0x14 0 b imm)
  | .frd _ _ a b imm => some (microWord 0x18 a b imm)
  | .fwr _ _ a b imm => some (microWord 0x19 a b imm)
  | .trd _ _ a b v => some (microWord 0x1A a b (immBit v))
  | .twr _ _ a b v => some (microWord 0x1B a b (immBit v))
  | .shw _ _ a b => some (microWord 0x1C a b 0)
  | .hrd _ _ a imm => some (microWord 0x1D a 0 imm)
  | .hwr _ _ a b imm => some (microWord 0x1E a b imm)
  | .pst _ _ => some (microWord 0x1F 0 0 0)
  | .wait _ _ a b cond inv => some (microWord 0x20 a b (BitVec.ofNat 16 (cond.toNat + (if inv then 256 else 0))))
  | .poll _ _ => some (microWord 0x21 0 0 0)
  | .commit _ _ => some (microWord 0x22 0 0 0)
  | .endc _ _ => some (microWord 0x23 0 0 0)
  | .prog _ _ imm => some (microWord 0x24 0 0 imm)
  | .tide _ _ a high => some (microWord 0x28 a 0 (immBit high))
  | .tarm _ _ a b => some (microWord 0x29 a b 0)
  | .sig _ _ a code => some (microWord 0x2A a 0 (code.setWidth 16))
  | .fwd _ _ a => some (microWord 0x2B a 0 0)
  | .evt _ _ imm => some (microWord 0x2C 0 0 imm)
  | .fault _ _ (.microword code) => some (microWord 0x30 0 0 code)
  | _ => none

/-- An operation that uses some of the fields, the others being reserved. -/
def readIf (unused : Bool) (i : Instr) : Option Instr := if unused then some i else none

/-- The command of a microword in context c of engine e; none for an undefined operation or a reserved
field that is not 0, which raise engine fault 1 (R433). -/
def microDecode (e : Fin 5) (c : Fin 16) (w : BitVec 32) : Option Instr :=
  let a := microA w
  let b := microB w
  let imm := microImm w
  let noA := decide (a = 0)
  let noB := decide (b = 0)
  let noI := decide (imm = 0)
  match (microOp w).toNat with
  | 0x00 => readIf (noA && noB && noI) (.nopMicroword e c)
  | 0x01 => readIf noI (.mov e c a b)
  | 0x02 => readIf noB (.ldi e c a imm)
  | 0x03 => readIf noB (.ldh e c a imm)
  | 0x04 => readIf noI (.add e c a b)
  | 0x05 => readIf noB (.addi e c a imm)
  | 0x06 => readIf noI (.sub e c a b)
  | 0x07 => readIf noI (.and e c a b)
  | 0x08 => readIf noI (.or e c a b)
  | 0x09 => readIf noI (.xor e c a b)
  | 0x0A => readIf (noB && decide (imm.toNat < 32)) (.shl e c a (Fin.ofNat 32 imm.toNat))
  | 0x0B => readIf (noB && decide (imm.toNat < 32)) (.shr e c a (Fin.ofNat 32 imm.toNat))
  | 0x0C => readIf noI (.cmp e c a b)
  | 0x0D => readIf noB (.cmpi e c a imm)
  | 0x10 => readIf (noA && noB) (.jmp e c imm)
  | 0x11 => readIf (noB && decide (a.val < 14)) (.br e c (Fin.ofNat 14 a.val) imm)
  | 0x12 => readIf (noA && noB) (.call e c imm)
  | 0x13 => readIf (noA && noB && noI) (.ret e c)
  | 0x14 => readIf noA (.switch e c b imm)
  | 0x18 => some (.frd e c a b imm)
  | 0x19 => some (.fwr e c a b imm)
  | 0x1A => readIf (decide (imm.toNat < 2)) (.trd e c a b (imm.getLsbD 0))
  | 0x1B => readIf (decide (imm.toNat < 2)) (.twr e c a b (imm.getLsbD 0))
  | 0x1C => readIf noI (.shw e c a b)
  | 0x1D => readIf noB (.hrd e c a imm)
  | 0x1E => some (.hwr e c a b imm)
  | 0x1F => readIf (noA && noB && noI) (.pst e c)
  | 0x20 => readIf (decide (imm.toNat < 512)) (.wait e c a b (imm.setWidth 8) (imm.getLsbD 8))
  | 0x21 => readIf (noA && noB && noI) (.poll e c)
  | 0x22 => readIf (noA && noB && noI) (.commit e c)
  | 0x23 => readIf (noA && noB && noI) (.endc e c)
  | 0x24 => readIf (noA && noB) (.prog e c imm)
  | 0x28 => readIf (noB && decide (imm.toNat < 2)) (.tide e c a (imm.getLsbD 0))
  | 0x29 => readIf noI (.tarm e c a b)
  | 0x2A => readIf (noB && decide (imm.toNat < 256)) (.sig e c a (imm.setWidth 8))
  | 0x2B => readIf (noB && noI) (.fwd e c a)
  | 0x2C => readIf (noA && noB) (.evt e c imm)
  | 0x30 => readIf (noA && noB) (.fault e c (.microword imm))
  | _ => none

/-- The context of a microword command. -/
def microCtxOf (i : Instr) : Option (Fin 5 × Fin 16) :=
  match i with
  | .nopMicroword e c | .mov e c _ _ | .ldi e c _ _ | .ldh e c _ _ | .add e c _ _ | .addi e c _ _
  | .sub e c _ _ | .and e c _ _ | .or e c _ _ | .xor e c _ _ | .shl e c _ _ | .shr e c _ _ | .cmp e c _ _
  | .cmpi e c _ _ | .jmp e c _ | .br e c _ _ | .call e c _ | .ret e c | .switch e c _ _ | .frd e c _ _ _
  | .fwr e c _ _ _ | .trd e c _ _ _ | .twr e c _ _ _ | .shw e c _ _ | .hrd e c _ _ | .hwr e c _ _ _
  | .pst e c | .wait e c _ _ _ _ | .poll e c | .commit e c | .endc e c | .prog e c _ | .tide e c _ _
  | .tarm e c _ _ | .sig e c _ _ | .fwd e c _ | .evt e c _ | .fault e c _ => some (e, c)
  | _ => none

end Sys2Proof
end

