-- ==== Sys2Proof/Machine/Bits.lean ====
section
/-! DEFINITION. Bit fields, little-endian bytes, two's complement and the CRC of IEEE 802.3. -/

namespace Sys2Proof.Machine

/-- Bits [lo + len - 1 : lo] of a number (R6). -/
def bitsOf (v lo len : Nat) : Nat := v / 2 ^ lo % 2 ^ len

/-- The field of a word that begins at bit `lo` and is `len` bits wide (R6). -/
def fld (w : Word) (lo len : Nat) : Nat := bitsOf w.toNat lo len

/-- Bit `n` of a word. -/
def bit (w : Word) (n : Nat) : Bool := w.getLsbD n

/-- Bit `n` of a number. -/
def natBit (v n : Nat) : Bool := v.testBit n

/-- A truth value as a bit at place `n`. -/
def flag (b : Bool) (n : Nat) : Nat := if b then 2 ^ n else 0

/-- A 16-bit field read as two's complement (R69). -/
def signed16 (v : Nat) : Int := if v % 65536 < 32768 then (v % 65536 : Nat) else (v % 65536 : Nat) - 65536

/-- A 32-bit word read as two's complement (R69). -/
def signed32 (w : Word) : Int := w.toInt

/-- An integer as the low `n` bits of its two's complement. -/
def twos (n : Nat) (i : Int) : Nat := (i % (2 ^ n : Nat)).toNat

/-- The `n` bytes of a number, lowest first (R6). -/
def leBytes (n v : Nat) : List Byte :=
  match n with
  | 0 => []
  | n + 1 => BitVec.ofNat 8 v :: leBytes n (v / 256)

/-- The number whose bytes, lowest first, are given (R6). -/
def leNat (bytes : List Byte) : Nat :=
  match bytes with
  | [] => 0
  | b :: rest => b.toNat + 256 * leNat rest

/-- The little-endian number at byte `k` of a block, `n` bytes long; bytes past the end read 0. -/
def leAt (bytes : List Byte) (k n : Nat) : Nat := leNat ((bytes.drop k).take n)

/-- A list of bytes cut or filled with zeros to `n` bytes. -/
def padTo (n : Nat) (bytes : List Byte) : List Byte :=
  bytes.take n ++ List.replicate (n - bytes.length) 0#8

/-- Fill with zeros up to a multiple of 64 bytes (R230). -/
def padTo64 (bytes : List Byte) : List Byte :=
  bytes ++ List.replicate ((64 - bytes.length % 64) % 64) 0#8

/-- `ceil (a / b)`. -/
def ceilDiv (a b : Nat) : Nat := (a + b - 1) / b

/-- One step of the reflected CRC-32 of IEEE 802.3 over one bit. -/
def crcBit (c : Nat) : Nat := if c % 2 = 1 then Nat.xor (c / 2) 0xEDB88320 else c / 2

def crcByte (c : Nat) (b : Byte) : Nat :=
  crcBit (crcBit (crcBit (crcBit (crcBit (crcBit (crcBit (crcBit (Nat.xor c b.toNat))))))))

/-- The CRC-32 of IEEE 802.3 over a list of bytes (R324, R356, R395, R450, R558). -/
def crc32 (bytes : List Byte) : Word :=
  BitVec.ofNat 32 (Nat.xor (bytes.foldl crcByte 0xFFFFFFFF) 0xFFFFFFFF)

/-- The smallest element that satisfies a test, searching `i, i + 1, …` for `n` numbers. -/
def findFrom (p : Nat → Bool) (i n : Nat) : Option Nat :=
  match n with
  | 0 => none
  | n + 1 => if p i then some i else findFrom p (i + 1) n

/-- The numbers below `n` that satisfy a test, ascending. -/
def below (n : Nat) (p : Nat → Bool) : List Nat := (List.range n).filter p

end Sys2Proof.Machine
end

