-- ==== Sys2Proof/Machine/Catalogue.lean ====
section
/-! DEFINITION. The parameter catalogue: parameter IDs, families, members, fields, defaults and
legal ranges, as the family tables of the spec give them (R67 to R73 and each family's table). -/

namespace Sys2Proof.Machine

/-- The bake classes (R73): immediate, at bake, at burst boundary. -/
inductive BakeClass where
  | i | b | g
  deriving DecidableEq, Repr

/-- One field of access type STG: its first bit, its width, its default and its legal range. A
field whose range reaches below zero is signed. -/
structure Field where
  lo : Nat
  len : Nat
  dflt : Nat
  least : Int
  most : Int
  deriving DecidableEq, Repr

/-- What a member of a family is: staged fields, an ACK count, or read-only. -/
inductive Member where
  | stg (fields : List Field)
  | ack
  | ro
  deriving DecidableEq, Repr

/-- A field with a range of its own. -/
def fr (lo len dflt : Nat) (least most : Int) : Field := ⟨lo, len, dflt, least, most⟩

/-- A field whose every value is legal. -/
def fa (lo len dflt : Nat) : Field := ⟨lo, len, dflt, 0, (2 ^ len : Nat) - 1⟩

/-! ### Parameter IDs (R67) -/

def idScope (id : Word) : Nat := fld id 28 4
def idInst (id : Word) : Nat := fld id 16 12
def idFam (id : Word) : Nat := fld id 8 8
def idMem (id : Word) : Nat := fld id 0 8

/-- The ID of member `m` of family `f` at instance `i` of scope `sc`. -/
def pid (sc i f m : Nat) : Word := BitVec.ofNat 32 (sc * 2 ^ 28 + i * 2 ^ 16 + f * 256 + m)

/-- The number of instances of a scope (R2, R4, R68). -/
def scopeCount (sc : Nat) : Nat :=
  match sc with
  | 1 => 0x440 | 2 => 0x440 | 3 => 64 | 4 => 16 | 5 => 4 | 6 => 1 | 7 => 1
  | _ => 0

/-- The scope of a family (R68, R72). -/
def famScope (f : Nat) : Option Nat :=
  match f with
  | 0x01 | 0x02 => some 6
  | 0x10 | 0x11 | 0x12 | 0x13 | 0x14 | 0x3C | 0x40 | 0x41 | 0x42 | 0x43 | 0x46 | 0x50 | 0x51
  | 0x7D | 0x93 => some 2
  | 0x18 => some 1
  | 0x15 | 0x52 | 0x53 | 0x54 | 0x55 | 0x56 | 0x57 | 0x60 | 0x61 | 0x63 | 0x68 | 0x69 | 0x6A
  | 0x6B | 0x6C | 0x6D | 0x6F | 0x79 | 0x7C | 0x90 | 0x92 => some 3
  | 0x20 | 0x21 | 0x22 | 0x23 | 0x24 | 0x25 | 0x26 | 0x27 | 0x28 | 0x30 | 0x31 | 0x32 | 0x33
  | 0x34 | 0x35 | 0x36 | 0x38 | 0x39 | 0x3A | 0x3B | 0x3D | 0x44 | 0x7A | 0x7B => some 4
  | 0xC1 => some 5
  | 0x62 | 0x64 | 0x6E | 0x78 | 0x80 | 0x81 | 0x82 | 0x83 | 0x84 | 0x85 | 0xA0 | 0xA1 | 0xA2
  | 0xA3 | 0xA4 | 0xA8 | 0xA9 | 0xB0 | 0xB1 | 0xB2 | 0xC0 | 0xC8 | 0xC9 | 0xCA | 0xD0 | 0xD1
  | 0xD8 | 0xD9 => some 6
  | 0x88 | 0x89 => some 7
  | _ => none

/-- The bake class of a family (R73 and the heading of each family's table). -/
def famClass (f : Nat) : BakeClass :=
  match f with
  | 0x10 | 0x11 | 0x13 | 0x18 | 0x20 | 0x21 | 0x22 | 0x23 | 0x24 | 0x25 | 0x26 | 0x27 | 0x30
  | 0x31 | 0x32 | 0x33 | 0x34 | 0x35 | 0x38 | 0x39 | 0x3A | 0x3B | 0x3C | 0x3D | 0x42 | 0x79
  | 0x7A | 0x7B => .g
  | 0x12 | 0x28 | 0x40 | 0x41 | 0x46 | 0x50 | 0x52 | 0x53 | 0x54 | 0x55 | 0x56 | 0x60 | 0x61
  | 0x62 | 0x68 | 0x69 | 0x6A | 0x6B | 0x6C | 0x6D | 0x6E | 0x80 | 0x81 | 0x85 | 0x88 | 0x89
  | 0x90 | 0xA0 | 0xA4 | 0xB0 | 0xC8 | 0xC9 | 0xD0 => .b
  | _ => .i

/-! ### Members and fields -/

/-- The legal codes of level DAC d (R179). -/
def dacLeast (d : Nat) : Int :=
  if d = 0 ∨ d = 1 ∨ d = 4 then 16384 else if d = 5 then 32768 else 0

def dacMost (d : Nat) : Int :=
  if d = 0 ∨ d = 1 ∨ d = 4 then 245760 else if d = 6 then 229376 else 262143

/-- A member of the channel families (0x10 to 0x18, 0x3C, 0x40 to 0x46, 0x50, 0x51). -/
def memberChannel (f m : Nat) : Option Member :=
  match f, m with
  | 0x10, 0 => some (.stg [fr 0 3 0 0 3, fa 3 1 0, fa 4 1 0, fr 5 2 1 0 2, fr 8 7 50 0 100,
      fr 16 10 10 1 1000])
  | 0x11, 0 => some (.stg [fr 0 3 0 0 5, fr 4 3 0 0 5, fa 8 1 0, fa 9 1 0])
  | 0x12, 0 | 0x12, 1 => some (.stg [fr 0 15 0 0 24000])
  | 0x13, 0 | 0x13, 1 => some (.stg [fr 0 16 0 0 40000])
  | 0x14, 0 | 0x14, 1 => some .ack
  | 0x14, 2 => some .ro
  | 0x15, 0 => some .ro
  | 0x15, 1 | 0x15, 2 => some .ack
  | 0x18, m => if m / 16 < 6 ∧ m % 16 < 2 then some (.stg [fr 0 32 0 (-20000) 20000]) else none
  | 0x3C, 0 => some (.stg [fa 0 2 0, fa 2 4 0])
  | 0x41, 0 | 0x42, 0 => some (.stg [fa 0 9 0])
  | 0x43, 0 => some .ack
  | 0x43, 1 => some .ro
  | 0x44, 0 => some .ack
  | 0x44, 1 => some .ro
  | 0x40, m => if m ≤ 8 then some (.stg [fr 0 18 0 (dacLeast m) (dacMost m)]) else none
  | 0x46, m =>
    if m ≤ 8 then some (.stg [fa 0 18 0])
    else if m = 9 then some (.stg [fr 0 3 0 0 4, fa 3 1 0, fa 4 1 0, fa 5 1 0, fr 6 3 0 0 4])
    else none
  | 0x50, 0 => some (.stg [fr 0 2 0 0 2, fr 2 3 4 0 4, fa 5 2 0])
  | 0x51, 0 => some .ro
  | 0x51, 1 => some .ack
  | _, _ => none

/-- A member of the timing, segment and generator families (0x20 to 0x3D). -/
def memberQuay (f m : Nat) : Option Member :=
  match f with
  | 0x20 => if m < 64 then some (.stg [fr 0 32 5000 625 4000000000]) else none
  | 0x21 | 0x22 | 0x23 | 0x24 | 0x25 | 0x26 =>
    if m < 64 then some (.stg [fr 0 32 0 0 4000040000]) else none
  | 0x27 => if m < 64 then some (.stg [fa 0 1 0, fa 1 1 0]) else none
  | 0x28 => match m with
    | 0 => some (.stg [fr 0 32 0 (-2147483648) 2147483647])
    | 1 => some (.stg [fr 0 32 0 (-1000000) 1000000])
    | 2 => some (.stg [fr 0 9 40 1 400])
    | 3 => some .ro
    | 4 | 5 => some .ack
    | _ => none
  | 0x30 => some (.stg [fr 0 2 0 0 2, fa 2 1 0, fa 3 1 0, fr 4 2 0 0 2, fa 6 2 0, fa 8 6 0,
      fa 14 1 0, fa 16 4 0, fa 20 4 0, fa 24 1 0, fa 25 1 0, fa 26 6 0])
  | 0x31 => some (.stg [fa 0 8 0, fa 8 8 0, fa 16 8 0, fa 24 4 0, fa 28 1 0, fa 29 1 0, fa 30 1 0])
  | 0x32 => some (.stg [fa 0 32 1])
  | 0x33 => some (.stg [fr 0 26 4 4 67108863, fa 26 4 0])
  | 0x34 => some (.stg [fa 0 24 0])
  | 0x35 => some (.stg ((List.range 8).map fun n => fr (4 * n) 4 0 0 8))
  | 0x36 => match m with
    | 0 | 1 | 2 | 3 | 4 | 5 | 6 | 7 | 8 | 13 | 14 => some .ro
    | 9 | 10 | 11 | 12 | 15 => some .ack
    | _ => none
  | 0x38 => if m < 16 then some (.stg [fa 0 1 0, fa 1 1 0, fa 2 3 0, fa 5 6 0, fa 11 9 0,
      fr 20 3 0 0 3, fa 23 1 0, fa 24 1 0]) else none
  | 0x39 | 0x3A => if m < 16 then some (.stg [fa 0 16 0, fa 16 16 0]) else none
  | 0x3B => if m < 128 then some (.stg [fa 0 1 0, fa 1 2 0, fa 3 2 0, fa 5 1 0, fa 6 2 0,
      fa 8 1 0, fa 9 2 0, fa 11 1 0, fa 12 2 0, fa 14 1 0]) else none
  | 0x3D => if m < 16 then some (.stg [fa 0 16 0]) else none
  | _ => none

/-- A member of the acquisition and time-measurement families (0x52 to 0x64). -/
def memberMeasure (f m : Nat) : Option Member :=
  match f with
  | 0x52 => if m < 4 then some (.stg [fa 0 2 1, fa 2 7 0x7F, fa 9 7 0x7F, fa 16 1 0, fa 17 1 0,
      fr 18 4 0 0 12, fa 22 1 0, fa 24 8 1]) else none
  | 0x53 => if m < 4 then some (.stg [fa 0 18 81920]) else none
  | 0x54 => if m < 4 then some (.stg [fa 0 8 0x40, fr 8 2 0 0 2, fr 10 2 0 0 2, fr 12 2 0 0 2,
      fa 14 4 0, fa 18 2 0, fa 20 1 0, fa 21 4 0]) else none
  | 0x55 => if m / 8 < 4 then match m % 8 with
      | 0 => some (.stg [fa 0 16 0, fr 16 16 64 0 32767])
      | 1 => some (.stg [fa 0 16 0, fa 16 16 0])
      | 2 => some (.stg [fr 0 16 1 1 65535, fr 16 8 1 1 255])
      | 3 | 4 => some (.stg [fa 0 32 0])
      | _ => none
    else none
  | 0x56 => if m / 8 < 4 then match m % 8 with
      | 0 | 1 => some (.stg [fa 0 32 0])
      | 2 => some (.stg [fa 0 16 0, fa 16 16 0])
      | 3 => some (.stg [fa 0 16 0, fr 16 16 0 0 32767])
      | _ => none
    else none
  | 0x57 => match m with
    | 0 | 1 | 7 => some .ro
    | 2 | 3 | 4 | 5 | 6 => some .ack
    | _ => none
  | 0x60 => match m with
    | 0 => some (.stg [fa 0 5 0, fa 5 2 0, fa 7 5 0, fa 12 2 0, fa 14 4 1, fa 18 1 0, fr 19 5 0 0 20])
    | 1 => some (.stg [fa 0 19 0])
    | _ => none
  | 0x61 => match m with
    | 0 | 1 | 3 | 4 => some (.stg [fa 0 32 0])
    | 2 => some (.stg [fa 0 32 1])
    | _ => none
  | 0x62 => if m = 0 then some (.stg [fa 0 16 1800]) else none
  | 0x63 => match m with
    | 0 | 1 | 2 => some .ro
    | 3 | 4 | 5 | 6 | 7 | 8 | 9 | 10 => some .ack
    | _ => none
  | 0x64 => match m with
    | 0 => some .ro
    | 1 => some .ack
    | _ => none
  | _ => none

/-- A member of the site power families (0x68 to 0x6F). -/
def memberPower (f m : Nat) : Option Member :=
  match f, m with
  | 0x68, 0 => some (.stg [fa 0 2 0, fr 2 2 0 0 2, fa 4 1 0, fr 5 14 6400 1600 12800, fr 19 7 90 50 95])
  | 0x68, 1 => some (.stg [fa 0 14 0])
  | 0x69, 0 => some (.stg [fr 0 5 5 1 31, fa 5 6 7, fr 11 8 0 0 200, fr 19 5 8 4 20, fr 24 3 2 0 5])
  | 0x69, 1 => some (.stg [fr 0 16 150 10 10000, fr 16 16 12000 3000 20000])
  | 0x6A, 0 => some (.stg [fa 0 2 2, fr 2 7 40 1 127, fr 9 10 100 1 1000, fa 19 5 5])
  | 0x6B, 0 => some (.stg [fr 0 15 10000 500 30000])
  | 0x6B, 1 => some (.stg [fr 0 19 40000 500 480000])
  | 0x6C, 0 => some (.stg [fr 0 10 100 10 1000, fr 10 10 100 10 1000, fa 20 1 1, fa 21 1 1, fa 22 1 1])
  | 0x6C, 1 => some (.stg [fa 0 2 2, fa 2 2 2, fa 4 2 3, fa 6 6 1, fa 12 6 10, fa 18 6 20, fr 24 6 10 1 63])
  | 0x6C, 2 => some (.stg [fr 0 8 20 1 255, fr 8 8 20 1 255, fr 16 8 10 1 255, fr 24 4 3 1 15])
  | 0x6D, 0 => some (.stg [fr 0 17 1000 10 100000, fa 17 4 0, fa 21 1 1, fr 22 10 20 1 1023])
  | 0x6D, 1 => some (.stg [fr 0 17 2000 10 100000])
  | 0x6E, 0 => some (.stg [fa 0 16 100])
  | 0x6F, m => if m ≤ 3 then some .ro else if m ≤ 10 then some .ack else none
  | _, _ => none

/-- A member of the fail-capture, hold, chain and calibration families (0x78 to 0x93). -/
def memberCapture (f m : Nat) : Option Member :=
  match f with
  | 0x78 => match m with
    | 0 | 5 => some .ro
    | 1 | 2 | 3 | 4 => some .ack
    | _ => none
  | 0x79 => if m = 0 then some (.stg [fa 0 1 1, fr 1 2 0 0 2, fa 3 1 0]) else none
  | 0x7A => match m with
    | 0 => some (.stg [fa 0 16 1, fa 16 16 2])
    | 1 => some (.stg [fa 0 16 0xFFFE])
    | _ => none
  | 0x7B => some (.stg [fa 0 16 0xFFFF])
  | 0x7C => match m with
    | 0 | 1 => some .ro
    | 2 | 3 | 4 => some .ack
    | _ => none
  | 0x7D => if m < 4 then some .ro else none
  | 0x80 => if m < 4 then some (.stg [fa 0 1 0, fr 1 2 0 0 2, fr 3 4 8 1 12, fa 7 12 0xFFF]) else none
  | 0x81 => if m < 48 then some (.stg [fr 0 5 4 0 16, fr 5 5 8 0 22, fr 10 3 5 0 5, fa 13 1 1]) else none
  | 0x82 => if m < 192 then some (if m % 4 = 0 then .ro else .ack) else none
  | 0x83 => if m < 16 then some (if m % 4 = 0 then .ro else .ack) else none
  | 0x84 => if m ≤ 2 then some .ro else if m ≤ 7 then some .ack else none
  | 0x85 => if m < 4 then some (.stg [fr 0 32 0 (-400) 400]) else none
  | 0x88 => if m < 16 then some (.stg [fa 0 1 0, fa 1 7 0, fr 8 2 0 0 2, fa 10 6 0, fa 16 1 0]) else none
  | 0x89 => if m = 0 then some (.stg [fr 0 2 1 1 2, fa 2 1 1]) else none
  | 0x90 => match m with
    | 0 => some (.stg [fa 0 1 0, fa 1 11 0x70F, fr 12 2 1 0 2, fa 14 1 0])
    | 1 => some (.stg [fr 0 8 32 1 255, fa 8 16 0])
    | 2 => some (.stg [fr 0 16 20000 1 65535])
    | _ => none
  | 0x92 => if m ≤ 4 then some .ro else if m ≤ 8 then some .ack else none
  | 0x93 => if m ≤ 4 then some .ro else none
  | _ => none

/-- A member of the device families (0x01, 0x02, 0xA0 to 0xD9). -/
def memberDevice (f m : Nat) : Option Member :=
  match f with
  | 0x01 => match m with
    | 0 | 1 | 2 | 3 | 6 => some .ro
    | 4 | 5 => some .ack
    | _ => none
  | 0x02 => if m = 0 then some .ack else none
  | 0xA0 => if m / 8 < 24 then match m % 8 with
      | 0 => some (.stg [fr 0 2 0 0 2, fr 2 4 4 2 15, fr 6 3 2 1 7])
      | 1 => some (.stg [fa 0 16 1440, fr 16 8 48 1 255])
      | 2 => some (.stg [fa 0 16 1520, fr 16 8 48 1 255])
      | 3 => some (.stg [fa 0 16 1600, fr 16 8 80 1 255])
      | 4 => some (.stg [fr 0 16 1680 (-32768) 1840])
      | 5 => some (.stg [fa 0 16 200, fa 16 16 400])
      | 6 => some (.stg [fa 0 16 800, fr 16 16 40 1 65535])
      | _ => none
    else none
  | 0xA1 => if m / 8 < 24 then match m % 8 with
      | 0 | 1 | 6 => some .ro
      | 2 | 3 | 4 | 5 => some .ack
      | _ => none
    else none
  | 0xA2 => if m < 104 then some .ro else none
  | 0xA3 => match m with
    | 0 | 1 | 2 | 3 | 5 => some .ro
    | 4 => some .ack
    | _ => none
  | 0xA4 => if m < 104 then some (.stg [fa 0 1 0]) else none
  | 0xA8 => if m < 40 then match m % 8 with
      | 2 | 3 | 4 | 5 => some .ack
      | _ => some .ro
    else none
  | 0xA9 => match m with
    | 0 | 1 | 8 | 9 | 10 | 11 | 12 => some .ro
    | _ => none
  | 0xB0 => match m with
    | 0 => some (.stg [fa 0 1 0, fa 1 1 1, fr 4 13 1000 100 5000])
    | 1 => some (.stg [fr 0 14 10 1 10000, fr 16 10 20 10 1000])
    | _ => none
  | 0xB1 => match m with
    | 0 | 1 | 6 | 7 => some .ro
    | 2 | 3 | 4 | 5 | 8 => some .ack
    | _ => none
  | 0xB2 => if m < 72 then some .ro else none
  | 0xC0 => match m with
    | 0 | 2 => some .ro
    | 1 => some .ack
    | _ => none
  | 0xC1 => match m with
    | 0 => some .ro
    | 1 | 2 | 3 | 4 | 5 => some .ack
    | _ => none
  | 0xC8 => if m < 8 then some (.stg [fa 0 8 1, fr 8 4 2 1 15, fr 12 4 2 1 15, fr 16 16 100 1 65535]) else none
  | 0xC9 => if m < 32 then some (.stg [fa 0 1 0, fa 1 1 0, fa 2 1 0, fa 3 1 1, fa 4 1 0, fa 5 1 0,
      fa 8 8 0xFF, fa 16 8 0]) else none
  | 0xCA => if m / 8 < 8 then match m % 8 with
      | 0 | 6 => some .ro
      | 1 | 2 | 3 | 4 | 5 => some .ack
      | _ => none
    else none
  | 0xD0 => match m with
    | 0 => some (.stg [fa 0 16 1])
    | 1 => some (.stg [fa 0 6 0x3F])
    | _ => none
  | 0xD1 => match m with
    | 0 | 10 => some .ro
    | 1 | 2 | 3 | 4 | 5 | 6 | 7 | 8 | 9 => some .ack
    | _ => none
  | 0xD8 => if m = 0 then some .ro else none
  | 0xD9 => match m with
    | 0 | 1 | 2 | 3 => some .ro
    | 4 | 5 => some .ack
    | _ => none
  | _ => none

/-- What member `m` of family `f` is (the family's field table). -/
def member (f m : Nat) : Option Member :=
  match memberChannel f m with
  | some x => some x
  | none => match memberQuay f m with
    | some x => some x
    | none => match memberMeasure f m with
      | some x => some x
      | none => match memberPower f m with
        | some x => some x
        | none => match memberCapture f m with
          | some x => some x
          | none => memberDevice f m

/-- An ID without regard to its instance: scope, family and member exist and fit together (R68). -/
def idNames (id : Word) : Option Member :=
  if famScope (idFam id) = some (idScope id) then member (idFam id) (idMem id) else none

/-- The ID names one parameter instance (R68). -/
def idOne (id : Word) : Option Member :=
  if idInst id < scopeCount (idScope id) then idNames id else none

/-- The wildcards of a STAGE entry (R70): 0xFFF at any scope, 0xFFE at scopes 1 and 2. -/
def idWild (id : Word) : Bool :=
  idInst id = 0xFFF || (idInst id = 0xFFE && (idScope id = 1 || idScope id = 2))

/-- The value of a staged member at its table defaults. -/
def fieldsDefault (fs : List Field) : Nat :=
  match fs with
  | [] => 0
  | f :: rest => f.dflt * 2 ^ f.lo + fieldsDefault rest

/-- A field's value in a word, signed where its range reaches below zero. -/
def fieldValue (f : Field) (w : Word) : Int :=
  let v := fld w f.lo f.len
  if f.least < 0 ∧ 2 ^ (f.len - 1) ≤ v then (v : Int) - (2 ^ f.len : Nat) else v

/-- The bits that the fields of a member occupy. -/
def fieldsMask (fs : List Field) : Nat :=
  match fs with
  | [] => 0
  | f :: rest => (2 ^ f.len - 1) * 2 ^ f.lo + fieldsMask rest

/-- Digitizer input codes that are defined (R212). -/
def inputDefined (c : Nat) : Bool :=
  c < 0x10 || (0x20 ≤ c && c < 0x30) || c = 0x40 || c = 0x41 || c = 0x7F

/-- TMU input numbers 19 to 31 are reserved (R242). -/
def tmuInputDefined (c : Nat) : Bool := c < 19

/-- Conditions of a word that are not the range of one field: reserved input codes, and reserved bits within
AutoItems (R377). -/
def legalExtra (f m : Nat) (w : Word) : Bool :=
  match f with
  | 0x52 => inputDefined (fld w 2 7) && inputDefined (fld w 9 7)
  | 0x60 => if m = 0 then tmuInputDefined (fld w 0 5) && tmuInputDefined (fld w 7 5) else true
  | 0x90 => if m = 0 then fld w 6 3 = 0 else true
  | _ => true

/-- A word without its reserved bits, which read 0 (R7). -/
def readBits (f m : Nat) (w : Word) : Word :=
  match member f m with
  | some (.stg fs) => BitVec.ofNat 32 (Nat.land w.toNat (fieldsMask fs))
  | _ => w

/-- The range rule (R8, R82 class 0x01): every field is in its legal range and every reserved bit
is 0 (R7; that a staged value's reserved bits count here is DEDUCED, log 9). -/
def valueLegal (f m : Nat) (w : Word) : Bool :=
  match member f m with
  | some (.stg fs) =>
    fs.all (fun x => decide (x.least ≤ fieldValue x w ∧ fieldValue x w ≤ x.most)) &&
    decide (Nat.land w.toNat (fieldsMask fs) = w.toNat) && legalExtra f m w
  | _ => false

end Sys2Proof.Machine
end

