-- ==== Sys2Proof/Machine/Table.lean ====
section
/-! DEFINITION. Sparse data: tables keyed by a number, and byte memories. Both are lists of
(key, value) pairs whose keys rise strictly; a memory lists no byte equal to what an unlisted
address reads as, so that equal memories are equal lists. -/

namespace Sys2Proof.Machine

/-- A table of values by a natural-number key, keys strictly rising. A key that is not listed
holds the default that the reader names. -/
abbrev Tab (α : Type) := List (Nat × α)

/-- The entry of a key, if the table lists one. -/
def tabFind {α : Type} (t : Tab α) (k : Nat) : Option α :=
  match t with
  | [] => none
  | (j, v) :: rest => if j = k then some v else if k < j then none else tabFind rest k

/-- The value of a key: its entry, or `d` where none is listed. -/
def tabGet {α : Type} (d : α) (t : Tab α) (k : Nat) : α := (tabFind t k).getD d

/-- The table with `v` at key `k`. -/
def tabSet {α : Type} (t : Tab α) (k : Nat) (v : α) : Tab α :=
  match t with
  | [] => [(k, v)]
  | (j, w) :: rest =>
    if k = j then (k, v) :: rest
    else if k < j then (k, v) :: (j, w) :: rest
    else (j, w) :: tabSet rest k v

/-- The table without an entry at `k`. -/
def tabErase {α : Type} (t : Tab α) (k : Nat) : Tab α :=
  match t with
  | [] => []
  | (j, w) :: rest =>
    if k = j then rest else if k < j then (j, w) :: rest else (j, w) :: tabErase rest k

/-- Keys strictly rising. -/
def tabWf {α : Type} (t : Tab α) : Bool :=
  match t with
  | [] => true
  | [_] => true
  | (j, _) :: (k, v) :: rest => decide (j < k) && tabWf ((k, v) :: rest)

/-- A sparse byte memory (the hold, a quay's segment memory, the host bytes the device wrote). -/
abbrev Mem := List Host.Cell

/-- What an unlisted address reads as (DESIGN CHOICE, log 4: the spec gives no power-up contents
of the hold or of segment memory). -/
def memEmptyByte : Byte := 0#8

/-- Read one byte. -/
def memRead (m : Mem) (a : Nat) : Byte := tabGet memEmptyByte m a

/-- Write one byte, keeping the canonical form: the byte an unlisted address reads as is not
listed. -/
def memWrite (m : Mem) (a : Nat) (v : Byte) : Mem :=
  if v = memEmptyByte then tabErase m a else tabSet m a v

/-- Write consecutive bytes from address `a` up. -/
def memWriteBytes (m : Mem) (a : Nat) (bytes : List Byte) : Mem :=
  match bytes with
  | [] => m
  | v :: rest => memWriteBytes (memWrite m a v) (a + 1) rest

/-- Read `n` consecutive bytes from address `a` up. -/
def memReadBytes (m : Mem) (a n : Nat) : List Byte :=
  match n with
  | 0 => []
  | n + 1 => memRead m a :: memReadBytes m (a + 1) n

/-- The canonical form of a memory: addresses strictly rising, no byte listed that an unlisted
address would read as. -/
def memWf (m : Mem) : Bool := tabWf m && m.all (fun c => decide (c.2 ≠ memEmptyByte))

/-- `Memory.wf`: the canonical form holds. -/
def Memory.wf (m : Mem) : Bool := memWf m

end Sys2Proof.Machine
end

