-- ==== Sys2Proof/Machine/State.lean ====
section
/-! DEFINITION. The state of the PX6410 as plain data, the model's stops, and the state right after
power-up. Instances of a resource are entries of a table keyed by the instance number (R4); an
instance that no entry names holds its reset record. Times are tide instants (R9) unless said. -/

namespace Sys2Proof.Machine

/-! ### Stops -/

/-- Why the model stops with a fault. -/
inductive Fault where
  /-- Raised by the BAR rows on an access beyond the BAR's size (R528, R530, R322) and by CONFIG_REQUEST on
  an offset that is no register of the 4 KiB configuration space: the spec gives the device no such
  address. Safe: the model stops where the hardware sees no such access. -/
  | noSuchAddress
  deriving DecidableEq, Repr

/-- Why the model refuses a command. -/
inductive Refusal where
  /-- Raised by an arm of `exec` that has no meaning yet. Safe. -/
  | notModelled (mnemonic : String)
  deriving DecidableEq, Repr

/-! ### Acknowledge-by-count flags (R100) -/

/-- An ACK field: the event count C and the acknowledged count A. -/
structure Ack where
  c : Word := 0
  a : Word := 0
  deriving DecidableEq, Repr

/-! ### Rings (R32, R33) -/

/-- A submission ring: its descriptor and the last valid doorbell. `stallOn` is the bound that stalls
it (R60): 1 the device's, 2 + e engine e's, 8 the whole forwarding window's, 9 the deferred commands',
16 + m the entries of reply ring m, 32 + n the bound of ring n, 64 + i the window of follower i, 512 + 8 i + e
engine e's of follower i, 517 + 8 i the deferred commands' of follower i; 0 none. -/
structure Sq where
  base : BitVec 64 := 0
  enable : Bool := false
  log2 : Nat := 2
  replyRing : Nat := 0
  head : Nat := 0
  tail : Nat := 0
  inFlight : Nat := 0
  stalled : Bool := false
  stallOn : Nat := 0
  stallCount : Ack := {}
  doorbellErr : Ack := {}
  deriving DecidableEq, Repr

/-- A reply ring: its descriptor, the entries reserved (R59) and the replies not yet signalled
(R62) with the tide of the oldest. -/
structure Rq where
  base : BitVec 64 := 0
  enable : Bool := false
  log2 : Nat := 2
  vector : Nat := 1
  coalesceCount : Nat := 1
  coalesceTime : Nat := 0
  tail : Nat := 0
  head : Nat := 0
  phase : Bool := true
  reserved : Nat := 0
  unsignalled : Nat := 0
  oldest : Nat := 0
  fullStall : Ack := {}
  doorbellErr : Ack := {}
  deriving DecidableEq, Repr

/-- A reply slot (R40). -/
structure Reply where
  status : BitVec 16
  tag : BitVec 16
  gen : Word
  stamp : Nat
  phase : Bool
  data : List Byte
  deriving DecidableEq, Repr

/-- An MSI-X table entry (R535): masked, pending, and how often it was sent (the model's count). -/
structure MsixVec where
  masked : Bool := true
  pending : Bool := false
  sent : Nat := 0
  deriving DecidableEq, Repr

/-! ### Commands in flight (R54, R58, R437) -/

/-- Where an accepted command stands. -/
inductive CmdPhase where
  | waiting | deferred | running | commit
  deriving DecidableEq, Repr

/-- An entry that a running SP_SEQUENCE has started (R283, R284): the entry, the reference and slew that it began with,
whether it started from OFF, and whether its ramp has ended. -/
structure SeqRun where
  entry : SeqEntry
  home : Nat := 0
  slew : Nat := 0
  off : Bool := false
  done : Bool := false
  deriving DecidableEq, Repr

/-- What a running command waits for. -/
inductive Work where
  | none
  /-- BAKE: its strobe (R89). -/
  | bake
  /-- UNPARK: its instant (R52). -/
  | unpark (instant : Nat)
  /-- PARK: berths whose channels have not parked, and controllers not yet OFF (R51, R291). -/
  | park (berths : List Nat)
  /-- RESET_SCOPE: the acknowledgement of every crossing side (R503). -/
  | reset (wings : List Nat) (flushed : Nat)
  /-- SEG_LOAD from host memory: the DMA read (R143). -/
  | segRead
  /-- ARM with a streaming entry: the quays whose prefill is not over (R174), and all quays that it then arms. -/
  | prefill (quays all : List Nat)
  /-- START: the start instant (R153), or the token wait with its source (R176). -/
  | start (instant : Nat) (quays : List Nat)
  | token (source : Nat) (quays : List Nat)
  /-- HALT: quays that have not halted (R162). -/
  | halt (quays : List Nat) (index : Nat)
  /-- JUMP: the jump's number in its quay's queue (R160). -/
  | jump (quay : Nat)
  /-- PPMU_MEASURE: channels still sampling (R214). -/
  | ppmu (chans : List Nat)
  /-- SP_RAMP; SP_SEQUENCE: the entries left and those started, the instant of the next, and the status and data of an
  event that stopped it (R284); SP_OFF (R276 to R284). -/
  | ramp (berth : Nat)
  | sequence (left : List SeqEntry) (started : List SeqRun) (nextAt : Option Nat) (ending : Option (Nat × List Byte))
  | off (berths : List Nat)
  /-- Chain commands: the enumeration, a lane test, a bit slip, a broadcast, an alignment. -/
  | enum (reports : List (Nat × Nat × Nat × Bool × Bool × Bool))
  | laneTest (lane : Nat)
  | bitslip (lane : Nat) (count : Nat)
  | bcast (wanted : Nat) (crcs : List (Nat × Word × Bool))
  | align (corrected : Bool) (thetas : List (Nat × Int × Bool))
  /-- RESULT_UPLOAD: the snapshot or the parts of the followers (R312, R313). -/
  | upload (parts : List (Nat × List Byte)) (waiting : List Nat)
  /-- CAL_RUN joined to a berth's run (R386); RELIEVE and UNRELIEVE (R393, R394). -/
  | cal (berth : Nat)
  | relieve (berth : Nat) (pos : Nat)
  | unrelieve (berth : Nat)
  /-- REF_SELECT: the relock (R482). FREQ_MEASURE: the end of its gate (R472). -/
  | refSelect
  | freq (until_ : Nat) (flags : Nat)
  /-- TP_XFER: waiting or in progress on its port (R515). -/
  | tp (port : Nat)
  /-- A forwarded or divided command: chain indices whose reply is missing (R63). -/
  | forward (missing : List Nat)
  deriving DecidableEq, Repr

/-- A command in flight: its place in ring order (`ord`) and its acceptance number (`seq`), which differ once a
deferred command has started (R61), its tide of acceptance (for a deferred one of its start), header, operation,
whether it goes to another device (`remote`), engine and context,
phase, the replies collected from other devices (or from the parts of a command), the chain indices
whose reply is missing, and this device's own outcome while they are. `viaChain` marks a command that came over the
chain: its reply is a frame. `parts` are the contexts, by engine, that its parts hold on the engines of wings (R18), `gated` the
quays of a START that a throttling gate has kept (R412). -/
structure Cmd where
  ord : Nat
  hdr : Hdr
  op : HostOp
  accepted : Nat
  phase : CmdPhase := .waiting
  engine : Nat := 4
  context : Nat := 0
  started : Nat := 0
  seq : Nat := 0
  remote : Bool := false
  work : Work := .none
  replies : List (Nat × BitVec 16 × List Byte) := []
  missing : List Nat := []
  own : Option (Nat × List Byte × List Byte) := none
  viaChain : Bool := false
  snap : Option Nat := none
  parts : List (Nat × Nat) := []
  gated : List Nat := []
  deriving DecidableEq, Repr

/-- A command whose work is over and whose reply waits for an earlier one of its ring (R61): the command, whether
it was accepted (R38) and so counts as in flight, the reply, and the result bytes that go before it. -/
structure Unposted where
  cmd : Cmd
  counted : Bool
  reply : Reply
  result : List Byte
  deriving DecidableEq, Repr

/-- A reply that waits for Bus Master Enable (R540): its command, whether it was accepted and so still counts as in
flight (R32, R58), its reply ring, its content, the result bytes that go before it, and the tide at which it fell due. -/
structure HeldReply where
  cmd : Cmd
  counted : Bool
  ring : Nat
  reply : Reply
  due : Nat
  result : List Byte
  deriving DecidableEq, Repr

/-! ### Parameters, trays and bakes -/

/-- A tray (R77): entries in staging order, the proven mark and the generation proven against. -/
structure Tray where
  entries : List (Word × Word) := []
  proven : Bool := false
  provenGen : Word := 0
  deriving DecidableEq, Repr

/-- A pending bake (R86): the instant, the tray, whether it is a chain bake, whether the decision
GO is held (R92), the devices (on a follower: the ports) whose READY is held and those whose READY
is wanted, for a calibration bake the berth (R384), and whether its command has run, so that its comparators are
armed (R18, R20). -/
structure PendBake where
  instant : Nat
  tray : Nat
  chain : Bool := false
  go : Bool := true
  ready : List Nat := []
  wanted : List Nat := []
  cal : Option Nat := none
  tag : Option Nat := none
  armed : Bool := true
  deriving DecidableEq, Repr

/-- Parameters: the generation (R76), the trays, the baked values that differ from the defaults,
the live values that a class G hold or a berth in OFF or FAULT keeps (R45, R74), the IDs that a running burst
(`heldG`) and those that a berth (`heldB`) holds back, the pending bake, and what
the microwords SHW and TARM have put into shadow registers and tide comparators (R18, R433). -/
structure Par where
  generation : Word := 0
  trays : Tab Tray := []
  baked : Tab Word := []
  held : Tab Word := []
  heldG : List Nat := []
  heldB : List Nat := []
  pendBake : Option PendBake := none
  shadow : Tab Word := []
  comparators : Tab Nat := []
  deriving DecidableEq, Repr

/-! ### Channels -/

/-- The driver of a channel circuit: off, or driving a level. -/
inductive Driver where
  | hiz | low | high
  deriving DecidableEq, Repr

/-- A range change in progress (R197): the new range, its start, and a range queued behind it
(R198). `step` is 0 before the regulation moves, 1 after, 2 once the old range is off. -/
structure RangeSwitch where
  target : Nat
  start : Nat
  queued : Option Nat := none
  step : Nat := 0
  deriving DecidableEq, Repr

/-- A PPMU measurement in progress on a channel (R214 to R217). -/
structure PpmuRun where
  cmd : Nat
  slow : Bool
  left : Nat
  taken : Nat := 0
  sum : Int := 0
  least : Int := 0
  most : Int := 0
  deriving DecidableEq, Repr

/-- A channel circuit, spares included. `holdNext` is a change of the short-circuit hold that the next vector start
takes (R109); `loadOff` keeps the active load off (R193, R194); `parkSet` is the copy of the park set that the last
park took, empty before the park load (R194, R196); `modOld` are the modulator inputs that stay until the update at
`modUntil` (R181); `crowd` is by how much each edge generator's last firing was delayed, in units (R118); `limitAt` is
the tide of the last limit event of the driver as it stands (R130); `frozen` holds the words of members whose bakes do
not reach the circuit (R25, R137, R196); `corrAt` is the tide from which the last corrections act (R184). -/
structure Chan where
  connect : Bool := false
  parkActive : Bool := false
  holdNext : Option Bool := none
  loadOff : Bool := true
  parkSet : List Nat := []
  modOld : List Nat := []
  modUntil : Nat := 0
  crowd : Tab Nat := []
  mode : Nat := 0
  driver : Driver := .hiz
  heldHiZ : Bool := false
  limitAt : Option Nat := none
  frozen : Tab Word := []
  overlap : Bool := false
  range : Nat := 4
  rangeSw : Option RangeSwitch := none
  inClamp : Bool := false
  lwDelta : Tab Int := []
  failCount : Nat := 0
  maskedCount : Nat := 0
  firstFail : Nat := 2 ^ 64 - 1
  failBurst : Nat := 0
  calCurrent : Bool := false
  lastItems : Nat := 0
  calCount : Word := 0
  calTide : Nat := 0
  calTemp : Int := 0
  limitFail : Nat := 0
  corrGen : Nat := 0
  corrAt : Nat := 0
  ppmu : Option PpmuRun := none
  deriving DecidableEq, Repr

/-! ### Berths -/

/-- Berth run states (R43). -/
inductive BRun where
  | off | parked | idle | armed | running | fault
  deriving DecidableEq, Repr

/-- Site power states (R301). -/
inductive SpState where
  | off | starting | rampUp | on | rampDown | undoing | hiccup | faulted
  deriving DecidableEq, Repr

/-- One window monitor of a site power controller (R286 to R288): its live level, the end of its
blanking, whether that ends without a trip count (R292), and the start of its filter run. -/
structure Monitor where
  level : Bool := true
  blankEnd : Option Nat := none
  quiet : Bool := false
  filterFrom : Option Nat := none
  deriving DecidableEq, Repr

/-- The levels of a three-level PWM output (R268). -/
inductive Pwm where
  | mid | low | high
  deriving DecidableEq, Repr

/-- One phase of a controller (R268 to R274): the PWM output, its last set edge and its last
falling edge, in root periods. -/
structure Phase where
  pwm : Pwm := .mid
  setEdge : Nat := 0
  lastFall : Nat := 0
  deriving DecidableEq, Repr

/-- A site power controller (R268 to R301). `acc` is the ramp accumulator of R276, in units of
0.05 µV; `stepAt` the tide of its last step. Targets and Vout, the output as an event last gave it at `voutAt`, are in
µV. `lastAct` is the last fault action taken: its tide, its number, and the rank of its cause (R292). -/
structure Sp where
  state : SpState := .off
  acc : Nat := 0
  rampTarget : Nat := 0
  rampFrom : Nat := 0
  rampSlew : Nat := 0
  fromOff : Bool := false
  upward : Bool := false
  stepAt : Nat := 0
  enHigh : Bool := false
  readyAt : Option Nat := none
  lightForced : Bool := false
  phases : Tab Phase := []
  uvArmed : Bool := false
  ov : Monitor := {}
  uv : Monitor := {}
  oc : Monitor := {}
  ovHold : Option Nat := none
  vout : Int := 0
  voutAt : Option Nat := none
  lastAct : Option (Nat × Nat × Nat) := none
  goodSince : Option Nat := none
  hiccupsDone : Nat := 0
  hiccupAt : Option Nat := none
  lastTarget : Nat := 0
  limitUntil : Nat := 0
  enFallAt : Option Nat := none
  offAfter : Bool := false
  abortTag : Option Nat := none
  deriving DecidableEq, Repr

/-- Controllers being turned off in mode 0 (R282): the berths of the group in progress, the groups
that follow in ascending OffRank, and the instant at which the next group starts. -/
structure OffPlan where
  now : List Nat
  later : List (List Nat)
  nextAt : Option Nat := none
  deriving DecidableEq, Repr

/-- A sample pair of the acquisition engine. -/
abbrev SamplePair := Int × Int

/-- The acquisition engine of a berth (R218 to R234, R240). `setup` holds the words of the setup
as copied (families 0x52, 0x53, 0x54, 0x55 and 0x56); `ring` is the pre-trigger ring and `post` the
stored post-trigger samples, newest first; `acc` sums the raw samples of the sample in hand and
`accN` counts its base samples; `hist` is the trigger converter's history, newest first; `events`
are marker, gate and chain events, each with its source, its instant and a marker's vector index, which the first base
sample at or after the instant takes; `first` is the
instant of the first base sample and `samples` counts them; `ringMarks` holds for each ring entry
whether it clipped (1), fell in a range change (2) or followed a moved measure node (4); `closing` says that the record
has its last sample and waits to be closed, `missed` counts triggers missed since the last record began, `missedRec`
those before the record in hand, and `early` the bytes of a queued record that were spilled while it was open. -/
structure Acq where
  state : Nat := 0
  setupNo : Nat := 0
  setup : List Word := []
  pre : Nat := 0
  want : Nat := 0
  left : Nat := 0
  continuous : Bool := false
  first : Nat := 0
  ring : List SamplePair := []
  ringMarks : List Nat := []
  overflow : Bool := false
  moved : Bool := false
  post : List SamplePair := []
  spilled : Nat := 0
  acc : SamplePair := (0, 0)
  accN : Nat := 0
  decims : List Nat := []
  samples : Nat := 0
  missed : Nat := 0
  missedRec : Nat := 0
  closing : Bool := false
  early : Tab Nat := []
  clip : Bool := false
  sources : Nat := 0
  trigTide : Nat := 0
  trigGen : Word := 0
  marker : Nat := 2 ^ 64 - 1
  rangeSw : Option (Int × Int) := none
  handover : Option Int := none
  hist : List Int := []
  lowSeen : Bool := false
  highSeen : Bool := false
  events : List (Nat × Nat × Nat) := []
  nextRecord : Nat := 0
  unspilled : List (Nat × List Byte) := []
  held : List (Nat × Nat × Nat) := []
  writeAt : Nat := 0
  deriving DecidableEq, Repr

/-- A pair block of the time-measurement unit (R251, R261). -/
structure TmuPair where
  count : Nat := 0
  sum : Int := 0
  sumSq : Nat := 0
  least : Int := 0
  most : Int := 0
  flags : Nat := 0
  deriving DecidableEq, Repr

/-- A stored stamp (R262): the stamp in units, input, edge, PROVISIONAL, circuit and window. -/
structure TmuStamp where
  t : Nat
  input : Nat
  edge : Nat
  prov : Bool
  spare : Bool
  window : Nat
  deriving DecidableEq, Repr

/-- An edge that waits for its evaluation (R245): the stamp, the input, the kind of edge, and whether the oven had lost
its level (R257) and the spare carried the input when it came. -/
structure TmuEdge where
  t : Nat
  input : Nat
  edge : Nat
  prov : Bool
  spare : Bool
  deriving DecidableEq, Repr

/-- The time-measurement unit of a berth (R241 to R267). Stamps are in units of 0.25 ps. `words`
are families 0x60 and 0x61 as copied; `pendOpen` is the opening of an armed window, `openAt` and
`closeAt` bound the open one; `start` is the open interval or the last period edge, `refAt` and
`meas` the edges that DIFFERENCE holds; `counts` the header's counts since the commit by member of
family 0x63; `queue` and `queueTide` the fill of the edge queue, `pendEdges` the edges that it holds, by rising stamp
and input. -/
structure Tmu where
  state : Nat := 0
  mode : Nat := 0
  words : List Word := []
  source : Nat := 0
  gateSel : Nat := 0
  gateFall : Bool := false
  markSel : Nat := 0
  chainLine : Nat := 0
  armTide : Nat := 0
  generation : Word := 0
  windows : Nat := 0
  pendOpen : Option Nat := none
  openAt : Option Nat := none
  closeAt : Option Nat := none
  start : Option (Nat × Bool) := none
  refAt : Option (Nat × Bool) := none
  meas : Tab (Nat × Bool) := []
  lastAccepted : Tab Nat := []
  pairs : Tab TmuPair := []
  stamps : List TmuStamp := []
  counts : Tab Nat := []
  flags : Nat := 0
  queue : Nat := 0
  queueTide : Nat := 0
  pendEdges : List TmuEdge := []
  deriving DecidableEq, Repr

/-- Fail capture of a berth (R302 to R310, R330). A fail-log entry and a capture entry are the
bytes of their records (R305, R307). -/
structure Fc where
  outcome : Nat := 0
  bin : Nat := 0
  flags : Nat := 0
  burstNo : Nat := 0
  failVectors : Nat := 0
  earliestSeg : Option Nat := none
  earliestIndex : Nat := 2 ^ 64 - 1
  log : List (List Byte) := []
  logTotal : Nat := 0
  logSpilled : Nat := 0
  logRefused : Bool := false
  logFirsts : Nat := 0
  capture : List (List Byte) := []
  captureTotal : Nat := 0
  captureSpilled : Nat := 0
  deriving DecidableEq, Repr

/-- The calibration run of a berth (R382 to R397, R400). `purpose` is 0 for a run, 1 for RELIEVE, 2
for UNRELIEVE; `left` the positions not yet covered, `pathLeft` those of PATH, `services` the berth
items not yet measured, `spareItems` the items that the run has measured on the spare; `loads` the circuits whose corrections wait for a strobe with the items that
were covered; `readyAt` when the step in hand became ready. -/
structure Cal where
  runState : Nat := 0
  step : Nat := 0
  curPos : Nat := 31
  runSource : Nat := 0
  spareBad : Bool := false
  relievedPos : Nat := 31
  runCount : Word := 0
  lastTide : Nat := 0
  lastTemp : Int := 0
  startTemp : Int := 0
  startTide : Nat := 0
  lastStart : Nat := 0
  restore : Option Int := none
  purpose : Nat := 0
  items : Nat := 0
  left : List Nat := []
  pathLeft : List Nat := []
  services : Nat := 0
  spareItems : Nat := 0
  loads : List (Nat × Nat) := []
  serviceLoads : Nat := 0
  inPlace : Bool := false
  convert : Bool := false
  committed : Bool := false
  done : Nat := 0
  skipped : Nat := 0
  reasons : Tab Nat := []
  limits : Nat := 0
  readyAt : Option Nat := none
  undoStatus : Option (Nat × List Byte) := none
  covered : Tab Nat := []
  loaded : Tab Nat := []
  fails : Tab Nat := []
  pathDone : Nat := 0
  deriving DecidableEq, Repr

/-- A park in progress on a berth (R51, R194): the tide of ParkMode's application once the park
has started, the deadline while it waits for its quay's halt, whether it ends in FAULT or in PARKED,
and the groups of berths parked together, whose site power is turned off when all of a group have parked. -/
structure ParkReq where
  applyAt : Option Nat := none
  deadline : Option Nat := none
  toFault : Bool := false
  groups : List (List Nat) := []
  deriving DecidableEq, Repr

/-- A berth. -/
structure Berth where
  run : BRun := .off
  lastFault : Nat := 0
  subst : Nat := 0
  seqPhase : Nat := 0
  target : Nat := 31
  seqStart : Nat := 0
  movedAt : Option Nat := none
  park : Option ParkReq := none
  powered : Bool := false
  sp : Sp := {}
  acq : Acq := {}
  tmu : Tmu := {}
  fc : Fc := {}
  cal : Cal := {}
  deriving DecidableEq, Repr

/-! ### Quays -/

/-- A run of vectors of one length (R119, R122): its first index and start, the remainder of phase there, P', PhaseSlew
and the timing set. -/
structure VecRun where
  first : Nat
  sPos : Nat
  phase : Int
  period : Nat
  slew : Nat
  set : Nat
  deriving DecidableEq, Repr

/-- The copy of an armed quay's operands and of a running burst's progress (R152 to R178). Vector
`vectorIndex` starts at `sPos`; `played` counts the vectors of the pass or pause in hand before it, and `passIndex` is
the index of the pass's first; `entries` are the last segment entries, newest first, by first index (a pause
as segment 256); `resultMask` is the mask of the burst whose results are open; `phaseRemain` is
in 2^-16 units; `lastSet` is the timing set of the vector before. `jumps` are pending JUMPs with their arrival, target and command in
order of acceptance (R160); `runs` the runs of vectors last played, newest first, and `windowEnd` the close of the last
window that opened in the burst, in units (R124, R309). `fifo` counts the bytes of the streaming FIFO, `stream` gives
for each run of them the contents of the hold that they were read from,
`fifoBad` those before a word that could not be corrected, `prefill` is the entry segment it is filled for by an ARM
(R172 to R174); `filling` are the banks being filled, with the command that fills each (R145). -/
structure Quay where
  armed : Bool := false
  running : Bool := false
  halted : Bool := false
  faulted : Bool := false
  mask : Nat := 0
  entry : Nat := 0
  tset : Nat := 0
  startAt : Option Nat := none
  tokenWait : Bool := false
  curSeg : Nat := 0
  stack : List Nat := []
  passes : Nat := 0
  vectorIndex : Nat := 0
  played : Nat := 0
  pause : Option Nat := none
  redirect : Option Nat := none
  committed : Option Nat := none
  commitBusy : Bool := false
  jumps : List (Nat × Nat × Nat) := []
  haltReq : Option (Nat × Nat) := none
  haltCause : Nat := 0
  starveCause : Nat := 0
  haltIndex : Nat := 0
  starveIndex : Nat := 0
  starving : Bool := false
  fill : Tab Nat := []
  filling : List (Nat × Nat) := []
  playedFill : Tab Nat := []
  entryFails : Nat := 0
  passFails : Nat := 0
  activeSet : Nat := 0
  sPos : Nat := 0
  phaseRemain : Int := 0
  lastLen : Nat := 0
  seg : Mem := []
  fifo : Nat := 0
  fifoBad : Option Nat := none
  stream : List (Nat × Mem) := []
  prefill : Option Nat := none
  entries : List (Nat × Nat) := []
  passIndex : Nat := 0
  lastSet : Nat := 0
  runs : List VecRun := []
  windowEnd : Int := 0
  resultsOpen : Bool := false
  resultMask : Nat := 0
  gate : Option Nat := none
  lwPlaying : Bool := false
  lwCur : Nat := 0
  lwBank : Nat := 0
  lwNext : Nat := 0
  lwStart : Nat := 0
  lwRepeat : Bool := false
  deriving DecidableEq, Repr

/-! ### Wings, hold, chain -/

/-- A wing: its die-to-die link (R15, R500, R506). `held` and `heldReads` count the frozen writes and status reads, and
`late` the front-end events, by their ACK field, that have not crossed a lost link. -/
structure Wing where
  linkDown : Bool := false
  frozen : Bool := false
  held : Nat := 0
  heldReads : Nat := 0
  late : Tab Nat := []
  retrainBy : Option Nat := none
  lastCause : Nat := 0
  deriving DecidableEq, Repr

/-- The hold (R314 to R332). `bad` lists the 32-byte words with an ECC error: true one that cannot be corrected, false a
single bit (R318). `eccTides` are the stacks and tides of the uncorrectable words of the last ms (R319), `stageAt` the
place of the result-staging queue at which the next part goes in (R313, R315). -/
structure Hold where
  mem : Mem := []
  stackDown : Nat := 0
  stackHot : Nat := 0
  bad : Tab Bool := []
  eccTides : List (Nat × Nat) := []
  stageAt : Nat := 0
  bcastCrc : Word := 0
  bcastRun : Nat := 0xFFFFFFFF
  bcastBad : Bool := false
  selfRefresh : Nat := 0
  trained : Bool := false
  deriving DecidableEq, Repr

/-- Lane states (R342). -/
inductive LaneState where
  | off | detect | train | bitLock | blockLock | slip | deskew | capability | active | failed | test
  deriving DecidableEq, Repr

/-- A chain lane (R336 to R349, R372). `preStat` and `postStat` are the answers to the other end's last requests,
`preReq` and `postReq` this end's requests (R340). -/
structure Lane where
  state : LaneState := .off
  rate : Nat := 0
  cause : Nat := 0
  frozen : Bool := false
  markerSeen : Bool := false
  slipMode : Bool := false
  slips : Nat := 0
  preCode : Nat := 0
  postCode : Nat := 0
  preStat : Nat := 0
  postStat : Nat := 0
  skew : Nat := 0
  bips : List Nat := []
  retried : Bool := false
  rxReady : Bool := false
  refGood : Bool := false
  tx : Word := 0
  preReq : Nat := 0
  postReq : Nat := 0
  deriving DecidableEq, Repr

/-- A port of the chain (R343 to R346, R356, R373): states 0 down, 1 training, 2 ACTIVE, 3
DEGRADED. `downPend` says that its last active lane has left and the loss of the link is not yet handled;
`replay` holds the frames sent and not acknowledged, `replays` how often frame `nakSeq` was repeated, `capSent` that the
capability frame has been sent (R345), `queue` the frames
that wait for credit, `credits` the credit of a class where it is not the whole buffer, `lastF2` that the last frame of
F2 and F3 was one of F2, `slot` the rank of the lane at which the distribution resumes (R337), `ctl` the port control as
taken at the last entry into DETECT (R370). -/
structure Port where
  state : Nat := 0
  role : Nat := 0
  rate : Nat := 0
  capCause : Nat := 0
  timingLane : Nat := 0
  txSeq : Nat := 0
  rxSeq : Nat := 0
  replay : List (Nat × FrameBody) := []
  replays : Nat := 0
  credits : Tab Nat := []
  queue : List FrameBody := []
  lastF2 : Bool := false
  slot : Nat := 0
  ctl : Option Word := none
  markerSeq : Nat := 0
  downPend : Bool := false
  nakSeq : Nat := 0
  capSent : Bool := false
  deriving DecidableEq, Repr

/-- A device known to the pilot (R353, R367); `trays` are the entries of its trays, which only the pilot's rings
can change (R64), for the lead of a chain bake (R88). -/
structure Device where
  x : Nat := 0
  y : Nat := 0
  leg : Nat := 0
  lost : Bool := false
  excluded : Bool := false
  aligned : Bool := false
  trays : Tab (List (Word × Word)) := []
  deriving DecidableEq, Repr

/-- The SIGNALs of R363, and frames, as sent on the chain. -/
inductive Signal where
  | bakeArm (i36 : Nat) (tray : Nat)
  | bakeReady (i36 : Nat)
  | bakeGo (i36 : Nat)
  | bakeCancel (i36 : Nat)
  | token (i36 : Nat)
  | trigRaise (line : Nat) (i36 : Nat)
  | trigDeliver (line : Nat) (i36 : Nat)
  | oven (ok : Bool)
  | tidePing (exchange : Nat)
  | tidePong (exchange : Nat)
  | lost (index : Nat)
  | raw (code : Nat) (arg : Word)
  deriving DecidableEq, Repr

/-- What the device put on a link, oldest first (the model's record). -/
inductive Sent where
  | signal (port : Option Nat) (x : Signal)
  | frame (port : Option Nat) (body : FrameBody)
  | ackFrame (port seq : Nat)
  | nakFrame (port seq : Nat)
  | credit (port cls bytes : Nat)
  /-- The payload of a TRAIN block (R340). -/
  | train (lane : Nat) (payload : BitVec 64)
  /-- The capability frame of a port: microcode version, CHAIN_ROLE, trained lane mask, rate and serial (R345). -/
  | capability (port : Nat) (mcver role mask rate : Nat) (serial : BitVec 64)
  deriving DecidableEq, Repr

/-- A measurement of one link from its parent end (R360): the exchange in hand, its stamps t0 and
t3 once the answer has come, how many exchanges are done, and the sum of 2θ over them. -/
structure TideMeas where
  exchange : Nat := 0
  stamps : Option (Nat × Nat) := none
  done : Nat := 0
  sum : Int := 0
  deriving DecidableEq, Repr

/-- The chain (R333 to R376). `theta` is Θ against the pilot as last measured, `track` what is left of it as tracked
(R362), `count` the devices of the chain as a follower knows them, `pendTrig` the lines that wait for their delivery
instants; `drift` the change of the upstream
link's θ not yet applied, `rootPhase` the units by which the root phase has been advanced, `stepAt`
the tide before which no further step is taken; `ovenAt` the tide of the last OVEN that came; `grants` the port,
class and bytes of frames received whose buffer a copy still occupies (R358). -/
structure Chain where
  index : Nat := 0
  enumerated : Bool := false
  x : Nat := 0
  y : Nat := 0
  upPort : Nat := 0
  topology : Nat := 0
  tideAligned : Bool := false
  legBound : Nat := 0
  theta : Int := 0
  devices : Tab Device := []
  ports : Tab Port := []
  lanes : Tab Lane := []
  lastTrig : Tab Nat := []
  pendTrig : List (Nat × Nat) := []
  meas : Tab TideMeas := []
  correction : Option (Int × Nat) := none
  drift : Int := 0
  rootPhase : Int := 0
  stepAt : Nat := 0
  ovenAt : Nat := 0
  lost : Bool := false
  grants : List (Nat × Nat × Nat × FrameBody) := []
  track : Int := 0
  count : Nat := 0
  deriving DecidableEq, Repr

/-! ### Clocks, thermal supervision -/

/-- Reference states (R464). -/
inductive RefState where
  | none | locked | coast | fallback | relock
  deriving DecidableEq, Repr

/-- Clocks and references (R459 to R487). -/
structure Clk where
  refState : RefState := .none
  refSel : Nat := 0
  pllLock : Bool := false
  hkSettled : Bool := false
  trimLock : Bool := false
  unsettled : Bool := false
  refPresent : Nat := 0
  trimSource : Nat := 0
  strapConflict : Bool := false
  trimCode : Int := 0
  trimError : Int := 0
  trimGood : Nat := 0
  lossTide : Nat := 0
  coastEnd : Option Nat := none
  coastLong : Option Nat := none
  fallbackBy : Option Nat := none
  coastDone : Bool := false
  refBack : Bool := false
  runOff : Tab Bool := []
  sleepOff : Tab Bool := []
  deepFlip : Tab Bool := []
  asleep : Tab Nat := []
  ovenLevel : Bool := false
  ovenOk : Bool := false
  ovenRise : Int := 0
  deriving DecidableEq, Repr

/-- A thermal sensor (R404, R405, R427). Readings are in 1/256 degree C; `hist` is newest first. -/
structure Sensor where
  reading : Option Int := none
  hist : List Int := []
  badKind : Nat := 0
  stuck : Nat := 0
  stuckMean : Option Int := none
  good : Nat := 0
  deriving DecidableEq, Repr

/-- A thermal zone (R406 to R419, R426). -/
structure Zone where
  state : Nat := 0
  levels : Nat := 0
  stopKind : Nat := 0
  stopCause : Nat := 0
  sensorStop : Bool := false
  firstSensor : Nat := 0
  ttlAtStop : Nat := 0
  temp : Option Int := none
  rate : Int := 0
  fresh : Bool := true
  deriving DecidableEq, Repr

/-- The SMBus values as last updated (R422). -/
structure Smb where
  zoneTemp : Tab Nat := []
  hottest : Nat := 0x8000
  warn : Nat := 0
  throttle : Nat := 0
  stop : Nat := 0
  bad : Nat := 0
  power : Nat := 0
  address : Nat := 0x58
  deriving DecidableEq, Repr

structure Therm where
  sensors : Tab Sensor := []
  zones : Tab Zone := []
  smb : Smb := {}
  deriving DecidableEq, Repr

/-! ### Engines -/

/-- Routine phases (R437). -/
inductive RPhase where
  | prepare | progress | commit | undo
  deriving DecidableEq, Repr

/-- A WAIT in progress (R435): the condition code, its inversion, the operand's value, the tide at which it times out,
and whether the event of a condition that is an event has come since (R436). -/
structure WaitFor where
  cond : Nat
  invert : Bool
  arg : Word
  until_ : Option Nat
  met : Bool := false
  deriving DecidableEq, Repr

/-- A context of an engine (R430 to R440). `cmd` is the acceptance number of the command it runs and
`startCode` the state code of its target at the start; `sinceSafe` and `safeAt` count the microwords
since the last safe point and hold its tide, `commitAt` the tide of COMMIT; `abortTag` and `held` are
the ABORT and the interrupt verdict that wait for the next safe point; `dma` holds the result words
queued (offset, word); `tideHigh` is the latched half of TIDE; `handled` says that a handler runs (R438), and `ending` is
the status and data that its reply then carries (R441, R444). -/
structure Ctx where
  busy : Bool := false
  cmd : Nat := 0
  pc : Nat := 0
  regs : Tab Word := []
  stack : List Nat := []
  zf : Bool := false
  nf : Bool := false
  cf : Bool := false
  vf : Bool := false
  abort : Bool := false
  interrupt : Bool := false
  inCommit : Bool := false
  timedOut : Bool := false
  phase : RPhase := .prepare
  wait : Option WaitFor := none
  dma : Tab Word := []
  sinceSafe : Nat := 0
  safeAt : Nat := 0
  commitAt : Nat := 0
  abortTag : Nat := 0
  held : Option (Nat × List Byte) := none
  tideHigh : Word := 0
  startCode : Nat := 0
  handled : Bool := false
  ending : Option (Nat × List Byte) := none
  deriving DecidableEq, Repr

/-- A command engine (R429, R446 to R449, R458): state 0 running, 1 restarting, 2 disabled, 3
patch switch. `turn` is the context that executed last, `yielded` whether it has yielded since (R430). -/
structure Eng where
  state : Nat := 0
  ctxs : Tab Ctx := []
  faultTides : List Nat := []
  lastFaultCode : Nat := 0
  lastFaultAddr : Nat := 0
  maxSafeGap : Nat := 0
  lastCtx : Nat := 0
  turn : Nat := 0
  yielded : Bool := false
  patchRam : Tab Word := []
  patchPoints : Tab Nat := []
  patchVer : Nat := 0
  deriving DecidableEq, Repr

/-- Microcode patches (R450 to R457); `raisedLevel` is the level that a live load has fused
(R454). `fabric` holds the fabric words that microwords have written (R433). -/
structure Mc where
  fabric : Tab Word := []
  patchVer : Nat := 0
  imageLevel : Nat := 0
  result : Nat := 0
  source : Nat := 0
  patchMask : Nat := 0
  raisedLevel : Nat := 0
  deriving DecidableEq, Repr

/-! ### Tender ports -/

/-- A transaction in progress (R510 to R519): its command, the peripheral's settings and the port's
control as copied when the select fell, the units started, the data they read, the status byte, and
the error found so far (LastError, 0 none). -/
structure TpRun where
  cmd : Nat
  settings : Word
  ctrl : Word
  unit : Nat := 0
  read : List Nat := []
  status : Option Nat := none
  failed : Nat := 0
  deriving DecidableEq, Repr

/-- A tender port (R507 to R523). -/
structure Tp where
  run : Option TpRun := none
  queue : List Nat := []
  lastStatus : Nat := 0
  lastError : Nat := 0
  lastEdgeCount : Nat := 0
  deriving DecidableEq, Repr

/-! ### Start-up -/

/-- An entry of a flash directory (R559). -/
structure DirEntry where
  type : Nat
  offset : Nat
  length : Nat
  crc : Word
  deriving DecidableEq, Repr

/-- Start-up (R547 to R571). `dir` holds the entries of the directory copy in use (R557); `rst` and the rails are the balls as last seen; `flashRead` is the set of
flash contents read in this boot (bits 0 directories, 1 patch, 2 configuration, 3 park table, 4
correction image); `quaysUp` the quays whose turn at power-up is over; `parkLoaded` the park load done;
`reload` a park reload after a DEVICE reset (R567); `testReset` the test logic reset by TRST_N. -/
structure Boot where
  straps : Option Straps := none
  strapConflicts : Nat := 0
  step : Nat := 0
  flashFound : Bool := false
  dirUsed : Nat := 0
  dir : List DirEntry := []
  configResult : Nat := 0
  parkResult : Nat := 0
  corrResult : Nat := 0
  parkSrcUsed : Bool := false
  unknownEntries : Nat := 0
  bootTime : Nat := 0
  bootBerths : Nat := 0
  parkTable : Tab (List Word) := []
  corrImage : List Byte := []
  aonOn : Bool := false
  rst : Bool := true
  railVdd : Bool := false
  railVdda : Bool := false
  railsBad : Nat := 0
  refQualified : Bool := false
  fusesRead : Bool := false
  flashRead : Nat := 0
  quaysUp : Nat := 0
  parkLoaded : Bool := false
  reload : Bool := false
  testReset : Bool := false
  deriving DecidableEq, Repr

/-! ### Host link -/

/-- A fast-status block (R96, R97, R532, R533): rewrites completed, the tide before which the next
rewrite does not start, and the words of the last rewrite by byte offset. -/
structure FsState where
  seq : Nat := 0
  notBefore : Nat := 0
  words : List (Nat × Word) := []
  deriving DecidableEq, Repr

/-- The host link, rings and resets (R31 to R36, R505, R524 to R546). -/
structure HostSide where
  sq : Tab Sq := []
  rq : Tab Rq := []
  rqMem : Tab Reply := []
  hostMem : Mem := []
  heldReplies : List HeldReply := []
  msix : Tab MsixVec := []
  msixEn : Bool := false
  funcMask : Bool := false
  linkUp : Bool := false
  speed : Nat := 0
  width : Nat := 0
  reversed : Bool := false
  busMaster : Bool := false
  dState : Nat := 0
  inL1 : Bool := false
  perstHeld : Bool := false
  subsysVendor : Nat := 0x1F6A
  subsysId : Nat := 0x6410
  config : Tab Word := []
  latch : Tab Word := []
  lastType : Nat := 0xFF
  lastScope : Nat := 0
  lastInst : Nat := 0
  inReset : Bool := false
  lastFlush : Word := 0
  deriving DecidableEq, Repr

/-! ### The device -/

/-- What the last read command of the model returned, and what was put on the chain. -/
structure Out where
  bytes : List Byte := []
  status : Nat := 0
  sent : List Sent := []
  deriving DecidableEq, Repr

/-- The state of the device. -/
structure State where
  pending : List Instr
  tide : Nat
  tideOn : Bool
  cold : Bool
  booted : Bool
  unparked : Bool
  devFault : Option Nat
  lastDevFault : Nat
  lastFaultSource : Nat
  lastFaultInst : Nat
  acks : Tab Ack
  freeCtr : Nat
  nextOrd : Nat
  out : Out
  host : HostSide
  fast : Tab FsState
  inflight : List Cmd
  unposted : List Unposted
  par : Par
  chan : Tab Chan
  berth : Tab Berth
  quay : Tab Quay
  wing : Tab Wing
  offPlans : List OffPlan
  hold : Hold
  chain : Chain
  clk : Clk
  therm : Therm
  eng : Tab Eng
  mc : Mc
  tp : Tab Tp
  boot : Boot
  deriving DecidableEq, Repr

/-- The state right after power is applied: COLD, every table empty (so every instance holds its
reset record), the queue of commands empty. -/
def State.reset : State where
  pending := []
  tide := 0
  tideOn := false
  cold := true
  booted := false
  unparked := false
  devFault := none
  lastDevFault := 0
  lastFaultSource := 0
  lastFaultInst := 0
  acks := []
  freeCtr := 0
  nextOrd := 0
  out := {}
  host := {}
  fast := []
  inflight := []
  unposted := []
  par := {}
  chan := []
  berth := []
  quay := []
  wing := []
  offPlans := []
  hold := {}
  chain := {}
  clk := {}
  therm := {}
  eng := []
  mc := {}
  tp := []
  boot := {}

end Sys2Proof.Machine
end

