-- ==== Sys2Proof/Machine/Wire.lean ====
section
/-! DEFINITION. What travels on the chain, as bytes, blocks and bits: the parameter block of an operation
(R65, R591), the 66-bit block code (R335 to R338, R340, R356), the distribution of blocks over lanes (R337), the
bit sequences of lane tests (R349), and the order and credits of frames (R355, R356). -/

namespace Sys2Proof.Machine

/-! ### The parameter block of an operation -/

def word4 (w : Word) : List Byte := leBytes 4 w.toNat

/-- Entry of SP_SEQUENCE (R283). -/
def seqEntryBytes (e : SeqEntry) : List Byte :=
  [BitVec.ofNat 8 (e.berth.toNat + (if e.waitGood then 128 else 0)), BitVec.ofNat 8 e.chain.toNat] ++
    leBytes 2 e.delay.toNat ++ leBytes 4 e.target.toNat

/-- A pair of STAGE or ACK_WRITE (R78, R103). -/
def pairBytes8 (p : Pair) : List Byte := word4 p.id ++ word4 p.value

def zeros (n : Nat) : List Byte := List.replicate n 0#8

/-- A byte built from low-order fields. -/
def byteOf (n : Nat) : Byte := BitVec.ofNat 8 n

/-- The parameter block of an operation (R65, R591 and the opcode's own rule). -/
def paramBytes (op : HostOp) : List Byte :=
  match op with
  | .nop | .identify | .getState | .clearFault | .halt | .disarm | .clearHalt | .seqStatus | .tmuRead
  | .spStatus | .chainEnum | .chainStatus | .tideAlign | .calSave | .relieve | .unrelieve | .calStatus
  | .mcVersion => []
  | .park m => [m]
  | .unpark i => leBytes 8 i.toNat
  | .berthPower x => [x]
  | .abort t => leBytes 2 t.toNat
  | .resetScope t none => [t]
  | .resetScope t (some m) => [t, m]
  | .stage t ps => t :: zeros 7 ++ ps.flatMap pairBytes8
  | .proof t => [t]
  | .bake i t check relative expected =>
    leBytes 8 i.toNat ++ [byteOf (t.toNat + flag check 6 + flag relative 7)] ++ zeros 3 ++ word4 expected
  | .read sel ids => sel :: zeros 7 ++ ids.flatMap word4
  | .trayClear t => [t]
  | .trayStatus t => [t]
  | .ackWrite ps => ps.flatMap pairBytes8
  | .segLoad bank off source len => bank :: zeros 3 ++ word4 off ++ leBytes 8 source.toNat ++ word4 len
  | .arm entry mask tset => word4 entry ++ [byteOf mask.toNat, byteOf tset.toNat]
  | .start mode source i => [mode, source] ++ zeros 6 ++ leBytes 8 i.toNat
  | .jump t => word4 t
  | .ppmuMeasure current slow range n => [byteOf (flag current 0 + flag slow 1), range] ++ zeros 2 ++ word4 n
  | .acqArm setup pre post => byteOf setup.toNat :: zeros 3 ++ word4 pre ++ word4 post
  | .acqRead n => word4 n
  | .tmuArm mode source gate fall mark line =>
    byteOf mode.toNat :: zeros 3 ++ leBytes 4 (source.toNat + 8 * gate.toNat + flag fall 5 +
      64 * mark.toNat + 1024 * line.toNat)
  | .resultUpload m => m :: zeros 3
  | .failLogRead first n => leBytes 8 first.toNat ++ word4 n
  | .spRamp target slew => word4 target ++ word4 slew
  | .spSequence es => leBytes 4 es.length ++ es.flatMap seqEntryBytes
  | .spOff m => [m]
  | .laneTest lane pattern loop single burst len time =>
    [lane, byteOf (pattern.toNat + flag loop 2), byteOf (flag single 0 + flag burst 1 + 4 * len.toNat), 0#8] ++
      word4 time
  | .laneBitslip lane n => [lane, n]
  | .bcastLoad source dest len => leBytes 8 source.toNat ++ leBytes 8 dest.toNat ++ word4 len
  | .calRun items positions => word4 items ++ leBytes 2 positions.toNat ++ zeros 2
  | .calRestore image => image
  | .refSelect r => [r]
  | .freqMeasure i kind gate => leBytes 4 (i.toNat + 256 * kind.toNat) ++ word4 gate
  | .thermRead first n => [first, 0#8, n]
  | .thermClear z => [z]
  | .clockMode mask run sleep deep kind =>
    leBytes 8 mask.toNat ++ [byteOf (flag run 0 + flag sleep 1 + flag deep 2), kind]
  | .tpXfer port sel bits lead units =>
    [byteOf port.toNat, byteOf sel.toNat, bits, lead] ++ units.flatMap word4
  | .tpStatus port => [byteOf port.toNat]
  | .mcPatchLoad mask image => byteOf mask.toNat :: zeros 7 ++ image
  | .fuseRead w => [byteOf w.toNat]

/-! ### Blocks (R335) -/

/-- A 66-bit block: its sync header and its payload. -/
structure Block where
  header : BitVec 2
  payload : BitVec 64
  deriving DecidableEq, Repr

/-- A data block of eight bytes. -/
def dataBlock (bytes : List Byte) : Block := ⟨1#2, BitVec.ofNat 64 (leNat (bytes.take 8))⟩

/-- A control block: its type in byte 0, the other bytes above it. -/
def ctlBlock (type rest : Nat) : Block := ⟨2#2, BitVec.ofNat 64 (type + 256 * rest)⟩

def blockType (b : Block) : Nat := b.payload.toNat % 256

def isData (b : Block) : Bool := b.header = 1#2
def isCtl (b : Block) (type : Nat) : Bool := b.header = 2#2 && blockType b = type

def idleBlock : Block := ctlBlock 0x1E 0

/-- A block that BlockErr counts: an invalid sync header or a reserved control type. -/
def blockBad (b : Block) : Bool :=
  !(isData b || ([0x1E, 0x2D, 0x33, 0x4B, 0x55, 0x78, 0x87] : List Nat).any (isCtl b))

/-- ALIGN markers and TRAIN blocks are sent unscrambled. -/
def unscrambled (b : Block) : Bool := isCtl b 0x4B || isCtl b 0x55

/-- The scrambler x^58 + x^39 + 1 over payload bits, first bit first; `st` holds the last 58 bits sent, newest
first. -/
def blockScramble (st bits : List Bool) : List Bool × List Bool :=
  match bits with
  | [] => (st, [])
  | b :: rest =>
    let o := Bool.xor b (Bool.xor ((st[38]?).getD false) ((st[57]?).getD false))
    let r := blockScramble ((o :: st).take 58) rest
    (r.1, o :: r.2)

/-- The descrambler: `st` holds the last 58 bits received, newest first. -/
def blockDescramble (st bits : List Bool) : List Bool × List Bool :=
  match bits with
  | [] => (st, [])
  | b :: rest =>
    let o := Bool.xor b (Bool.xor ((st[38]?).getD false) ((st[57]?).getD false))
    let r := blockDescramble ((b :: st).take 58) rest
    (r.1, o :: r.2)

/-! ### ALIGN and TRAIN (R336, R340) -/

def alignBlock (lane port seq bip : Nat) : Block := ctlBlock 0x4B (lane + 16 * port + 256 * seq + 2 ^ 24 * bip)

/-- The bit-interleaved parity of the blocks since the previous marker; bit k of a sync header enters bit k
(DEDUCED, log 100). -/
def bipOf (bs : List Block) : BitVec 16 :=
  bs.foldl (fun a b => a ^^^ b.payload.extractLsb' 0 16 ^^^ b.payload.extractLsb' 16 16 ^^^
    b.payload.extractLsb' 32 16 ^^^ b.payload.extractLsb' 48 16 ^^^ b.header.setWidth 16) 0

/-- The TRAIN block of a lane: its requests, its answers, its readiness and its codes. -/
def trainBlock (preReq postReq : Nat) (ready : Bool) (refGood : Bool) (x : Lane) : Block :=
  ctlBlock 0x55 (preReq + 4 * postReq + 2 ^ 8 * x.preStat + 2 ^ 10 * x.postStat + flag ready 16 + flag refGood 17 +
    2 ^ 24 * x.preCode + 2 ^ 29 * x.postCode)

/-- The taps of R339 in 64ths: precursor, main cursor, postcursor. -/
def laneTaps (x : Lane) : Int × Int × Int :=
  (-(x.preCode : Int), 64 - ((x.preCode : Int) + x.postCode), -(x.postCode : Int))

/-- The transmit swing in mV pk-pk (R334, R371), as latched at the lane's last TRAIN. -/
def laneSwing (x : Lane) : Nat := 800 + 50 * fld x.tx 10 3

/-! ### SIGNAL (R338, R363) -/

/-- One byte of the CRC-8 x^8 + x^2 + x + 1, most significant bit first (DESIGN CHOICE, log 81). -/
def crc8Byte (c : Nat) (b : Byte) : Nat :=
  (List.range 8).foldl (fun c _ => if 128 ≤ c then Nat.xor (2 * c % 256) 7 else 2 * c) (Nat.xor c b.toNat)

def crc8 (bytes : List Byte) : Byte := BitVec.ofNat 8 (bytes.foldl crc8Byte 0)

/-- The code and the 40-bit argument of a SIGNAL (R363). -/
def signalWire (x : Signal) : Nat × Nat :=
  match x with
  | .bakeArm i tray => (0x01, i % 2 ^ 36 + 2 ^ 36 * tray)
  | .bakeReady i => (0x02, i % 2 ^ 36)
  | .bakeGo i => (0x03, i % 2 ^ 36)
  | .bakeCancel i => (0x04, i % 2 ^ 36)
  | .token i => (0x05, i % 2 ^ 36)
  | .trigRaise l i => (0x06, i % 2 ^ 36 + 2 ^ 36 * l)
  | .trigDeliver l i => (0x07, i % 2 ^ 36 + 2 ^ 36 * l)
  | .oven ok => (0x08, flag ok 0)
  | .tidePing n => (0x09, n % 65536)
  | .tidePong n => (0x0A, n % 65536)
  | .lost i => (0x0B, i % 128)
  | .raw code a => (code, a.toNat)

def signalBytes (x : Signal) : List Byte := leBytes 1 (signalWire x).1 ++ leBytes 5 (signalWire x).2

def signalBlock (x : Signal) : Block := ctlBlock 0x2D (leNat (signalBytes x ++ [crc8 (signalBytes x)]))

/-- The block time and lane of the two copies of a message. -/
def signalCopies (ls : List Nat) : List (Nat × Nat) :=
  match ls with
  | [] => []
  | [l] => [(0, l), (1, l)]
  | a :: b :: _ => [(0, a), (0, b)]

/-- The CRC of a received SIGNAL block is good. -/
def signalGood (b : Block) : Bool :=
  crc8 ((leBytes 8 b.payload.toNat).drop 1 |>.take 6) = BitVec.ofNat 8 (b.payload.toNat / 2 ^ 56)

/-- The receiver acts on a good copy, unless the same block has arrived within 4 block times. -/
def signalActs (last : Option (Nat × Block)) (time : Nat) (b : Block) : Bool :=
  signalGood b && !last.any fun e => e.2 = b && decide (time ≤ e.1 + 4)

/-! ### Frames as blocks (R356) -/

def startBlock (cls seq words dest : Nat) : Block := ctlBlock 0x78 (cls + 2 ^ 8 * seq + 2 ^ 24 * words + 2 ^ 32 * dest)

/-- The CRC-32 over the header bytes and the payload. -/
def frameCrc (start : Block) (payload : List Byte) : Word :=
  crc32 ((leBytes 8 start.payload.toNat).drop 1 ++ payload)

def dataBlocks (n : Nat) (payload : List Byte) : List Block :=
  match n with
  | 0 => []
  | n + 1 => dataBlock payload :: dataBlocks n (payload.drop 8)

/-- The blocks of a frame: FRAME_START, its data blocks and FRAME_END. -/
def frameBlocks (cls seq dest : Nat) (payload : List Byte) : List Block :=
  let words := ceilDiv payload.length 8
  let start := startBlock cls seq words dest
  start :: dataBlocks words payload ++ [ctlBlock 0x87 (frameCrc start payload).toNat]

/-! ### Distribution over the active lanes (R337)

Slot k of a port is block time k / n on its active lane of rank k mod n, of n lanes. -/

def slotTime (n k : Nat) : Nat := k / n
def slotLane (ls : List Nat) (k : Nat) : Nat := (ls[k % ls.length]?).getD 0

/-- The first slot from k on that no ALIGN, SIGNAL or LINK block has taken. -/
def nextFree (taken : List Nat) (k fuel : Nat) : Nat :=
  match fuel with
  | 0 => k
  | fuel + 1 => if taken.contains k then nextFree taken (k + 1) fuel else k

/-- The slots of the next `n` frame blocks, from slot k on. -/
def frameSlots (taken : List Nat) (k n : Nat) : List Nat :=
  match n with
  | 0 => []
  | n + 1 =>
    let j := nextFree taken k taken.length
    j :: frameSlots taken (j + 1) n

/-- The rank at which the distribution resumes after `n` frame blocks. -/
def slotAfter (lanes slot n : Nat) : Nat := if lanes = 0 then slot else (slot + n) % lanes

/-- A block of a frame, and not one that has taken its slot. -/
def isFrameBlock (b : Block) : Bool := isData b || isCtl b 0x78 || isCtl b 0x87

/-- The receiver restores the order: received blocks by block time and rank, after deskew. -/
def restoreFrames (lanes : Nat) (rs : List (Nat × Nat × Block)) : List Block :=
  ((rs.foldl (fun (t : Tab Block) r => tabSet t (lanes * r.1 + r.2.1) r.2.2) []).map (·.2)).filter isFrameBlock

/-! ### Lane tests (R349) -/

/-- The two taps of a pattern's polynomial: PRBS7, PRBS15, PRBS23, PRBS31. -/
def prbsTaps (pattern : Nat) : Nat × Nat :=
  match pattern with
  | 0 => (7, 6)
  | 1 => (15, 14)
  | 2 => (23, 18)
  | _ => (31, 28)

/-- The next bit of a pattern after the bits `st`, newest first. -/
def prbsNext (pattern : Nat) (st : List Bool) : Bool :=
  Bool.xor ((st[(prbsTaps pattern).1 - 1]?).getD false) ((st[(prbsTaps pattern).2 - 1]?).getD false)

/-- The next `n` bits of the generator. -/
def prbsBits (pattern : Nat) (st : List Bool) (n : Nat) : List Bool :=
  match n with
  | 0 => []
  | n + 1 =>
    let b := prbsNext pattern st
    b :: prbsBits pattern ((b :: st).take 31) n

/-- Wrong bits that a checker counts which runs free after its seed. -/
def checkFrom (pattern : Nat) (st bits : List Bool) : Nat :=
  match bits with
  | [] => 0
  | b :: rest =>
    let e := prbsNext pattern st
    (if b = e then 0 else 1) + checkFrom pattern ((e :: st).take 31) rest

/-- The checker: it seeds itself from the first received bits and then runs free, so that each wrong bit counts
once. -/
def checkBits (pattern : Nat) (bits : List Bool) : Nat :=
  let n := (prbsTaps pattern).1
  checkFrom pattern (bits.take n).reverse (bits.drop n)

/-- The generator inverts bit k of its output: once every 2^24 bits, first after 2^24 of them (DESIGN CHOICE,
log 99), a single bit, a burst, or the burst 64 bits behind the single bit. -/
def injects (single burst : Bool) (len k : Nat) : Bool :=
  let r := k % 2 ^ 24
  let o := if single then 64 else 0
  2 ^ 24 ≤ k && ((single && r = 0) || (burst && decide (o ≤ r ∧ r < o + len)))

/-- How many of the first `n` bits the generator inverts. -/
def injectedIn (single burst : Bool) (len n : Nat) : Nat :=
  let o := if single then 64 else 0
  let part (r : Nat) : Nat := (if single && r ≠ 0 then 1 else 0) + (if burst then Nat.min len (r - o) else 0)
  if n / 2 ^ 24 = 0 then 0 else (n / 2 ^ 24 - 1) * part (2 ^ 24) + part (n % 2 ^ 24)

/-! ### Frames: class, length, order and credit (R355, R356) -/

/-- The class of a frame. -/
def frameClass (b : FrameBody) : Nat :=
  match b with
  | .enum _ _ _ _ | .enumReport _ _ _ _ _ _ _ _ _ | .assignIndex _ _ _ _ | .tideData _ _ _ | .correction _ _ _
  | .residual _ _ _ | .aligned _ | .thermalReport _ _ _ | .chainCount _ | .theta _ _ | .unaligned _ => 0
  | .command _ _ | .reply _ _ _ _ _ _ | .bcastCrc _ _ _ | .lossPark | .snapTide _ _ | .result _ _ => 1
  | .resultPart _ _ => 2
  | .broadcast _ _ _ => 3
  | .piece c _ => c.val

/-- Payload bytes of a message: a command's slot and parameter block, a reply, result and broadcast bytes; none where
the spec gives a frame's contents and no layout. -/
def messageBytes (b : FrameBody) : Option Nat :=
  match b with
  | .command _ op => some (64 + (paramBytes op).length)
  | .reply _ _ _ _ _ _ => some 32
  | .result _ bytes | .resultPart _ bytes | .broadcast _ bytes _ => some bytes.length
  | .piece _ n => some n
  | .enum _ _ _ _ | .enumReport _ _ _ _ _ _ _ _ _ | .assignIndex _ _ _ _ | .tideData _ _ _ | .correction _ _ _
  | .residual _ _ _ | .aligned _ | .thermalReport _ _ _ | .chainCount _ | .theta _ _ | .unaligned _ | .bcastCrc _ _ _ | .lossPark | .snapTide _ _ => none

/-- The most payload bytes of a frame (R355). -/
def frameMost : Nat := 512

/-- The frames of a message: full pieces, and the last one, which delivers it. -/
def framesOf (b : FrameBody) : List FrameBody :=
  match messageBytes b with
  | some n => List.replicate ((n - 1) / frameMost) (.piece (Fin.ofNat 4 (frameClass b)) frameMost) ++ [b]
  | none => [b]

/-- Payload bytes of the last frame of a message, in whole words; where the spec gives no layout, a free length of 1 to
64 words. -/
def frameBytes (b : FrameBody) : Nat :=
  match messageBytes b with
  | some n => 8 * ceilDiv (Nat.max 1 (n - frameMost * ((n - 1) / frameMost))) 8
  | none => 8 * (1 + (Config.frameWords b).toNat % 64)

/-- Receive buffer of a class and the replay buffer of a port. -/
def classBuffer : Nat := 16384
def replayBuffer : Nat := 65536

def creditOf (x : Port) (cls : Nat) : Nat := tabGet classBuffer x.credits cls

def replayBytes (x : Port) : Nat := (x.replay.map fun e => frameBytes e.2).sum

/-- A frame may leave: its class has the credit for it, and the replay buffer the room. -/
def maySend (x : Port) (b : FrameBody) : Bool :=
  (frameMost ≤ creditOf x (frameClass b) || frameBytes b ≤ creditOf x (frameClass b)) &&
    (frameMost * (x.replay.length + 1) ≤ replayBuffer || replayBytes x + frameBytes b ≤ replayBuffer)

/-- The oldest frame of a class that waits, where it may leave. -/
def classFrame (x : Port) (cls : Nat) : Option FrameBody :=
  match x.queue.find? fun b => frameClass b = cls with
  | some b => if maySend x b then some b else none
  | none => none

/-- The next frame by priority (R355): F0, F1, then F2 and F3 alternating. -/
def nextFrame (x : Port) : Option FrameBody :=
  if x.lastF2 then (classFrame x 0).or ((classFrame x 1).or ((classFrame x 3).or (classFrame x 2)))
  else (classFrame x 0).or ((classFrame x 1).or ((classFrame x 2).or (classFrame x 3)))

/-- A frame leaves on a port of `lanes` active lanes: it takes the direction's next sequence number, its credit and its
slots, and stays in the replay buffer until it is acknowledged. -/
def frameOut (lanes : Nat) (x : Port) (b : FrameBody) : Port :=
  { x with
    queue := x.queue.erase b
    credits := tabSet x.credits (frameClass b) (creditOf x (frameClass b) - frameBytes b)
    txSeq := (x.txSeq + 1) % 65536, replay := x.replay ++ [(x.txSeq, b)]
    slot := slotAfter lanes x.slot (frameBytes b / 8 + 2)
    lastF2 := if frameClass b = 2 then true else if frameClass b = 3 then false else x.lastF2 }

/-- The frames that may leave, one after another. -/
def drainPort (lanes n : Nat) (x : Port) : Port × List FrameBody :=
  match n with
  | 0 => (x, [])
  | n + 1 =>
    match nextFrame x with
    | none => (x, [])
    | some b =>
      let r := drainPort lanes n (frameOut lanes x b)
      (r.1, b :: r.2)

end Sys2Proof.Machine
end

