-- ==== Sys2Proof/Machine/Ops.lean ====
section
/-! DEFINITION. The shared operations: instances of a resource, ACK counts, parameter values,
MSI-X, state codes and fault entry. -/

namespace Sys2Proof.Machine

/-! ### Instances of a resource -/

def chanAt (s : State) (c : Nat) : Chan := tabGet {} s.chan c
def setChan (s : State) (c : Nat) (x : Chan) : State := { s with chan := tabSet s.chan c x }
def berthAt (s : State) (b : Nat) : Berth := tabGet {} s.berth b
def setBerth (s : State) (b : Nat) (x : Berth) : State := { s with berth := tabSet s.berth b x }
def quayAt (s : State) (q : Nat) : Quay := tabGet {} s.quay q
def setQuay (s : State) (q : Nat) (x : Quay) : State := { s with quay := tabSet s.quay q x }
def wingAt (s : State) (w : Nat) : Wing := tabGet {} s.wing w
def setWing (s : State) (w : Nat) (x : Wing) : State := { s with wing := tabSet s.wing w x }
def engAt (s : State) (e : Nat) : Eng := tabGet {} s.eng e
def setEng (s : State) (e : Nat) (x : Eng) : State := { s with eng := tabSet s.eng e x }
def ctxAt (s : State) (e c : Nat) : Ctx := tabGet {} (engAt s e).ctxs c
def setCtx (s : State) (e c : Nat) (x : Ctx) : State :=
  setEng s e { engAt s e with ctxs := tabSet (engAt s e).ctxs c x }
def modCtx (s : State) (e c : Nat) (f : Ctx → Ctx) : State := setCtx s e c (f (ctxAt s e c))
def laneAt (s : State) (l : Nat) : Lane := tabGet {} s.chain.lanes l
def setLane (s : State) (l : Nat) (x : Lane) : State :=
  { s with chain := { s.chain with lanes := tabSet s.chain.lanes l x } }
def portAt (s : State) (p : Nat) : Port := tabGet {} s.chain.ports p
def setPort (s : State) (p : Nat) (x : Port) : State :=
  { s with chain := { s.chain with ports := tabSet s.chain.ports p x } }
def zoneAt (s : State) (z : Nat) : Zone := tabGet {} s.therm.zones z
def setZone (s : State) (z : Nat) (x : Zone) : State :=
  { s with therm := { s.therm with zones := tabSet s.therm.zones z x } }
def sensorAt (s : State) (i : Nat) : Sensor := tabGet {} s.therm.sensors i
def setSensor (s : State) (i : Nat) (x : Sensor) : State :=
  { s with therm := { s.therm with sensors := tabSet s.therm.sensors i x } }
def tpAt (s : State) (p : Nat) : Tp := tabGet {} s.tp p
def setTp (s : State) (p : Nat) (x : Tp) : State := { s with tp := tabSet s.tp p x }
def sqAt (s : State) (n : Nat) : Sq := tabGet {} s.host.sq n
def setSq (s : State) (n : Nat) (x : Sq) : State :=
  { s with host := { s.host with sq := tabSet s.host.sq n x } }
def rqAt (s : State) (m : Nat) : Rq := tabGet {} s.host.rq m
def setRq (s : State) (m : Nat) (x : Rq) : State :=
  { s with host := { s.host with rq := tabSet s.host.rq m x } }

def modChan (s : State) (c : Nat) (f : Chan → Chan) : State := setChan s c (f (chanAt s c))
def modBerth (s : State) (b : Nat) (f : Berth → Berth) : State := setBerth s b (f (berthAt s b))
def modQuay (s : State) (q : Nat) (f : Quay → Quay) : State := setQuay s q (f (quayAt s q))
def modWing (s : State) (w : Nat) (f : Wing → Wing) : State := setWing s w (f (wingAt s w))
def modLane (s : State) (l : Nat) (f : Lane → Lane) : State := setLane s l (f (laneAt s l))
def modPort (s : State) (p : Nat) (f : Port → Port) : State := setPort s p (f (portAt s p))
def modZone (s : State) (z : Nat) (f : Zone → Zone) : State := setZone s z (f (zoneAt s z))
def modTp (s : State) (p : Nat) (f : Tp → Tp) : State := setTp s p (f (tpAt s p))
def modSp (s : State) (b : Nat) (f : Sp → Sp) : State :=
  modBerth s b fun x => { x with sp := f x.sp }
def modAcq (s : State) (b : Nat) (f : Acq → Acq) : State :=
  modBerth s b fun x => { x with acq := f x.acq }
def modTmu (s : State) (b : Nat) (f : Tmu → Tmu) : State :=
  modBerth s b fun x => { x with tmu := f x.tmu }
def modFc (s : State) (b : Nat) (f : Fc → Fc) : State :=
  modBerth s b fun x => { x with fc := f x.fc }
def modCal (s : State) (b : Nat) (f : Cal → Cal) : State :=
  modBerth s b fun x => { x with cal := f x.cal }

/-- Apply an operation for each number of a list, in order. -/
def forAll (s : State) (xs : List Nat) (f : State → Nat → State) : State := xs.foldl f s

/-! ### Membership (R3, R4) -/

def berthOfChan (c : Nat) : Nat := if c < 1024 then c / 16 else c - 1024
def posOfChan (c : Nat) : Nat := if c < 1024 then c % 16 else 16
def chanOfPos (b k : Nat) : Nat := if k = 16 then 1024 + b else 16 * b + k
def quayOfBerth (b : Nat) : Nat := b / 4
def wingOfBerth (b : Nat) : Nat := b / 16
def berthsOfQuay (q : Nat) : List Nat := [4 * q, 4 * q + 1, 4 * q + 2, 4 * q + 3]
def quaysOfWing (w : Nat) : List Nat := [4 * w, 4 * w + 1, 4 * w + 2, 4 * w + 3]
def berthsOfWing (w : Nat) : List Nat := (List.range 16).map (16 * w + ·)
def chansOfBerth (b : Nat) : List Nat := (List.range 16).map (16 * b + ·) ++ [1024 + b]
def quayOfChan (c : Nat) : Nat := quayOfBerth (berthOfChan c)

/-- The berths that a target names: all of those it contains (R2, R3). -/
def berthsIn (sc i : Nat) : List Nat :=
  match sc with
  | 1 | 2 => [berthOfChan i]
  | 3 => [i]
  | 4 => berthsOfQuay i
  | 5 => berthsOfWing i
  | _ => List.range 64

/-- The quays of a target at scope 4 to 7. -/
def quaysIn (sc i : Nat) : List Nat :=
  match sc with
  | 4 => [i]
  | 5 => quaysOfWing i
  | _ => List.range 16

/-- The quay that owns a parameter instance (R73), for class G. -/
def owningQuay (sc i : Nat) : Option Nat :=
  match sc with
  | 1 | 2 => some (quayOfChan i)
  | 3 => some (quayOfBerth i)
  | 4 => some i
  | _ => none

/-- The berth whose OFF or FAULT keeps a parameter's live register unloaded (R45). -/
def owningBerth (sc i : Nat) : Option Nat :=
  match sc with
  | 1 | 2 => some (berthOfChan i)
  | 3 => some i
  | _ => none

/-- The wing that holds a parameter instance; none for the device path (R87). -/
def owningWing (sc i : Nat) : Option Nat :=
  match sc with
  | 1 | 2 => some (wingOfBerth (berthOfChan i))
  | 3 => some (wingOfBerth i)
  | 4 => some (i / 4)
  | 5 => some i
  | _ => none

/-! ### ACK fields (R100) -/

/-- Events pending in an ACK field. -/
def ackPending (x : Ack) : Word := x.c - x.a

/-- One event: the count rises, unless 0xFFFF_FFFF are pending already (R100). -/
def ackBump (x : Ack) : Ack := if ackPending x = 0xFFFFFFFF#32 then x else { x with c := x.c + 1 }

/-- A write of `w` is accepted if it acknowledges no more than what is pending (R100). -/
def ackAccepts (x : Ack) (w : Word) : Bool := decide ((w - x.a).toNat ≤ (ackPending x).toNat)

def ackOf (s : State) (id : Word) : Ack := tabGet {} s.acks id.toNat
def setAck (s : State) (id : Word) (x : Ack) : State := { s with acks := tabSet s.acks id.toNat x }

/-- Count one event in the ACK field `m` of family `f` at instance `i` of scope `sc`. -/
def count (s : State) (sc i f m : Nat) : State := setAck s (pid sc i f m) (ackBump (ackOf s (pid sc i f m)))

/-- Count `n` events. -/
def countN (s : State) (sc i f m n : Nat) : State :=
  match n with
  | 0 => s
  | n + 1 => countN (count s sc i f m) sc i f m n

/-- An event that the front-end die counts: while its wing's link is lost it waits there, and crosses when the link
returns (R493, R500). -/
def countFront (s : State) (sc i f m : Nat) : State :=
  let b := if sc = 2 then berthOfChan i else i
  let id := (pid sc i f m).toNat
  if (wingAt s (wingOfBerth b)).linkDown then
    modWing s (wingOfBerth b) fun x => { x with late := tabSet x.late id (tabGet 0 x.late id + 1) }
  else count s sc i f m

/-- The counts of a wing that have waited for its link cross it. -/
def lateCross (s : State) (w : Nat) : State :=
  ((wingAt s w).late).foldl (fun s e =>
    let id : Word := BitVec.ofNat 32 e.1
    countN s (idScope id) (idInst id) (idFam id) (idMem id) e.2) (modWing s w fun x => { x with late := [] })

/-! ### Parameter values -/

/-- The fuse park set (R195); ParkPpmuFi and ParkRange are 0 (DESIGN CHOICE, log 2). -/
def fusePark (m : Nat) : Nat :=
  match m with
  | 5 => 262143
  | 6 => 0
  | 7 | 8 => 131072
  | 9 => 1
  | _ => 49152

/-- Word `m` of a channel's park set as the park load put it in use (R200, R561). -/
def parkDefault (s : State) (c m : Nat) : Nat :=
  if s.boot.parkSrcUsed then
    match tabFind s.boot.parkTable c with
    | some ws => ((ws[m]?).getD 0).toNat
    | none => fusePark m
  else fusePark m

/-- A strap of the captured set, 0 before the capture (R570). -/
def strap (s : State) (f : Straps → Nat) : Nat :=
  match s.boot.straps with
  | some x => f x
  | none => 0

/-- CHAIN_ROLE after R549: 0b00 and 0b11 standalone, 0b01 pilot, 0b10 follower (R350). -/
def isPilot (s : State) : Bool := strap s (fun x => x.chainRole.toNat) = 1
def isFollower (s : State) : Bool := strap s (fun x => x.chainRole.toNat) = 2

/-- Words whose default the family table names by a strap or the park set, or that R409 moves. -/
def specialDefault (s : State) (f i m : Nat) : Option Nat :=
  match f with
  | 0x40 => some (parkDefault s i m)
  | 0x46 => some (parkDefault s i m)
  | 0x80 => some (0xFFF * 128 + 8 * 8 + (if isPilot s || isFollower s then 1 else 0))
  | 0xA0 =>
    let z := m / 8
    let low := z = 20 ∨ z = 21
    match m % 8 with
    | 0 => some (Nat.min (strap s (fun x => x.thermMode.toNat)) 2 + 4 * 4 + 2 * 64)
    | 1 => some ((if low then 1280 else 1440) + 48 * 65536)
    | 2 => some ((if low then 1360 else 1520) + 48 * 65536)
    | 3 => some ((if low then 1440 else 1600) + 80 * 65536)
    | 4 => some (if low then 1520 else 1680)
    | _ => none
  | 0xB0 =>
    if m = 0 then some ((if strap s (fun x => x.refSel.toNat) = 1 then 0 else 1) + 2 + 1000 * 16)
    else none
  | _ => none

/-- The value of a staged parameter before any bake: the Default column of its family. -/
def defaultOf (s : State) (id : Word) : Word :=
  match specialDefault s (idFam id) (idInst id) (idMem id) with
  | some v => BitVec.ofNat 32 v
  | none =>
    match member (idFam id) (idMem id) with
    | some (.stg fs) => BitVec.ofNat 32 (fieldsDefault fs)
    | _ => 0

/-- The baked value of a staged parameter (R91). -/
def baked (s : State) (id : Word) : Word := (tabFind s.par.baked id.toNat).getD (defaultOf s id)

/-- The live value: the baked one unless a hold keeps the earlier (R45, R74). -/
def live (s : State) (id : Word) : Word := (tabFind s.par.held id.toNat).getD (baked s id)

/-- A field of a live or baked word of family `f`. -/
def liveF (s : State) (sc i f m lo len : Nat) : Nat := fld (live s (pid sc i f m)) lo len
def bakedF (s : State) (sc i f m lo len : Nat) : Nat := fld (baked s (pid sc i f m)) lo len
def liveS (s : State) (sc i f m : Nat) : Int := signed32 (live s (pid sc i f m))

/-! ### Time -/

/-- Units of S: 2^16 to the unit of 0.25 ps (R119). -/
def subUnits : Nat := 65536

/-- µs as tide counts. -/
def usTc (n : Nat) : Nat := 800 * n

/-- Tenths of a µs that have passed. -/
def tcUs (n : Nat) : Nat := n / 800

/-- A sum of tide counts, which wraps at 2^64 (R9). -/
def tideSum (a b : Nat) : Nat := (a + b) % 2 ^ 64

/-- The tide reaches an instant of its 64-bit range (R9): it moves there if it is not there yet. -/
def reach (s : State) (i : Nat) : State := { s with tide := Nat.max s.tide (i % 2 ^ 64) }

/-! ### MSI-X (R62, R535, R536) -/

def msixAt (s : State) (v : Nat) : MsixVec := tabGet {} s.host.msix v
def setMsix (s : State) (v : Nat) (x : MsixVec) : State :=
  { s with host := { s.host with msix := tabSet s.host.msix v x } }

/-- A message can leave: Bus Master Enable, D0, MSI-X Enable, no Function Mask, entry unmasked. -/
def msixCanSend (s : State) (v : Nat) : Bool :=
  s.host.busMaster && s.host.dState = 0 && s.host.msixEn && !s.host.funcMask && !(msixAt s v).masked

/-- The link leaves L1 (R542): for a BAR access, or a memory request of the device's own. -/
def wakeLink (s : State) : State := { s with host := { s.host with inL1 := false } }

/-- Signal a vector: the message is sent, or it is left pending (R535). -/
def msixRaise (s : State) (v : Nat) : State :=
  if msixCanSend s v then setMsix (wakeLink s) v { msixAt s v with sent := (msixAt s v).sent + 1 }
  else setMsix s v { msixAt s v with pending := true }

/-- Vector 0 for cause `n`, if Vec0Mask lets it (R536). -/
def vec0 (s : State) (n : Nat) : State :=
  if natBit (live s (pid 6 0 0xD0 1)).toNat n then msixRaise s 0 else s

/-- The counter of each vector 0 cause (R536). -/
def vec0Id (n : Nat) : Word :=
  match n with
  | 0 => pid 6 0 0xD1 7
  | 1 => pid 6 0 0xD1 8
  | 2 => pid 6 0 0xD1 9
  | 3 => pid 6 0 0xB1 2
  | 4 => pid 6 0 0x84 6
  | _ => pid 6 0 0xA3 4

/-- An event that is a vector 0 cause: its counter rises and the vector is raised (R536). -/
def causeEvent (s : State) (n : Nat) : State :=
  let s := setAck s (vec0Id n) (ackBump (ackOf s (vec0Id n)))
  vec0 s n

/-! ### State codes (R43 to R47) -/

def brunCode (r : BRun) : Nat :=
  match r with
  | .off => 0x10 | .parked => 0x11 | .idle => 0x12 | .armed => 0x13 | .running => 0x14
  | .fault => 0x15

/-- The run state of a quay (R46). -/
def quayRun (s : State) (q : Nat) : Nat :=
  let x := quayAt s q
  if x.faulted then 7 else if x.running then 5 else if x.halted then 6 else if x.armed then 4
  else if (berthsOfQuay q).any (fun b => (berthAt s b).run = .idle) then 3 else 2

/-- The first of RUNNING, HALTED, ARMED, READY that some run state of a list has; `d` if none. -/
def firstRun (runs : List Nat) (d : Nat) : Nat :=
  if runs.any (· = 5) then 5 else if runs.any (· = 6) then 6 else if runs.any (· = 4) then 4
  else if runs.any (· = 3) then 3 else d

/-- The run state of a wing (R15, R46). -/
def wingRun (s : State) (w : Nat) : Nat :=
  if (wingAt s w).linkDown then 7 else firstRun ((quaysOfWing w).map (quayRun s)) 2

/-- The run state of the device (R47). -/
def devRun (s : State) : Nat :=
  if s.cold then 0
  else if s.devFault.isSome then 7
  else if !s.booted then 1
  else if !s.unparked then 2
  else firstRun ((List.range 4).map (wingRun s)) 3

/-- The state code of a target (R43). -/
def stateCode (s : State) (sc i : Nat) : Nat :=
  match sc with
  | 1 | 2 =>
    let x := berthAt s (berthOfChan i)
    brunCode x.run + 256 * x.subst + (if x.target = posOfChan i && x.subst ≠ 0 then 4096 else 0)
  | 3 => brunCode (berthAt s i).run + 256 * (berthAt s i).subst
  | 4 => quayRun s i
  | 5 => wingRun s i
  | _ => devRun s

/-- The last cause code of a target (R594). -/
def lastCause (s : State) (sc i : Nat) : Nat :=
  match sc with
  | 1 | 2 => (berthAt s (berthOfChan i)).lastFault
  | 3 => (berthAt s i).lastFault
  | 4 => (quayAt s i).haltCause
  | 5 => (wingAt s i).lastCause
  | _ => s.lastDevFault

/-- The target word of a slot (R37, bits [95:64]). -/
def targetWord (ch sc i : Nat) : Nat := ch + i * 2 ^ 16 + sc * 2 ^ 28

/-! ### Fault entry -/

/-- The device enters FAULT (R47, R546, R594): the event is counted once per entry. -/
def devFaultEnter (s : State) (src inst : Nat) : State :=
  if s.devFault.isSome then s
  else causeEvent { s with
    devFault := some src, lastDevFault := src, lastFaultSource := src, lastFaultInst := inst } 0

/-! ### Events that a WAIT awaits (R436) -/

/-- An event of a WAIT condition has come: the contexts that wait for it note it. -/
def waitEvent (s : State) (cond : Nat) (matches_ : Word → Bool) : State :=
  { s with eng := s.eng.map fun g => (g.1, { g.2 with ctxs := g.2.ctxs.map fun k => (k.1, { k.2 with
      wait := k.2.wait.map fun w => if w.cond = cond && matches_ w.arg then { w with met := true } else w }) }) }

/-! ### The chain as this device puts things on it -/

def sendRaw (s : State) (x : Sent) : State := { s with out := { s.out with sent := s.out.sent ++ [x] } }

/-! ### Ports and lanes (R333, R346) -/

def portOfLane (l : Nat) : Nat := l / 12

def lanesOfPort (p : Nat) : List Nat := (List.range 12).map (12 * p + ·)

def laneActive (s : State) (l : Nat) : Bool := (laneAt s l).state = .active

def activeLanes (s : State) (p : Nat) : List Nat := (lanesOfPort p).filter (laneActive s)

/-- The frames of a port that may leave do so (R355, R356). -/
def portSend (s : State) (p : Nat) : State :=
  let r := drainPort (activeLanes s p).length (portAt s p).queue.length (portAt s p)
  { setPort s p r.1 with out := { s.out with sent := s.out.sent ++ r.2.map (.frame (some p)) } }

/-- A message goes to a port: its frames leave as their credit and the replay buffer allow (R356). -/
def putFrame (s : State) (p : Nat) (body : FrameBody) : State :=
  portSend (modPort s p fun x => { x with queue := x.queue ++ framesOf body }) p

/-- The downstream tree ports (R353); a port whose link goes down is one no more (R367). -/
def downPorts (s : State) : List Nat := (List.range 4).filter fun p => (portAt s p).role = 2

/-- The downstream tree port towards a device, by its position (R351). -/
def treePort (s : State) (i : Nat) : List Nat :=
  match tabFind s.chain.devices i with
  | some d => [if d.y = s.chain.y then 1 else 2]
  | none => []

/-- The ports that a downward frame leaves on: towards its device, or every downstream tree port. -/
def framePorts (s : State) (body : FrameBody) : List Nat :=
  match body with
  | .command h _ => treePort s h.chain.toNat
  | .correction i _ _ => treePort s i.val
  | .theta i _ => treePort s i.val
  | .assignIndex _ y _ _ => [if y = s.chain.y then 1 else 2]
  | _ => downPorts s

/-- Put a SIGNAL or a frame on the chain. -/
def send (s : State) (x : Sent) : State :=
  match x with
  | .frame (some p) body => putFrame s p body
  | .frame none body => forAll s (framePorts s body) fun s p => putFrame s p body
  | x => sendRaw s x

/-- The chain indices of the other enumerated devices that have not left (R30, R353). -/
def followers (s : State) : List Nat :=
  (s.chain.devices.filter (fun d => d.1 ≠ 0 && !d.2.lost && !d.2.excluded)).map (·.1)

end Sys2Proof.Machine
end

