-- ==== Sys2Proof/Machine/Replies.lean ====
section
/-! DEFINITION. Replies: the reply slot (R40, R41), its posting and signalling (R36, R59, R62,
R540, R541, R595), the end of a command, and interrupts of commands in flight (R444, R593). -/

namespace Sys2Proof.Machine

/-! ### Status codes (R42) -/

def stOk : Nat := 0x0000
def stOkDeferred : Nat := 0x0010
def stBadOpcode : Nat := 0x0100
def stBadParam : Nat := 0x0101
def stConflict : Nat := 0x0102
def stProofFailed : Nat := 0x0103
def stBusy : Nat := 0x0104
def stAborted : Nat := 0x0105
def stTimeout : Nat := 0x0106
def stHwFault : Nat := 0x0200
def stThermal : Nat := 0x0201
def stAuth : Nat := 0x0300
def stRollback : Nat := 0x0301

/-! ### Reply data -/

/-- The 16 data bytes of a reply (slot bytes 16 to 31) with `n` bytes of `v` at slot byte `at_`. -/
def putData (d : List Byte) (at_ n v : Nat) : List Byte :=
  let k := at_ - 16
  padTo 16 (d.take k ++ leBytes n v ++ d.drop (k + n))

def data0 : List Byte := List.replicate 16 0#8

/-- Data from (slot byte, width, value) fields. -/
def dataOf (fs : List (Nat × Nat × Nat)) : List Byte :=
  fs.foldl (fun d f => putData d f.1 f.2.1 f.2.2) data0

/-- A status with its data: why a command is rejected or how it ends. -/
abbrev Verdict := Nat × List Byte

def badParam (off : Nat) : Verdict := (stBadParam, dataOf [(16, 2, off)])
def badTag (off : Nat) : Verdict := (stBadParam, dataOf [(16, 2, off), (18, 1, 1)])
def busy (kind inst : Nat) : Verdict := (stBusy, dataOf [(16, 2, kind), (18, 4, inst)])
def hwFault (src inst : Nat) : Verdict := (stHwFault, dataOf [(16, 2, src), (18, 4, inst)])
/-- HW_FAULT for a die-to-die link (R15): the wing in bytes 18–21 and in byte 22. -/
def linkFault (w : Nat) : Verdict := (stHwFault, dataOf [(16, 2, 0xC1), (18, 4, w), (22, 1, w)])
def abortedBy (tag : Nat) : Verdict := (stAborted, dataOf [(16, 4, tag)])
def thermalStop (z sensor : Nat) : Verdict := (stThermal, dataOf [(16, 2, z), (18, 2, sensor)])

/-- STATE_CONFLICT of a target: its state code and target word, and the generation (R42). -/
def conflict (s : State) (sc i : Nat) : Verdict :=
  (stConflict, dataOf [(16, 2, stateCode s sc i), (18, 4, targetWord s.chain.index sc i),
    (24, 4, s.par.generation.toNat)])

/-! ### Posting (R36, R40, R62) -/

def ringLegal (log2 : Nat) : Bool := 2 ≤ log2 && log2 ≤ 12

/-- Entries the device has written and software has not returned (R34). -/
def rqUsed (x : Rq) : Nat := (x.tail + 2 ^ x.log2 - x.head) % 2 ^ x.log2

/-- Entries free to be reserved (R59, R595): a disabled ring has none. -/
def rqFree (x : Rq) : Nat :=
  if x.enable && ringLegal x.log2 then 2 ^ x.log2 - 1 - rqUsed x - x.reserved else 0

/-- A memory request can leave (R540). -/
def canRequest (s : State) : Bool := s.host.busMaster && s.host.dState = 0

/-- The key of entry `k` of reply ring `m`. -/
def rqKey (m k : Nat) : Nat := 4096 * m + k

/-- A reply that cannot be posted (R541, R595): counted, its reserved entry released. -/
def dropReply (s : State) (m : Nat) : State :=
  let s := count s 6 0 0xD1 1
  setRq s m { rqAt s m with reserved := (rqAt s m).reserved - 1 }

/-- The 32 bytes of a reply slot (R40): Status, Tag, Generation, TideStamp with Phase in its bit 63, Data. -/
def replyBytes (r : Reply) : List Byte :=
  leBytes 2 r.status.toNat ++ leBytes 2 r.tag.toNat ++ leBytes 4 r.gen.toNat ++
    leBytes 8 (r.stamp % 2 ^ 63 + flag r.phase 63) ++ padTo 16 r.data

/-- The reply is written at Tail, at Base + 32 × Tail of host memory, with the ring's phase (R36, R40), and the
ring's vector is signalled when a condition of R62 holds. -/
def writeReply (s : State) (m : Nat) (irq : Bool) (r : Reply) : State :=
  let x := rqAt s m
  let r := { r with phase := x.phase }
  let s := { s with host := { s.host with
    rqMem := tabSet s.host.rqMem (rqKey m x.tail) r
    hostMem := memWriteBytes s.host.hostMem (x.base.toNat + 32 * x.tail) (replyBytes r) } }
  let tail := (x.tail + 1) % 2 ^ x.log2
  let y := { x with
    tail := tail
    phase := if tail = 0 then !x.phase else x.phase
    reserved := x.reserved - 1
    unsignalled := x.unsignalled + 1
    oldest := if x.unsignalled = 0 then s.tide else x.oldest }
  if irq || decide (0x100 ≤ r.status.toNat) || decide (Nat.max 1 x.coalesceCount ≤ y.unsignalled) then
    msixRaise (setRq s m { y with unsignalled := 0 }) x.vector
  else setRq s m y

/-- Result bytes reach host memory (R39), over a link that wakes for them (R542). -/
def writeResult (s : State) (a : Nat) (bytes : List Byte) : State :=
  { s with host := { s.host with inL1 := false, hostMem := memWriteBytes s.host.hostMem a bytes } }

/-! ### A command in flight, and its end -/

/-- The engine that runs a target (R18): CEw for scopes 1 to 5, CE4 otherwise. -/
def engineOf (sc i : Nat) : Nat :=
  match sc with
  | 1 | 2 => wingOfBerth (berthOfChan i)
  | 3 => wingOfBerth i
  | 4 => i / 4
  | 5 => i
  | _ => 4

/-- The commands in flight of which a test holds. -/
def cmdsWhere (s : State) (p : Cmd → Bool) : List Cmd := s.inflight.filter p

def dropCmd (s : State) (ord : Nat) : State :=
  { s with inflight := s.inflight.filter (fun c => c.ord ≠ ord) }

/-- Replace a command in flight. -/
def putCmd (s : State) (c : Cmd) : State :=
  { s with inflight := s.inflight.map (fun x => if x.ord = c.ord then c else x) }

/-- The operation is a SEG_LOAD. -/
def isSegLoad (op : HostOp) : Bool :=
  match op with
  | .segLoad _ _ _ _ => true
  | _ => false

/-- The queued result words of a context of a command (R433) over the host bytes that stand at its result, as far as
ResultLen reaches. -/
def dmaBytes (s : State) (h : Hdr) (x : Ctx) : List Byte :=
  let n := (x.dma.map (·.1 + 4)).foldl Nat.max 0
  let n := Nat.min n h.resultLen.toNat
  let m := x.dma.foldl (fun m p => memWriteBytes m (h.resultPtr.toNat + p.1) (leBytes 4 p.2.toNat)) s.host.hostMem
  memReadBytes m h.resultPtr.toNat n

/-- The context that runs a command, if it holds one. -/
def cmdCtx (s : State) (c : Cmd) : Option Ctx :=
  let x := ctxAt s c.engine c.context
  if x.busy && x.cmd = c.ord then some x else none

/-- A context of a command is free. -/
def freeCtx (s : State) (c : Cmd) (e k : Nat) : State :=
  if (ctxAt s e k).busy ∧ (ctxAt s e k).cmd = c.ord then
    setCtx s e k { ctxAt s e k with busy := false, wait := none, dma := [] }
  else s

/-- The segment banks that a command was filling are filling no more (R145). -/
def fillOver (s : State) (c : Cmd) : State :=
  if isSegLoad c.op then
    { s with quay := s.quay.map fun e => (e.1, { e.2 with filling := e.2.filling.filter fun f => f.2 ≠ c.ord }) }
  else s

/-- A command leaves as its reply is posted or dropped: its ring counts one less in flight (R32), its contexts are free
(R430). -/
def release (s : State) (c : Cmd) : State :=
  let s := fillOver (dropCmd s c.ord) c
  let s := if c.viaChain then s
    else setSq s c.hdr.ring.val { sqAt s c.hdr.ring.val with
      inFlight := (sqAt s c.hdr.ring.val).inFlight - 1 }
  ((c.engine, c.context) :: c.parts).foldl (fun s p => freeCtx s c p.1 p.2) s

/-- A rejected command was never in flight (R38). -/
def releaseIf (s : State) (counted : Bool) (c : Cmd) : State := if counted then release s c else s

/-- A reply falls due (R40, R540, R541, R595): posted with its result before it, held while Bus Master Enable is 0, or
dropped. Its command is in flight until then (R32). -/
def postReply (s : State) (c : Cmd) (counted : Bool) (r : Reply) (result : List Byte) : State :=
  let m := (sqAt s c.hdr.ring.val).replyRing
  if !((rqAt s m).enable && ringLegal (rqAt s m).log2) then dropReply (releaseIf s counted c) m
  else if canRequest s then
    writeReply (writeResult (releaseIf s counted c) c.hdr.resultPtr.toNat result) m c.hdr.irq r
  else if liveF s 6 0 0xD0 0 0 16 = 0 then dropReply (releaseIf s counted c) m
  else { dropCmd s c.ord with host := { s.host with
    heldReplies := s.host.heldReplies ++ [⟨c, counted, m, r, s.tide, result⟩] } }

/-- A reply held too long, or when the link goes, is dropped (R540, R541). -/
def dropHeld (s : State) (h : HeldReply) : State := dropReply (releaseIf s h.counted h.cmd) h.ring

/-- A held reply is posted as requests can leave again, or dropped if its ring is no longer enabled (R540, R595). -/
def postHeld (s : State) (h : HeldReply) : State :=
  if (rqAt s h.ring).enable && ringLegal (rqAt s h.ring).log2 then
    writeReply (writeResult (releaseIf s h.counted h.cmd) h.cmd.hdr.resultPtr.toNat h.result) h.ring h.cmd.hdr.irq
      h.reply
  else dropHeld s h

/-- The endpoint loses its link (R540): the rings' Enable fields fall, held replies are dropped, the
configuration space takes its reset values and the MSI-X entries are masked. -/
def hostLinkLost (s : State) : State :=
  if !s.host.linkUp then s
  else
    let s := (s.host.heldReplies).foldl dropHeld (count s 6 0 0xD1 2)
    { s with host := { s.host with
      sq := s.host.sq.map fun e => (e.1, { e.2 with enable := false, stalled := false, stallOn := 0 })
      rq := s.host.rq.map fun e => (e.1, { e.2 with enable := false })
      heldReplies := [], linkUp := false, speed := 0, width := 0, reversed := false, busMaster := false
      dState := 0, msixEn := false, funcMask := false, inL1 := false, config := []
      msix := s.host.msix.map fun e => (e.1, { e.2 with masked := true, pending := false }) } }

/-! ### The content of a reply -/

/-- The Data field (R41): where the result went, for a successful command with ResDma, and the
opcode's or the status's data otherwise. -/
def replyData (h : Hdr) (status : Nat) (d : List Byte) (result : List Byte) : List Byte :=
  if h.resDma && (status = stOk || status = stOkDeferred) then
    leBytes 8 h.resultPtr.toNat ++ leBytes 4 (Nat.min result.length h.resultLen.toNat) ++
      leBytes 4 result.length
  else padTo 16 d

/-- The reply slot of a command with this device's generation and tide (R40). -/
def replyOf (s : State) (h : Hdr) (status : Nat) (d : List Byte) (result : List Byte) : Reply where
  status := BitVec.ofNat 16 status
  tag := h.tag
  gen := s.par.generation
  stamp := s.tide % 2 ^ 63
  phase := true
  data := replyData h status d result

/-- The result bytes a command may write: the first ResultLen of them (R39), none on failure. -/
def resultCut (h : Hdr) (status : Nat) (result : List Byte) : List Byte :=
  if h.resDma && (status = stOk || status = stOkDeferred) then result.take h.resultLen.toNat else []

/-! ### The order of replies (R61) -/

/-- The operation is an ABORT. -/
def isAbort (op : HostOp) : Bool :=
  match op with
  | .abort _ => true
  | _ => false

/-- Commands of one ring: own rings by number, those of the chain among themselves. -/
def sameRing (a b : Cmd) : Bool := a.viaChain = b.viaChain && a.hdr.ring = b.hdr.ring

def sameTarget (a b : Cmd) : Bool :=
  a.hdr.chain = b.hdr.chain && a.hdr.scope = b.hdr.scope && a.hdr.inst = b.hdr.inst

/-- The command is deferred still, here or, as far as this device knows, on the device that it went to, which orders its
own replies (log 74). -/
def deferredYet (a : Cmd) : Bool := a.phase = .deferred || (a.remote && a.hdr.defer)

/-- An earlier command comes before this one: with Order every one of its ring accepted before, otherwise those of
its ring and target that stand before it in ring order, but ABORT, deferred ones and those that Order puts after
it. That Order = 1 lets an ABORT wait, and lets others wait for one, though an ABORT neither waits nor holds up, is the
model's choice (DESIGN CHOICE, log 108). -/
def comesBefore (c a : Cmd) : Bool :=
  sameRing a c &&
    (if c.hdr.order then a.seq < c.seq
     else a.ord < c.ord && !isAbort a.op && !isAbort c.op && !deferredYet a && sameTarget a c &&
       !(a.hdr.order && c.seq < a.seq))

/-- The reply of a command waits for that of an earlier one. -/
def replyWaits (s : State) (c : Cmd) : Bool :=
  s.inflight.any (comesBefore c) || s.unposted.any fun u => comesBefore c u.cmd

/-- Waiting replies stand in acceptance order. -/
def insertUnposted (us : List Unposted) (u : Unposted) : List Unposted :=
  us.filter (fun x => x.cmd.ord < u.cmd.ord) ++ u :: us.filter (fun x => u.cmd.ord < x.cmd.ord)

def isUpload (op : HostOp) : Bool :=
  match op with
  | .resultUpload _ => true
  | _ => false

/-- A reply as a frame towards the pilot (R63), its result before it: in class F2 a part of an upload, or more than
4 KiB (R355). -/
def answerChain (s : State) (c : Cmd) (r : Reply) (result : List Byte) : State :=
  let i := Fin.ofNat 128 s.chain.index
  let s := if result = [] then s
    else send s (.frame (some s.chain.upPort)
      (if isUpload c.op || 4096 < result.length then .resultPart i result else .result i result))
  send s (.frame (some s.chain.upPort) (.reply r.tag i r.status r.gen (BitVec.ofNat 63 r.stamp) r.data))

/-- A reply goes into the reply ring of its command's submission ring (R32), or to the pilot, whose command it is. -/
def postTo (s : State) (c : Cmd) (counted : Bool) (r : Reply) (result : List Byte) : State :=
  if c.viaChain then answerChain (releaseIf s counted c) c r result else postReply s c counted r result

/-- A waiting reply is posted if no earlier command is left before it. -/
def postWaiting (s : State) (u : Unposted) : State :=
  if replyWaits s u.cmd then s
  else
    let s := { s with unposted := s.unposted.filter fun x => x.cmd.ord ≠ u.cmd.ord }
    postTo s u.cmd u.counted u.reply u.result

/-- Waiting replies follow one that has been posted. -/
def postFollowing (s : State) : State :=
  forAll s (List.range s.unposted.length) fun s _ => s.unposted.foldl postWaiting s

/-- A reply in its place in ring order: posted now, or once those before it are. -/
def postInOrder (s : State) (c : Cmd) (counted : Bool) (r : Reply) (result : List Byte) : State :=
  if replyWaits s c then
    { dropCmd s c.ord with unposted := insertUnposted s.unposted ⟨c, counted, r, result⟩ }
  else postFollowing (postTo s c counted r result)

/-- A command ends with this reply. -/
def postOrdered (s : State) (c : Cmd) (r : Reply) (result : List Byte) : State := postInOrder s c true r result

/-- Commands accepted whose replies are not yet posted: in flight, their work over (R58). -/
def answeredCmds (s : State) : List Cmd :=
  (s.unposted.filter (·.counted)).map (·.cmd) ++ (s.host.heldReplies.filter (·.counted)).map (·.cmd)

/-- The result words that a command's context has queued, where the command brings no result of its own (R39, R433). -/
def queuedResult (s : State) (c : Cmd) (result : List Byte) : List Byte :=
  match cmdCtx s c with
  | some x => if result = [] && c.hdr.resDma then dmaBytes s c.hdr x else result
  | none => result

/-- A command's reply falls due (R42, R54): OK becomes OK_DEFERRED for a deferred one, ABORTED_CLEAN
is counted for its engine (R458). -/
def finish (s : State) (c : Cmd) (status : Nat) (d : List Byte) (result : List Byte) : State :=
  let status := if status = stOk ∧ c.hdr.defer then stOkDeferred else status
  let s := if status = stAborted then count s 6 0 0xA8 (8 * c.engine + 2) else s
  let result := queuedResult s c result
  postOrdered s c (replyOf s c.hdr status d result) (if c.viaChain then result else resultCut c.hdr status result)

/-- Commands that act on the quays of their scope that are in the state they require (R50). -/
def quayOp (op : HostOp) : Bool :=
  match op with
  | .arm _ _ _ | .start _ _ _ | .halt | .jump _ | .disarm | .clearHalt => true
  | _ => false

/-- A device's part of a quay command found no quay in the state required: STATE_CONFLICT naming a quay. A DISARM
that meets a pending START names an ARMED quay and is no such part. -/
def foundNoQuay (op : HostOp) (status : Nat) (d : List Byte) : Bool :=
  quayOp op && status = stConflict && leAt d 2 4 / 2 ^ 28 = 4 && !(op = .disarm && leAt d 0 2 = 4)

/-- The data of a quay command at scope 7 whose pilot had no quay to act on: the StateCode of its target for ARM,
DISARM and CLEAR_HALT, for START and HALT those of the lowest chain index that acted (R153, R162). -/
def quayData (s : State) (op : HostOp) (first : List Byte) : List Byte :=
  match op with
  | .arm _ _ _ | .disarm | .clearHalt => dataOf [(16, 2, stateCode s 7 0)]
  | _ => padTo 16 first

/-- A divided command's status: this device's own if it is not OK, else that of the lowest chain
index that reported another (R63); for a PROOF byte 24 carries that index (R84). At scope 7 a quay command acts
wherever a quay is in the state it requires: parts that found none do not count unless all did (R50). -/
def dividedVerdict (s : State) (c : Cmd) (own : Nat × List Byte × List Byte) : Nat × List Byte × List Byte :=
  let none_ (st : Nat) (d : List Byte) := foundNoQuay c.op st d
  let acted := c.replies.filter fun r => !none_ r.2.1.toNat r.2.2
  if none_ own.1 own.2.1 && acted ≠ [] then
    match acted.find? (fun r => r.2.1 ≠ 0) with
    | some r => (r.2.1.toNat, r.2.2, [])
    | none => (stOk, quayData s c.op ((acted.head?.map fun r => r.2.2).getD []), [])
  else if own.1 ≠ stOk then own
  else match acted.find? (fun r => r.2.1 ≠ 0) with
    | some r =>
      let d := match c.op with
        | .proof _ => putData r.2.2 24 1 r.1
        | _ => r.2.2
      (r.2.1.toNat, d, [])
    | none =>
      match c.op with
      | .chainStatus =>
        (own.1, putData own.2.1 25 1 ((c.replies.map fun r => leAt r.2.2 9 1).sum + leAt own.2.1 9 1),
          own.2.2)
      | .spSequence _ =>
        let n := ((c.replies.map fun r => leAt r.2.2 0 2).sum) + leAt own.2.1 0 2
        (own.1, putData own.2.1 16 2 n, own.2.2)
      | _ => own

/-- A command completes on this device; a divided one waits for the other devices (R63). -/
def complete (s : State) (c : Cmd) (status : Nat) (d : List Byte) (result : List Byte) : State :=
  if c.missing = [] then
    let v := dividedVerdict s c (status, d, result)
    finish s c v.1 v.2.1 v.2.2
  else putCmd s { c with own := some (status, d, result), work := .forward c.missing }

/-- Complete with a verdict. -/
def completeV (s : State) (c : Cmd) (v : Verdict) : State := complete s c v.1 v.2 []

/-- Complete with OK and inline data. -/
def completeOk (s : State) (c : Cmd) (fs : List (Nat × Nat × Nat)) : State :=
  complete s c stOk (dataOf fs) []

/-- Complete every command in flight of which a test holds, in acceptance order. -/
def completeAll (s : State) (p : Cmd → Bool) (v : Verdict) : State :=
  (cmdsWhere s p).foldl (fun s c => completeV s c v) s

/-! ### Where a running command stands (R437, R441, R443) -/

/-- What an ABORT or an interrupt finds: never started, in PREPARE, in PROGRESS, or past its
commit (completing routines past their first step count as that, R443). -/
inductive Found where
  | waiting | prepare | progress | late
  deriving DecidableEq, Repr

/-- A REF_SELECT at scope 7 still asks the followers: the PLL input has not moved (R443, R482). -/
def asksFirst (c : Cmd) : Bool :=
  c.own.isNone &&
    match c.op with
    | .refSelect _ => true
    | _ => false

/-- The phase in which an ABORT or an event finds a command. A START is in PREPARE until its instant, in mode 1 after the
token has been emitted too: an ABORT then cancels it (R177; DESIGN CHOICE, log 93). -/
def foundPhase (c : Cmd) : Found :=
  match c.phase with
  | .waiting | .deferred => .waiting
  | .commit => .late
  | .running =>
    match c.work with
    | .none | .bake | .unpark _ | .segRead | .start _ _ | .ppmu _ | .upload _ _ | .freq _ _
    | .prefill _ _ | .token _ _ => .prepare
    | .bcast _ _ | .ramp _ | .sequence _ _ _ _ | .cal _ | .relieve _ _ | .unrelieve _ => .progress
    | .forward _ => if asksFirst c then .prepare else .late
    | .park _ | .reset _ _ | .halt _ _ | .jump _ | .off _ | .enum _ | .laneTest _
    | .bitslip _ _ | .align _ _ | .refSelect | .tp _ => .late

/-- The opcode of an operation (R65). -/
def opcode (op : HostOp) : Nat :=
  match op with
  | .nop => 0x0000 | .identify => 0x0001 | .getState => 0x0002 | .park _ => 0x0003
  | .unpark _ => 0x0004 | .berthPower _ => 0x0005 | .clearFault => 0x0006 | .abort _ => 0x0007
  | .resetScope _ _ => 0x0008
  | .stage _ _ => 0x1000 | .proof _ => 0x1001 | .bake _ _ _ _ _ => 0x1002 | .read _ _ => 0x1003
  | .trayClear _ => 0x1004 | .trayStatus _ => 0x1005 | .ackWrite _ => 0x1006
  | .segLoad _ _ _ _ => 0x2000 | .arm _ _ _ => 0x2001 | .start _ _ _ => 0x2002 | .halt => 0x2003
  | .jump _ => 0x2004 | .disarm => 0x2005 | .clearHalt => 0x2006 | .seqStatus => 0x2007
  | .ppmuMeasure _ _ _ _ => 0x3000 | .acqArm _ _ _ => 0x3001 | .acqRead _ => 0x3002
  | .tmuArm _ _ _ _ _ _ => 0x3003 | .tmuRead => 0x3004 | .resultUpload _ => 0x3005
  | .failLogRead _ _ => 0x3006
  | .spRamp _ _ => 0x4000 | .spSequence _ => 0x4001 | .spOff _ => 0x4002 | .spStatus => 0x4003
  | .chainEnum => 0x5000 | .chainStatus => 0x5001 | .laneTest _ _ _ _ _ _ _ => 0x5002
  | .laneBitslip _ _ => 0x5003 | .bcastLoad _ _ _ => 0x5004 | .tideAlign => 0x5005
  | .calRun _ _ => 0x6000 | .calSave => 0x6001 | .calRestore _ => 0x6002 | .relieve => 0x6003
  | .unrelieve => 0x6004 | .calStatus => 0x6005
  | .refSelect _ => 0x7000 | .freqMeasure _ _ _ => 0x7001 | .thermRead _ _ => 0x7002
  | .thermClear _ => 0x7003 | .clockMode _ _ _ _ _ => 0x7004
  | .tpXfer _ _ _ _ _ => 0x8000 | .tpStatus _ => 0x8001
  | .mcPatchLoad _ _ => 0xF000 | .mcVersion => 0xF001 | .fuseRead _ => 0xF002

/-- Commands that no event of R444 touches (R593): those that only read, FREQ_MEASURE, TP_XFER,
and the parameter class, which R93, R484 and R504 treat. -/
def neverTouched (op : HostOp) : Bool :=
  match op with
  | .identify | .getState | .read _ _ | .trayStatus _ | .seqStatus | .acqRead _ | .tmuRead
  | .resultUpload _ | .failLogRead _ _ | .spStatus | .chainStatus | .calStatus | .calSave
  | .thermRead _ _ | .tpStatus _ | .mcVersion | .fuseRead _ | .freqMeasure _ _ _
  | .tpXfer _ _ _ _ _ | .stage _ _ | .proof _ | .bake _ _ _ _ _ | .trayClear _ | .ackWrite _
  | .nop | .abort _ => true
  | _ => false

/-- The berths in the scope of a command, or those that it names (R49). -/
def actsOn (s : State) (c : Cmd) : List Nat :=
  match c.op with
  | .spSequence es =>
    (es.filter fun e => c.hdr.scope ≠ 7 || e.chain.toNat = s.chain.index).map (·.berth.toNat)
  | .refSelect _ | .chainEnum | .laneTest _ _ _ _ _ _ _ | .laneBitslip _ _ | .bcastLoad _ _ _
  | .tideAlign | .thermClear _ | .clockMode _ _ _ _ _ | .mcPatchLoad _ _ => []
  | _ => berthsIn c.hdr.scope.toNat c.hdr.inst.toNat

/-! ### The parts of a command by wing (R18) -/

/-- Commands whose work is done by the engines of the wings that they act on. -/
def wingWork (op : HostOp) : Bool :=
  match op with
  | .park _ | .unpark _ | .bake _ _ _ _ _ | .segLoad _ _ _ _ | .arm _ _ _ | .start _ _ _ | .halt | .disarm
  | .clearHalt | .resultUpload _ | .spSequence _ | .spOff _ | .calSave | .calRestore _ => true
  | _ => false

/-- The engines that run a command of this device: its own, and at scope 6 or 7 one per wing for its parts. -/
def enginesFor (s : State) (c : Cmd) : List Nat :=
  if c.remote then []
  else c.engine :: (if c.engine = 4 && wingWork c.op then ((actsOn s c).map wingOfBerth).eraseDups else [])

/-! ### The routine of a command (R430, R437) -/

/-- The dispatch entry of an opcode (R430). -/
def dispatchEntry (opc : Nat) : Nat := opc / 4096 % 16 * 16 + opc % 16

/-- The command of a context. -/
def ctxCmd (s : State) (e c : Nat) : Option Cmd :=
  s.inflight.find? fun k => k.ord = (ctxAt s e c).cmd && k.engine = e && k.context = c

/-- The context has left the dispatch entry of its command: it executes microwords. -/
def inRoutine (s : State) (c : Cmd) : Bool :=
  match cmdCtx s c with
  | some x => c.phase = .running && (x.wait.isSome || x.sinceSafe ≠ 0 || x.pc ≠ dispatchEntry (opcode c.op))
  | none => false

/-- The phase that a command's work stands in: routines past their commit wait in COMMIT, completing ones go on in
PROGRESS (R437, R439, R443). -/
def workPhase (s : State) (c : Cmd) : RPhase :=
  match c.work with
  | .ramp b => if (berthAt s b).sp.state = .undoing then .undo else .progress
  | .sequence _ started _ _ =>
    if started.any fun r => (berthAt s r.entry.berth.toNat).sp.state = .undoing then .undo else .progress
  | .cal b => if (berthAt s b).cal.undoStatus.isSome then .undo else .progress
  | .reset _ _ | .off _ | .enum _ | .laneTest _ | .bitslip _ _ | .align _ _ | .refSelect | .tp _ => .progress
  | _ =>
    match foundPhase c with
    | .waiting | .prepare => .prepare
    | .progress => .progress
    | .late => .commit

/-- The phase of a context: that of its microwords, or that of the work that its command has in hand (R437, R458). -/
def shownPhase (s : State) (e k : Nat) : RPhase :=
  match ctxCmd s e k with
  | some c => if (ctxAt s e k).phase = .prepare then workPhase s c else (ctxAt s e k).phase
  | none => (ctxAt s e k).phase

end Sys2Proof.Machine
end

