-- ==== Sys2Proof/Machine/Channels.lean ====
section
/-! DEFINITION. Channel circuits: the mode in force, park (R194), the level waveform delta
(R190, R191), range changes (R197) and the spare (R25, R134). -/

namespace Sys2Proof.Machine

/-! ### Which instance's parameters a circuit plays (R25, R134) -/

/-- The spare plays the parameters of the position it covers, from its handover to the end of its release; every other
circuit, and a spare joined to a position for its PATH item (R389), its own. -/
def paramInst (s : State) (c : Nat) : Nat :=
  if c < 1024 then c
  else
    let x := berthAt s (c - 1024)
    if x.target < 16 && x.seqPhase ≠ 0 then 16 * (c - 1024) + x.target else c

/-- The key of a member in a circuit's frozen table. -/
def frozenKey (f m : Nat) : Nat := 256 * f + m

/-- The word of a scope-2 member that a circuit plays: the live one of its parameters, or, while bakes do not reach the
circuit, the one that it had before (R25, R137, R196). -/
def circuitWord (s : State) (c f m : Nat) : Word :=
  (tabFind (chanAt s c).frozen (frozenKey f m)).getD (live s (pid 2 (paramInst s c) f m))

/-- A field of such a member. -/
def circuitF (s : State) (c f m lo len : Nat) : Nat := bitsOf (circuitWord s c f m).toNat lo len

/-- The circuit keeps the words that it plays now of some members. -/
def freezeMembers (s : State) (c : Nat) (ms : List (Nat × Nat)) : State :=
  modChan s c fun x => { x with
    frozen := ms.foldl (fun t e => tabSet t (frozenKey e.1 e.2) (circuitWord s c e.1 e.2)) x.frozen }

/-- The circuit that carries position `k` of berth `b`: the spare once the compare source has
moved to it (R25, R136). -/
def carrier (s : State) (b k : Nat) : Nat :=
  let x := berthAt s b
  if x.target = k && (x.seqPhase = 3 || (x.seqPhase = 2 && x.movedAt.isSome)
      || x.seqPhase = 4 || (x.seqPhase = 5 && x.movedAt.isNone)) then 1024 + b
  else chanOfPos b k

/-- The circuit's own path is opened by the crossbar: position k's own circuit while the spare
alone carries the pin (R134). -/
def pathOpen (s : State) (c : Nat) : Bool :=
  c < 1024 &&
    (let x := berthAt s (c / 16)
     x.target = c % 16 && (x.seqPhase = 3 || x.seqPhase = 4))

/-- Put a mode in force (R104, R105): the disconnect switch follows it, the driver is off except as `d` says, the
active load is as LoadEn, and outside PPMU nothing clamps or measures. -/
def setMode (s : State) (c m : Nat) (d : Driver) : State :=
  modChan s c fun x => { x with
    mode := m, connect := m ≠ 0 && !pathOpen s c, driver := if x.heldHiZ then .hiz else d, limitAt := none
    loadOff := false, inClamp := x.inClamp && m = 3 }

/-- The mode of family 0x10 that is live for a circuit. -/
def liveMode (s : State) (c : Nat) : Nat := circuitF s c 0x10 0 0 3

/-- The driver is in current limit (R130): a limit event has just said so; at any other time what the pin draws is free
(log 88). A driver that is off is not. -/
def inLimitNow (s : State) (c : Nat) : Bool :=
  let x := chanAt s c
  x.driver ≠ .hiz && (x.limitAt = some s.tide || Config.limitSense (s.tide + s.freeCtr) c)

/-- The mode in force at a position's pin: that of the circuit that carries it (R25). -/
def pinMode (s : State) (c : Nat) : Nat :=
  if c < 1024 then (chanAt s (carrier s (berthOfChan c) (posOfChan c))).mode else (chanAt s c).mode

/-! ### DAC modulators (R181, R184, R188) -/

/-- M of a tide count: the first modulator update at or after it (R181). -/
def modTick (t : Nat) : Nat := ceilDiv t 4 * 4

/-- M of a ball start in 2^-16 units. -/
def modBall (sPos : Nat) : Nat := 4 * ceilDiv sPos (20000 * subUnits)

/-- The base code of DAC d: the park code of the last park, or the live code (R196). -/
def dacBase (s : State) (c d : Nat) : Nat :=
  let x := chanAt s c
  if x.parkActive then (x.parkSet[d]?).getD 0 else (circuitWord s c 0x40 d).toNat

/-- What the modulator of DAC d takes at its next update: the base code plus the delta, clipped to the legal range
(R188). -/
def dacWanted (s : State) (c d : Nat) : Nat :=
  (max (dacLeast d) (min (dacMost d) ((dacBase s c d : Int) + tabGet 0 (chanAt s c).lwDelta d))).toNat

/-- A change of modulator inputs takes effect at the update `m`: until then the inputs stay (R181). -/
def holdMod (s : State) (m c : Nat) : State :=
  if s.tide < m && (chanAt s c).modUntil ≤ s.tide then
    modChan s c fun x => { x with modOld := (List.range 9).map (dacWanted s c), modUntil := m }
  else s

/-- The input of a modulator now; none before the park load (R193). -/
def modInput (s : State) (c d : Nat) : Option Nat :=
  let x := chanAt s c
  if x.parkSet = [] then none
  else if s.tide < x.modUntil then some ((x.modOld[d]?).getD 0)
  else some (dacWanted s c d)

/-- Clear the waveform deltas of a channel (R191). -/
def clearDelta (s : State) (c : Nat) : State :=
  modChan (holdMod s (modTick s.tide) c) c fun x => { x with lwDelta := [] }

/-! ### Driver impedance, active load and clamps (R105, R106, R108, R134) -/

/-- Member 9 of the park set in force: ParkMode, ParkLoadEn, ParkClampEn, ParkPpmuFi, ParkRange (R204). -/
def parkWord (s : State) (c : Nat) : Nat := ((chanAt s c).parkSet[9]?).getD 0

/-- The driver's source impedance in tenths of an ohm (R106), doubled in the overlap phase (R134). -/
def driverOhms (s : State) (c : Nat) : Nat :=
  (450 + circuitF s c 0x10 0 8 7) * (if (chanAt s c).overlap then 2 else 1)

/-- LoadEn: in park that of the park set, in park mode HIZ (R204). -/
def loadEn (s : State) (c : Nat) : Bool :=
  if (chanAt s c).parkActive then parkWord s c % 8 = 1 && natBit (parkWord s c) 3
  else circuitF s c 0x10 0 3 1 = 1

/-- The active load acts: LoadEn is 1 and the driver is off, in HIZ and DIGITAL (R104, R108). -/
def loadActive (s : State) (c : Nat) : Bool :=
  let x := chanAt s c
  (x.mode = 1 || x.mode = 2) && loadEn s c && x.driver = .hiz && !x.loadOff

/-- IOL (m = 0) or IOH (m = 1) in steps of 24,000 / 4,095 µA, the nearest (R128). -/
def loadSteps (s : State) (c m : Nat) : Nat := (2 * 4095 * circuitF s c 0x12 m 0 15 + 24000) / 48000

/-- The current of the active load at a pin voltage in level codes (R108), in half steps: positive sunk, negative
sourced; half the programmed current in the overlap phase (R134). -/
def loadCurrent (s : State) (c : Nat) (v : Int) : Int :=
  let k : Int := if (chanAt s c).overlap then 1 else 2
  let vtt : Int := dacWanted s c 4
  if !loadActive s c then 0
  else if vtt < v then k * loadSteps s c 0
  else if v < vtt then -(k * loadSteps s c 1)
  else 0

/-- The clamps act while the disconnect switch is closed and ClampEn is 1, in every mode but OFF (R105, R204). -/
def clampActive (s : State) (c : Nat) : Bool :=
  let x := chanAt s c
  x.connect && x.mode ≠ 0 &&
    (if x.parkActive then natBit (parkWord s c) 4 else circuitF s c 0x10 0 4 1 = 1)

/-- The PPMU function in force (R194, R205): in park mode PPMU that of the park set. -/
def funcNow (s : State) (c : Nat) : Nat :=
  if (chanAt s c).parkActive then bitsOf (parkWord s c) 5 1 else circuitF s c 0x50 0 0 2

/-- The PPMU range in which the force and clamp codes are read: in park mode PPMU that of the park set (R194); otherwise
the one baked last, from its strobe on, be it that the change to it is in progress or waits (R198). -/
def rangeNow (s : State) (c : Nat) : Nat :=
  let x := chanAt s c
  if x.parkActive then bitsOf (parkWord s c) 6 3
  else match x.rangeSw with
    | some w => w.queued.getD w.target
    | none => x.range

/-- The corrections in force: those of the last load, from its modulator update on (R184). -/
def corrNow (s : State) (c : Nat) : Nat :=
  let x := chanAt s c
  if s.tide < x.corrAt then x.corrGen - 1 else x.corrGen

/-! ### Park (R194 to R196) -/

/-- The members that a parked circuit keeps: driver impedance and the currents of the active load (R196). -/
def parkKeeps : List (Nat × Nat) := [(0x10, 0), (0x12, 0), (0x12, 1)]

/-- What a circuit plays, once its position's parameters reach the spare alone (R25, R137). -/
def outKeeps : List (Nat × Nat) :=
  parkKeeps ++ [(0x50, 0)] ++ (List.range 9).map (0x40, ·) ++ (List.range 10).map (0x46, ·)

/-- The spare alone carries the position: bakes do not reach the circuit that stands out. -/
def freeze (s : State) (c : Nat) : State := freezeMembers s c outKeeps

/-- Time 0 of a park: driver Hi-Z, active load and PPMU off, every waveform delta cleared, DACs fed from the park
codes. A PPMU measurement on the channel ends with its force stage. -/
def parkStart (s : State) (c : Nat) : State :=
  let set := (List.range 10).map fun m => (circuitWord s c 0x46 m).toNat
  modChan (freezeMembers (holdMod s (modTick s.tide) c) c parkKeeps) c fun x => { x with
    mode := if x.mode = 0 then 0 else 1, driver := .hiz, limitAt := none, loadOff := true, lwDelta := []
    parkActive := true, parkSet := set, ppmu := none, inClamp := false }

/-- The mode and driver that a ParkMode value gives (R194). -/
def parkModeOf (pm : Nat) : Nat × Driver :=
  match pm with
  | 0 => (0, .hiz)
  | 1 => (1, .hiz)
  | 2 => (2, .low)
  | 3 => (2, .high)
  | _ => (3, .hiz)

/-- ParkMode applied to a channel; a hard park puts HIZ in its place unless it is OFF, and leaves the load off. -/
def parkApply (s : State) (hard : Bool) (c : Nat) : State :=
  let pm := parkWord s c % 8
  let pm := if hard && pm ≠ 0 then 1 else pm
  modChan (setMode s c (parkModeOf pm).1 (parkModeOf pm).2) c fun x => { x with loadOff := hard }

/-- A hard park of a berth's channels (R194): one step. -/
def parkHard (s : State) (b : Nat) : State :=
  forAll (forAll s (chansOfBerth b) parkStart) (chansOfBerth b) (fun s c => parkApply s true c)

/-- An orderly park of a berth's channels starts: ParkMode is applied 2.0 µs later (R194). -/
def parkOrderly (s : State) (b : Nat) (toFault : Bool) (groups : List (List Nat)) : State :=
  let s := forAll s (chansOfBerth b) parkStart
  modBerth s b fun x =>
    { x with park := some { applyAt := some (s.tide + usTc 2), toFault := toFault, groups := groups } }

def idOfBerth (b : Nat) (id : Word) : Bool :=
  owningBerth (idScope id) (idInst id) = some b

def idOfQuayG (q : Nat) (id : Word) : Bool :=
  famClass (idFam id) = .g && owningQuay (idScope id) (idInst id) = some q

/-- Mode switches to its live value and the DACs to their live codes; no delta is present (R196). -/
def unparkChan (s : State) (c : Nat) : State :=
  let s := holdMod s (modTick s.tide) c
  let s := modChan s c fun x => { x with
    parkActive := false, lwDelta := [], frozen := if pathOpen s c then x.frozen else [] }
  setMode s c (liveMode s c) .hiz

/-! ### Substitution state (R43, R134, R138) -/

/-- The circuit that comes in takes what the other plays: mode, levels with their delta, range and park state; its
path stays open (R134, R192). -/
def shadowOf (s : State) (i o : Nat) : State :=
  let y := chanAt s o
  modChan s i fun z => { z with
    mode := y.mode, connect := 1024 ≤ i && y.mode ≠ 0, driver := if z.heldHiZ then .hiz else y.driver
    loadOff := y.loadOff, parkActive := y.parkActive, parkSet := y.parkSet, lwDelta := y.lwDelta, range := y.range
    rangeSw := y.rangeSw, crowd := y.crowd, frozen := y.frozen }

/-- A position is substituted during the burst of its berth: SUBST, bit 7 of its flags (R311, R326). -/
def substNote (s : State) (b : Nat) : State :=
  if (berthAt s b).run = .running then modFc s b fun f => { f with flags := Nat.lor f.flags 128 } else s

/-- A handover of position `k` starts at a strobe (R134): the spare keeps its inputs until the modulator update (R181). -/
def handoverStart (s : State) (b k : Nat) : State :=
  let s := modBerth (holdMod s (modTick s.tide) (1024 + b)) b fun x => { x with target := k, seqPhase := 1, seqStart := s.tide, movedAt := none }
  substNote (shadowOf s (1024 + b) (16 * b + k)) b

/-- A release starts at a strobe. -/
def releaseStart (s : State) (b : Nat) : State :=
  let s := modBerth (holdMod s (modTick s.tide) (16 * b + (berthAt s b).target)) b fun x => { x with seqPhase := 4, seqStart := s.tide, movedAt := none }
  substNote (shadowOf s (16 * b + (berthAt s b).target) (1024 + b)) b

/-- The node that the crossbar joins the spare to (R134, R138, R389): the position from the overlap of its handover to
the end of its release, or for its PATH item; or the calibration bus (16). -/
def crossbar (s : State) (b : Nat) : Option Nat :=
  let x := berthAt s b
  if x.target = 16 then some 16
  else if x.target < 16 && x.seqPhase ≠ 1 then some x.target
  else none

/-- A handover or release is running (R134). -/
def substMoving (s : State) (b : Nat) : Bool :=
  let p := (berthAt s b).seqPhase
  p = 1 || p = 2 || p = 4 || p = 5

/-- The first sample of a measurement is held back: a range change, or a handover of the position, goes on (R217). -/
def ppmuDelayed (s : State) (c : Nat) : Bool :=
  (chanAt s (carrier s (berthOfChan c) (posOfChan c))).rangeSw.isSome ||
    (substMoving s (berthOfChan c) && (berthAt s (berthOfChan c)).target = posOfChan c)

/-- The slow converter of a channel converts (R237). -/
def slowConverts (s : State) (c : Nat) : Bool :=
  (chanAt s c).ppmu.any fun r => r.slow && !(r.taken = 0 && ppmuDelayed s c)

/-! ### PPMU range changes (R197, R198) -/

/-- A new range becomes live: in a channel whose PPMU is off it is immediate; in one that is changing already it waits
behind the change in progress. A third change within one window takes the place of the one that waits, and one to the
range that is being switched to is none (DESIGN CHOICE, log 83). -/
def rangeLoad (s : State) (c r : Nat) : State :=
  modChan s c fun x =>
    match x.rangeSw with
    | some w => { x with rangeSw := some { w with queued := some r } }
    | none =>
      if x.range = r then x
      else if x.mode ≠ 3 || x.parkActive then { x with range := r }
      else { x with rangeSw := some { target := r, start := s.tide } }

end Sys2Proof.Machine
end

