-- ==== Sys2Proof/Machine/Power.lean ====
section
/-! DEFINITION. Operations of a site power controller: gangs (R285), the reference and its ramps
(R276 to R280), turning off (R282), monitors (R286 to R288). -/

namespace Sys2Proof.Machine

def spAt (s : State) (b : Nat) : Sp := (berthAt s b).sp

/-! ### Gangs (R27, R285) -/

def gangSize (s : State) (b : Nat) : Nat :=
  match liveF s 3 b 0x68 0 2 2 with
  | 1 => 2
  | 2 => 4
  | _ => 1

/-- The lowest berth of the aligned block that the gang is. -/
def leaderOf (s : State) (b : Nat) : Nat := b / gangSize s b * gangSize s b

def gangOf (s : State) (b : Nat) : List Nat :=
  (List.range (gangSize s b)).map (leaderOf s b + ·)

def phaseCount (s : State) (b : Nat) : Nat := liveF s 3 b 0x68 0 0 2 + 1

/-- The phase index i of phase n of berth b in its gang (R285). -/
def phaseIndex (s : State) (b n : Nat) : Nat :=
  (((gangOf s b).filter (· < b)).map (phaseCount s)).sum + n

/-- The number of active phases of the gang. -/
def phasesTotal (s : State) (b : Nat) : Nat := ((gangOf s b).map (phaseCount s)).sum

/-- `round(a / b)`, half up. -/
def roundDiv (a b : Nat) : Nat := (2 * a + b) / (2 * b)

/-- The offset of the cycle edges of a phase within the PWM period's numbering (R270). -/
def edgeOffset (s : State) (b n : Nat) : Nat :=
  liveF s 3 b 0x68 1 0 14 + roundDiv (phaseIndex s b n * liveF s 3 (leaderOf s b) 0x68 0 5 14)
    (phasesTotal s b)

/-- A root period is a cycle edge e(i, k) of the phase (R270). -/
def isCycleEdge (s : State) (b n at_ : Nat) : Bool :=
  edgeOffset s b n ≤ at_ &&
    (at_ - edgeOffset s b n) % liveF s 3 (leaderOf s b) 0x68 0 5 14 = 0

/-- A phase of a controller. -/
def phaseAt (t : Tab Phase) (n : Nat) : Phase := tabGet {} t n

/-- Drive every PWM output of a gang to a level. -/
def pwmAll (s : State) (b : Nat) (l : Pwm) : State :=
  forAll s (gangOf s b) fun s m => modSp s m fun x =>
    { x with phases := (List.range 4).foldl (fun t n => tabSet t n { (phaseAt t n) with pwm := l }) x.phases }

/-! ### The reference (R276) -/

/-- Accumulator units (0.05 µV) in a µV. -/
def accUnits : Nat := 20

/-- Vref in µV: the accumulator rounded to the 25 µV grid toward the ramp's start value until it
reaches the target (R276). -/
def vref (x : Sp) : Nat :=
  if x.acc = accUnits * x.rampTarget then x.rampTarget
  else if accUnits * x.rampFrom ≤ x.acc then x.acc / (25 * accUnits) * 25
  else ceilDiv x.acc (25 * accUnits) * 25

/-- One step of the accumulator toward the target (R276). -/
def accStep (x : Sp) : Nat :=
  let t := accUnits * x.rampTarget
  if x.acc < t then Nat.min (x.acc + x.rampSlew) t else Nat.max (x.acc - x.rampSlew) t

/-- The next tide count divisible by 40. -/
def tick40 (t : Nat) : Nat := (t / 40 + 1) * 40

/-- Steps that are left to the target. -/
def stepsLeft (x : Sp) : Nat :=
  let t := accUnits * x.rampTarget
  ceilDiv (if x.acc < t then t - x.acc else x.acc - t) (Nat.max 1 x.rampSlew)

def ramping (x : Sp) : Bool := x.state = .rampUp || x.state = .rampDown || x.state = .undoing

/-! ### Monitors (R286 to R288) -/

def monEnabled (s : State) (b : Nat) (m : Mon) : Bool :=
  liveF s 3 (leaderOf s b) 0x6C 0 (match m with | .ov => 20 | .uv => 21 | .oc => 22) 1 = 1

def monOf (x : Sp) (m : Mon) : Monitor :=
  match m with
  | .ov => x.ov
  | .uv => x.uv
  | .oc => x.oc

def setMon (x : Sp) (m : Mon) (y : Monitor) : Sp :=
  match m with
  | .ov => { x with ov := y }
  | .uv => { x with uv := y }
  | .oc => { x with oc := y }

/-- The thresholds at which a monitor's level goes to 1 and returns to 0 (R286): in µV for OV and UV, in mA for OC. -/
def monThresholds (s : State) (b : Nat) (m : Mon) : Int × Int :=
  let x := spAt s (leaderOf s b)
  let f (w lo len : Nat) : Int := liveF s 3 (leaderOf s b) 0x6C w lo len
  match m with
  | .ov =>
    let v : Int := (x.ovHold).getD (vref x)
    (v + 1000 * f 0 0 10, v + 1000 * f 0 0 10 - 1000 * f 2 0 8)
  | .uv => ((vref x : Int) - 1000 * f 0 10 10, (vref x : Int) - 1000 * f 0 10 10 + 1000 * f 2 8 8)
  | .oc =>
    let i : Int := liveF s 3 (leaderOf s b) 0x6B 1 0 19
    (i, i - 100 * f 2 16 8)

/-- The level as it reads: 0 while the monitor's enable bit is 0 (R286), the stored level (1 while
it blanks) otherwise. -/
def monLevel (s : State) (b : Nat) (m : Mon) : Bool :=
  monEnabled s b m && (monOf (spAt s (leaderOf s b)) m).level

/-- PowerGood (R286). -/
def powerGood (s : State) (b : Nat) : Bool :=
  (spAt s (leaderOf s b)).uvArmed && !monLevel s b .ov && !monLevel s b .uv

/-- Keep the time since which PowerGood holds; a stretch of 10 HiccupTime clears the hiccup count
(R290). -/
def noteGood (s : State) (b : Nat) : State :=
  let l := leaderOf s b
  let now := powerGood s l
  let span := 10 * usTc (1000 * liveF s 3 l 0x6C 1 24 6)
  modSp s l fun x =>
    match x.goodSince with
    | none => if now then { x with goodSince := some s.tide } else x
    | some t =>
      let x := if span ≤ s.tide - t then { x with hiccupsDone := 0 } else x
      if now then x else { x with goodSince := none }

/-- PowerGood ends: the stretch it has held is noted. -/
def goodEnd (s : State) (b : Nat) : State :=
  modSp (noteGood s b) b fun x => { x with goodSince := none }

/-- A monitor is enabled: its output is forced to 1 for 10 µs (R287). -/
def blankStart (s : State) (b : Nat) (m : Mon) : State :=
  if monEnabled s b m then
    modSp s b fun x => setMon x m { level := true, blankEnd := some (s.tide + usTc 10) }
  else s

def blankAll (s : State) (b : Nat) : State :=
  blankStart (blankStart (blankStart s b .ov) b .uv) b .oc

/-- UV is armed by the commit of an upward ramp (R289): a level that is 1 starts its filter. -/
def armUv (s : State) (b : Nat) : State :=
  modSp s b fun x =>
    { x with uvArmed := true
             uv := { x.uv with filterFrom := if x.uv.level ∧ x.uv.blankEnd = none then some s.tide else none } }

/-! ### Ramps and turning off -/

/-- A ramp from the present reference begins (R276 to R278). A downward one disarms UV (R289) and
holds the OV reference (R286). -/
def rampStart (s : State) (b target slew : Nat) (fromOff : Bool) : State :=
  modSp (if vref (spAt s b) ≤ target then s else goodEnd s b) b fun x =>
    let up := decide (vref x ≤ target)
    { x with
      state := if up then .rampUp else .rampDown
      rampTarget := target, rampFrom := vref x, acc := accUnits * vref x, rampSlew := slew
      fromOff := fromOff, upward := up, stepAt := s.tide
      uvArmed := if up then x.uvArmed else false
      ovHold := if up then none else some (vref x)
      abortTag := none }

/-- The start of a controller from OFF (R278): enable high, PWM at mid-level, monitors blank. -/
def startFromOff (s : State) (b target slew : Nat) : State :=
  let s := pwmAll s b .mid
  let s := modSp s b fun x => { x with
    state := .starting, enHigh := true, rampTarget := target, rampSlew := slew, fromOff := true
    readyAt := some (s.tide + usTc (liveF s 3 b 0x6D 0 22 10)), acc := 0, rampFrom := 0
    uvArmed := false, ovHold := none, abortTag := none, enFallAt := none, hiccupAt := none }
  blankAll s b

/-- A controller is commanded to a target (R277, R278): from OFF it starts, otherwise it ramps.
`lastTarget` is what a hiccup restarts toward (R290). -/
def rampCommand (s : State) (b target slew : Nat) : State :=
  let s := modSp s b fun x => { x with lastTarget := target }
  if (spAt s b).state = .off ∨ (spAt s b).state = .hiccup then startFromOff s b target slew
  else rampStart s b target slew false

/-- Turn off at once (R282 mode 1): PWM to mid-level, enable low 1 µs later. A FAULTED controller
stays FAULTED; an OFF one stays OFF. -/
def offNow (s : State) (b : Nat) : State :=
  let x := spAt s b
  if x.state = .off ∨ x.state = .faulted then s
  else
    let s := pwmAll (goodEnd s b) b .mid
    modSp s b fun x => { x with
      state := .rampDown, acc := 0, rampTarget := 0, rampFrom := 0, rampSlew := 0
      uvArmed := false, ovHold := none, readyAt := none, hiccupAt := none
      enFallAt := some ((x.enFallAt).getD (s.tide + usTc 1)), abortTag := none, offAfter := false }

/-- Enable falls: the controller is OFF (R279, R289). -/
def enterOff (s : State) (b : Nat) : State :=
  modSp s b fun x => { x with
    state := .off, enHigh := false, enFallAt := none, acc := 0, rampTarget := 0, rampFrom := 0
    uvArmed := false, ovHold := none, readyAt := none, hiccupAt := none, lightForced := false
    goodSince := none, offAfter := false }

/-- An entry of SP_SEQUENCE is this device's own. -/
def entryOwn (s : State) (sc : Nat) (e : SeqEntry) : Bool := sc ≠ 7 || e.chain.toNat = s.chain.index

/-- A command of scope `sc` has started this entry on a controller of this device, and its ramp has not ended. -/
def runsOn (s : State) (sc b : Nat) (r : SeqRun) : Bool :=
  !r.done && entryOwn s sc r.entry && leaderOf s r.entry.berth.toNat = b

/-- A command is ramping this controller (R281). -/
def rampBusy (s : State) (b : Nat) : Bool :=
  s.inflight.any fun c => c.phase = .running &&
    match c.work with
    | .ramp l => l = b
    | .sequence _ started _ _ => started.any (runsOn s c.hdr.scope.toNat b)
    | _ => false

/-- The controller ramps to 0 for no command, or its enable is about to fall: it is being turned off. -/
def goesOff (x : Sp) : Bool := x.enFallAt.isSome || (x.state = .rampDown && x.rampTarget = 0)

/-- Begin the mode 0 ramp of one controller (R282): a running command's ramp ends first (R291); a
controller in HICCUP is turned off at once; one that has not begun to switch goes off as mode 1. -/
def offRamp (s : State) (b : Nat) : State :=
  let x := spAt s b
  match x.state with
  | .off | .faulted => s
  | .hiccup | .starting => if rampBusy s b then modSp s b fun x => { x with offAfter := true } else offNow s b
  | _ =>
    if rampBusy s b ∨ x.state = .undoing then modSp s b fun x => { x with offAfter := true }
    else if goesOff x then s
    else rampStart s b 0 (liveF s 3 b 0x6D 1 0 17) false

/-- The ranks that a list of controllers has, ascending, with their members (R282). -/
def offGroups (s : State) (bs : List Nat) : List (List Nat) :=
  ((List.range 16).map fun r => bs.filter fun b => liveF s 3 b 0x6D 0 17 4 = r).filter (· ≠ [])

/-- The controllers (gang leaders) of a list of berths. -/
def leadersOf (s : State) (bs : List Nat) : List Nat := bs.filter fun b => leaderOf s b = b

/-- Turn controllers off as SP_OFF mode 0 does (R282). -/
def offOrderly (s : State) (bs : List Nat) : State :=
  match offGroups s (leadersOf s bs) with
  | [] => s
  | g :: rest =>
    let s := forAll s g offRamp
    { s with offPlans := s.offPlans ++ [{ now := g, later := rest }] }

/-- Turn controllers off as SP_OFF mode 1 does. -/
def offHard (s : State) (bs : List Nat) : State := forAll s (leadersOf s bs) offNow

/-- The controller that powers a berth is OFF. -/
def ctrlOff (s : State) (b : Nat) : Bool := (spAt s (leaderOf s b)).state = .off

/-- It is OFF or FAULTED: a turn-off leaves nothing more to do (R282, R291). -/
def isOff (s : State) (b : Nat) : Bool :=
  (spAt s (leaderOf s b)).state = .off || (spAt s (leaderOf s b)).state = .faulted

/-- The off plans after a controller has changed: a plan whose group is off waits OffGap for its
next group, or ends (R282). -/
def offAdvance (s : State) : State :=
  { s with offPlans := (s.offPlans.map fun p =>
      if p.nextAt.isNone && p.now.all (isOff s) then
        { p with now := [], nextAt := some (s.tide + usTc (liveF s 6 0 0x6E 0 0 16)) }
      else p).filter fun p => !(p.now = [] && p.later = []) }

end Sys2Proof.Machine
end

