-- ==== Sys2Proof/Machine/Links.lean ====
section
/-! DEFINITION. Chain links as the rest of the device needs them: lanes that leave their port (R346),
the state of a port (R343, R359), instants in SIGNALs (R363), and the trigger lines (R365). -/

namespace Sys2Proof.Machine

/-! ### Ports and lanes (R333, R342 to R346) -/

/-- The control word of a port that is in force: as taken at its last entry into DETECT (R19, R370). -/
def portCtl (s : State) (p : Nat) : Word := ((portAt s p).ctl).getD (live s (pid 6 0 0x80 p))

/-- A control word lets the port train and the lane join it. -/
def ctlEnables (w : Word) (l : Nat) : Bool := bit w 0 && bit w (7 + l % 12)

/-- The port trains and the lane may join it (R370). -/
def laneEnabled (s : State) (l : Nat) : Bool := ctlEnables (portCtl s (portOfLane l)) l

def minLanes (s : State) (p : Nat) : Nat := fld (portCtl s p) 3 4

/-- A port enters DETECT: the baked control word takes force, and the port starts at MaxRate (R343, R370). -/
def portEnter (s : State) (p : Nat) : State :=
  let w := live s (pid 6 0 0x80 p)
  modPort s p fun x => { x with ctl := some w, rate := fld w 1 2 }

/-- A port whose active lanes have changed: ACTIVE, DEGRADED or down (R346), and its timing lane, the
lowest active one (R359). -/
def portSettle (s : State) (p : Nat) : State :=
  let ls := activeLanes s p
  modPort s p fun x => { x with
    state := if ls = [] then (if 2 ≤ x.state then 0 else x.state)
      else if ls.length < minLanes s p then 3 else 2
    downPend := x.downPend || (ls = [] && 2 ≤ x.state)
    timingLane := match ls with
      | l :: _ => l % 12
      | [] => x.timingLane }

/-- A lane leaves its port for another state, with a cause (R346). -/
def laneLeave (s : State) (l : Nat) (st : LaneState) (cause : Nat) : State :=
  let s := modLane s l fun x => { x with
    state := st, cause := cause, markerSeen := false, slipMode := false, bips := [], frozen := false
    rxReady := false, retried := false }
  portSettle s (portOfLane l)

/-- A lane is taken out of the control word in force. -/
def ctlDrop (s : State) (p l : Nat) : State :=
  modPort s p fun x => { x with ctl := (x.ctl).map fun w => w &&& ~~~((1 : Word) <<< (7 + l % 12)) }

/-- LaneMask bits that fall remove their ACTIVE lanes at the strobe (R370). -/
def laneMaskLoad (s : State) (p : Nat) (old new : Word) : State :=
  forAll s (lanesOfPort p) fun s l =>
    if bit old (7 + l % 12) && !bit new (7 + l % 12) && laneActive s l then laneLeave (ctlDrop s p l) l .off 6 else s

/-- A lane's receiver has been detected, so that its port has a neighbour. -/
def laneSeen (x : Lane) : Bool := x.state ≠ .off && x.state ≠ .detect

/-- The upstream port of a follower (R344): MW in a line, in a mesh MW if a receiver is detected there and MN if not; once
it has taken its position, the port of its ENUM. -/
def upstreamOf (s : State) : Nat :=
  if s.chain.enumerated || (portAt s s.chain.upPort).role = 1 then s.chain.upPort
  else if liveF s 7 0 0x89 0 0 2 = 2 && !(lanesOfPort 3).any fun l => laneSeen (laneAt s l) then 0 else 3

/-- A follower takes REFC from an upstream lane whose sender's root is locked (R344); other devices have their own
reference. -/
def refcGood (s : State) : Bool := !isFollower s || (lanesOfPort (upstreamOf s)).any fun l => (laneAt s l).refGood

/-- TideAligned is cleared: by the pilot on every device of the chain, by a follower on itself, which the pilot is told
(R354, R477, R502). -/
def chainUnalign (s : State) : State :=
  let s := if isPilot s then send s (.frame none (.aligned false))
    else if isFollower s && s.chain.enumerated && s.chain.tideAligned then
      send s (.frame (some s.chain.upPort) (.unaligned (Fin.ofNat 128 s.chain.index)))
    else s
  { s with chain := { s.chain with
    tideAligned := false, devices := s.chain.devices.map fun d => (d.1, { d.2 with aligned := false }) } }

/-! ### Instants in SIGNALs (R363) -/

/-- Low bits of an instant as a SIGNAL carries them. -/
def i36Of (t : Nat) : Nat := t % 2 ^ 36

/-- The instant within 2^35 tc of the device's tide whose low bits are given. -/
def expand36 (s : State) (v : Nat) : Nat :=
  let base := s.tide / 2 ^ 36 * 2 ^ 36 + v
  if base + 2 ^ 35 < s.tide then base + 2 ^ 36
  else if s.tide + 2 ^ 35 ≤ base ∧ 2 ^ 36 ≤ base then base - 2 ^ 36
  else base

/-! ### Trigger lines (R365) -/

/-- The device holds a line's delivery instant: in time, or too late to deliver it. -/
def lineHold (s : State) (l d : Nat) : State :=
  if d < s.tide + 64 then count s 6 0 0x84 3
  else { s with chain := { s.chain with pendTrig := s.chain.pendTrig ++ [(l, d)] } }

/-- A raise reaches the pilot, or is made on a standalone device: it is merged into the previous one
within 8 tc, or delivered down the tree. -/
def lineRaised (s : State) (l d : Nat) : State :=
  let merged := match tabFind s.chain.lastTrig l with
    | some p => decide (d ≤ p + 8 ∧ p ≤ d + 8)
    | none => false
  if merged then count s 6 0 0x84 4
  else
    let s := { s with chain := { s.chain with lastTrig := tabSet s.chain.lastTrig l d } }
    let s := if isPilot s then send s (.signal none (.trigDeliver l (i36Of d))) else s
    lineHold s l d

/-- Source events of a kind at tide `e` raise the enabled lines of this device whose word passes a
test; in a chain they are ignored on a device that is not enumerated (R368; a standalone device has no chain to take a
place in, DEDUCED, log 54). -/
def raiseLines (s : State) (kind e : Nat) (p : Word → Bool) : State :=
  if (isFollower s || isPilot s) && !s.chain.enumerated then s
  else forAll s (List.range 16) fun s l =>
    let w := live s (pid 7 0 0x88 l)
    if bit w 0 && fld w 1 7 = s.chain.index && fld w 8 2 = kind && p w then
      if isFollower s then
        send s (.signal (some s.chain.upPort) (.trigRaise l (i36Of (e + 3400))))
      else lineRaised s l (e + 3400)
    else s

end Sys2Proof.Machine
end

