-- ==== Sys2Proof/Machine/Live.lean ====
section
/-! DEFINITION. What happens when a staged value becomes live (R19, R73, R74): the effect of each
family whose load does more than change a setting. -/

namespace Sys2Proof.Machine

/-- The channel circuits that a channel's parameter drives: its own; both while a handover or release of the position
runs; the spare alone while it carries the position (R25, R134, R137). -/
def circuitsOf (s : State) (c : Nat) : List Nat :=
  let x := berthAt s (berthOfChan c)
  if c < 1024 then
    if x.target = posOfChan c && x.seqPhase = 3 then [1024 + berthOfChan c]
    else if x.target = posOfChan c && x.seqPhase ≠ 0 then [c, 1024 + berthOfChan c]
    else [c]
  else if x.target < 16 && x.seqPhase ≠ 0 then [] else [c]

/-- The run state of the berth lets a live mode act at its pins: not OFF, PARKED or FAULT. -/
def pinsLive (s : State) (b : Nat) : Bool :=
  let r := (berthAt s b).run
  r = .idle || r = .armed || r = .running

/-- A zone's levels are to be evaluated fresh (R407). -/
def zoneFresh (s : State) (z : Nat) : State := modZone s z fun x => { x with fresh := true }

/-- The bound of PhaseRemain, in 2^-16 units (R122). -/
def phaseMost : Int := 2000000 * subUnits

/-- PhaseStep of a running quay adds once to PhaseRemain, saturating at ±2,000,000 units (R122). -/
def phaseAdd (s : State) (q : Nat) (v : Int) : State :=
  if (quayAt s q).running then
    let r := (quayAt s q).phaseRemain + v * subUnits
    if r > phaseMost then count (modQuay s q fun x => { x with phaseRemain := phaseMost }) 4 q 0x28 4
    else if r < -phaseMost then
      count (modQuay s q fun x => { x with phaseRemain := -phaseMost }) 4 q 0x28 4
    else modQuay s q fun x => { x with phaseRemain := r }
  else s

/-- A monitor whose enable bit changes from 0 to 1 blanks from the strobe (R287, R292). -/
def monitorLoad (s : State) (b : Nat) (old new : Word) : State :=
  let on (s : State) (n : Nat) (m : Mon) : State :=
    if !bit old n && bit new n then blankStart s b m else s
  on (on (on s 20 .ov) 21 .uv) 22 .oc

/-- The channel's berth is armed in a burst that runs: its deltas go on (R192). -/
def followsBurst (s : State) (i : Nat) : Bool :=
  let q := quayAt s (quayOfChan i)
  q.running && natBit q.mask (berthOfChan i % 4)

/-- The end of a clamp has no event in the table: a new function, range or force code ends it, and so do a change of
Mode and a park; what is in clamp then enters it again (R207; DESIGN CHOICE, log 95). -/
def clampEnd (s : State) (c : Nat) : State := modChan s c fun x => { x with inClamp := false }

/-! ### The oven reference (R256, R257) -/

def tmuAt (s : State) (b : Nat) : Tmu := (berthAt s b).tmu

def tProvisional : Nat := 1

def tmuFlag (x : Tmu) (f : Nat) : Tmu := { x with flags := Nat.lor x.flags f }

/-- Unit states: 1 awaiting an arming event, 2 window open. -/
def tmuArmed (x : Tmu) : Bool := x.state = 1 || x.state = 2

/-- OvenOk becomes 0: results since a TMU_ARM carry PROVISIONAL in the header, those of a unit that is DONE too (R257). -/
def ovenLost (s : State) : State :=
  let s := if isPilot s && s.clk.ovenOk then send s (.signal none (.oven false)) else s
  let s := { s with clk := { s.clk with ovenOk := false } }
  forAll s (List.range 64) fun s b =>
    if (tmuAt s b).state ≠ 0 then modTmu s b fun x => tmuFlag x tProvisional else s

/-- The tide at which OVEN_RDY has been high for OvenHold (R256). -/
def ovenDue (s : State) : Nat := (s.clk.ovenRise + (liveF s 6 0 0x62 0 0 16 * 800000000 : Nat)).toNat

/-- The effect of one value becoming live, `old` being the live value before. A level code that a bake names with the
value that it has already is no new code and clears no held delta (R191; DESIGN CHOICE, log 84). -/
def onLoad (s : State) (id old new : Word) : State :=
  let i := idInst id
  let m := idMem id
  match idFam id with
  | 0x10 =>
    if fld old 0 3 = fld new 0 3 then s
    else if pinsLive s (berthOfChan i) then
      forAll s (circuitsOf s i) fun s c => setMode (clearDelta s c) c (fld new 0 3) .hiz
    else s
  | 0x40 =>
    let s := if 7 ≤ m && old ≠ new && pinsLive s (berthOfChan i) then forAll s (circuitsOf s i) clampEnd else s
    if old ≠ new && !followsBurst s i then
      forAll s (circuitsOf s i) fun s c => modChan s c fun x => { x with lwDelta := tabErase x.lwDelta m }
    else s
  | 0x50 =>
    let s := if fld old 0 5 ≠ fld new 0 5 && pinsLive s (berthOfChan i) then forAll s (circuitsOf s i) clampEnd else s
    if fld old 2 3 = fld new 2 3 then s
    else forAll s (circuitsOf s i) fun s c => rangeLoad s c (fld new 2 3)
  | 0x28 => if m = 1 then phaseAdd s i (signed32 new) else s
  | 0x6C => if m = 0 && leaderOf s i = i then noteGood (monitorLoad s i old new) i else s
  | 0x62 => if s.clk.ovenOk && !isFollower s && s.tide < ovenDue s then ovenLost s else s
  | 0x80 => laneMaskLoad s m old new
  | 0xA0 => if m % 8 = 0 && fld old 0 2 ≠ fld new 0 2 then zoneFresh s (m / 8) else s
  | _ => s

/-- The held values that neither a burst nor a berth holds back any more become live (R45, R74). -/
def loadFreed (s : State) : State :=
  let kept (e : Nat × Word) : Bool := s.par.heldG.contains e.1 || s.par.heldB.contains e.1
  let es := s.par.held.filter fun e => !kept e
  let s := { s with par := { s.par with held := s.par.held.filter kept } }
  es.foldl (fun s e => onLoad s (BitVec.ofNat 32 e.1) e.2 (baked s (BitVec.ofNat 32 e.1))) s

/-- The end of a quay's burst ends its hold on class G values (R74); those that a berth in OFF or FAULT holds too
wait for its UNPARK (R45). -/
def freeG (s : State) (q : Nat) : State :=
  loadFreed { s with par := { s.par with
    heldG := s.par.heldG.filter fun k => !idOfQuayG q (BitVec.ofNat 32 k) } }

/-- UNPARK ends a berth's hold (R45); class G values of a running quay wait for the end of its burst. -/
def freeBerth (s : State) (b : Nat) : State :=
  loadFreed { s with par := { s.par with
    heldB := s.par.heldB.filter fun k => !idOfBerth b (BitVec.ofNat 32 k) } }

/-- PendingG of a quay (R74): a class G value of its is held back by its running burst. -/
def pendingG (s : State) (q : Nat) : Bool :=
  s.par.heldG.any fun k => idOfQuayG q (BitVec.ofNat 32 k)

/-- A baked value of one parameter instance is stored and, unless held back (R45, R74), loads. -/
def bakeOne (s : State) (id v : Word) : State :=
  let sc := idScope id
  let i := idInst id
  let old := live s id
  let heldByRun := famClass (idFam id) = .g &&
    (match owningQuay sc i with
     | some q => (quayAt s q).running
     | none => false)
  let heldByBerth :=
    match owningBerth sc i with
    | some b => (berthAt s b).run = .off || (berthAt s b).run = .fault
    | none => false
  let s := if idFam id = 0x40 then forAll s (circuitsOf s i) fun s c => holdMod s (modTick s.tide) c else s
  let s := { s with par := { s.par with baked := tabSet s.par.baked id.toNat v } }
  let mark (on : Bool) (ks : List Nat) : List Nat :=
    if on then id.toNat :: ks.erase id.toNat else ks.erase id.toNat
  let s := { s with par := { s.par with
    heldG := mark heldByRun s.par.heldG, heldB := mark heldByBerth s.par.heldB } }
  if heldByRun || heldByBerth then
    { s with par := { s.par with held := tabSet s.par.held id.toNat old } }
  else onLoad { s with par := { s.par with held := tabErase s.par.held id.toNat } } id old v

end Sys2Proof.Machine
end

