-- ==== Sys2Proof/Machine/Timing.lean ====
section
/-! DEFINITION. The quay's timing: the effective period (R121), the period accumulator over a run
of vectors with the phase adjustments of R122, and granule boundaries (R160). -/

namespace Sys2Proof.Machine

/-- P' in 2^-16 units: Period and PeriodAdj (R121), never below the bounds of R122. -/
def effPeriod (s : State) (q set : Nat) : Nat :=
  let p : Int := (live s (pid 4 q 0x20 set)).toNat * (subUnits : Int) + liveS s 4 q 0x28 0
  Int.toNat (max p (625 * subUnits))

/-- The largest adjustment per vector (R122). -/
def phaseSlew (s : State) (q : Nat) : Nat := liveF s 4 q 0x28 2 0 9

/-- The adjustment a_n of one vector, in 2^-16 units as P' and the remainder are (R122). -/
def phaseAdj (p slew : Nat) (r : Int) : Int :=
  let most : Int := slew * subUnits
  let a := max (-most) (min r most)
  let a := max a ((625 * subUnits : Nat) - (p : Int))
  min a ((4000000000 * subUnits : Nat) - (p : Int))

/-- The length of `n` vectors in 2^-16 units and the remainder of phase after them: full steps of
a_n while the remainder lasts, one partial step, then none. -/
def runVectors (p slew : Nat) (r : Int) (n : Nat) : Nat × Int :=
  let a := phaseAdj p slew r
  if a = 0 then (n * p, r)
  else
    let full := Nat.min n (r.natAbs / a.natAbs)
    let r1 := r - a * full
    let len1 : Int := full * ((p : Int) + a)
    if full < n then
      let b := phaseAdj p slew r1
      ((len1 + ((p : Int) + b) + (n - full - 1 : Nat) * (p : Int)).toNat, r1 - b)
    else (len1.toNat, r1)

/-- The length of the last of `n` vectors, in 2^-16 units. -/
def lastVector (p slew : Nat) (r : Int) (n : Nat) : Nat :=
  let a := phaseAdj p slew r
  if a = 0 then p
  else
    let full := Nat.min n (r.natAbs / a.natAbs)
    if n ≤ full then ((p : Int) + a).toNat
    else if n = full + 1 then ((p : Int) + phaseAdj p slew (r - a * full)).toNat
    else p

/-- Where a run stands after `n` of its vectors. -/
def runAfter (r : VecRun) (n : Nat) : Nat × Int :=
  let k := runVectors r.period r.slew r.phase n
  (r.sPos + k.1, k.2)

/-- The runs of vectors last played, with the one that goes on from where a quay stands: the newest, if nothing has
changed since. -/
def runsNow (s : State) (q : Nat) : List VecRun :=
  let x := quayAt s q
  let p := effPeriod s q x.activeSet
  let here : VecRun := ⟨x.vectorIndex, x.sPos, x.phaseRemain, p, phaseSlew s q, x.activeSet⟩
  match x.runs with
  | r :: _ =>
    if r.period = p && r.slew = phaseSlew s q && r.set = x.activeSet && r.first ≤ x.vectorIndex &&
        runAfter r (x.vectorIndex - r.first) = (x.sPos, x.phaseRemain) then x.runs
    else (here :: x.runs).take 16
  | [] => [here]

/-- A quay plays `n` vectors from where it stands (R119, R122, R155). -/
def advance (s : State) (q n : Nat) : State :=
  let x := quayAt s q
  let p := effPeriod s q x.activeSet
  let r := runVectors p (phaseSlew s q) x.phaseRemain n
  setQuay s q { x with
    runs := runsNow s q
    vectorIndex := x.vectorIndex + n, played := x.played + n, sPos := x.sPos + r.1, phaseRemain := r.2
    lastLen := if n = 0 then x.lastLen else lastVector p (phaseSlew s q) x.phaseRemain n }

/-- The tide count that holds S. -/
def posTide (sPos : Nat) : Nat := sPos / (5000 * subUnits)

/-- S after `n` more vectors. -/
def posAfter (s : State) (q n : Nat) : Nat :=
  let x := quayAt s q
  x.sPos + (runVectors (effPeriod s q x.activeSet) (phaseSlew s q) x.phaseRemain n).1

/-- S of a vector of the burst and the timing set that it plays in, as the quay plays on; none for one played before the
runs that are kept. -/
def vectorAt (s : State) (q index : Nat) : Option (Nat × Nat) :=
  ((runsNow s q).find? fun r => r.first ≤ index).map fun r => ((runAfter r (index - r.first)).1, r.set)

/-- How many of the next vectors of a quay start before `t`, in 2^-16 units: the inverse of
`runVectors`. -/
def vectorsBefore (s : State) (q t : Nat) : Nat :=
  let x := quayAt s q
  let p := effPeriod s q x.activeSet
  let slew := phaseSlew s q
  let a := phaseAdj p slew x.phaseRemain
  let d := t - x.sPos
  if a = 0 then ceilDiv d p
  else
    let full := x.phaseRemain.natAbs / a.natAbs
    let long := ((p : Int) + a).toNat
    let b := ((p : Int) + phaseAdj p slew (x.phaseRemain - a * full)).toNat
    if d ≤ full * long then ceilDiv d long
    else if d ≤ full * long + b then full + 1
    else full + 1 + ceilDiv (d - full * long - b) p

/-- Vectors of a running quay that have started by the present tide count, from `vectorIndex` on. -/
def vectorsBegun (s : State) (q : Nat) : Nat := vectorsBefore s q (5000 * s.tide * subUnits + 1)

/-- VectorIndex (R178): the vector now at the ball while a burst runs. -/
def vectorNow (s : State) (q : Nat) : Nat :=
  let x := quayAt s q
  if x.running then x.vectorIndex + vectorsBegun s q - 1 else x.vectorIndex

/-- The remainder of phase (R122) after the vectors that have started, in 2^-16 units. -/
def phaseNow (s : State) (q : Nat) : Int :=
  let x := quayAt s q
  if x.running then
    (runVectors (effPeriod s q x.activeSet) (phaseSlew s q) x.phaseRemain (vectorsBegun s q)).2
  else x.phaseRemain

/-- The word that begins at S has not been produced when a request arrives (R160). -/
def boundaryOpen (sPos arrival : Nat) : Bool := arrival < posTide sPos - 160

/-- The first granule boundary ahead, of the `granules` of the pass or pause in hand, that a request can
take (R160). -/
def boundaryFor (s : State) (q arrival granules : Nat) : Option Nat :=
  let x := (quayAt s q).played
  let first := Nat.max 1 (ceilDiv x 64)
  findFrom (fun g => boundaryOpen (posAfter s q (64 * g - x)) arrival) first (granules + 1 - first)

/-- The pause of `g` granules that covers `units` at the present period (R158, R172). -/
def pauseGranules (s : State) (q units : Nat) : Nat :=
  Nat.max 1 (ceilDiv (units * subUnits) (64 * effPeriod s q (quayAt s q).activeSet))

end Sys2Proof.Machine
end

