-- ==== Sys2Proof/Machine/Capture.lean ====
section
/-! DEFINITION. Fail capture, results and the hold: counters and logs (R302 to R308), outcomes and
bins (R309, R310), the upload image (R311, R312), the hold map, ECC and stack state (R314 to R319). -/

namespace Sys2Proof.Machine

/-! ### The hold map (R314, R315) -/

def holdSize : Nat := 0xC00000000
def stackOf (a : Nat) : Nat := if a < 0x600000000 then 0 else 1

/-- An address lies in a pattern area (R314). -/
def inPattern (a : Nat) : Bool :=
  a < 0x580000000 || (0x600000000 ≤ a && a < 0xB80000000)

/-- A whole range lies in pattern areas. -/
def rangePattern (a n : Nat) : Bool :=
  inPattern a && inPattern (a + n - 1) && (stackOf a = stackOf (a + n - 1))

/-- The device region that holds a berth's spills. -/
def regionBase (b : Nat) : Nat := if b < 32 then 0x580000000 else 0xB80000000
def failRegion (b : Nat) : Nat := regionBase b + b % 32 * 0x1000000
def acqRegion (b : Nat) : Nat := regionBase b + 0x20000000 + b % 32 * 0x2000000
def captureRegion (b : Nat) : Nat := regionBase b + 0x60000000 + b % 32 * 0x400000

/-- A stack is down, or held by its thermal zone and handled as down (R319, R417). -/
def stackIsDown (s : State) (k : Nat) : Bool := natBit s.hold.stackDown k || natBit s.hold.stackHot k

/-- The stacks that a byte range touches. -/
def touches (a n k : Nat) : Bool := n ≠ 0 && (stackOf a = k || stackOf (a + n - 1) = k)

/-- The first uncorrectable 32-byte word of a range (R318). -/
def badWord (s : State) (a n : Nat) : Option Nat :=
  (s.hold.bad.find? fun e => decide (a / 32 ≤ e.1 ∧ e.1 ≤ (a + n - 1) / 32) && e.2).map (·.1)

/-- The words of a range with a single-bit error: a read corrects and counts them (R318). -/
def singleErrors (s : State) (a n : Nat) : Nat :=
  (s.hold.bad.filter fun e => decide (n ≠ 0 ∧ a / 32 ≤ e.1 ∧ e.1 ≤ (a + n - 1) / 32) && !e.2).length

/-- An uncorrectable word of a stack counts (R318); 16 of them within 1 ms bring the stack down, and with it the other
down, the device into FAULT (R319). -/
def eccNote (s : State) (k : Nat) : State :=
  let s := count s 6 0 0x78 2
  let ts := (k, s.tide) :: s.hold.eccTides.filter fun e => s.tide < e.2 + usTc 1000
  let down := if 16 ≤ (ts.filter fun e => e.1 = k).length then Nat.lor s.hold.stackDown (2 ^ k) else s.hold.stackDown
  let s : State := { s with hold := { s.hold with eccTides := ts, stackDown := down } }
  if s.hold.stackDown = 3 then devFaultEnter s 0x41 k else s

/-- Why a command cannot read a hold range: a stack that is down (R319), or an uncorrectable word,
which counts (R318). -/
def holdRead (s : State) (a n : Nat) : State × Option Verdict :=
  if n = 0 then (s, none)
  else if stackIsDown s 0 && touches a n 0 then (s, some (hwFault 0x41 0))
  else if stackIsDown s 1 && touches a n 1 then (s, some (hwFault 0x41 1))
  else match badWord s a n with
    | some w => (eccNote s (stackOf (32 * w)), some (hwFault 0x40 w))
    | none => (countN s 6 0 0x78 1 (singleErrors s a n), none)

/-- A read of several hold ranges, up to the first that fails. -/
def holdReadAll (s : State) (rs : List (Nat × Nat)) : State × Option Verdict :=
  rs.foldl (fun r e => match r.2 with
    | some _ => r
    | none => holdRead r.1 e.1 e.2) (s, none)

def setHold (s : State) (m : Mem) : State := { s with hold := { s.hold with mem := m } }

/-- Writing a hold range replaces its words, so their ECC is good again. -/
def holdWrite (s : State) (a : Nat) (bytes : List Byte) : State :=
  { s with hold := { s.hold with
    mem := memWriteBytes s.hold.mem a bytes
    bad := s.hold.bad.filter fun e => !(decide (a ≤ 32 * e.1 ∧ 32 * e.1 + 32 ≤ a + bytes.length)) } }

/-- The result-staging queue (R313, R315): 128 MiB in the region of each stack's device area, one after the other. -/
def stageBytes : Nat := 0x10000000
def stagePlace (k : Nat) : Nat :=
  if k < 0x8000000 then 0x580000000 + 0x68000000 + k else 0xB80000000 + 0x68000000 + (k - 0x8000000)

/-- A part of a result upload enters the queue, each byte at the next place, around its end (DESIGN CHOICE, log 126: the
rule gives no places within the regions). -/
def stagePart (s : State) (bytes : List Byte) : State :=
  let s := bytes.zipIdx.foldl (fun s e => holdWrite s (stagePlace ((s.hold.stageAt + e.2) % stageBytes)) [e.1]) s
  { s with hold := { s.hold with stageAt := (s.hold.stageAt + bytes.length) % stageBytes } }

/-! ### Counters (R303) -/

def sat32 : Nat := 2 ^ 32 - 1

/-- Site flags (R311). -/
def fStarved : Nat := 1
def fAborted : Nat := 2
def fLogLost : Nat := 4
def fLogFull : Nat := 8
def fCaptureLost : Nat := 16
def fSat : Nat := 64
def fSubst : Nat := 128

def setFlag (x : Fc) (f : Nat) : Fc := { x with flags := Nat.lor x.flags f }
def clearFlag (x : Fc) (f : Nat) : Fc := { x with flags := Nat.land x.flags (Nat.xor 0xFFFF f) }

/-- The clear of R304: counters of the positions, the fail log and the capture stream. -/
def clearResults (s : State) (b : Nat) : State :=
  let s := forAll s ((List.range 16).map (chanOfPos b)) fun s c =>
    modChan s c fun x => { x with failCount := 0, maskedCount := 0, firstFail := 2 ^ 64 - 1, failBurst := 0 }
  modFc s b fun x => { x with
    log := [], logTotal := 0, logSpilled := 0, logRefused := false, logFirsts := 0
    capture := [], captureTotal := 0, captureSpilled := 0
    flags := Nat.land x.flags (Nat.xor 0xFFFF (fLogLost + fLogFull + fCaptureLost + fSat)) }

/-- Increment a saturating 32-bit counter of a position (R303). -/
def bumpSat (n : Nat) : Nat := if n < sat32 then n + 1 else n

/-! ### Fail-log and capture entries (R305) -/

def resultCode (r : CmpResult) : Nat :=
  match r with
  | .low => 0
  | .high => 1
  | .mid => 2
  | .both => 3

/-- The 16 bytes of an entry: kind 0 fail, 1 capture, over the positions of a list. -/
def entryBytes (index : Nat) (seg : Byte) (kind pass : Nat) (rs : List PosResult) : List Byte :=
  let mask := rs.foldl (fun m r => Nat.lor m (2 ^ r.pos.val)) 0
  let res := rs.foldl (fun m r => Nat.lor m (resultCode r.result * 4 ^ r.pos.val)) 0
  leBytes 6 index ++ [seg, BitVec.ofNat 8 kind] ++ leBytes 2 mask ++ leBytes 4 res ++ leBytes 2 pass

/-- A result fails its compare code (R107, R302). -/
def fails (r : PosResult) : Bool :=
  match r.code.toNat with
  | 2 => r.result ≠ .low
  | 3 => r.result ≠ .high
  | 4 => r.result ≠ .mid
  | _ => false

def logRegionEntries : Nat := 1048576
def logDieEntries : Nat := 65536
def captureRegionEntries : Nat := 262144
def captureDieEntries : Nat := 4096

/-- An entry for the fail log (R306). -/
def logEntry (s : State) (b : Nat) (e : List Byte) : State :=
  let x := (berthAt s b).fc
  let wrap := liveF s 3 b 0x79 0 3 1 = 1
  if !wrap && logRegionEntries ≤ x.logTotal then
    count (modFc s b fun x => setFlag { x with logRefused := true } fLogFull) 3 b 0x7C 2
  else if logDieEntries ≤ x.log.length then
    count (modFc s b fun x => setFlag { x with logRefused := true } fLogLost) 3 b 0x7C 2
  else modFc s b fun x => { x with log := x.log ++ [e], logTotal := x.logTotal + 1 }

/-- An entry for the capture stream (R307). -/
def captureEntry (s : State) (b : Nat) (e : List Byte) : State :=
  let x := (berthAt s b).fc
  if captureDieEntries ≤ x.capture.length || captureRegionEntries ≤ x.captureTotal then
    count (modFc s b fun x => setFlag x fCaptureLost) 3 b 0x7C 4
  else modFc s b fun x => { x with capture := x.capture ++ [e], captureTotal := x.captureTotal + 1 }

/-- Write entries into a region at 16 bytes each, wrapping at its size. -/
def spillEntries (s : State) (base size first : Nat) (es : List (List Byte)) : State :=
  match es with
  | [] => s
  | e :: rest => spillEntries (holdWrite s (base + first % size * 16) e) base size (first + 1) rest

/-- The spill of the first `n` fail-log entries on die (R306): written, or lost with a stack that
is down (R319), where they have no number, as if refused (DESIGN CHOICE, log 109); entries of a full region that are
overwritten count in LogWrapped. -/
def spillLog (s : State) (b n : Nat) : State :=
  let x := (berthAt s b).fc
  let es := x.log.take n
  let lost := (x.logSpilled + es.length - logRegionEntries) - (x.logSpilled - logRegionEntries)
  let s' := modFc s b fun y => { y with log := y.log.drop n, logSpilled := y.logSpilled + es.length }
  if stackIsDown s (stackOf (regionBase b)) then
    countN (modFc s b fun y => setFlag { y with
      log := y.log.drop n, logTotal := y.logTotal - es.length, logRefused := true } fLogLost) 3 b 0x7C 2 es.length
  else countN (spillEntries s' (failRegion b) logRegionEntries x.logSpilled es) 3 b 0x7C 3 lost

/-- The spill of the first `n` capture entries on die (R307), lost with a stack that is down as fail-log entries are. -/
def spillCapture (s : State) (b n : Nat) : State :=
  let x := (berthAt s b).fc
  let es := x.capture.take n
  let s' := modFc s b fun y =>
    { y with capture := y.capture.drop n, captureSpilled := y.captureSpilled + es.length }
  if stackIsDown s (stackOf (regionBase b)) then
    countN (modFc s b fun y => setFlag { y with
      capture := y.capture.drop n, captureTotal := y.captureTotal - es.length } fCaptureLost) 3 b 0x7C 4 es.length
  else spillEntries s' (captureRegion b) captureRegionEntries x.captureSpilled es

/-! ### Outcome and bin (R309, R310) -/

/-- The outcome of a burst by its HaltCause and the failing vectors of a berth. -/
def outcomeOf (cause failVectors : Nat) : Nat :=
  if cause = 2 ∨ cause = 5 ∨ cause = 6 ∨ cause = 7 ∨ cause = 8 then 3
  else if failVectors = 0 then 1 else 2

/-- The bin of an outcome: BinInvalid, BinPass, SegBin of the earliest failing segment, BinFail. -/
def binOf (s : State) (q outcome : Nat) (seg : Option Nat) : Nat :=
  match outcome with
  | 3 => liveF s 4 q 0x7A 1 0 16
  | 1 => liveF s 4 q 0x7A 0 0 16
  | _ =>
    let sb := match seg with
      | some g => liveF s 4 q 0x7B g 0 16
      | none => 0xFFFF
    if sb = 0xFFFF then liveF s 4 q 0x7A 0 16 16 else sb

/-- One armed berth takes its outcome. -/
def takeOutcome (s : State) (q b : Nat) : State :=
  let cause := (quayAt s q).haltCause
  let x := (berthAt s b).fc
  let o := outcomeOf cause x.failVectors
  let x := clearFlag (clearFlag x fStarved) fAborted
  let x := if cause = 2 then setFlag x fStarved else x
  let x := if cause = 1 ∨ cause = 3 ∨ cause = 4 then setFlag x fAborted else x
  modFc s b fun _ => { x with outcome := o, bin := binOf s q o x.earliestSeg }

/-- The outcome of a ganged site over its members (R309). -/
def worse (a b : Nat) : Nat := if a = 3 ∨ b = 3 then 3 else if a = 2 ∨ b = 2 then 2 else Nat.max a b

/-- The leader of a ganged site carries the site's outcome and bin (R309, R310), over its members that were armed in the
burst. -/
def takeSite (s : State) (q b : Nat) (armed : List Nat) : State :=
  let ms := (gangOf s b).filter armed.contains
  if (gangOf s b).length < 2 ∨ leaderOf s b ≠ b then s
  else
    let o := ms.foldl (fun o m => worse o (berthAt s m).fc.outcome) 0
    let first := ms.foldl (fun (best : Nat × Option Nat) m =>
      let y := (berthAt s m).fc
      if y.earliestSeg.isSome && y.earliestIndex < best.1 then (y.earliestIndex, y.earliestSeg)
      else best) (2 ^ 64, none)
    modFc s b fun x => { x with outcome := o, bin := binOf s q o first.2 }

/-! ### Upload image (R311) -/

/-- The flags a site block shows: those kept, IN_BURST and RELIEVED. -/
def siteFlags (s : State) (b : Nat) : Nat :=
  let x := berthAt s b
  Nat.lor (Nat.lor x.fc.flags (if x.run = .running then 32 else 0)) (if x.subst = 2 then 256 else 0)

/-- The earliest first fail of the berth's positions since the clear: its burst and its index (R304, R311). -/
def berthFirst (s : State) (b : Nat) : Nat × Nat :=
  (List.range 16).foldl (fun best k =>
    let x := chanAt s (chanOfPos b k)
    if x.firstFail = 2 ^ 64 - 1 then best
    else if best.2 = 2 ^ 64 - 1 ∨ x.failBurst < best.1 ∨ (x.failBurst = best.1 ∧ x.firstFail < best.2) then
      (x.failBurst, x.firstFail)
    else best) (0, 2 ^ 64 - 1)

def siteBlock (s : State) (b : Nat) : List Byte :=
  let x := (berthAt s b).fc
  leBytes 1 (b + (if leaderOf s b = b then 64 else 0)) ++ leBytes 1 x.outcome ++
    leBytes 2 (siteFlags s b) ++ leBytes 2 x.bin ++ leBytes 2 ((berthFirst s b).1 % 65536) ++
    leBytes 4 x.burstNo ++ leBytes 4 x.failVectors ++ leBytes 8 (berthFirst s b).2 ++
    leBytes 4 x.captureTotal ++ leBytes 4 x.logTotal

def pinBlock (s : State) (b : Nat) : List Byte :=
  (List.range 16).flatMap fun k =>
    let c := chanAt s (chanOfPos b k)
    leBytes 4 c.failCount ++ leBytes 4 c.maskedCount ++ leBytes 8 c.firstFail

/-- Entry `n` of a stream: on die, or in its region of the hold. -/
def streamEntry (s : State) (base size spilled : Nat) (die : List (List Byte)) (n : Nat) : List Byte :=
  if spilled ≤ n then (die[n - spilled]?).getD (List.replicate 16 0#8)
  else memReadBytes s.hold.mem (base + n % size * 16) 16

def captureBlock (s : State) (b : Nat) : List Byte :=
  let x := (berthAt s b).fc
  leBytes 4 x.captureTotal ++ leBytes 4 (ackOf s (pid 3 b 0x7C 4)).c.toNat ++
    List.replicate 8 0#8 ++
    (List.range x.captureTotal).flatMap
      (streamEntry s (captureRegion b) captureRegionEntries x.captureSpilled x.capture)

/-- The selected blocks of a berth, in the order site, pin, capture. -/
def berthPart (s : State) (mask : Byte) (b : Nat) : List Byte :=
  (if mask.getLsbD 0 then siteBlock s b else []) ++ (if mask.getLsbD 1 then pinBlock s b else []) ++
    (if mask.getLsbD 2 then captureBlock s b else [])

/-- A device header (R311); BerthCount is 0 where the part is missing. -/
def uploadHeader (index mask sc n first gen snap bytes : Nat) (missing : Bool) : List Byte :=
  padTo 64 (leBytes 1 1 ++ leBytes 1 64 ++ leBytes 1 index ++ leBytes 1 (if missing then 1 else 0) ++
    leBytes 1 mask ++ leBytes 1 sc ++ leBytes 1 n ++ leBytes 1 first ++ leBytes 4 gen ++
    leBytes 8 snap ++ leBytes 4 bytes)

/-- This device's part of an upload. -/
def uploadPart (s : State) (mask : Byte) (sc : Nat) (bs : List Nat) : List Byte :=
  let body := bs.flatMap (berthPart s mask)
  uploadHeader s.chain.index mask.toNat sc bs.length ((bs.head?).getD 0) s.par.generation.toNat
    s.tide (64 + body.length) false ++ body

/-- The hold ranges that an upload with captures reads (R318, R319). -/
def uploadRead (s : State) (mask : Byte) (bs : List Nat) : State × Option Verdict :=
  if !mask.getLsbD 2 then (s, none)
  else holdReadAll s (bs.map fun b => (captureRegion b, 16 * (berthAt s b).fc.captureSpilled))

end Sys2Proof.Machine
end

