-- ==== Sys2Proof/Machine/Cal.lean ====
section
/-! DEFINITION. Self-calibration and spare substitution (R377 to R401): runs, their steps, the
calibration strobes, relief, and how a run ends. -/

namespace Sys2Proof.Machine

def calAt (s : State) (b : Nat) : Cal := (berthAt s b).cal

/-- A sensor's reading in 0.0625 degree C, rounded down from the internal resolution (R404). -/
def temp16 (s : State) (i : Nat) : Option Int := (sensorAt s i).reading.map (· / 16)

/-- A run, a RELIEVE or an UNRELIEVE is in progress on the berth. -/
def calBusy (s : State) (b : Nat) : Bool := (calAt s b).runState ≠ 0

/-- AutoSuspended (R382). -/
def autoSuspended (s : State) (b : Nat) : Bool := (berthAt s b).subst = 2 || (calAt s b).spareBad

/-- A calibration bake is pending (R384). -/
def calBakePend (s : State) : Bool :=
  match s.par.pendBake with
  | some p => p.cal.isSome
  | none => false

/-! ### Readiness and calibration bakes (R383, R384) -/

/-- CalStrobe OWN: with no bake pending, the device schedules a calibration bake for a ready step. -/
def calSchedule (s : State) (b : Nat) : State :=
  match (calAt s b).readyAt, s.par.pendBake with
  | some r, none =>
    { s with par := { s.par with
      pendBake := some { instant := Nat.max (r + 1600) (s.tide + 1), tray := 0, cal := some b } } }
  | _, _ => s

def calOwn (s : State) (b : Nat) : State :=
  if liveF s 3 b 0x90 0 12 2 = 0 then calSchedule s b else s

/-- The step in hand becomes ready at `at_`. -/
def calReady (s : State) (b step at_ : Nat) : State :=
  calOwn (modCal s b fun x => { x with step := step, readyAt := some at_ }) b

/-- After a strobe, or after a bake that ended without loading, OWN berths schedule again. -/
def calReschedule (s : State) : State := forAll s (List.range 64) calOwn

/-- Steps that rode on a bake that did not load become ready again (R384). -/
def calReadyAgain (s : State) : State :=
  calReschedule (forAll s (List.range 64) fun s b =>
    modCal s b fun x => { x with readyAt := x.readyAt.map fun _ => s.tide })

/-! ### Results of a run -/

/-- A position (bit 0 to 15), the spare (16) or the berth items (17) are skipped with a reason. -/
def calSkip (s : State) (b n reason : Nat) : State :=
  count (modCal s b fun x => { x with
    skipped := Nat.lor x.skipped (2 ^ n), reasons := tabSet x.reasons n reason }) 3 b 0x92 5

def calDone (s : State) (b n : Nat) : State :=
  modCal s b fun x => { x with done := Nat.lor x.done (2 ^ n) }

/-- The number of set bits among the first `n`. -/
def bitCount (v n : Nat) : Nat := ((List.range n).filter fun k => natBit v k).length

/-- Items that failed their limits on a circuit (R387): LimitFail gathers those of the run (R401). -/
def calLimits (s : State) (b c items failed : Nat) : State :=
  let bad := Nat.land items failed
  let all := Nat.lor (tabGet 0 (calAt s b).fails c) bad
  let s := modChan s c fun x => { x with limitFail := all }
  let s := modCal s b fun x => { x with limits := x.limits + bitCount bad 11, fails := tabSet x.fails c all }
  countN s 3 b 0x92 6 (bitCount bad 11)

def lowestBit (v : Nat) : Nat := ((findFrom (natBit v) 0 18)).getD 31

/-- The reply data of CAL_RUN (R391). -/
def calReply (x : Cal) : List Byte :=
  let reason := if x.skipped = 0 then 0 else tabGet 0 x.reasons (lowestBit x.skipped)
  dataOf [(16, 4, x.done), (20, 4, x.skipped), (24, 1, reason), (25, 1, Nat.min 255 x.limits)]

/-- The corrections of a circuit for some items become live: the run counts once for the circuit, with all that it has
loaded of it (R380, R381, R401), and the position or the spare is done (R391). -/
def calLoadOne (s : State) (b c items : Nat) : State :=
  let before := tabGet 0 (calAt s b).loaded c
  let all := Nat.lor before items
  let t := (calAt s b).startTemp
  let s := modChan s c fun x => { x with
    corrGen := x.corrGen + 1, corrAt := modTick s.tide, calTide := s.tide, calTemp := t
    calCount := if before = 0 then x.calCount + 1 else x.calCount
    lastItems := all, calCurrent := x.calCurrent || Nat.land all 15 = 15 }
  calDone (modCal s b fun x => { x with loaded := tabSet x.loaded c all }) b (if c < 1024 then c % 16 else 16)

/-- Corrections whose strobe has come become live (R380, R381), those of berth items at the last strobe (R390). -/
def calLoad (s : State) (b : Nat) : State :=
  let x := calAt s b
  let s := x.loads.foldl (fun s e => calLoadOne s b e.1 e.2) s
  let s := modCal s b fun x => { x with loads := [] }
  if x.step = 3 && x.left = [] && x.pathLeft = [] && x.serviceLoads ≠ 0 then
    calDone (modCal s b fun x => { x with serviceLoads := 0 }) b 17
  else s

/-! ### The end of a run -/

def calIdle (x : Cal) : Cal := { x with
  runState := 0, step := 0, curPos := 31, runSource := 0, purpose := 0, items := 0, left := []
  pathLeft := [], services := 0, spareItems := 0, loads := [], serviceLoads := 0, inPlace := false, convert := false
  committed := false, done := 0, skipped := 0, reasons := [], limits := 0, readyAt := none
  undoStatus := none, covered := [], loaded := [], fails := [], pathDone := 0 }

/-- The commands joined to a berth's run. -/
def calCmd (b : Nat) (c : Cmd) : Bool :=
  match c.work with
  | .cal x => x = b
  | .relieve x _ => x = b
  | .unrelieve x => x = b
  | _ => false

/-- A run ends as its sequence says (R386): LastTemp, LastTide and RunCount are updated. -/
def calEnd (s : State) (b : Nat) : State :=
  let x := calAt s b
  let s := modCal s b fun x => { calIdle x with
    runCount := x.runCount + 1, lastTide := s.tide, lastTemp := x.startTemp, lastStart := x.startTide }
  completeAll s (calCmd b) (stOk, calReply x)

/-- An undone run ends with the status that its abort named (R392). -/
def calEndUndone (s : State) (b : Nat) : State :=
  let x := calAt s b
  let s := modCal s b calIdle
  completeAll s (calCmd b) ((x.undoStatus).getD (stOk, calReply x))

/-- RELIEVE or UNRELIEVE ends. -/
def calEndRelief (s : State) (b : Nat) (v : Nat → Verdict) : State :=
  let k := (calAt s b).curPos
  completeAll (modCal s b calIdle) (calCmd b) (v (chanOfPos b k))

/-! ### Services (R390) -/

/-- Whether the service that an item needs is free. -/
def serviceFree (s : State) (b item : Nat) : Bool :=
  let x := berthAt s b
  match item with
  | 8 => x.acq.state = 0 && (chansOfBerth b).all fun c =>
      match (chanAt s c).ppmu with
      | some r => r.slow
      | none => true
  | 9 => x.tmu.state = 0 || x.tmu.state = 3
  | _ => (spAt s (leaderOf s b)).state = .off

/-- Measure one berth item if its service is free (R390). Bit 17 of the reply's mask says that one completed (R391): one
that failed its limits at once, another when its corrections load. -/
def measureService (s : State) (b failed item : Nat) : State :=
  if natBit (calAt s b).services item && serviceFree s b item then
    let s := modCal s b fun x => { x with services := x.services - 2 ^ item }
    if natBit failed item then
      count (calDone (modCal s b fun x => { x with limits := x.limits + 1 }) b 17) 3 b 0x92 6
    else modCal s b fun x => { x with serviceLoads := Nat.lor x.serviceLoads (2 ^ item) }
  else s

def measureServices (s : State) (b failed : Nat) : State :=
  forAll s [8, 9, 10] fun s n => measureService s b failed n

/-! ### The sequence (R386 to R389) -/

/-- Nothing but berth items is left: one whose service is free is measured, each whose service is still busy is skipped,
corrections that still wait take a strobe, and the run ends (R390). -/
def calClose (s : State) (b : Nat) : State :=
  let x := calAt s b
  if [8, 9, 10].any fun n => natBit x.services n && serviceFree s b n then
    modCal s b fun x => { x with runState := 3, step := 1, curPos := 31, readyAt := none }
  else
    let s := forAll s ([8, 9, 10].filter (natBit x.services)) fun s _ => calSkip s b 17 3
    let s := modCal s b fun x => { x with services := 0 }
    if x.loads = [] && x.serviceLoads = 0 then calEnd s b
    else calReady (modCal s b fun x => { x with curPos := 31 }) b 3 s.tide

/-- No position is left: PATH (R389), unless the spare is relieved or the berth not PARKED with its controller OFF,
then the end. -/
def calTail (s : State) (b : Nat) : State :=
  match (calAt s b).pathLeft with
  | k :: rest =>
    if (berthAt s b).subst = 2 then calClose (calSkip (modCal s b fun x => { x with pathLeft := [] }) b 16 1) b
    else if (berthAt s b).run = .parked && (spAt s (leaderOf s b)).state = .off then
      modBerth (modCal s b fun x => { x with
        runState := 2, step := 1, curPos := k, inPlace := true, pathLeft := rest, readyAt := none }) b
        fun y => { y with target := k }
    else calClose (calSkip (modCal s b fun x => { x with pathLeft := [] }) b 16 4) b
  | [] => calClose s b

/-- The disconnect switch of a position measured in place that carries its pin, in a berth that is PARKED and RELIEVED
(R388): open for the measurements, then as its mode gives. -/
def calSwitch (s : State) (b k : Nat) (opened : Bool) : State :=
  let c := chanOfPos b k
  if k < 16 && (berthAt s b).subst = 2 && k ≠ (calAt s b).relievedPos then
    modChan s c fun x => { x with connect := !opened && x.mode ≠ 0 && !pathOpen s c }
  else s

/-- A measurement in place ends. -/
def calSwitchBack (s : State) (b : Nat) : State :=
  let x := calAt s b
  if x.inPlace && x.step = 1 then calSwitch s b x.curPos false else s

/-- Take the next position of a run; `from_` is when its step becomes ready, `released` whether the
release of the position before is still under way. -/
def calPositions (s : State) (b : Nat) (ks : List Nat) (from_ : Nat) (released : Bool) : State :=
  match ks with
  | [] =>
    let s := modCal s b fun x => { x with left := [], step := 0, curPos := 31, readyAt := none }
    if released then s else calTail s b
  | k :: rest =>
    let y := berthAt s b
    if y.subst = 2 && y.run ≠ .parked then calPositions (calSkip s b k 1) b rest from_ released
    else if y.subst ≠ 2 && y.cal.spareBad then calPositions (calSkip s b k 2) b rest from_ released
    else if (y.subst = 2 && !released) || (chanAt s (chanOfPos b k)).mode = 0 then
      calSwitch (modCal s b fun x => { x with
        runState := 2, step := 1, curPos := k, inPlace := true, left := rest, readyAt := none }) b k true
    else
      calReady (modCal s b fun x => { x with
        runState := 2, curPos := k, inPlace := false, left := rest }) b 2 from_

/-- The run holds channel items that its spare has not been measured for (R386, R391). -/
def spareNeeded (s : State) (b : Nat) : Bool :=
  let x := calAt s b
  (berthAt s b).subst ≠ 2 && Nat.land (Nat.land x.items 15) (Nat.xor 15 (Nat.land x.spareItems 15)) ≠ 0

/-- The spare is joined to the calibration bus and measured (R386, R138). -/
def spareMeasure (s : State) (b : Nat) : State :=
  modBerth s b fun y => { y with
    target := 16, cal := { y.cal with runState := 1, step := 1, curPos := 16, inPlace := false, readyAt := none } }

/-- The run goes on: with the spare or with positions for what has joined it meanwhile (R391), or with its tail. -/
def calNext (s : State) (b : Nat) : State :=
  if spareNeeded s b then spareMeasure s b
  else match (calAt s b).left with
  | [] => calTail s b
  | ks => calPositions s b ks s.tide false

/-- A run starts (R382, R386, R391): the spare first if the run holds a channel item and the spare
is free of relief, then the positions, then the berth items. PATH takes the positions of the run, all 16 in a run of the
spare alone (DEDUCED, log 24). -/
def calStart (s : State) (b items source : Nat) (positions : List Nat) : State :=
  let chans := Nat.land items 15
  let s := modCal s b fun x => { calIdle x with
    runSource := source, items := items, left := if chans = 0 then [] else positions
    pathLeft := if !natBit items 4 then [] else if positions = [] then List.range 16 else positions
    services := Nat.land items 0x700, startTide := s.tide
    startTemp := (temp16 s b).getD x.lastTemp }
  if spareNeeded s b then spareMeasure s b
  else if chans ≠ 0 then
    let s := if (berthAt s b).run ≠ .parked || positions = [] then calSkip s b 16 1 else s
    calPositions s b (calAt s b).left s.tide false
  else if Nat.land items 0x700 ≠ 0 then modCal s b fun x => { x with runState := 3, step := 1 }
  else calTail (modCal s b fun x => { x with runState := 2 }) b

/-- The spare has been measured. -/
def calSpareDone (s : State) (b failed : Nat) : State :=
  let x := calAt s b
  let items := Nat.land x.items 15
  let s := calLimits s b (1024 + b) items failed
  let bad := Nat.land items failed ≠ 0
  let s := modCal s b fun x => { x with spareBad := if bad then true else if items = 15 then false else x.spareBad }
  let s := modBerth s b fun y => { y with
    target := 31
    cal := { y.cal with loads := y.cal.loads ++ [(1024 + b, items)], spareItems := Nat.lor y.cal.spareItems items } }
  if x.purpose = 1 then
    if bad then calEndRelief s b fun _ => hwFault 0x60 (1024 + b)
    else
      let k := (x.left.head?).getD 0
      calReady (modCal s b fun x => { x with runState := 2, curPos := k, left := [] }) b 2 s.tide
  else calPositions s b x.left s.tide false

/-- A position's own circuit has been measured (R386, R387). -/
def calPosDone (s : State) (b failed : Nat) : State :=
  let x := calAt s b
  let c := chanOfPos b x.curPos
  let items := Nat.land x.items 15
  let bad := Nat.land items failed ≠ 0
  let s := calLimits (calSwitchBack s b) b c items failed
  if x.purpose = 2 then
    if bad then calEndRelief s b fun ch => hwFault 0x60 ch
    else calReady (modCal s b fun x => { x with loads := x.loads ++ [(c, items)], inPlace := false }) b 3 s.tide
  else if bad && liveF s 3 b 0x90 0 14 1 = 1 && !x.inPlace then
    let s := calSkip s b x.curPos 5
    let s := forAll s x.left fun s k => calSkip s b k 1
    calReady (modCal s b fun x => { x with convert := true, left := [] }) b 3 s.tide
  else
    calReady (modCal s b fun x => { x with
      loads := x.loads ++ [(c, items)], covered := tabSet x.covered x.curPos (Nat.lor (tabGet 0 x.covered x.curPos) items) })
      b 3 s.tide

/-- A PATH position has been measured (R389): the corrections of all wait for the strobe once the last one has been. -/
def calPathDone (s : State) (b failed : Nat) : State :=
  let s := calLimits s b (1024 + b) 16 failed
  let s := modBerth s b fun y => { y with target := 31 }
  let s := modCal s b fun x => { x with
    loads := if x.pathLeft = [] then x.loads ++ [(1024 + b, 16)] else x.loads
    pathDone := Nat.lor x.pathDone (2 ^ x.curPos), spareBad := x.spareBad || natBit failed 4 }
  calNext (modCal s b fun x => { x with step := 0, curPos := 31, inPlace := false }) b

/-! ### Strobes -/

/-- A strobe at `i` on one berth: the step that is ready since 1,600 tc is taken (R383), unless a
handover or release is still under way (R386). -/
def calStrobeBerth (i : Nat) (s : State) (b : Nat) : State :=
  let x := calAt s b
  match x.readyAt with
  | none => s
  | some r =>
    if !decide (r + 1600 ≤ i) || substMoving s b then s
    else
      let s := modCal s b fun x => { x with readyAt := none }
      match x.step with
      | 2 => handoverStart (calLoad (modCal s b fun x => { x with step := 1 }) b) b x.curPos
      | 3 =>
        let s := calLoad s b
        if x.convert then
          calNext (modBerth s b fun y => { y with
            subst := 2, cal := { y.cal with relievedPos := x.curPos, convert := false } }) b
        else if x.curPos < 16 && x.inPlace then calNext s b
        else if x.curPos < 16 && x.purpose = 2 then releaseStart (modCal s b fun x => { x with step := 1 }) b
        else if x.curPos < 16 then
          let s := releaseStart (modCal s b fun x => { x with committed := true }) b
          if spareNeeded s b then modCal s b fun x => { x with step := 0, curPos := 31 }
          else calPositions s b x.left (s.tide + 64) true
        else calNext s b
      | 4 => releaseStart s b
      | _ => s

/-- Restored corrections load at the next strobe (R396, R381). -/
def calRestoreLoad (s : State) (b : Nat) : State :=
  match (calAt s b).restore with
  | none => s
  | some t =>
    let far := match temp16 s b with
      | some r => decide (80 < (r - t).natAbs)
      | none => false
    let s := modCal s b fun x => { x with restore := none, lastTemp := t }
    forAll s (chansOfBerth b) fun s c => modChan s c fun x =>
      { x with corrGen := x.corrGen + 1, corrAt := modTick s.tide, calTemp := t, calCurrent := x.calCurrent && !far }

/-- What a bake strobe at `i` does for calibration. -/
def calStrobe (s : State) (i : Nat) : State :=
  forAll (forAll s (List.range 64) calRestoreLoad) (List.range 64) (calStrobeBerth i)

/-! ### The 384 tc event (R134) as calibration sees it -/

/-- A handover has ended: Subst becomes CAL, or RELIEVED for a RELIEVE (R393). A run that is being undone is released,
in FAULT after CLEAR_FAULT only (R397). -/
def calHandedOver (s : State) (b : Nat) : State :=
  let x := calAt s b
  if x.purpose = 1 then
    let s := modBerth s b fun y => { y with subst := 2, cal := { y.cal with relievedPos := y.target } }
    calEndRelief s b fun c => (stOk, dataOf [(16, 2, stateCode s 2 c)])
  else
    let s := modBerth s b fun y => { y with subst := 1 }
    if x.step = 4 && (berthAt s b).run ≠ .fault then calReady s b 4 s.tide else s

/-- A release has ended: Subst becomes 0 and the run goes on or ends (R386, R392, R394). -/
def calReleased (s : State) (b : Nat) : State :=
  let s := modBerth s b fun y => { y with
    subst := 0, target := 31, cal := { y.cal with relievedPos := 31 } }
  let x := calAt s b
  if x.purpose = 2 then calEndRelief s b fun c => (stOk, dataOf [(16, 2, stateCode s 2 c)])
  else if x.step = 4 then calEndUndone s b
  else if x.runState ≠ 0 && x.step = 0 then calNext s b
  else s

/-! ### A berth that leaves PARKED (R388, R389) -/

/-- The item PATH is in progress: the spare's switch is closed beside the own circuit (R389). -/
def inPath (s : State) (b : Nat) : Bool :=
  (berthAt s b).seqPhase = 0 && (berthAt s b).target = (calAt s b).curPos && (calAt s b).curPos < 16

/-- A berth that left PARKED ends the item PATH (R389). -/
def pathLeave (s : State) (b : Nat) : State :=
  calNext (calSkip (modBerth s b fun y => { y with
    target := 31, cal := { y.cal with pathLeft := [], step := 0, curPos := 31, inPlace := false } }) b 16 4) b

/-- The item PATH ends, and a measurement that needs an open pin on a RELIEVED berth is skipped. -/
def calUnparked (s : State) (b : Nat) : State :=
  let x := calAt s b
  if x.step ≠ 1 then s
  else if inPath s b then pathLeave s b
  else if x.inPlace && x.curPos < 16 && x.purpose = 0 && (berthAt s b).subst = 2 && x.curPos ≠ x.relievedPos &&
      liveMode s (chanOfPos b x.curPos) ≠ 0 then
    calNext (calSkip (modCal (calSwitchBack s b) b fun y => { y with step := 0, curPos := 31, inPlace := false }) b x.curPos 1) b
  else s

/-! ### Ends from outside (R392, R397) -/

/-- The run stops: the measurement ends, a position in handover is released with its previous
corrections at the next calibration strobe; `v` is the status of a CAL_RUN that waits for it. -/
def calUndo (s : State) (b : Nat) (v : Option Verdict) : State :=
  let y := berthAt s b
  if y.cal.runState = 0 ∨ y.cal.step = 4 then s
  else
    let s := modCal (calSwitchBack s b) b fun x => { x with
      left := [], pathLeft := [], services := 0, loads := [], serviceLoads := 0, convert := false
      readyAt := none, undoStatus := v }
    if y.seqPhase = 3 && y.subst ≠ 2 then calReady s b 4 s.tide
    else if y.seqPhase = 0 ∨ y.subst = 2 then
      calEndUndone (if y.seqPhase = 0 then modBerth s b fun z => { z with target := 31 } else s) b
    else modCal s b fun x => { x with step := 4 }

/-- A thermal stop or a reference loss ends the run (R397, R484): its commands complete at once (R418); a
position in handover is still released at the next calibration strobe. -/
def calStop (s : State) (b : Nat) (v : Verdict) : State :=
  if (calAt s b).runState = 0 ∨ (calAt s b).step = 4 then s
  else calUndo (completeAll s (calCmd b) v) b none

/-- A berth fault ends the run (R397): corrections not yet loaded are lost; a position in handover
stays as it is until a calibration strobe after CLEAR_FAULT. -/
def calFault (s : State) (b : Nat) : State :=
  let y := berthAt s b
  if y.cal.runState = 0 then s
  else if y.seqPhase ≠ 0 && y.subst ≠ 2 then
    modCal s b fun x => { x with
      step := 4, left := [], pathLeft := [], services := 0, loads := [], serviceLoads := 0
      convert := false, readyAt := none }
  else modCal (if y.seqPhase = 0 then modBerth s b fun z => { z with target := 31 } else s) b calIdle

/-- After CLEAR_FAULT the release of a position left in handover becomes ready (R397). -/
def calResume (s : State) (b : Nat) : State :=
  let y := berthAt s b
  if y.cal.step = 4 && y.seqPhase = 3 then calReady s b 4 s.tide else s

end Sys2Proof.Machine
end

