-- ==== Sys2Proof/Machine/Acquire.lean ====
section
/-! DEFINITION. The acquisition engine (R218 to R234): the copied setup, triggers, decimation,
record measurements, the record image, and records held in the hold. -/

namespace Sys2Proof.Machine

def acqAt (s : State) (b : Nat) : Acq := (berthAt s b).acq

/-! ### The setup as copied (R218, R238, R239) -/

/-- The IDs of the words of setup `n`, in the order of `Acq.setup`. -/
def setupIds (b n : Nat) : List Word :=
  [pid 3 b 0x52 n, pid 3 b 0x53 n, pid 3 b 0x54 n] ++
    (List.range 5).map (fun w => pid 3 b 0x55 (8 * n + w)) ++
    (List.range 4).map (fun w => pid 3 b 0x56 (8 * n + w))

def copySetup (s : State) (b n : Nat) : List Word := (setupIds b n).map (baked s)

def setupWord (x : List Word) (k : Nat) : Word := (x[k]?).getD 0

def convMask (x : List Word) : Nat := fld (setupWord x 0) 0 2
def convCount (x : List Word) : Nat := convMask x % 2 + convMask x / 2
def inputCode (x : List Word) (conv : Nat) : Nat := fld (setupWord x 0) (2 + 7 * conv) 7
def gainOf (x : List Word) (conv : Nat) : Nat := fld (setupWord x 0) (16 + conv) 1
def log2Base (x : List Word) : Nat := fld (setupWord x 0) 18 4
def trigConv (x : List Word) : Nat := fld (setupWord x 0) 22 1
def setupRecords (x : List Word) : Nat := fld (setupWord x 0) 24 8
def trigEnable (x : List Word) (n : Nat) : Bool := bit (setupWord x 2) n
def setupTrigTide (x : List Word) : Nat := (setupWord x 6).toNat + (setupWord x 7).toNat * 2 ^ 32

/-- A current input, on which gain 8 is not allowed (R212). -/
def isCurrentInput (c : Nat) : Bool := (0x20 ≤ c && c < 0x30) || c = 0x41

/-- A converter samples position `k` (R212). -/
def samplesPos (x : List Word) (k : Nat) : Bool :=
  (List.range 2).any fun v => natBit (convMask x) v &&
    (inputCode x v = k || inputCode x v = 0x20 + k)

/-! ### Buffer (R224, R225) -/

/-- Unspilled bytes of the record buffer: the reserved ring, the stored samples of the open record,
the closed records not yet spilled, less what of them was spilled while they were open. Of an open record only
post-trigger samples spill, and the whole ring counts until the engine is idle (R225; DESIGN CHOICE, log 119). -/
def bufferFill (x : Acq) : Nat :=
  let n := convCount x.setup
  Nat.min 524288 ((if x.state = 0 then 0 else 2 * n * x.pre) +
    2 * n * (x.post.length - x.spilled) + ((x.unspilled.map fun r => r.2.length - tabGet 0 x.early r.1).sum))

/-- Base samples averaged in the sample in hand: 2^doublings. -/
def baseGroup (x : Acq) : Nat := 2 ^ x.decims.length

/-- The average of a sum of `w` raw samples (R219). -/
def averaged (sum : Int) (w : Nat) : Int := (2 * sum + w) / (2 * (w : Int))

/-! ### Triggers (R222, R223) -/

/-- LEVEL on sample `v`: true, and the hysteresis after it. -/
def trigLevel (x : Acq) (v : Int) : Bool × Bool × Bool :=
  let level := signed16 (fld (setupWord x.setup 3) 0 16)
  let hyst : Int := fld (setupWord x.setup 3) 16 16
  let dir := fld (setupWord x.setup 2) 8 2
  let up := x.lowSeen && decide (level ≤ v)
  let down := x.highSeen && decide (v ≤ level)
  let low := if up then false else x.lowSeen || decide (v ≤ level - hyst)
  let high := if down then false else x.highSeen || decide (level + hyst ≤ v)
  ((up && dir ≠ 1) || (down && dir ≠ 0), low, high)

def inWindow (x : Acq) (v : Int) : Bool :=
  decide (signed16 (fld (setupWord x.setup 4) 0 16) ≤ v ∧ v ≤ signed16 (fld (setupWord x.setup 4) 16 16))

/-- WINDOW on sample `v`: the sample before decides. -/
def trigWindow (x : Acq) (v : Int) : Bool :=
  let dir := fld (setupWord x.setup 2) 10 2
  match x.hist with
  | p :: _ =>
    (dir ≠ 1 && inWindow x v && !inWindow x p) || (dir ≠ 0 && !inWindow x v && inWindow x p)
  | [] => false

/-- SLOPE's condition on a list whose head is the sample, upward or downward. -/
def slopeHolds (x : Acq) (vs : List Int) (up : Bool) : Bool :=
  let delta : Int := fld (setupWord x.setup 5) 0 16
  match vs.head?, vs[fld (setupWord x.setup 5) 16 8]? with
  | some v, some p => if up then decide (delta ≤ v - p) else decide (v - p ≤ -delta)
  | _, _ => false

/-- SLOPE on sample `v`: true after a sample where it was false; it begins once SlopeSpan samples
have come. -/
def trigSlope (x : Acq) (v : Int) : Bool :=
  let dir := fld (setupWord x.setup 2) 12 2
  let span := fld (setupWord x.setup 5) 16 8
  let edge (up : Bool) : Bool :=
    slopeHolds x (v :: x.hist) up && span < x.hist.length && !slopeHolds x x.hist up
  (dir ≠ 1 && edge true) || (dir ≠ 0 && edge false)

/-- The sources true on a base sample (R222): `v` is TrigConv's sample, `events` the event sources
assigned to it, `at_` its instant. -/
def sourcesOn (x : Acq) (v : Int) (events at_ : Nat) : Nat :=
  let on (n : Nat) (c : Bool) : Nat := if trigEnable x.setup n && c then 2 ^ n else 0
  on 0 (trigLevel x v).1 + on 1 (trigWindow x v) + on 2 (trigSlope x v) + on 3 (natBit events 3) +
    on 4 (natBit events 4) + on 5 (natBit events 5) + on 6 (x.pre ≤ x.ring.length) +
    on 7 (setupTrigTide x.setup ≤ at_)

/-- The trigger history after a sample. -/
def histAfter (x : Acq) (v : Int) : Acq :=
  let l := trigLevel x v
  { x with hist := (v :: x.hist).take 257, lowSeen := l.2.1, highSeen := l.2.2 }

/-! ### Sample instants (R226) -/

/-- Doublings in force at index `j`. -/
def doublingsAt (decims : List Nat) (j : Nat) : Nat := (decims.filter fun d => decide (d ≤ j)).length

/-- w_j: raw samples averaged in sample j. -/
def weightAt (x : Acq) (j : Int) : Nat :=
  2 ^ log2Base x.setup * (if j < 0 then 1 else 2 ^ doublingsAt x.decims j.toNat)

/-- The stored samples of a record in order: index, weight, centre of the group relative to T in
tc, and the codes. -/
def postTimed (x : Acq) (ps : List SamplePair) (j t : Nat) : List (Int × Nat × Int × SamplePair) :=
  match ps with
  | [] => []
  | p :: rest =>
    let w := weightAt x j
    ((j : Int), w, (t : Int) + 20 * ((w : Int) - 1), p) :: postTimed x rest (j + 1) (t + 40 * w)

def timedSamples (x : Acq) : List (Int × Nat × Int × SamplePair) :=
  let d0 : Nat := 2 ^ log2Base x.setup
  let n := x.ring.length
  let pre := (x.ring.reverse.zipIdx).map fun e =>
    let j : Int := (e.2 : Int) - n
    (j, d0, 40 * d0 * j + 20 * ((d0 : Int) - 1), e.1)
  pre ++ postTimed x x.post.reverse 0 0

/-! ### Measurements (R227 to R229) -/

/-- Round half up. -/
def roundQ (q : Rat) : Int := (q + 1 / 2).floor

/-- The integer square root, by bits from 2^k down. -/
def isqrtFrom (k v r : Nat) : Nat :=
  match k with
  | 0 => r
  | k + 1 => if (r + 2 ^ k) * (r + 2 ^ k) ≤ v then isqrtFrom k v (r + 2 ^ k) else isqrtFrom k v r

def isqrt (v : Nat) : Nat := isqrtFrom 64 v 0

/-- A sample of one converter: weight, centre, code. -/
abbrev MSample := Nat × Int × Int

/-- A crossing found: rising or falling, and the samples it spans in order. -/
abbrev Crossing := Bool × List MSample

/-- The crossings of a window (R228). `st` is 0 before any state, 1 low, 2 high; `seg` the samples
since the last one that set the present state, newest first. -/
def crossings (lo hi : Int) (st : Nat) (seg : List MSample) (xs : List MSample) : List Crossing :=
  match xs with
  | [] => []
  | e :: rest =>
    let v := e.2.2
    if v ≤ lo then
      if st = 2 then (false, (e :: seg).reverse) :: crossings lo hi 1 [e] rest
      else crossings lo hi 1 [e] rest
    else if hi ≤ v then
      if st = 1 then (true, (e :: seg).reverse) :: crossings lo hi 2 [e] rest
      else crossings lo hi 2 [e] rest
    else crossings lo hi st (e :: seg) rest

/-- τ at twice the level `l2`, between the first two samples of a crossing that straddle it. -/
def tauAt (l2 : Int) (xs : List MSample) : Rat :=
  match xs with
  | a :: b :: rest =>
    let sa := 2 * a.2.2
    let sb := 2 * b.2.2
    if sa ≠ sb ∧ ((sa ≤ l2 ∧ l2 ≤ sb) ∨ (sb ≤ l2 ∧ l2 ≤ sa)) then
      (a.2.1 : Rat) + ((b.2.1 - a.2.1 : Int) : Rat) * ((l2 - sa : Int) : Rat) / ((sb - sa : Int) : Rat)
    else tauAt l2 (b :: rest)
  | [a] => a.2.1
  | [] => 0

/-- Unsigned 2^-8 tc; that these results round half up is DEDUCED (log 12). -/
def tc8 (q : Rat) : Nat := (roundQ (256 * q)).toNat

/-- SETTLE (R229): the centre of the sample after the last one outside the band; a sample before T would make the unsigned
field negative, and gives 0 (DESIGN CHOICE, log 121). -/
def settleOf (target band : Int) (xs : List MSample) : Nat × Bool :=
  match xs with
  | [] => (0, false)
  | e :: rest =>
    let r := settleOf target band rest
    if r.2 ∨ r.1 ≠ 0 then r
    else if band < (e.2.2 - target).natAbs then
      match rest with
      | n :: _ => ((256 * n.2.1).toNat, false)
      | [] => (2 ^ 64 - 1, true)
    else r

def minOf (xs : List Int) (d : Int) : Int := xs.foldl min d
def maxOf (xs : List Int) (d : Int) : Int := xs.foldl max d

/-- The measurement block of one converter (R227, R232) and whether its window was cut. Frequency rounds half up to whole
mHz (R228; DESIGN CHOICE, log 120). -/
def measBlock (x : Acq) (conv : Nat) : List Byte × Bool :=
  let from_ := signed32 (setupWord x.setup 8)
  let len := (setupWord x.setup 9).toNat
  if len = 0 then (List.replicate 96 0#8, false)
  else
    let all := timedSamples x
    let win := all.filter fun e => decide (from_ ≤ e.1 ∧ e.1 < from_ + len)
    let cut := win.length ≠ len
    let ms : List MSample := win.map fun e => (e.2.1, e.2.2.1, if conv = 0 then e.2.2.2.1 else e.2.2.2.2)
    let w := (ms.map (·.1)).sum
    let lo := signed16 (fld (setupWord x.setup 10) 0 16)
    let hi := signed16 (fld (setupWord x.setup 10) 16 16)
    let target := signed16 (fld (setupWord x.setup 11) 0 16)
    let band : Int := fld (setupWord x.setup 11) 16 16
    let codes := ms.map (·.2.2)
    let first := (codes.head?).getD 0
    let least := minOf codes first
    let most := maxOf codes first
    let sum := (ms.map fun e => (e.1 : Int) * e.2.2).sum
    let sq := (ms.map fun e => e.1 * (e.2.2 * e.2.2).toNat).sum
    let mean := if w = 0 then 0 else roundQ (256 * (sum : Rat) / (w : Rat))
    let rms := if w = 0 then 0 else (isqrt (4 * 65536 * sq / w) + 1) / 2
    let cs := crossings lo hi 0 [] ms
    let ups := cs.filter (·.1)
    let downs := cs.filter fun c => !c.1
    let rises := ups.length
    let period : Nat :=
      match ups.head?, ups.getLast? with
      | some a, some z =>
        if rises < 2 then 0
        else tc8 ((tauAt (hi + lo) z.2 - tauAt (hi + lo) a.2) / ((rises - 1 : Nat) : Rat))
      | _, _ => 0
    let freq := if rises < 2 ∨ period = 0 then 0 else (roundQ ((204800000000000 : Rat) / (period : Rat))).toNat
    let rise := match ups.head? with
      | some c => tc8 (tauAt (2 * hi) c.2 - tauAt (2 * lo) c.2)
      | none => 0
    let fall := match downs.head? with
      | some c => tc8 (tauAt (2 * lo) c.2 - tauAt (2 * hi) c.2)
      | none => 0
    let st := settleOf target band ms
    let flags := flag (rises < 2) 0 + flag (ups = [] || downs = []) 1 + flag st.2 2 + flag cut 3
    (padTo 96 (leBytes 4 (twos 32 mean) ++ leBytes 4 (twos 32 (256 * least)) ++
      leBytes 4 (twos 32 (256 * most)) ++ leBytes 4 rms ++ leBytes 4 (256 * (most - least)).toNat ++
      leBytes 2 (Nat.min 65535 rises) ++ leBytes 2 (Nat.min 65535 downs.length) ++ leBytes 8 period ++
      leBytes 8 freq ++ leBytes 8 rise ++ leBytes 8 fall ++ leBytes 8 st.1 ++
      leBytes 8 (twos 64 (40 * sum)) ++ leBytes 4 w ++ leBytes 4 flags), cut)

/-! ### The record image (R230, R231) -/

def noIndex : Nat := 0x80000000
def indexField (i : Option Int) : Nat :=
  match i with
  | some v => twos 32 v
  | none => noIndex

/-- Cases in which a record is closed before its last sample. -/
inductive CloseWhy where
  | full | overflow | cut
  deriving DecidableEq, Repr

def primaryOf (v : Nat) : Nat := ((findFrom (natBit v) 0 8)).getD 0

def recordImage (s : State) (b : Nat) (x : Acq) (why : CloseWhy) : List Byte :=
  let convs := (List.range 2).filter (natBit (convMask x.setup))
  let blocks := convs.map (measBlock x)
  let flags := flag (x.ring.length < x.pre) 0 + flag (x.decims ≠ []) 1 + flag (why = .overflow) 2 +
    flag (why = .cut) 3 + flag x.clip 4 + flag x.rangeSw.isSome 5 + flag x.handover.isSome 6 +
    flag (blocks.any (·.2)) 7
  let head := leBytes 1 1 ++ leBytes 1 128 ++ leBytes 2 (b + 64 * x.setupNo + 256 * s.chain.index) ++
    leBytes 4 x.nextRecord ++ leBytes 2 flags ++
    leBytes 2 (x.sources + 256 * primaryOf x.sources + 2048 * convMask x.setup) ++
    leBytes 4 (log2Base x.setup + 16 * x.decims.length + 256 * inputCode x.setup 0 * 1 +
      (inputCode x.setup 1) * 2 ^ 15 + gainOf x.setup 0 * 2 ^ 22 + gainOf x.setup 1 * 2 ^ 23) ++
    leBytes 8 x.trigTide ++ leBytes 8 x.marker ++ leBytes 4 x.pre ++ leBytes 4 x.ring.length ++
    leBytes 4 x.want ++ leBytes 4 x.post.length ++ leBytes 4 x.trigGen.toNat ++ leBytes 4 x.missedRec ++
    leBytes 4 (indexField (x.rangeSw.map (·.1))) ++ leBytes 4 (indexField (x.rangeSw.map (·.2))) ++
    leBytes 4 (indexField x.handover) ++
    (padTo 48 (x.decims.flatMap fun d => leBytes 4 d)) ++ leBytes 4 (setupWord x.setup 1).toNat
  let sample (p : SamplePair) : List Byte :=
    convs.flatMap fun v => leBytes 2 (twos 16 (if v = 0 then p.1 else p.2))
  padTo64 (padTo 128 head ++ blocks.flatMap (·.1) ++ x.ring.reverse.flatMap sample ++
    x.post.reverse.flatMap sample)

/-! ### Closing, re-arming, ending -/

/-- A fresh pre-trigger ring (R221, R222): all history begins anew, the trigger's history since arming and its
hysteresis too, at every re-arm (R222; DESIGN CHOICE, log 94). -/
def acqRefill (x : Acq) : Acq := { x with
  state := 1, ring := [], ringMarks := [], overflow := false, moved := false, post := [], spilled := 0
  acc := (0, 0), accN := 0, decims := [], clip := false, sources := 0, marker := 2 ^ 64 - 1
  rangeSw := none, handover := none, hist := [], lowSeen := false, highSeen := false, events := [] }

/-- The record in progress closes: its image waits to be spilled, and NextRecord, which has shown the number of the open
record itself until here, rises (R240; DESIGN CHOICE, log 124). -/
def acqClose (s : State) (b : Nat) (why : CloseWhy) : State :=
  let x := acqAt s b
  let img := recordImage s b x why
  let s := if x.ring.length < x.pre then count s 3 b 0x57 3 else s
  let s := if why = .overflow then count s 3 b 0x57 4 else s
  modAcq s b fun x => { x with
    unspilled := x.unspilled ++ [(x.nextRecord, img)], nextRecord := x.nextRecord + 1
    early := if x.spilled = 0 then x.early else tabSet x.early x.nextRecord (2 * convCount x.setup * x.spilled)
    left := x.left - 1, post := [], spilled := 0, closing := false }

/-- A record that has its last sample is closed, with OVERFLOW where the buffer stopped it (R221, R225). -/
def acqCloseWhole (s : State) (b : Nat) : State :=
  acqClose s b (if (acqAt s b).overflow then .overflow else .full)

/-- The engine ends at once (R221, R234): a record that still takes samples is closed with ABORT_CUT. -/
def acqEnd (s : State) (b : Nat) : State :=
  let x := acqAt s b
  let s := if x.closing then acqCloseWhole s b else if x.state = 2 then acqClose s b .cut else s
  modAcq s b fun x => { acqRefill x with state := 0 }

/-- A sampled position's measure node moves (R134, R231): the next base sample is the first after. -/
def acqHandover (s : State) (b k : Nat) : State :=
  modAcq s b fun x => if samplesPos x.setup k then { x with moved := true } else x

/-- A sampled position is in a range change (R198, R231). -/
def rangeSwitchingSampled (s : State) (b : Nat) (x : Acq) : Bool :=
  (List.range 16).any fun k => samplesPos x.setup k && (chanAt s (carrier s b k)).rangeSw.isSome

/-- What a base sample is marked with: clipped, in a range change, first after a moved node. -/
def sampleMarks (s : State) (b : Nat) (x : Acq) (clip : Bool) : Nat :=
  flag clip 0 + flag (rangeSwitchingSampled s b x) 1 + flag x.moved 2

/-- The marks of the sample at index `j` enter the record. -/
def noteMarks (x : Acq) (j : Int) (m : Nat) : Acq :=
  let x := if natBit m 0 then { x with clip := true } else x
  let x := if natBit m 1 then
    { x with rangeSw := some (match x.rangeSw with
        | some r => (r.1, j)
        | none => (j, j)) } else x
  if natBit m 2 && x.handover.isNone then { x with handover := some j } else x

/-- The marks of the ring's samples enter the record at its trigger, oldest first. -/
def ringNote (x : Acq) (j : Int) (ms : List Nat) : Acq :=
  match ms with
  | [] => x
  | m :: rest => ringNote (noteMarks x j m) (j + 1) rest

/-- The instant of the base sample in hand (R219). -/
def sampleInstant (x : Acq) : Nat := x.first + 40 * 2 ^ log2Base x.setup * x.samples

/-- A post-trigger base sample (R224, R225): it is averaged into the sample in hand, which is stored
when it is whole; a doubling takes effect as a sample begins, a full buffer stops the record. What marks a raw sample
(CLIP, a range change, a moved node) enters the record with the index of the sample that was due, be it stored in the
end or not (R231; DESIGN CHOICE, log 123). -/
def postSample (s : State) (b : Nat) (sum : SamplePair) (m : Nat) : State :=
  let x := acqAt s b
  if x.overflow || x.want ≤ x.post.length then s
  else
    let j := x.post.length
    let s := if x.accN = 0 && j ≠ 0 && j % 256 = 0 && 393216 < bufferFill x && x.decims.length < 12 then
      count (modAcq s b fun x => { x with decims := x.decims ++ [j] }) 3 b 0x57 5 else s
    let s := modAcq s b fun x => noteMarks { x with
      acc := (x.acc.1 + sum.1, x.acc.2 + sum.2), accN := x.accN + 1 } j m
    let x := acqAt s b
    if x.accN < baseGroup x then s
    else if 524288 ≤ bufferFill x then modAcq s b fun x => { x with overflow := true, acc := (0, 0), accN := 0 }
    else
      let w := 2 ^ log2Base x.setup * baseGroup x
      modAcq s b fun x => { x with
        post := (averaged x.acc.1 w, averaged x.acc.2 w) :: x.post, acc := (0, 0), accN := 0 }

/-- The record in progress holds all it can: its last sample, or a full buffer. -/
def recordWhole (x : Acq) : Bool := x.state = 2 && (x.overflow || x.want ≤ x.post.length)

/-- After the last sample that a record stores the re-arm interval begins, in which it is closed (R221). -/
def recordEnd (s : State) (b : Nat) : State :=
  modAcq s b fun x => if recordWhole x then { x with state := 3, closing := true } else x

/-- A trigger event in the re-arm interval is missed (R221). -/
def missTrigger (s : State) (b : Nat) : State := count (modAcq s b fun x => { x with missed := x.missed + 1 }) 3 b 0x57 2

/-- Sample codes saturate, so that a sum of `n` raw samples has its bounds (R212). -/
def rawSum (n : Nat) (v : Int) : Int := max (-(32768 * n : Nat)) (min v (32767 * n : Nat))

/-- A sum at its bound, in which every raw sample is at a limit. -/
def rawClips (n : Nat) (v : Int) : Bool := v ≤ -(32768 * n : Nat) || (32767 * n : Nat) ≤ v

/-- A base sample of the engine (R219 to R225). `sum` holds the sums of its raw samples. In the re-arm interval the level
sources IMMEDIATE and TIDE, as any other, make one missed trigger on every base sample on which they are true (R221;
DESIGN CHOICE, log 118). Of several marked vectors that one sample takes, MarkerIndex names the latest (R231; DESIGN
CHOICE, log 122). -/
def baseSample (s : State) (b : Nat) (sum : SamplePair) (events : Nat) (clip : Bool)
    (marker : Option Nat) : State :=
  let x := acqAt s b
  if x.state = 0 then s
  else
    let at_ := sampleInstant x
    let s := reach s at_
    let d0 := 2 ^ log2Base x.setup
    let clip := clip || (natBit (convMask x.setup) 0 && rawClips d0 sum.1) || (natBit (convMask x.setup) 1 && rawClips d0 sum.2)
    let sum : SamplePair := (rawSum d0 sum.1, rawSum d0 sum.2)
    let v : SamplePair := (averaged sum.1 d0, averaged sum.2 d0)
    let tv := if trigConv x.setup = 1 then v.2 else v.1
    let due := x.events.filter fun e => decide (e.2.1 ≤ at_)
    let ev := due.foldl (fun v e => Nat.lor v (2 ^ e.1)) (Nat.land events 0x38)
    let marker := marker.or ((due.filter (·.1 = 3)).getLast?.map (·.2.2))
    let src := sourcesOn x tv ev at_
    let m := sampleMarks s b x clip
    let s := modAcq s b fun x => { (histAfter x tv) with
      samples := x.samples + 1, events := x.events.filter (fun e => decide (at_ < e.2.1)), moved := false
      marker := if x.state = 1 then (marker.getD x.marker) else x.marker }
    match x.state with
    | 1 =>
      if src = 0 then modAcq s b fun x => { x with
        ring := (v :: x.ring).take x.pre, ringMarks := (m :: x.ringMarks).take x.pre }
      else
        let s := modAcq s b fun x => ringNote { x with
          state := 2, sources := src, trigTide := at_, trigGen := s.par.generation
          missedRec := x.missed, missed := 0
          marker := if natBit src 3 then x.marker else 2 ^ 64 - 1 } (-(x.ring.length : Int)) x.ringMarks.reverse
        recordEnd (postSample (raiseLines s 2 at_ fun w => fld w 10 6 = b) b sum m) b
    | 2 => recordEnd (postSample s b sum m) b
    | _ => if src = 0 then s else missTrigger s b

/-! ### Records in the hold (R233) -/

def acqRegionBytes : Nat := 0x2000000

/-- Two byte ranges of a region overlap. -/
def overlaps (a n c m : Nat) : Bool := a < c + m && c < a + n

/-- Write the oldest closed record into its berth's region, as a ring in record order: one that does not fit behind the
last goes to the start, and what lies in the tail, older than what lies there, is lost first. Each record lost counts;
so does an image that is larger than the region, which takes the place of all and is not held (DESIGN CHOICE, log 96). -/
def acqSpillOne (s : State) (b : Nat) : State :=
  let x := acqAt s b
  match x.unspilled with
  | [] =>
    if x.state = 2 then modAcq s b fun x => { x with spilled := x.post.length } else s
  | (no, img) :: rest =>
    let wraps := decide (acqRegionBytes < x.writeAt + img.length)
    let at_ := if wraps then 0 else x.writeAt
    let gone (h : Nat × Nat × Nat) : Bool := overlaps at_ img.length h.2.1 h.2.2 || (wraps && x.writeAt ≤ h.2.1)
    if stackIsDown s (stackOf (regionBase b)) then s
    else
      let s := modAcq s b fun x => { x with unspilled := rest, early := tabErase x.early no }
      if acqRegionBytes < img.length then
        modAcq (countN s 3 b 0x57 6 (x.held.length + 1)) b fun x => { x with held := [], writeAt := 0 }
      else
      let lost := x.held.filter gone
      let kept := x.held.filter fun h => !gone h
      let s := countN s 3 b 0x57 6 lost.length
      let s := holdWrite s (acqRegion b + at_) img
      modAcq s b fun x => { x with
        held := kept ++ [(no, at_, img.length)], writeAt := at_ + img.length }

end Sys2Proof.Machine
end

