-- ==== Sys2Proof/Machine/Stamps.lean ====
section
/-! DEFINITION. The time-measurement unit (R241 to R263): windows, modes, pair blocks, the stamp
buffer and the result image. -/

namespace Sys2Proof.Machine

def tmuIds (b : Nat) : List Word :=
  [pid 3 b 0x60 0, pid 3 b 0x60 1] ++ (List.range 5).map (fun w => pid 3 b 0x61 w)

def tmuWord (x : Tmu) (k : Nat) : Word := (x.words[k]?).getD 0
def refIn (x : Tmu) : Nat := fld (tmuWord x 0) 0 5
def refEdge (x : Tmu) : Nat := fld (tmuWord x 0) 5 2
def stopIn (x : Tmu) : Nat := fld (tmuWord x 0) 7 5
def stopEdge (x : Tmu) : Nat := fld (tmuWord x 0) 12 2
def stampEdges (x : Tmu) : Nat := fld (tmuWord x 0) 14 4
def storeStamps (x : Tmu) : Bool := bit (tmuWord x 0) 18
def inMask (x : Tmu) : Nat := (tmuWord x 1).toNat
def winDelay (x : Tmu) : Nat := (tmuWord x 2).toNat
def winLen (x : Tmu) : Nat := (tmuWord x 3).toNat
def winCount (x : Tmu) : Nat := (tmuWord x 4).toNat
def tmuTrigTide (x : Tmu) : Nat := (tmuWord x 5).toNat + (tmuWord x 6).toNat * 2 ^ 32

/-- Header flags (R260). -/
def tAbortCut : Nat := 2
def tHandover : Nat := 8
def tStampFull : Nat := 16
def tOverrun : Nat := 32

/-- Count an event of family 0x63 and in the header (R260, R267). -/
def tmuCount (s : State) (b m : Nat) : State :=
  count (modTmu s b fun x => { x with counts := tabSet x.counts m (tabGet 0 x.counts m + 1) }) 3 b 0x63 m

/-! ### Inputs and edges (R242, R248) -/

/-- Inputs 17 and 18 yield rising edges only, whatever edge is selected. -/
def edgeIs (input edge sel : Nat) : Bool := input = 17 || input = 18 || edge = sel

/-- Inputs whose edges the mode uses. -/
def enabledInput (x : Tmu) (input : Nat) : Bool :=
  match x.mode with
  | 0 => natBit (inMask x) input
  | 1 => input = refIn x || input = stopIn x
  | 2 => input = refIn x
  | _ => input = refIn x || natBit (inMask x) input

/-- An edge that the mode uses (R248). -/
def edgeUsed (x : Tmu) (input edge : Nat) : Bool :=
  match x.mode with
  | 0 => natBit (inMask x) input && (input = 17 || input = 18 || natBit (stampEdges x) edge)
  | 1 => (input = refIn x && edgeIs input edge (refEdge x)) ||
      (input = stopIn x && edgeIs input edge (stopEdge x))
  | 2 => input = refIn x && edgeIs input edge (refEdge x)
  | _ => (input = refIn x && edgeIs input edge (refEdge x)) ||
      (natBit (inMask x) input && edgeIs input edge (stopEdge x))

/-! ### Pair blocks (R251) -/

def sumMost : Int := 2 ^ 63 - 1
def sumLeast : Int := -2 ^ 63

/-- One more result of a pair; `flags` gathers PROVISIONAL (2). -/
def pairAdd (p : TmuPair) (r : Int) (prov : Bool) : TmuPair :=
  let sum := p.sum + r
  let sq := p.sumSq + (r * r).toNat
  let sat := decide (sumMost < sum ∨ sum < sumLeast ∨ 2 ^ 128 ≤ sq)
  { count := Nat.min (p.count + 1) sat32
    sum := max sumLeast (min sumMost sum), sumSq := Nat.min (2 ^ 128 - 1) sq
    least := if p.count = 0 then r else min p.least r
    most := if p.count = 0 then r else max p.most r
    flags := Nat.lor p.flags (flag sat 0 + flag prov 1) }

def pairResult (x : Tmu) (key : Nat) (r : Int) (prov : Bool) : Tmu :=
  { x with pairs := tabSet x.pairs key (pairAdd (tabGet {} x.pairs key) r prov) }

/-- The circuit whose comparator an input reads (R136, R241): that of the position, or for input 16 the spare or the
own circuit of the position that the spare carries. -/
def inputCircuit (s : State) (b input : Nat) : Option Nat :=
  if input < 16 then some (carrier s b input)
  else if input = 16 then
    match (List.range 16).find? fun k => carrier s b k = 1024 + b with
    | some k => some (chanOfPos b k)
    | none => some (1024 + b)
  else none

/-- The circuit that an input reads is the spare. -/
def fromSpare (s : State) (b input : Nat) : Bool := inputCircuit s b input = some (1024 + b)

/-- Store a stamp (R252). -/
def stampStore (s : State) (b : Nat) (e : TmuEdge) : State :=
  let x := tmuAt s b
  if x.stamps.length < 4096 then
    modTmu s b fun x => { x with
      stamps := x.stamps ++ [⟨e.t, e.input, if e.input = 17 ∨ e.input = 18 then 0 else e.edge, e.prov,
        e.spare, x.windows - 1⟩] }
  else modTmu (tmuCount s b 9) b fun x => tmuFlag x tStampFull

/-- An accepted edge in a mode with results (R248 to R250). -/
def edgeEvaluate (s : State) (b input edge t : Nat) (prov : Bool) : State :=
  let x := tmuAt s b
  let isRef := input = refIn x ∧ edgeIs input edge (refEdge x) = true
  match x.mode with
  | 1 =>
    let isStop := input = stopIn x ∧ edgeIs input edge (stopEdge x) = true
    if isRef ∧ ¬ (x.start.isSome ∧ isStop) then
      match x.start with
      | none => modTmu s b fun x => { x with start := some (t, prov) }
      | some _ => tmuCount s b 5
    else if isStop then
      match x.start with
      | some st => modTmu s b fun x =>
          { (pairResult x (stopIn x) ((t : Int) - st.1) (prov || st.2)) with start := none }
      | none => tmuCount s b 4
    else s
  | 2 =>
    if isRef then
      match x.start with
      | some st => modTmu s b fun x =>
          { (pairResult x (refIn x) ((t : Int) - st.1) (prov || st.2)) with start := some (t, prov) }
      | none => modTmu s b fun x => { x with start := some (t, prov) }
    else s
  | 3 =>
    let s := if isRef ∧ x.refAt = none then modTmu s b fun x => { x with refAt := some (t, prov) } else s
    if natBit (inMask x) input && edgeIs input edge (stopEdge x) && (tabFind x.meas input).isNone then
      modTmu s b fun x => { x with meas := tabSet x.meas input (t, prov) }
    else s
  | _ => s

/-! ### Windows (R247, R250) -/

/-- DIFFERENCE results of a window that closes (R250). -/
def differences (s : State) (b : Nat) : State :=
  let x := tmuAt s b
  forAll s ((List.range 19).filter (natBit (inMask x))) fun s i =>
    match x.refAt, tabFind x.meas i with
    | some r, some m => modTmu s b fun y => pairResult y i ((m.1 : Int) - r.1) (r.2 || m.2)
    | _, _ => tmuCount s b 7

/-- An arming instant A, in units (R246, R247): it schedules a window, or is ignored while a window
is open or waits to open. -/
def tmuArmEvent (s : State) (b a : Nat) : State :=
  let x := tmuAt s b
  if x.state = 1 && x.pendOpen.isNone then modTmu s b fun x => { x with pendOpen := some (a + winDelay x) }
  else if tmuArmed x then count s 3 b 0x63 10
  else s

/-- The scheduled window opens. -/
def windowOpen (s : State) (b : Nat) : State :=
  modTmu s b fun x =>
    match x.pendOpen with
    | none => x
    | some a => { x with
        state := 2, windows := x.windows + 1, pendOpen := none, openAt := some a
        closeAt := if winLen x = 0 then none else some (a + winLen x)
        start := none, refAt := none, meas := [] }

def inOpenWindow (x : Tmu) (t : Nat) : Bool :=
  match x.openAt with
  | none => false
  | some a => decide (a ≤ t) &&
    (match x.closeAt with
     | none => true
     | some z => decide (t < z))

/-- The (reference, measured) inputs of the pair blocks, in order (R248). -/
def pairList (x : Tmu) : List (Nat × Nat) :=
  match x.mode with
  | 0 => []
  | 1 => [(refIn x, stopIn x)]
  | 2 => [(refIn x, refIn x)]
  | _ => ((List.range 19).filter (natBit (inMask x))).map fun i => (refIn x, i)

/-- Set a flag of the pair blocks that a test picks, those without a result too. -/
def pairsFlag (x : Tmu) (f : Nat) (p : Nat × Nat → Bool) : Tmu :=
  ((pairList x).filter p).foldl (fun x q =>
    let y := tabGet {} x.pairs q.2
    { x with pairs := tabSet x.pairs q.2 { y with flags := Nat.lor y.flags f } }) x

/-- An edge would have entered a result of this pair block (R245, R248). -/
def wouldEnter (x : Tmu) (input edge : Nat) (p : Nat × Nat) : Bool :=
  let isRef := input = p.1 && edgeIs input edge (refEdge x)
  match x.mode with
  | 1 =>
    let isStop := input = p.2 && edgeIs input edge (stopEdge x)
    if x.start.isSome then isStop else isRef
  | 2 => isRef
  | 3 => (isRef && x.refAt.isNone) ||
      (input = p.2 && edgeIs input edge (stopEdge x) && (tabFind x.meas input).isNone)
  | _ => false

/-- The queue's fill when an edge at tide `k` arrives: 8 edges leave it per tc (R245; DEDUCED,
log 13). -/
def queueAt (x : Tmu) (k : Nat) : Nat := x.queue - 8 * (k - x.queueTide)

/-- An accepted edge of an input (R244, R245). -/
def edgeAccepted (s : State) (b : Nat) (e : TmuEdge) : State :=
  let x := tmuAt s b
  let fill := queueAt x (e.t / 5000)
  let s := modTmu s b fun x => { x with
    lastAccepted := tabSet x.lastAccepted e.input e.t, queueTide := Nat.max x.queueTide (e.t / 5000)
    queue := Nat.min 64 (fill + 1) }
  if 64 ≤ fill then
    modTmu (tmuCount s b 8) b fun x => pairsFlag (tmuFlag x tOverrun) 4 (wouldEnter x e.input e.edge)
  else
    let s := if e.prov then modTmu s b fun x => tmuFlag x tProvisional else s
    let s := if x.mode = 0 || storeStamps x then stampStore s b e else s
    edgeEvaluate s b e.input e.edge e.t e.prov

/-- The unit evaluates one edge (R244, R245, R247): outside a window, or of a kind that the mode does not use, it does
nothing; less than 160 units after the last accepted edge of its input it is discarded and SubRes counts. -/
def tmuTake (s : State) (b : Nat) (e : TmuEdge) : State :=
  let x := tmuAt s b
  if x.state = 2 && inOpenWindow x e.t && edgeUsed x e.input e.edge then
    match tabFind x.lastAccepted e.input with
    | some p => if e.t < p + 160 then tmuCount s b 3 else edgeAccepted s b e
    | none => edgeAccepted s b e
  else s

/-- Edges in the order of R245: an edge stands behind those of a lower stamp, or of the same stamp and an input no higher. -/
def edgeInsert (e : TmuEdge) (es : List TmuEdge) : List TmuEdge :=
  match es with
  | [] => [e]
  | d :: es => if d.t < e.t || (d.t = e.t && d.input ≤ e.input) then d :: edgeInsert e es else e :: d :: es

/-- The unit evaluates the waiting edges before the tide count `k`, in their order; `tmuFlush` all of them. -/
def tmuFlushTo (s : State) (b k : Nat) : State :=
  let es := (tmuAt s b).pendEdges
  (es.filter fun e => e.t / 5000 < k).foldl (fun s e => tmuTake s b e)
    (modTmu s b fun x => { x with pendEdges := es.filter fun e => decide (k ≤ e.t / 5000) })

def tmuFlush (s : State) (b : Nat) : State :=
  let es := (tmuAt s b).pendEdges
  es.foldl (fun s e => tmuTake s b e) (if es = [] then s else modTmu s b fun x => { x with pendEdges := [] })

/-- An edge on an input of the unit (R242 to R252). It waits in the order of R245 for the edges of its 64 tc, so that
edges that are brought one after the other are evaluated by their stamps; those older than that are evaluated (DEDUCED,
log 13). What a read shows has every edge evaluated. -/
def tmuEdgeAt (s : State) (b input edge t : Nat) : State :=
  let e : TmuEdge := ⟨t, input, edge, !s.clk.ovenOk, fromSpare s b input⟩
  tmuFlushTo (modTmu s b fun x => { x with pendEdges := edgeInsert e x.pendEdges }) b (t / 5000 - 64)

/-- The open window closes, once its edges are evaluated: an open interval counts, DIFFERENCE yields its results, and after
WinCount windows the unit is DONE. -/
def windowClose (s : State) (b : Nat) : State :=
  let s := tmuFlush s b
  let x := tmuAt s b
  let s := if x.mode = 1 && x.start.isSome then tmuCount s b 6 else s
  let s := if x.mode = 3 then differences s b else s
  modTmu s b fun x => { x with
    state := if winCount x ≠ 0 && winCount x ≤ x.windows then 3 else 1
    openAt := none, closeAt := none, start := none, refAt := none, meas := [] }

/-- The measurement ends (R254, R258, R263). -/
def tmuEnd (s : State) (b : Nat) : State :=
  if tmuArmed (tmuAt s b) then
    let s := if (tmuAt s b).state = 2 then windowClose s b else s
    modTmu s b fun x => { x with state := 3, pendOpen := none }
  else s

/-- The measurement is cut by an event of the berth or by a reference loss. -/
def tmuCut (s : State) (b : Nat) (provisional : Bool) : State :=
  if tmuArmed (tmuAt s b) then
    modTmu (tmuEnd s b) b fun x => tmuFlag (tmuFlag x tAbortCut) (if provisional then tProvisional else 0)
  else s

/-- An enabled input's circuit changes (R263): HANDOVER in the header and the affected blocks. Input 16 changes with the
position. -/
def tmuHandover (s : State) (b k : Nat) : State :=
  let x := tmuAt s b
  if tmuArmed x && (enabledInput x k || enabledInput x 16) then
    modTmu s b fun x => pairsFlag (tmuFlag x tHandover) 8 fun p => p.1 = k || p.2 = k || p.1 = 16 || p.2 = 16
  else s

/-! ### The result image (R255, R260 to R262) -/

def pairBytes (x : Tmu) (p : Nat × Nat) : List Byte :=
  let y := tabGet {} x.pairs p.2
  leBytes 2 (p.1 + 32 * p.2) ++ leBytes 2 (y.flags + flag (y.count = 0) 4) ++ leBytes 4 y.count ++
    leBytes 8 (twos 64 y.least) ++ leBytes 8 (twos 64 y.most) ++ leBytes 8 (twos 64 y.sum) ++
    leBytes 16 y.sumSq

def stampBytes (e : TmuStamp) : List Byte :=
  leBytes 8 (e.t / 5000) ++ leBytes 2 (e.t % 5000) ++
    leBytes 2 (e.input + e.edge * 32 + flag e.prov 7 + flag e.spare 8) ++ leBytes 4 e.window

def tmuImage (s : State) (b : Nat) : List Byte :=
  let x := tmuAt s b
  let ps := pairList x
  let n (m : Nat) : List Byte := leBytes 4 (tabGet 0 x.counts m)
  leBytes 1 1 ++ leBytes 1 64 ++ leBytes 2 (b + x.mode * 64 + s.chain.index * 512) ++
    leBytes 2 (Nat.lor x.flags (flag (x.state = 2) 2)) ++ leBytes 2 ps.length ++
    leBytes 4 x.stamps.length ++ leBytes 4 x.windows ++ leBytes 8 x.armTide ++ leBytes 8 s.tide ++
    leBytes 4 x.generation.toNat ++ n 3 ++ n 4 ++ n 5 ++ n 6 ++ n 7 ++ n 8 ++ n 9 ++
    ps.flatMap (pairBytes x) ++ x.stamps.flatMap stampBytes

end Sys2Proof.Machine
end

