-- ==== Sys2Proof/Machine/Safe.lean ====
section
/-! DEFINITION. What the safe-state events share (R51, R291, R397, R444, R593): interrupting
commands, halt requests, disarming, parking berths, entering FAULT, and what completes once berths
have parked and controllers are off. -/

namespace Sys2Proof.Machine

/-! ### Interrupting commands -/

/-- A pending bake ends without loading (R20, R86, R90, R93): its comparators and shadow registers are given up, and
calibration steps that rode on it become ready again (R384). -/
def bakeDrop (s : State) : State :=
  calReadyAgain { s with par := { s.par with pendBake := none, shadow := [], comparators := [] } }

/-- The bake of a BAKE that ends early is pending no more; it counts in BakeAbort, or with HW_FAULT in BakeFault (R75). -/
def dropPending (s : State) (c : Cmd) (status : Nat) : State :=
  match s.par.pendBake with
  | some p =>
    if p.tag = some c.ord then count (bakeDrop s) 6 0 0x01 (if status = stHwFault then 4 else 5) else s
  | none => s

/-- What a command in PREPARE has set aside is given back: it ends with no side effect (R444). -/
def unwind (s : State) (c : Cmd) (status : Nat) : State :=
  match c.work with
  | .none =>
    match c.op with
    | .tpXfer p _ _ _ _ => modTp s p.toNat fun x => { x with queue := x.queue.erase c.ord }
    | .bake _ _ _ _ _ => dropPending s c status
    | _ => s
  | .start _ qs => forAll s qs fun s q => modQuay s q fun x => { x with startAt := none, tokenWait := false }
  | .token _ qs => forAll s qs fun s q => modQuay s q fun x => { x with startAt := none, tokenWait := false }
  | .segRead => fillOver s c
  | .prefill _ qs => forAll s qs fun s q => modQuay s q fun x => { x with prefill := none, fifo := 0, fifoBad := none, stream := [] }
  | .ppmu cs => forAll s cs fun s k => modChan s k fun x => { x with ppmu := none }
  | .bake => dropPending s c status
  | _ => s

/-- End a command in flight early. -/
def cancel (s : State) (c : Cmd) (v : Verdict) : State := completeV (unwind s c v.1) c v

def cancelAll (s : State) (p : Cmd → Bool) (v : Verdict) : State :=
  (cmdsWhere s p).foldl (fun s c => cancel s c v) s

/-- A request is taken at a safe point by a routine that has no work in the data plane (R438): the context branches to
its handler, whose address is free (log 3), in the phase that it has reached; a WAIT ends as if it had timed out (R435).
`ending` is what the reply then carries. -/
def enterHandler (s : State) (e k : Nat) (ending : Option Verdict) : State :=
  let x := ctxAt s e k
  setCtx { s with freeCtr := s.freeCtr + 1 } e k { x with
    pc := (Config.freeWord s.freeCtr).toNat % 0x4000, handled := true, ending := ending, wait := none
    timedOut := x.timedOut || x.wait.isSome, sinceSafe := 0, safeAt := s.tide }

/-- The command's effect is not in the data plane: its routine alone ends it. -/
def routineOnly (c : Cmd) : Bool := c.work = .none

/-- An interrupt is taken (R444): in PREPARE the command ends with the status given, in PROGRESS as its handler
has it. -/
def takeInterrupt (s : State) (c : Cmd) (v : Verdict) : State :=
  let x := ctxAt s c.engine c.context
  if routineOnly c then enterHandler s c.engine c.context (if x.phase = .prepare then some v else none)
  else cancel s c v

/-- An interrupt request reaches a command (R444): a routine that executes microwords takes it at its next safe point, a
WAIT outside commit being one throughout (R435, R438); another command ends at once. The first request stands. -/
def interruptOne (v : Verdict) (s : State) (c : Cmd) : State :=
  if inRoutine s c then
    let x := ctxAt s c.engine c.context
    let s := setCtx s c.engine c.context { x with interrupt := true, held := some ((x.held).getD v) }
    if x.wait.isSome && !x.handled then takeInterrupt s c ((x.held).getD v) else s
  else cancel s c v

/-- An event of R444 on the commands of which a test holds: those in PREPARE or PROGRESS end with
the verdict; those past their commit keep their own status; deferred ones follow R57. -/
def interrupt (s : State) (p : Cmd → Bool) (v : Verdict) : State :=
  (cmdsWhere s fun c => p c && !neverTouched c.op && c.phase ≠ .deferred && foundPhase c ≠ .late).foldl
    (interruptOne v) s

/-- The berths that a command acts on, or whose quay it acts on (R593): at scopes 6 and 7 those of the quays and
berths that its work has in hand. -/
def worksOn (s : State) (c : Cmd) : List Nat :=
  if c.hdr.scope.toNat < 6 then actsOn s c
  else match c.work with
    | .start _ qs | .token _ qs | .prefill _ qs | .halt qs _ => qs.flatMap berthsOfQuay
    | .jump q => berthsOfQuay q
    | .park bs | .off bs => bs
    | _ => actsOn s c

/-- A command acts on one of these berths (R593). -/
def actsOnAny (s : State) (bs : List Nat) (c : Cmd) : Bool := (worksOn s c).any fun b => bs.contains b

/-- A command whose target is one of these berths, or a channel of one (R57). -/
def targetsBerth (bs : List Nat) (c : Cmd) : Bool :=
  let sc := c.hdr.scope.toNat
  !c.remote && 1 ≤ sc && sc ≤ 3 && (berthsIn sc c.hdr.inst.toNat).any fun b => bs.contains b

/-- ABORTED_CLEAN by an event that names no ABORT (R42). -/
def abortedByEvent : Verdict := abortedBy 0xFFFFFFFF

/-- Deferred commands that name one of these berths end when it enters FAULT (R57). -/
def deferredEnd (s : State) (p : Cmd → Bool) : State :=
  cancelAll s (fun c => c.phase = .deferred && p c) abortedByEvent

/-- The device enters FAULT: its deferred commands end (R47, R57). -/
def deviceFault (s : State) (src inst : Nat) : State :=
  if s.devFault.isSome then s else deferredEnd (devFaultEnter s src inst) fun _ => true

/-! ### Halts and disarming (R51, R160, R162) -/

/-- A halt request reaches a quay; the first one that is pending stands. -/
def haltRequest (s : State) (q cause : Nat) : State :=
  if (quayAt s q).running then
    modQuay s q fun x => { x with haltReq := some ((x.haltReq).getD (s.tide, cause)) }
  else s

/-- The armed berths of a quay. -/
def armedBerths (s : State) (q : Nat) : List Nat :=
  (berthsOfQuay q).filter fun b => natBit (quayAt s q).mask (b % 4)

/-- A quay is disarmed: its ARMED berths enter IDLE. -/
def disarm (s : State) (q : Nat) : State :=
  let s := forAll s (armedBerths s q) fun s b =>
    if (berthAt s b).run = .armed then modBerth s b fun x => { x with run := .idle } else s
  modQuay s q fun x => { x with
    armed := false, mask := 0, startAt := none, tokenWait := false, fifo := 0, fifoBad := none, stream := [] }

/-- START commands that no longer have a quay to start end with a verdict (R51). -/
def startsWithout (s : State) (v : Verdict) : State :=
  cancelAll s (fun c =>
    match c.work with
    | .start _ qs | .token _ qs => c.phase = .running && qs.all fun q => !(quayAt s q).armed
    | _ => false) v

/-- A berth leaves its quay's armed set; a quay with none left is disarmed, and its pending START
completes with STATE_CONFLICT (R51). -/
def leaveArmed (s : State) (b : Nat) : State :=
  let q := quayOfBerth b
  let x := quayAt s q
  if x.armed && !x.running && natBit x.mask (b % 4) then
    let s := modQuay s q fun x => { x with mask := x.mask - 2 ^ (b % 4) }
    if (quayAt s q).mask = 0 then
      let s := disarm s q
      startsWithout s (conflict s 4 q)
    else s
  else s

/-! ### Parking berths (R51, R194) -/

/-- Records and measurements of a berth end when it parks or faults (R234, R263). -/
def measureCut (s : State) (b : Nat) : State := tmuCut (acqEnd s b) b false

/-- The orderly park of a berth starts now. -/
def parkBerth (s : State) (b : Nat) (toFault : Bool) (groups : List (List Nat)) : State :=
  parkOrderly (measureCut s b) b toFault groups

/-- The hard park of a berth: one step, after which it is PARKED. -/
def parkBerthHard (s : State) (b : Nat) : State :=
  let s := parkHard (measureCut s b) b
  modBerth s b fun x => { x with park := none, run := if x.run = .fault then .fault else .parked }

def inBurst (s : State) (b : Nat) : Bool :=
  (quayAt s (quayOfBerth b)).running && (berthAt s b).run = .running

/-- A park that finds one under way, or waiting for its quay's halt: the berth parks once, by the earlier deadline, and
counts in both groups (R414, R423). -/
def parkJoin (s : State) (b wait : Nat) (group : List Nat) : State :=
  modBerth s b fun x => { x with park := x.park.map fun p => { p with
    deadline := p.deadline.map fun t => Nat.min t (s.tide + wait)
    groups := if p.groups.contains group then p.groups else p.groups ++ [group] } }

/-- A park of one berth, orderly: at its quay's halt boundary or after `wait` tc if it is RUNNING,
at once otherwise (R51, R414, R476). -/
def parkOne (s : State) (b cause wait : Nat) (group : List Nat) : State :=
  let x := berthAt s b
  if x.park.isSome then parkJoin s b wait group
  else if x.run = .off ∨ x.run = .parked ∨ x.run = .fault then s
  else if inBurst s b then
    haltRequest (modBerth s b fun x => { x with
      park := some { deadline := some (s.tide + wait), groups := [group] } }) (quayOfBerth b) cause
  else parkBerth (leaveArmed s b) b false [group]

/-- A hard park of one berth (R51, R415); a berth in FAULT whose channels are not parked yet parks too. -/
def parkOneHard (s : State) (b cause : Nat) : State :=
  let x := berthAt s b
  if x.run = .off ∨ x.run = .parked ∨ (x.run = .fault ∧ x.park = none) then s
  else if inBurst s b then parkBerthHard (haltRequest s (quayOfBerth b) cause) b
  else parkBerthHard (leaveArmed s b) b

/-- A berth waits for its quay's halt, or for a deadline, before its park starts. -/
def parkWaiting (s : State) (b : Nat) : Bool :=
  match (berthAt s b).park with
  | some p => p.applyAt.isNone
  | none => false

/-- The park that waited starts. -/
def parkBegin (s : State) (b : Nat) : State :=
  match (berthAt s b).park with
  | some p => if p.applyAt.isNone then parkBerth s b p.toFault p.groups else s
  | none => s

def parking (s : State) (b : Nat) : Bool := (berthAt s b).park.isSome

/-! ### What completes once berths have parked and controllers are off -/

/-- A command that waits for parks or for controllers to be off is done. -/
def safeDone (s : State) (c : Cmd) : Bool :=
  c.phase ≠ .deferred &&
  match c.work with
  | .park bs => bs.all fun b => !parking s b && isOff s b
  | .off bs => bs.all (isOff s)
  | _ => false

/-- Berths of the stop set of a zone (R403). -/
def stopBerths (z : Nat) : List Nat :=
  if z < 16 then berthsOfQuay z
  else if z < 20 then berthsOfWing (z - 16)
  else if z = 23 then List.range 64
  else []

/-- The lowest stopped or stopping zone whose stop set holds a berth (R418). -/
def stoppedZone (s : State) (b : Nat) : Option Nat :=
  findFrom (fun z => 3 ≤ (zoneAt s z).state && (stopBerths z).contains b) 0 24

/-- A zone's stop actions are complete (R408): its berths are parked and their site power is off, which for an immediate
or escalated stop is Sbb_EN low on every controller (R414 to R416). -/
def stopDone (s : State) (z : Nat) : Bool :=
  (zoneAt s z).state = 3 &&
    (stopBerths z).all fun b => (berthAt s b).run ≠ .running && !parking s b && isOff s b &&
      ((zoneAt s z).stopKind < 2 || !(spAt s (leaderOf s b)).enHigh)

/-- Complete PARK and SP_OFF commands that are done, and stops that are complete. -/
def settle (s : State) : State :=
  let s := (cmdsWhere s (safeDone s)).foldl (fun s c =>
    match c.work with
    | .park _ =>
      completeOk s c [(16, 2, stateCode s c.hdr.scope.toNat c.hdr.inst.toNat)]
    | _ => completeOk s c []) s
  forAll s (List.range 24) fun s z => if stopDone s z then modZone s z fun x => { x with state := 4 } else s

/-- ParkMode is applied to a berth whose orderly park started 2 µs ago: it enters PARKED, unless it
is in FAULT. Once every berth of a group has parked, their site power goes off (R291). -/
def parkFinish (s : State) (b : Nat) : State :=
  match (berthAt s b).park with
  | none => s
  | some p =>
    if p.applyAt.isNone then s
    else
      let s := forAll s (chansOfBerth b) fun s c => parkApply s false c
      let s := modBerth s b fun x => { x with
        park := none, run := if x.run = .fault ∨ p.toFault then .fault else .parked }
      let s := (p.groups.filter fun g => g.contains b && g.all fun k => !parking s k).foldl offOrderly s
      settle (offAdvance s)

/-- A list of berths with the leaders of their gangs, whose controllers are theirs (R285). -/
def withLeaders (s : State) (bs : List Nat) : List Nat :=
  bs ++ ((bs.map (leaderOf s)).filter fun l => !bs.contains l).eraseDups

/-! ### Berth FAULT (R15, R109, R289) -/

/-- One berth enters FAULT: its run state, the last-fault record and vector 0; its quay's halt or
armed set; measurements, calibration and the orderly park. -/
def berthFault (s : State) (b src inst : Nat) (group : List Nat) : State :=
  let x := berthAt s b
  if x.run = .off ∨ x.run = .fault then s
  else
    let running := inBurst s b
    let s := if running then haltRequest s (quayOfBerth b) 7 else leaveArmed s b
    let s := modBerth s b fun x => { x with run := .fault, lastFault := src }
    let s := causeEvent { s with lastFaultSource := src, lastFaultInst := inst } 1
    parkBerth (calFault s b) b true (((x.park.map (·.groups)).getD []) ++ [group])

/-- Berths enter FAULT for one cause: their commands end (R57, R444), then each faults; `group` is
what the front-end die turns off in mode 0 (R291). -/
def berthsFault (s : State) (bs : List Nat) (src inst : Nat) (v : Verdict) (group : List Nat) : State :=
  let hit := bs.filter fun b => (berthAt s b).run ≠ .off && (berthAt s b).run ≠ .fault
  let s := interrupt s (actsOnAny s hit) v
  let s := deferredEnd s (targetsBerth hit)
  forAll s hit fun s b => berthFault s b src inst group

/-! ### Off and on (R44) -/

/-- The device enters PARKED (R47): a UNPARK at device scope must follow. -/
def deviceParked (s : State) : State := { s with unparked := false }

end Sys2Proof.Machine
end

