-- ==== Sys2Proof/Machine/Sequencer.lean ====
section
/-! DEFINITION. The quay sequencer (R139 to R178): descriptors, entering a segment, level waveforms
(R185 to R191), the end of a burst, pauses, and the throttling gate of burst starts (R411). -/

namespace Sys2Proof.Machine

/-! ### Descriptors (R147 to R150), live words -/

def segF (s : State) (q g f lo len : Nat) : Nat := liveF s 4 q f g lo len
def segKind (s : State) (q g : Nat) : Nat := segF s q g 0x30 0 2
def segValid (s : State) (q g : Nat) : Bool := segF s q g 0x30 2 1 = 1
def segEnd (s : State) (q g : Nat) : Bool := segF s q g 0x30 3 1 = 1
def segOp (s : State) (q g : Nat) : Nat := segF s q g 0x30 4 2
def segCond (s : State) (q g : Nat) : Nat := segF s q g 0x30 6 2
def segTset (s : State) (q g : Nat) : Nat := segF s q g 0x30 8 6
def segTsKeep (s : State) (q g : Nat) : Bool := segF s q g 0x30 14 1 = 1
def segLwEn (s : State) (q g : Nat) : Bool := segF s q g 0x30 25 1 = 1
def segLwIndex (s : State) (q g : Nat) : Nat := segF s q g 0x30 26 6
def segSucc (s : State) (q g : Nat) : Nat := segF s q g 0x31 0 8
def segBranch (s : State) (q g : Nat) : Nat := segF s q g 0x31 8 8
def segCall (s : State) (q g : Nat) : Nat := segF s q g 0x31 16 8
def segBerths (s : State) (q g : Nat) : Nat := segF s q g 0x31 24 4
def segTimeoutHalt (s : State) (q g : Nat) : Bool := segF s q g 0x31 28 1 = 1
def segNeedFill (s : State) (q g : Nat) : Bool := segF s q g 0x31 29 1 = 1
def segStaleEnd (s : State) (q g : Nat) : Bool := segF s q g 0x31 30 1 = 1
/-- Passes: LoopCount, 0 meaning 2^32 (R150). -/
def segLoops (s : State) (q g : Nat) : Nat :=
  let n := segF s q g 0x32 0 32
  if n = 0 then 2 ^ 32 else n
def segLenG (s : State) (q g : Nat) : Nat := segF s q g 0x33 0 26
def segBank (g : Nat) : Nat := g / 128

/-- A timing set is Valid (family 0x27, bit 0). -/
def tsetValid (s : State) (q t : Nat) : Bool := liveF s 4 q 0x27 t 0 1 = 1

/-! ### Banks (R141, R144 to R146) -/

def bankSize : Nat := 0x200000
def bankFilling (s : State) (q bank : Nat) : Bool := (quayAt s q).filling.any fun f => f.1 = bank
def fillSeq (s : State) (q bank : Nat) : Nat := tabGet 0 (quayAt s q).fill bank

/-- A bank is referenced (R144). -/
def bankRef (s : State) (q bank : Nat) : Bool :=
  let x := quayAt s q
  (x.armed && !x.running && segBank x.entry = bank) ||
    (x.running && (segBank x.curSeg = bank || (x.committed.map segBank) = some bank ||
      x.jumps.any (fun j => segBank j.2.1 = bank) || x.stack.any (fun g => segBank g = bank) ||
      (x.redirect.map segBank) = some bank))

/-! ### Level waveforms (R185 to R191) -/

def lwBase : Nat := 0x160000

/-- The bytes of directory entry `n` of a bank. -/
def lwEntry (s : State) (q bank n : Nat) : List Byte :=
  memReadBytes (quayAt s q).seg (bank * bankSize + lwBase + 16 * n) 16

def lwOffset (e : List Byte) : Nat := leAt e 8 2 % 2 ^ 14
def lwCount (e : List Byte) : Nat := leAt e 12 4 % 2 ^ 19
def lwInterval (e : List Byte) : Nat := leAt e 4 2
def lwShift (e : List Byte) : Nat := leAt e 0 1 / 4 % 4
def lwMask (e : List Byte) : Nat := leAt e 1 2 % 512
def lwRepeats (e : List Byte) : Bool := natBit (leAt e 0 1) 1

/-- The directory entry may be played (R187). -/
def lwValid (e : List Byte) : Bool :=
  let w := leNat e
  natBit w 0 && bitsOf w 4 4 = 0 && bitsOf w 17 15 = 0 && bitsOf w 48 16 = 0 && bitsOf w 78 18 = 0 &&
    bitsOf w 115 13 = 0 && 16 ≤ lwOffset e && lwCount e ≠ 0 && 64 * lwOffset e + 2 * lwCount e ≤ 655360

/-- A position's own circuit that is free while the spare carries the pin (R134). -/
def standsAside (s : State) (c : Nat) : Bool :=
  c < 1024 && (berthAt s (berthOfChan c)).target = posOfChan c && (berthAt s (berthOfChan c)).seqPhase = 3

/-- The channel circuits that play a quay's burst: those of its armed berths that do not stand aside. -/
def armedChans (s : State) (q : Nat) : List Nat :=
  ((armedBerths s q).flatMap chansOfBerth).filter fun c => !standsAside s c

/-- A DAC follows the quay's waveform (R188): its LwFollow bit, a spare with its pin's. -/
def lwFollows (s : State) (c d mask : Nat) : Bool :=
  natBit mask d && natBit (live s (pid 2 (paramInst s c) 0x42 0)).toNat d

/-- The delta of a DAC is `v` from the modulator update `m` on; a sum with the code that is not legal is clipped there
and counted (R188). Each DAC of a channel on which a sample clips counts one, on the circuit that plays it, so a
substituted position's on the spare's own instance (DESIGN CHOICE, log 125). -/
def lwDac (s : State) (m c d : Nat) (v : Int) : State :=
  let sum : Int := dacBase s c d + v
  let s := if dacLeast d ≤ sum && sum ≤ dacMost d then s else count s 2 c 0x43 0
  modChan (holdMod s m c) c fun x => { x with
    lwDelta := if v = 0 then tabErase x.lwDelta d else tabSet x.lwDelta d v }

/-- Every delta of these channels returns to 0 at the modulator update `m` (R190, R191). -/
def lwClear (s : State) (m : Nat) (cs : List Nat) : State :=
  forAll s cs fun s c => modChan (holdMod s m c) c fun x => { x with lwDelta := [] }

/-- Sample `k` of the playing waveform enters the following modulators at the update `m`; a parked channel follows
no waveform (R194). -/
def lwApply (s : State) (q m k : Nat) : State :=
  let x := quayAt s q
  let e := lwEntry s q x.lwBank x.lwCur
  let a := x.lwBank * bankSize + lwBase + 64 * lwOffset e + 2 * k
  let v := signed16 (leNat (memReadBytes x.seg a 2)) * (2 : Int) ^ lwShift e
  forAll s ((armedChans s q).filter fun c => !(chanAt s c).parkActive) fun s c =>
    forAll s ((List.range 9).filter fun d => lwFollows s c d (lwMask e)) fun s d => lwDac s m c d v

/-- A playback starts at the quay's present vector: sample 0 enters. -/
def lwStart (s : State) (q bank n : Nat) : State :=
  let e := lwEntry s q bank n
  let m := modBall (quayAt s q).sPos
  let s := modQuay s q fun x => { x with
    lwPlaying := decide (1 < lwCount e), lwCur := n, lwBank := bank, lwNext := 1
    lwStart := m, lwRepeat := lwRepeats e }
  lwApply s q m 0

/-- A segment plays a waveform (R187). -/
def lwPlays (s : State) (q g : Nat) : Bool :=
  segLwEn s q g && lwValid (lwEntry s q (segBank g) (segLwIndex s q g))

/-- The waveform of an entry (R187, R190): the deltas return to 0, and it starts where there is one. -/
def lwEnter (s : State) (q g : Nat) : State :=
  let plays := lwPlays s q g
  let s := lwClear s (modBall (quayAt s q).sPos) (armedChans s q)
  if plays then lwStart s q (segBank g) (segLwIndex s q g)
  else
    let s := modQuay s q fun x => { x with lwPlaying := false, lwRepeat := false }
    if segLwEn s q g then count s 4 q 0x44 0 else s

/-- Another pass of the same entry restarts a repeating waveform (R189). -/
def lwPass (s : State) (q : Nat) : State :=
  let x := quayAt s q
  if x.lwRepeat then lwStart s q x.lwBank x.lwCur else s

/-! ### The burst-start gate (R411) -/

/-- The zones that throttle a quay: its own, its front-end die's, the deck's, and a hold zone where
the quay streams from that stack. -/
def streamsStack (s : State) (q k : Nat) : Bool :=
  (List.range 256).any fun g =>
    segValid s q g && segKind s q g = 2 &&
      (let a := 4096 * segF s q g 0x34 0 24
       touches a (1536 * segLenG s q g) k)

def throttlesQuay (s : State) (z q : Nat) : Bool :=
  z = q || z = 16 + q / 4 || z = 23 || (z = 20 && streamsStack s q 0) || (z = 21 && streamsStack s q 1)

def throttlingZones (s : State) (q : Nat) : List Nat :=
  (List.range 24).filter fun z => 2 ≤ (zoneAt s z).state && throttlesQuay s z q

def throttleDiv (s : State) (z : Nat) : Nat := liveF s 6 0 0xA0 (8 * z) 2 4

def largestDiv (s : State) (q : Nat) : Nat :=
  (throttlingZones s q).foldl (fun d z => Nat.max d (throttleDiv s z)) 0

/-- The zone whose ThrottleDiv is in force: the largest, the lowest number among equals (R412). -/
def gateZone (s : State) (q : Nat) : Nat :=
  ((throttlingZones s q).find? fun z => throttleDiv s z = largestDiv s q).getD 0

/-- The gate of a quay in force now. -/
def gateOf (s : State) (q : Nat) : Nat :=
  if throttlingZones s q = [] then 0 else ((quayAt s q).gate).getD 0

/-- The gates of quays that no zone throttles any more are removed (R411). -/
def gatesLift (s : State) : State :=
  forAll s ((List.range 16).filter fun q => (quayAt s q).gate.isSome && throttlingZones s q = []) fun s q =>
    modQuay s q fun x => { x with gate := none }

/-! ### The end of a burst (R165) -/

/-- HALT commands that waited for this quay; the last quay to halt completes the command with the
index of its lowest quay (R162). -/
def haltDone (s : State) (q : Nat) : State :=
  (cmdsWhere s fun c => match c.work with
    | .halt qs _ => qs.contains q
    | _ => false).foldl (fun s c =>
      match c.work with
      | .halt qs low =>
        let rest := qs.filter (· ≠ q)
        if rest = [] then completeOk s c [(16, 8, (quayAt s low).haltIndex)]
        else putCmd s { c with work := .halt rest low }
      | _ => s) s

/-- Pending JUMPs of a quay end with STATE_CONFLICT (R160). -/
def jumpsDrop (s : State) (q : Nat) : State :=
  let v := conflict s 4 q
  cancelAll s (fun c => c.work = .jump q) v

/-- A burst ends at the quay's present vector with a cause; 0 is the normal end (R165). -/
def burstEnd (s : State) (q cause : Nat) : State :=
  let x := quayAt s q
  let s := reach s (posTide x.sPos)
  let bs := armedBerths s q
  let div := largestDiv s q
  let startTide := ((x.startAt).getD 0)
  let s := modQuay s q fun x => { x with
    running := false, armed := false, halted := decide (cause ≠ 0), haltCause := cause
    haltIndex := x.vectorIndex, pause := none, redirect := none, committed := none, commitBusy := false
    starving := false, jumps := [], haltReq := none, fifo := 0, fifoBad := none, stream := [], phaseRemain := 0
    stack := [], startAt := none, lwPlaying := false, lwRepeat := false
    gate := if div = 0 then none else some (s.tide + (div - 1) * (s.tide - startTide)) }
  let s := count s 4 q 0x36 15
  let s := forAll s bs fun s b =>
    if (berthAt s b).run = .running then modBerth s b fun y => { y with run := .idle } else s
  let s := freeG s q
  let s := jumpsDrop s q
  let s := haltDone s q
  settle (forAll s (berthsOfQuay q) fun s b => if parkWaiting s b then parkBegin s b else s)

/-- The burst halts with a cause at its present vector. -/
def haltAt (s : State) (q cause : Nat) : State := burstEnd s q cause

/-! ### Starving (R175) -/

/-- STARVE is recorded: cause, index, outcome INVALID through the halt cause; the quay halts at this
vector if it begins a granule, and at the next granule boundary otherwise. -/
def starveAt (s : State) (q cause index : Nat) : State :=
  let s := modQuay s q fun x => { x with
    starveCause := cause, starveIndex := index, starving := true, lwPlaying := false, lwRepeat := false }
  let s := count s 4 q 0x36 9
  if index % 64 = 0 then haltAt s q 2 else s

/-! ### Edges at a timing-set switch (R115, R116, R118) -/

/-- t_eff of generator `g` of a circuit in timing set `t` (R116). -/
def edgeTime (s : State) (q c t g : Nat) : Int :=
  let sel := liveF s 4 q 0x27 t 1 1
  let i := paramInst s c
  let e : Int := (live s (pid 4 q (0x21 + g) t)).toNat
  let off := signed32 (live s (pid 1 i 0x18 (16 * g + sel)))
  if g < 4 then e + off - (live s (pid 2 i 0x13 0)).toNat else e + off + (live s (pid 2 i 0x13 1)).toNat

/-- The format that a set selects for a circuit (R112), and its compare mode (R114). -/
def formatIn (s : State) (q c t : Nat) : Nat :=
  let i := paramInst s c
  if liveF s 4 q 0x27 t 1 1 = 0 then liveF s 2 i 0x11 0 0 3 else liveF s 2 i 0x11 0 4 3

def strobeMode (s : State) (q c t : Nat) : Bool :=
  let i := paramInst s c
  liveF s 2 i 0x11 0 (8 + liveF s 4 q 0x27 t 1 1) 1 = 1

/-- The generators that a format and compare mode use (R112): 0 DON to 5 CC. -/
def gensUsed (format : Nat) (strobe : Bool) : List Nat :=
  (match format with
   | 0 => [0, 1, 2]
   | 1 | 2 | 3 | 4 => [0, 1, 2, 3]
   | _ => []) ++ [4] ++ (if !strobe || format = 4 then [5] else [])

/-- S in whole units, rounded half up (R119). -/
def unitsOf (sPos : Nat) : Nat := (2 * sPos + subUnits) / (2 * subUnits)

/-- How far the starts of the next vectors fall behind a firing every 625 units, after `i` of them. -/
def slackAfter (s : State) (q i : Nat) : Nat := unitsOf (posAfter s q i) - unitsOf (quayAt s q).sPos - 625 * i

/-- The last of the next vectors, from `lo` up to `hi`, whose firing a delay of `d` units at the first one still delays:
`slackAfter` never falls. -/
def lastCrowded (s : State) (q d fuel lo hi : Nat) : Nat :=
  match fuel with
  | 0 => lo
  | fuel + 1 =>
    if hi ≤ lo then lo
    else
      let mid := (lo + hi + 1) / 2
      if slackAfter s q mid < d then lastCrowded s q d fuel mid hi else lastCrowded s q d fuel lo (mid - 1)

/-- The delay of generator `g`'s firing in the quay's next vector: 625 units after the previous one of the burst, which
was itself late by `crowd` (R118). -/
def crowdFirst (s : State) (q c g : Nat) : Nat :=
  let x := quayAt s q
  if x.vectorIndex = 0 ∨ !(gensUsed (formatIn s q c x.lastSet) (strobeMode s q c x.lastSet)).contains g then 0
  else
    let gap : Int := (unitsOf x.sPos : Int) - unitsOf (x.sPos - x.lastLen) + edgeTime s q c x.activeSet g -
      edgeTime s q c x.lastSet g
    (tabGet 0 (chanAt s c).crowd g + 625 - gap).toNat

/-- The firings of generator `g` over the next `n` vectors, each vector being taken to fire every generator that its
format uses (DEDUCED, log 14): the delayed ones count in EdgeCrowd, and the delay that is left is kept. -/
def crowdGen (q n c : Nat) (s : State) (g : Nat) : State :=
  let d := crowdFirst s q c g
  if d = 0 then modChan s c fun x => { x with crowd := tabErase x.crowd g }
  else
    let left := d - slackAfter s q (n - 1)
    let s := countN s 2 c 0x14 1 (lastCrowded s q d 64 0 (n - 1) + 1)
    modChan s c fun x => { x with crowd := if left = 0 then tabErase x.crowd g else tabSet x.crowd g left }

/-- Delayed firings over the next `n` vectors of a quay (R118). -/
def crowdPlay (s : State) (q n : Nat) : State :=
  let x := quayAt s q
  forAll s ((armedChans s q).filter fun c => (chanAt s c).mode = 2) fun s c =>
    if x.lastSet = x.activeSet && (chanAt s c).crowd = [] then s
    else (gensUsed (formatIn s q c x.activeSet) (strobeMode s q c x.activeSet)).foldl (crowdGen q n c) s

/-! ### Vectors (R109, R119, R155) -/

/-- All channel circuits of a quay. -/
def quayChans (q : Nat) : List Nat := (berthsOfQuay q).flatMap chansOfBerth

/-- A vector start of a quay: drivers whose short-circuit hold begins go Hi-Z, those whose hold ends follow their codes
again (R109). -/
def holdTake (s : State) (q : Nat) : State :=
  forAll s ((quayChans q).filter fun c => (chanAt s c).holdNext.isSome) fun s c =>
    modChan s c fun x =>
      let h := x.holdNext = some true
      { x with heldHiZ := h, driver := if h then .hiz else x.driver, limitAt := if h then none else x.limitAt, holdNext := none }

/-- `n` vectors pass at a quay, of a segment, pause or starve. -/
def advanceQ (s : State) (q n : Nat) : State :=
  if n = 0 then s
  else
    let s := advance (crowdPlay (holdTake s q) q n) q n
    modQuay s q fun x => { x with lastSet := x.activeSet }

/-! ### Markers (R148, R163) -/

/-- Marker lines pulse at vector `index`, whose ball start is `sPos`: the armed berths' acquisition
engines and time-measurement units see them (R163, R222, R246). -/
def mark (s : State) (q lines index sPos : Nat) : State :=
  if lines = 0 then s
  else
    let s := raiseLines s 1 (ceilDiv sPos (5000 * subUnits)) fun w =>
      fld w 10 4 = q && natBit lines (fld w 14 2)
    forAll s (armedBerths s q) fun s b =>
    let s := modAcq s b fun x =>
      if (x.state = 1 || x.state = 3) && Nat.land lines (fld (setupWord x.setup 2) 14 4) ≠ 0 then
        { x with events := x.events ++ [(3, ceilDiv sPos (5000 * subUnits), index)] }
      else x
    let u := tmuAt s b
    if u.source = 2 && Nat.land lines u.markSel ≠ 0 then tmuArmEvent s b (unitsOf sPos) else s

/-- MarkStart at the first vector of a pass: the first pass, or every pass with MarkEvery. -/
def markStart (s : State) (q : Nat) : State :=
  let x := quayAt s q
  if x.running && (x.passes = 0 || segF s q x.curSeg 0x30 24 1 = 1) then
    mark s q (segF s q x.curSeg 0x30 16 4) x.vectorIndex x.sPos
  else s

/-- MarkEnd at the last vector of a pass that has just been played: the final pass (the LoopCount-th
for a match-wait, DEDUCED, log 14), or every pass with MarkEvery. -/
def markEnd (s : State) (q : Nat) : State :=
  let x := quayAt s q
  if x.passes = segLoops s q x.curSeg || segF s q x.curSeg 0x30 24 1 = 1 then
    mark s q (segF s q x.curSeg 0x30 20 4) (x.vectorIndex - 1) (x.sPos - x.lastLen)
  else s

/-! ### Entering a segment (R145, R146, R155 to R157, R172) -/

/-- The commit's verdict on the bank of a segment: as noted when it was committed, else as now. -/
def entryBusy (s : State) (q g : Nat) : Bool :=
  let x := quayAt s q
  if x.committed = some g then x.commitBusy else bankFilling s q (segBank g)

/-- The quay enters a segment at its present vector. One whose Valid has become 0 since it was armed or committed is
played all the same (R147; DESIGN CHOICE, log 86). -/
def enterNow (s : State) (q g : Nat) : State :=
  let x := quayAt s q
  let bank := segBank g
  let stale := segNeedFill s q g && (tabFind x.playedFill g) = some (fillSeq s q bank)
  if entryBusy s q g then starveAt (modQuay s q fun x => { x with curSeg := g }) q 3 x.vectorIndex
  else if stale && segStaleEnd s q g then count (burstEnd s q 0) 4 q 0x36 11
  else if stale then starveAt (modQuay s q fun x => { x with curSeg := g }) q 4 x.vectorIndex
  else
    let s := modQuay s q fun x => { x with
      curSeg := g, passes := 0, entryFails := 0, passFails := 0, committed := none, commitBusy := false
      passIndex := x.vectorIndex, entries := ((x.vectorIndex, g) :: x.entries).take 16
      activeSet := if segTsKeep s q g then x.activeSet else segTset s q g
      playedFill := if segNeedFill s q g then tabSet x.playedFill g (fillSeq s q bank) else x.playedFill }
    markStart (lwEnter s q g) q

/-- A pause of `n` granules begins: its vectors belong to no segment (R140). -/
def pauseStart (s : State) (q n : Nat) : State :=
  modQuay s q fun x => { x with pause := some n, entries := ((x.vectorIndex, 256) :: x.entries).take 16 }

/-- Enter a segment off the predicted path after a pause of `played` granules: a streaming target
is preceded by the rest of its redirect pause (R172). -/
def enterDiverged (s : State) (q g played : Nat) : State :=
  let s := modQuay s q fun x => { x with fifo := 0, fifoBad := none, stream := [] }
  if segKind s q g = 2 then
    let r := pauseGranules s q 2000000
    if played < r then pauseStart (modQuay s q fun x => { x with redirect := some g }) q (r - played)
    else enterNow s q g
  else enterNow s q g

/-! ### After a segment's passes (R157) -/

/-- Steps 4 to 7 of R157. -/
def afterEntry (s : State) (q : Nat) : State :=
  let x := quayAt s q
  let g := x.curSeg
  match segOp s q g with
  | 1 =>
    if 16 ≤ x.stack.length then haltAt s q 3
    else enterNow (modQuay s q fun x => { x with stack := segSucc s q g :: x.stack }) q (segCall s q g)
  | 2 =>
    match x.stack with
    | [] => haltAt s q 3
    | t :: rest => enterNow (modQuay s q fun x => { x with stack := rest }) q t
  | _ => if segEnd s q g then burstEnd s q 0 else enterNow s q (segSucc s q g)

/-- The units of a decision pause (R158). -/
def decisionUnits : Nat := 1400000

/-- A jump is taken at the present boundary (R160): its command completes with the index. -/
def jumpTake (s : State) (q played : Nat) : State :=
  match (quayAt s q).jumps with
  | [] => s
  | j :: rest =>
    let s := modQuay s q fun x => { x with jumps := rest, pause := none, redirect := none, committed := none, played := 0 }
    let idx := (quayAt s q).vectorIndex
    let s := match s.inflight.find? (fun c => c.work = .jump q && c.ord = j.2.2) with
      | some c => completeOk s c [(16, 8, idx)]
      | none => s
    enterDiverged s q j.2.1 played

/-- What is due at the present granule boundary (R157 steps 1 and 2): a halt, a jump, or neither. -/
def haltDue (s : State) (q : Nat) : Option Nat :=
  let x := quayAt s q
  match x.haltReq with
  | some r => if boundaryOpen x.sPos r.1 then some r.2 else none
  | none => none

def jumpDue (s : State) (q : Nat) : Bool :=
  let x := quayAt s q
  match x.jumps with
  | j :: _ => boundaryOpen x.sPos j.1
  | [] => false

/-- The compares of a segment's BerthMask berths that failed, among those armed (R149). -/
def condFails (s : State) (q g fails : Nat) : Bool :=
  Nat.land (Nat.land (segBerths s q g) (quayAt s q).mask) fails ≠ 0

/-- Another pass of the segment begins at the present vector. -/
def nextPass (s : State) (q : Nat) : State :=
  markStart (lwPass (modQuay s q fun x => { x with
    passFails := 0, passIndex := x.vectorIndex
    entries := if (x.entries.head?).any (·.2 = 256) then ((x.vectorIndex, x.curSeg) :: x.entries).take 16
      else x.entries }) q) q

/-- The decision at the end of a decision pause of `played` granules (R148, R164). -/
def decide_ (s : State) (q played : Nat) : State :=
  let x := quayAt s q
  let g := x.curSeg
  match segCond s q g with
  | 1 => if condFails s q g x.entryFails then enterDiverged s q (segBranch s q g) played else afterEntry s q
  | 2 => if condFails s q g x.passFails then afterEntry s q else enterDiverged s q (segBranch s q g) played
  | 3 =>
    if !condFails s q g x.passFails then
      if segEnd s q g then burstEnd s q 0 else enterDiverged s q (segSucc s q g) played
    else if x.passes < segLoops s q g then nextPass s q
    else
      let s := count s 4 q 0x36 10
      if segTimeoutHalt s q g then haltAt s q 4 else enterNow s q (segBranch s q g)
  | _ => afterEntry s q

/-- The end of a pass at the present vector (R156, R157). -/
def passEnd (s : State) (q : Nat) : State :=
  let x := quayAt s q
  let g := x.curSeg
  match haltDue s q with
  | some cause => haltAt s q cause
  | none =>
    if jumpDue s q then jumpTake s q 0
    else if segCond s q g = 3 then
      pauseStart s q (pauseGranules s q decisionUnits)
    else if x.passes < segLoops s q g then nextPass s q
    else if segCond s q g = 0 then afterEntry s q
    else pauseStart s q (pauseGranules s q decisionUnits)

/-- The segment that steps 4 to 7 of R157 enter. -/
def afterNext (s : State) (q : Nat) : Option Nat :=
  let x := quayAt s q
  let g := x.curSeg
  match segOp s q g with
  | 1 => if 16 ≤ x.stack.length then none else some (segCall s q g)
  | 2 => x.stack.head?
  | _ => if segEnd s q g then none else some (segSucc s q g)

/-- The segment that the decision of the pause in hand enters, as its results stand (R148, R164). -/
def outcomeNext (s : State) (q : Nat) : Option Nat :=
  let x := quayAt s q
  let g := x.curSeg
  match segCond s q g with
  | 1 => if condFails s q g x.entryFails then some (segBranch s q g) else afterNext s q
  | 2 => if condFails s q g x.passFails then afterNext s q else some (segBranch s q g)
  | 3 =>
    if !condFails s q g x.passFails then if segEnd s q g then none else some (segSucc s q g)
    else if x.passes < segLoops s q g then some g
    else if segTimeoutHalt s q g then none
    else some (segBranch s q g)
  | _ => afterNext s q

/-- The segment that follows the pass or pause in hand, if one does (R161): a pass that another pass or a decision
pause follows commits none. -/
def nextSegment (s : State) (q : Nat) : Option Nat :=
  let x := quayAt s q
  if x.redirect.isSome then x.redirect
  else if x.pause.isSome then outcomeNext s q
  else if segCond s q x.curSeg ≠ 0 ∨ x.passes + 1 < segLoops s q x.curSeg then none
  else afterNext s q

/-! ### The predicted path (R172, R174) -/

def fifoSize : Nat := 262144

/-- Bytes of one pass of a segment that come from the hold. -/
def passBytes (s : State) (q g : Nat) : Nat := if segKind s q g = 2 then 1536 * segLenG s q g else 0

/-- The segment, with its call stack, that is predicted to follow a segment: no jump, and every condition false. -/
def pathNext (s : State) (q g : Nat) (stack : List Nat) : Option (Nat × List Nat) :=
  if segCond s q g = 3 then if segTimeoutHalt s q g then none else some (segBranch s q g, stack)
  else match segOp s q g, stack with
    | 1, _ => if 16 ≤ stack.length then none else some (segCall s q g, segSucc s q g :: stack)
    | 2, [] => none
    | 2, t :: rest => some (t, rest)
    | _, _ => if segEnd s q g then none else some (segSucc s q g, stack)

/-- More steps than a path can take before it repeats itself. -/
def pathSteps : Nat := 2 ^ 160

/-- The bytes that the predicted path from `p` on takes from the hold, as far as they may fill the FIFO. A path that comes
back to `mark` without taking any never does; `mark` moves on after `limit` steps, and at every entry that takes some. -/
def pathWalk (s : State) (q fuel acc : Nat) (mark : Option (Nat × List Nat)) (step limit : Nat)
    (p : Option (Nat × List Nat)) : Nat :=
  match fuel, p with
  | fuel + 1, some (g, stack) =>
    let take := passBytes s q g * segLoops s q g
    if take = 0 && mark = p then acc
    else if fifoSize ≤ acc + take then fifoSize
    else if take ≠ 0 then pathWalk s q fuel (acc + take) p 0 1 (pathNext s q g stack)
    else if step = limit then pathWalk s q fuel acc p 0 (2 * limit) (pathNext s q g stack)
    else pathWalk s q fuel acc mark (step + 1) limit (pathNext s q g stack)
  | _, _ => acc

def pathFrom (s : State) (q acc : Nat) (p : Option (Nat × List Nat)) : Nat := pathWalk s q pathSteps acc none 0 1 p

def pathBytes (s : State) (q g : Nat) : Nat := pathFrom s q 0 (some (g, []))

/-- The bytes that the rest of a running burst's predicted path takes, as far as they may fill the FIFO. -/
def pathRest (s : State) (q : Nat) : Nat :=
  let x := quayAt s q
  match x.redirect with
  | some g => pathFrom s q 0 (some (g, x.stack))
  | none =>
    let g := x.curSeg
    let left := passBytes s q g * (segLoops s q g - x.passes)
    let left := if x.pause.isSome || segKind s q g ≠ 2 then left else left - 24 * x.played
    if fifoSize ≤ left then fifoSize else pathFrom s q left (pathNext s q g x.stack)

/-- The hold address of byte `k` that the predicted path from `p` on takes. -/
def pathByte (s : State) (q fuel k : Nat) (p : Option (Nat × List Nat)) : Option Nat :=
  match fuel, p with
  | fuel + 1, some (g, stack) =>
    let take := passBytes s q g * segLoops s q g
    if k < take then some (4096 * segF s q g 0x34 0 24 + k % passBytes s q g)
    else pathByte s q fuel (k - take) (pathNext s q g stack)
  | _, _ => none

/-- The hold address of the first byte that the FIFO of a quay does not hold, if its path takes one (R171, R172). -/
def nextByte (s : State) (q : Nat) : Option Nat :=
  let x := quayAt s q
  let k := x.fifo
  match x.prefill with
  | some g => if k < pathBytes s q g then pathByte s q pathSteps k (some (g, [])) else none
  | none =>
    if !x.running then
      if x.armed && k < pathBytes s q x.entry then pathByte s q pathSteps k (some (x.entry, [])) else none
    else if pathRest s q ≤ k then none
    else match x.redirect with
      | some g => pathByte s q pathSteps k (some (g, x.stack))
      | none =>
        let g := x.curSeg
        let all := passBytes s q g * (segLoops s q g - x.passes)
        let gone := if x.pause.isSome || segKind s q g ≠ 2 then 0 else 24 * x.played
        if k < all - gone then some (4096 * segF s q g 0x34 0 24 + (gone + k) % passBytes s q g)
        else pathByte s q pathSteps (k - (all - gone)) (pathNext s q g x.stack)

/-- The data that a quay must read next lies in a stack that is down (R319). -/
def stackStarves (s : State) (q : Nat) : Bool := (nextByte s q).any fun a => stackIsDown s (stackOf a)

end Sys2Proof.Machine
end

