-- ==== Sys2Proof/Machine/Patterns.lean ====
section
/-! DEFINITION. Vector codes (R139, R142, R167 to R169, R171) and the drive state that a run of
vectors leaves at the pins (R111, R112, R165). -/

namespace Sys2Proof.Machine

/-- The 4-bit code of quay position `p` in vector `v` of a bank (R142). -/
def storedCode (s : State) (q bank v p : Nat) : Nat :=
  let b := (memRead (quayAt s q).seg (bank * bankSize + 32 * v + p / 2)).toNat
  if p % 2 = 0 then b % 16 else b / 16

/-- The hold as it stood when byte `k` of the FIFO was read. -/
def readFrom (runs : List (Nat × Mem)) (k : Nat) (m : Mem) : Mem :=
  match runs with
  | [] => m
  | r :: rest => if k < r.1 then r.2 else readFrom rest (k - r.1) m

/-- The runs of the FIFO's bytes without its first `n` bytes. -/
def dropRead (runs : List (Nat × Mem)) (n : Nat) : List (Nat × Mem) :=
  match runs with
  | [] => []
  | r :: rest => if n < r.1 then (r.1 - n, r.2) :: rest else dropRead rest (n - r.1)

/-- The code of a streamed vector (R171, R325): three bits of the vector's 192 as they were read into the FIFO, whose
first vector is the one that the quay plays next, mapped by StreamMap. -/
def streamedCode (s : State) (q g v p : Nat) : Nat :=
  let x := quayAt s q
  let a := 4096 * segF s q g 0x34 0 24 + 24 * v
  let w := leNat ((List.range 24).map fun k =>
    memRead (readFrom x.stream (24 * (v - x.played) + k) s.hold.mem) (a + k))
  segF s q g 0x35 (4 * bitsOf w (3 * p) 3) 4

/-! ### The address-data generator (R167 to R169) -/

def adgF (s : State) (q f p lo len : Nat) : Nat := liveF s 4 q f p lo len

def adgCount (s : State) (q f p : Nat) : Nat := adgF s q f p 16 16 + 1

/-- Cells of a program. -/
def adgCells (s : State) (q p : Nat) : Nat := adgCount s q 0x39 p * adgCount s q 0x3A p

def adgOps (s : State) (q p e : Nat) : Nat := adgF s q 0x3B (8 * p + e) 1 2 + 1
def adgCycle (s : State) (q p : Nat) : Nat := adgF s q 0x38 p 5 6 + 1

/-- Vectors of element `e`. -/
def adgElemLen (s : State) (q p e : Nat) : Nat := adgOps s q p e * adgCycle s q p * adgCells s q p

/-- Lp: the vectors that a program plays (R169). -/
def adgLength (s : State) (q p : Nat) : Nat :=
  ((List.range (adgF s q 0x38 p 2 3 + 1)).map (adgElemLen s q p)).sum

/-- The element that holds vector `v`, and the vector within it. -/
def adgElem (s : State) (q p : Nat) (es : List Nat) (v : Nat) : Option (Nat × Nat) :=
  match es with
  | [] => none
  | e :: rest => if v < adgElemLen s q p e then some (e, v) else adgElem s q p rest (v - adgElemLen s q p e)

/-- The counters (x, y) of cell `i` (R167). -/
def adgCell (s : State) (q p i : Nat) : Nat × Nat :=
  let nx := adgCount s q 0x39 p
  let ny := adgCount s q 0x3A p
  let x0 := adgF s q 0x39 p 0 16
  let y0 := adgF s q 0x3A p 0 16
  if adgF s q 0x38 p 1 1 = 0 then ((x0 + i % nx) % 65536, (y0 + i / nx) % 65536)
  else ((x0 + i / ny) % 65536, (y0 + i % ny) % 65536)

/-- An entry of a scramble table (R141, R142). -/
def scramble (s : State) (q bank base a : Nat) : Nat :=
  leNat (memReadBytes (quayAt s q).seg (bank * bankSize + base + 2 * a) 2)

/-- The bit that a role takes at a cell (R168). -/
def adgBit (s : State) (q bank p role j inv : Nat) (cell : Nat × Nat) : Bool :=
  let x := if adgF s q 0x38 p 23 1 = 1 then scramble s q bank 0x120000 cell.1 else cell.1
  let y := if adgF s q 0x38 p 24 1 = 1 then scramble s q bank 0x140000 cell.2 else cell.2
  match role with
  | 1 => natBit x j
  | 2 => natBit y j
  | _ =>
    let bg := match adgF s q 0x38 p 20 3 with
      | 1 => xor (natBit x 0) (natBit y 0)
      | 2 => natBit y 0
      | 3 => natBit x 0
      | _ => false
    xor (xor bg (natBit (adgF s q 0x3D p 0 16) j)) (inv = 1)

/-- A template's code as a pin with a role plays it (R168). -/
def adgCode (c : Nat) (b : Bool) : Nat :=
  match c with
  | 0 => if b then 1 else 0
  | 1 => if b then 0 else 1
  | 2 => if b then 3 else 2
  | 3 => if b then 2 else 3
  | n => n

/-- The code of vector `v` of an algorithmic segment at quay position `p64` (R167 to R169). -/
def algorithmicCode (s : State) (q g v p64 : Nat) : Nat :=
  let p := segF s q g 0x33 26 4
  match adgElem s q p (List.range (adgF s q 0x38 p 2 3 + 1)) v with
  | none => 7
  | some (e, u) =>
    let cyc := adgCycle s q p
    let ops := adgOps s q p e
    let step := u / cyc / ops
    let op := u / cyc % ops
    let n := adgCells s q p
    let i := if adgF s q 0x3B (8 * p + e) 0 1 = 0 then step else n - 1 - step
    let tpl := adgF s q 0x3B (8 * p + e) (3 + 3 * op) 2
    let inv := adgF s q 0x3B (8 * p + e) (5 + 3 * op) 1
    let c := storedCode s q (segBank g) (64 * (adgF s q 0x38 p 11 9 + tpl) + u % cyc) p64
    let role := liveF s 2 (64 * q + p64) 0x3C 0 0 2
    let j := liveF s 2 (64 * q + p64) 0x3C 0 2 4
    if role = 0 then c else adgCode c (adgBit s q (segBank g) p role j inv (adgCell s q p i))

/-- The code of vector `v` of one pass of a segment (R139). -/
def codeAt (s : State) (q g v p64 : Nat) : Nat :=
  match segKind s q g with
  | 0 => storedCode s q (segBank g) (64 * segF s q g 0x34 0 9 + v) p64
  | 1 => algorithmicCode s q g v p64
  | _ => streamedCode s q g v p64

/-! ### Pins -/

/-- What the drive edges of one vector do (R111 to R113), in firing order of an ordinary set: a generator (0 DON to 3 D2)
with the drive state that it starts, or none where it only turns the driver on. `code` is the pin's code, `pair` that of
the odd position beside it; a pair without a drive code leaves the even pin of DE with its own d from D2 (DESIGN CHOICE,
log 87). -/
def driveEdges (format code pair pos : Nat) : List (Nat × Option Driver) :=
  let level (b : Bool) : Option Driver := some (if b then .high else .low)
  match code with
  | 5 | 7 => []
  | 0 | 1 =>
    match format with
    | 0 => [(0, none), (2, level (code = 1))]
    | 1 => [(0, none), (2, level (code = 1)), (3, some .low)]
    | 2 => [(0, none), (2, level (code = 1)), (3, some .high)]
    | 3 => [(0, level (code = 0)), (2, level (code = 1)), (3, level (code = 0))]
    | 4 =>
      if pos % 2 = 1 then [(1, some .hiz)]
      else [(0, none), (2, level (code = 1)), (3, level (if pair < 2 then pair = 1 else code = 1))]
    | _ => [(1, some .hiz)]
  | _ => [(1, some .hiz)]

/-- The drive state at the end of a vector; `none` leaves it as it was. -/
def driveAfter (format code pair pos : Nat) : Option Driver :=
  (driveEdges format code pair pos).foldl (fun d e => match e.2 with
    | some x => some x
    | none => d) none

/-- The quay position that a circuit plays: its own, or the one that the spare covers; none for a circuit that stands
aside (R134). -/
def playedPos (s : State) (c : Nat) : Option Nat :=
  if c < 1024 then if standsAside s c then none else some (c % 64)
  else
    let x := berthAt s (c - 1024)
    if x.target < 16 && x.seqPhase ≠ 0 then some ((c - 1024) % 4 * 16 + x.target) else none

/-- The format that a circuit's pin plays in a set: an odd position whose even neighbour is in DE only stays Hi-Z
(R113). -/
def formatPlayed (s : State) (q c t : Nat) : Nat :=
  let i := paramInst s c
  if i < 1024 && i % 2 = 1 && formatIn s q (i - 1) t = 4 then 4 else formatIn s q c t

/-- The drive edges of a pin in the vector at which the quay stands (R112, R116, R118): when they fire, in units, and the
drive state that they start. `v` is the vector within the pass. -/
def pinWaveform (s : State) (q c v : Nat) : List (Int × Option Driver) :=
  let x := quayAt s q
  match playedPos s c with
  | none => []
  | some p =>
    (driveEdges (formatPlayed s q c x.activeSet) (codeAt s q x.curSeg v p) (codeAt s q x.curSeg v (p / 2 * 2 + 1)) p).map
      fun e => ((unitsOf x.sPos : Int) + edgeTime s q c x.activeSet e.1 + crowdFirst s q c e.1, e.2)

/-- The last drive state among vectors `v + n - 1` down to `v`. -/
def lastDrive (s : State) (q g format p64 v n : Nat) : Option Driver :=
  match n with
  | 0 => none
  | n + 1 =>
    match driveAfter format (codeAt s q g (v + n) p64) (codeAt s q g (v + n) (p64 / 2 * 2 + 1)) p64 with
    | some d => some d
    | none => lastDrive s q g format p64 v n

/-- Circuits of the quay's armed berths that act on vector codes: in DIGITAL mode, not parked. -/
def codeChans (s : State) (q : Nat) : List Nat :=
  (armedChans s q).filter fun c => (chanAt s c).mode = 2 && !(chanAt s c).parkActive

/-- Vectors `v` to `v + n - 1` of the present segment act at the pins that are not held Hi-Z (R109, R111); a driver that
changes its state begins its current limit anew (R109). -/
def playPins (s : State) (q v n : Nat) : State :=
  let g := (quayAt s q).curSeg
  let t := (quayAt s q).activeSet
  forAll s ((codeChans s q).filter fun c => !(chanAt s c).heldHiZ) fun s c =>
    match playedPos s c with
    | none => s
    | some p =>
      match lastDrive s q g (formatPlayed s q c t) p v n with
      | some d => modChan s c fun x => { x with driver := d, limitAt := if x.driver = d then x.limitAt else none }
      | none => s

/-- How many of vectors `v` to `v + n - 1` carry a reserved code at one of the positions (R111). -/
def reservedIn (s : State) (q g : Nat) (ps : List Nat) (v n : Nat) : Nat :=
  match n with
  | 0 => 0
  | n + 1 => (if ps.any fun p => 9 ≤ codeAt s q g (v + n) p then 1 else 0) + reservedIn s q g ps v n

/-- Vectors with a reserved code at a pin in DIGITAL mode are counted. -/
def reservedPlay (s : State) (q v n : Nat) : State :=
  let ps := (codeChans s q).filterMap (playedPos s)
  if ps = [] then s else countN s 4 q 0x28 5 (reservedIn s q (quayAt s q).curSeg ps v n)

/-- Vectors of a streaming segment whose data is at the head of the FIFO (R171, R175). -/
def fifoVectors (x : Quay) : Nat := Nat.min x.fifo ((x.fifoBad).getD x.fifo) / 24

/-- Why the first vector beyond them starves: its data has not come, or holds a word that could not be corrected, or
lies in a stack that is down (R23, R319). -/
def fifoCause (s : State) (q : Nat) : Nat :=
  let x := quayAt s q
  if (x.fifoBad).any fun k => k < 24 * (fifoVectors x + 1) && k < x.fifo then 2
  else if stackStarves s q then 2 else 1

/-- `n` vectors of the present pass whose data is there play, the first being vector `v` of the pass. -/
def playData (s : State) (q v n : Nat) : State :=
  let s := reservedPlay (playPins (if n = 0 then s else holdTake s q) q v n) q v n
  let s := if segKind s q (quayAt s q).curSeg = 2 then
    modQuay s q fun x => { x with
      fifo := x.fifo - 24 * n, fifoBad := x.fifoBad.map (· - 24 * n), stream := dropRead x.stream (24 * n) } else s
  advanceQ s q n

/-- The quay plays `n` vectors of its present pass, the first being vector `v` of the pass; a streaming segment starves
at the first one whose data is not there (R175). -/
def playOn (s : State) (q v n : Nat) : State :=
  let x := quayAt s q
  if segKind s q x.curSeg = 2 && fifoVectors x < n then
    let s := playData s q v (fifoVectors x)
    let s := reach s (posTide (quayAt s q).sPos)
    starveAt s q (fifoCause s q) (quayAt s q).vectorIndex
  else playData s q v n

end Sys2Proof.Machine
end

