-- ==== Sys2Proof/Machine/SeqRows.lean ====
section
/-! DEFINITION. The sequencer's events (rows BURST_START to STREAM_READ_COMPLETE, COMPARE_RESULT to
CAPTURE_SPILL, REDIRECT_PAUSE_END, LW_SAMPLE). -/

namespace Sys2Proof.Machine

/-! ### START as its quays reach the instant (R153, R412) -/

/-- One quay of a START has started, or was kept by its gate; the last one completes the command. -/
def startDone (s : State) (q : Nat) (gated : Bool) : State :=
  match s.inflight.find? (fun c => c.phase = .running &&
    match c.work with
    | .start _ qs => qs.contains q
    | _ => false) with
  | none => s
  | some c =>
    match c.work with
    | .start i qs =>
      let rest := qs.filter (· ≠ q)
      let c := if gated then { c with gated := q :: c.gated } else c
      if rest = [] then
        match c.gated.min? with
        | some low => completeV s c (hwFault 0x70 low)
        | none => completeOk s c [(16, 8, i)]
      else putCmd s { c with work := .start i rest }
    | _ => s

/-- A burst begins on a quay at an instant (R119, R122, R154, R303). Held deltas of the whole quay are cleared, unless the
entry segment plays a waveform (R191): it then clears those of the armed berths, whichever DACs follow it (DESIGN CHOICE,
log 85). -/
def burstBegin (s : State) (q i : Nat) : State :=
  let x := quayAt s q
  let bs := armedBerths s q
  let s := forAll s bs fun s b =>
    let s := if (berthAt s b).run = .armed then modBerth s b fun y => { y with run := .running } else s
    modFc s b fun f => { f with
      failVectors := 0, earliestSeg := none, earliestIndex := 2 ^ 64 - 1
      flags := Nat.lor (Nat.land f.flags (Nat.xor 0xFFFF fSubst))
        (if (berthAt s b).subst ≠ 0 || (berthAt s b).seqPhase ≠ 0 then fSubst else 0) }
  let s := modQuay s q fun y => { y with
    running := true, startAt := some i, tokenWait := false, vectorIndex := 0, sPos := 5000 * i * subUnits
    phaseRemain := 0, lastLen := 0, stack := [], passes := 0, playedFill := [], committed := none
    commitBusy := false, haltReq := none, jumps := [], pause := none, redirect := none
    runs := [], windowEnd := 0, starving := false, entryFails := 0, passFails := 0, activeSet := x.tset, lastSet := x.tset, resultsOpen := true
    resultMask := x.mask
    entries := [], passIndex := 0, played := 0 }
  let s := forAll s (quayChans q) fun s c => modChan s c fun x => { x with crowd := [] }
  let s := if lwPlays s q x.entry then s else lwClear s (modBall (5000 * i * subUnits)) (quayChans q)
  enterNow s q x.entry

/-- BURST_START (R119, R153, R154, R412). -/
def execBurstStart (q : Nat) (s : State) : Host.Outcome State Fault Refusal :=
  .next (match (quayAt s q).startAt with
    | some i =>
      if (quayAt s q).armed && !(quayAt s q).running then
        let s := reach s i
        if i < gateOf s q then
          startDone (modQuay (count s 6 0 0xA1 (8 * gateZone s q + 5)) q fun x =>
            { x with startAt := none, tokenWait := false }) q true
        else startDone (burstBegin s q i) q false
      else s
    | none => s)

/-- Granules of the pass or pause in hand. -/
def granulesLeft (s : State) (q : Nat) : Nat :=
  match (quayAt s q).pause with
  | some g => g
  | none => segLenG s q (quayAt s q).curSeg

/-- SUCCESSOR_COMMIT (R145, R161): the first word that holds a vector of the last granule of the pass or pause in hand,
produced 160 tc before its tide count. -/
def execSuccessorCommit (q : Nat) (s : State) : Host.Outcome State Fault Refusal :=
  .next (if (quayAt s q).running && !(quayAt s q).starving then
    match nextSegment s q with
    | some g =>
      let s := reach s (posTide (posAfter s q (64 * (granulesLeft s q - 1) - (quayAt s q).played)) - 160)
      modQuay s q fun x => { x with committed := some g, commitBusy := bankFilling s q (segBank g) }
    | none => s
  else s)

/-- The quay plays its segment and can reach a boundary of it. -/
def playing (s : State) (q : Nat) : Bool :=
  let x := quayAt s q
  x.running && x.pause.isNone && x.redirect.isNone && !x.starving

/-- The last vector of a pass has been played: the pass is complete (R148, R156). -/
def passDone (s : State) (q : Nat) : State :=
  markEnd (modQuay s q fun x => { x with passes := x.passes + 1, played := 0 }) q

/-- SEGMENT_PASS_END (R156 to R165), unless the pass starves. -/
def execSegmentPassEnd (q : Nat) (s : State) : Host.Outcome State Fault Refusal :=
  .next (if playing s q then
    let x := quayAt s q
    let s := playOn s q x.played (64 * segLenG s q x.curSeg - x.played)
    if playing s q then
      let s := reach s (posTide (quayAt s q).sPos)
      passEnd (passDone s q) q
    else s
  else s)

/-- DECISION_PAUSE_END (R157, R158, R164). -/
def execDecisionPauseEnd (q : Nat) (s : State) : Host.Outcome State Fault Refusal :=
  .next (let x := quayAt s q
    match x.pause with
    | some g =>
      if x.running && x.redirect.isNone then
        let s := modQuay (advanceQ s q (64 * g - x.played)) q fun y => { y with pause := none, played := 0 }
        let s := reach s (posTide (quayAt s q).sPos)
        match haltDue s q with
        | some cause => haltAt s q cause
        | none => if jumpDue s q then jumpTake s q g else decide_ s q g
      else s
    | none => s)

/-- REDIRECT_PAUSE_END (R172). -/
def execRedirectPauseEnd (q : Nat) (s : State) : Host.Outcome State Fault Refusal :=
  .next (let x := quayAt s q
    match x.pause, x.redirect with
    | some g, some t =>
      if x.running then
        let s := modQuay (advanceQ s q (64 * g - x.played)) q fun y =>
          { y with pause := none, redirect := none, played := 0 }
        let s := reach s (posTide (quayAt s q).sPos)
        match haltDue s q with
        | some cause => haltAt s q cause
        | none => if jumpDue s q then jumpTake s q 0 else enterNow s q t
      else s
    | _, _ => s)

/-- Play `n` more vectors of the pass, pause or starve in hand. -/
def playVectors (s : State) (q n : Nat) : State :=
  let x := quayAt s q
  if x.pause.isSome || x.starving then advanceQ s q n else playOn s q x.played n

/-- Play the pass or pause in hand up to the end of its granule `g`; at its last one, a pass is complete. -/
def playGranules (s : State) (q g : Nat) : State :=
  let s := playVectors s q (64 * g - (quayAt s q).played)
  if playing s q && g = segLenG s q (quayAt s q).curSeg then passDone s q else s

/-- Vectors left of the pass, pause or starve in hand. -/
def vectorsLeft (s : State) (q : Nat) : Nat :=
  let x := quayAt s q
  if x.starving then (64 - x.vectorIndex % 64) % 64 else 64 * granulesLeft s q - x.played

/-- A running quay stands at its first vector that starts at or after the present tide count: what loads
at a strobe acts from there on (R121, R122). -/
def catchUp (s : State) (q : Nat) : State :=
  if (quayAt s q).running then
    playVectors s q (Nat.min (vectorsBefore s q (5000 * s.tide * subUnits)) (vectorsLeft s q))
  else s

/-- HALT_TAKEN (R160, R162, R165): the first boundary of the pass or pause in hand that the request
can take. -/
def execHaltTaken (q : Nat) (s : State) : Host.Outcome State Fault Refusal :=
  .next (let x := quayAt s q
    match x.haltReq with
    | some r =>
      if x.running && !x.starving then
        match boundaryFor s q r.1 (granulesLeft s q) with
        | some g =>
          let s := playGranules s q g
          if (quayAt s q).running && !(quayAt s q).starving then haltAt s q r.2 else s
        | none => s
      else s
    | none => s)

/-- JUMP_TAKEN (R160, R166): the first boundary that the oldest pending JUMP can take; a halt due at
the same boundary comes first. -/
def execJumpTaken (q : Nat) (s : State) : Host.Outcome State Fault Refusal :=
  .next (let x := quayAt s q
    match x.jumps with
    | j :: _ =>
      if x.running && !x.starving then
        match boundaryFor s q j.1 (granulesLeft s q) with
        | some g =>
          let paused := x.pause.isSome && x.redirect.isNone
          let s := playGranules s q g
          if (quayAt s q).running && !(quayAt s q).starving then
            let s := reach s (posTide (quayAt s q).sPos)
            match haltDue s q with
            | some cause => haltAt s q cause
            | none => jumpTake s q (if paused then g else 0)
          else s
        | none => s
      else s
    | [] => s)

def starveCode (w : StarveWhy) : Nat :=
  match w with
  | .underrun => 1
  | .holdEcc => 2
  | .bankBusy => 3
  | .stale => 4

/-- The vector of the pass in hand that starves as the FIFO stands, and the cause. -/
def starveDue (s : State) (q : Nat) : Option (Nat × Nat) :=
  let x := quayAt s q
  if playing s q && segKind s q x.curSeg = 2 && fifoVectors x < vectorsLeft s q then
    some (x.vectorIndex + fifoVectors x, fifoCause s q)
  else none

/-- STARVE (R23, R175): vector `index` is due and its data is not there. An entry that starves with BANK_BUSY or STALE
does so where the segment is entered. -/
def execStarve (q index : Nat) (why : StarveWhy) (s : State) : Host.Outcome State Fault Refusal :=
  .next (let x := quayAt s q
    if starveDue s q = some (index, starveCode why) then playOn s q x.played (fifoVectors x + 1)
    else s)

/-- STARVE_HALT (R175): keep vectors up to the next granule boundary, then the halt. -/
def execStarveHalt (q : Nat) (s : State) : Host.Outcome State Fault Refusal :=
  .next (let x := quayAt s q
    if x.running && x.starving then haltAt (advanceQ s q ((64 - x.vectorIndex % 64) % 64)) q 2 else s)

/-! ### Arming (R152, R304) and streaming (R172 to R174) -/

/-- The berths of a quay that an ARM's mask arms: those neither OFF nor stopped (R49, R418). -/
def armMask (s : State) (q mask : Nat) : Nat :=
  (((List.range 4).filter fun k => natBit mask k && (berthAt s (4 * q + k)).run ≠ .off &&
    (stoppedZone s (4 * q + k)).isNone).map (2 ^ ·)).sum

/-- A quay is armed with the operands of ARM: its masked berths enter ARMED, and are cleared under
ClearOnArm. -/
def armQuay (s : State) (q entry mask tset : Nat) : State :=
  let s := modQuay s q fun x => { x with
    armed := true, entry := entry, mask := mask, tset := tset, curSeg := entry }
  forAll s (armedBerths s q) fun s b =>
    let s := modBerth s b fun x => { x with run := .armed }
    if liveF s 3 b 0x79 0 0 1 = 1 then clearResults s b else s

/-- The FIFO holds what an ARM waits for: it is full, or holds the entry's whole predicted path (R174). -/
def prefilled (s : State) (q : Nat) : Bool :=
  match (quayAt s q).prefill with
  | some g => decide (Nat.min fifoSize (pathBytes s q g) ≤ (quayAt s q).fifo)
  | none => false

/-- What the FIFO of a quay may hold: the predicted path, as far as it fits; nothing of a quay that does not stream. -/
def fifoRoom (s : State) (q : Nat) : Nat :=
  let x := quayAt s q
  match x.prefill with
  | some g => Nat.min fifoSize (pathBytes s q g)
  | none =>
    if x.running then if x.starving then 0 else pathRest s q
    else if x.armed then Nat.min fifoSize (pathBytes s q x.entry)
    else 0

/-- `n` bytes stand in a FIFO, those that it did not hold having been read from the hold as it is now. -/
def fifoHolds (s : State) (q n : Nat) : State :=
  modQuay s q fun x =>
    let old := if x.fifo = 0 then [] else x.stream
    { x with fifo := n, stream := if x.fifo < n then old ++ [(n - x.fifo, s.hold.mem)] else old }

/-- The word of the hold that a FIFO would hold next cannot be corrected (R318). -/
def streamBad (s : State) (q : Nat) : State :=
  match nextByte s q with
  | some a => eccNote { s with hold := { s.hold with bad := tabSet s.hold.bad (a / 32) true } } (stackOf a)
  | none => count s 6 0 0x78 2

/-- STREAM_READ_COMPLETE (R23, R172, R174, R318, R319): bytes for the FIFO, and with `bad` a word behind them that could
not be corrected. What no FIFO asks for is discarded (R165), and a stack that is down brings none. -/
def execStreamReadComplete (q bytes : Nat) (bad : Bool) (s : State) :
    Host.Outcome State Fault Refusal :=
  .next (let s := catchUp s q
    if stackStarves s q then s
    else
      let room := fifoRoom s q
      let n := Nat.min room ((quayAt s q).fifo + bytes)
      let s := fifoHolds s q (Nat.max (quayAt s q).fifo n)
      if bad && n < room then
        modQuay (fifoHolds (streamBad s q) q (Nat.min room (n + 32))) q fun x =>
          { x with fifoBad := some ((x.fifoBad).getD n) }
      else if bad then count s 6 0 0x78 2
      else s)

/-! ### Level waveforms (R189) -/

/-- LW_SAMPLE: the next sample of the quay's playback enters the modulators. -/
def execLwSample (q : Nat) (s : State) : Host.Outcome State Fault Refusal :=
  .next (let x := quayAt s q
    if x.lwPlaying then
      let e := lwEntry s q x.lwBank x.lwCur
      let m := x.lwStart + 4 * (lwInterval e + 1) * x.lwNext
      let s := lwApply (reach s m) q m x.lwNext
      modQuay s q fun y => { y with
        lwNext := y.lwNext + 1, lwPlaying := decide (x.lwNext + 1 < lwCount e) }
    else s)

/-! ### Fail capture (R302 to R310) -/

/-- The position's circuit is in DIGITAL mode (R302, R592). -/
def inDigital (s : State) (b : Nat) (r : PosResult) : Bool := (chanAt s (carrier s b r.pos.val)).mode = 2

/-- A failing compare of one position is counted (R303); its first fail since the clear is the lowest vector of the
first burst in which it failed (R304). -/
def failOne (b index : Nat) (s : State) (r : PosResult) : State :=
  let c := chanOfPos b r.pos.val
  let x := chanAt s c
  let n := bumpSat (berthAt s b).fc.burstNo
  let first := x.firstFail = 2 ^ 64 - 1 || (x.failBurst = n && index < x.firstFail)
  let s := if sat32 ≤ x.failCount then modFc s b fun f => setFlag f fSat else s
  setChan s c { x with
    failCount := bumpSat x.failCount
    firstFail := if first then index else x.firstFail
    failBurst := if first then n else x.failBurst }

def maskOne (b : Nat) (s : State) (r : PosResult) : State :=
  let c := chanOfPos b r.pos.val
  let x := chanAt s c
  let s := if sat32 ≤ x.maskedCount then modFc s b fun f => setFlag f fSat else s
  setChan s c { x with maskedCount := bumpSat x.maskedCount }

/-- A vector's failing positions enter the counters and, as LogMode says, the fail log. -/
def failVector (s : State) (b index : Nat) (seg : Byte) (pass : Nat) (rs : List PosResult) : State :=
  let x := (berthAt s b).fc
  let firsts := rs.foldl (fun m r => Nat.lor m (2 ^ r.pos.val)) 0
  let new := Nat.land firsts (Nat.xor 0xFFFF (Nat.land x.logFirsts 0xFFFF)) ≠ 0
  let s := rs.foldl (failOne b index) s
  let s := modFc s b fun f =>
    let f := if sat32 ≤ f.failVectors then setFlag f fSat else f
    { f with
      failVectors := bumpSat f.failVectors, logFirsts := Nat.lor f.logFirsts firsts
      earliestSeg := if index < f.earliestIndex then some seg.toNat else f.earliestSeg
      earliestIndex := Nat.min index f.earliestIndex }
  match liveF s 3 b 0x79 0 1 2 with
  | 0 => logEntry s b (entryBytes index seg 0 pass rs)
  | 1 => if new then logEntry s b (entryBytes index seg 0 pass rs) else s
  | _ => s

/-- A vector is played, so that its windows open: one of the pass in hand or before it, not one at or after the halt or a
starve (R124, R175). -/
def vectorPlayed (s : State) (q index : Nat) : Bool :=
  let x := quayAt s q
  if x.running then decide (index < x.vectorIndex + vectorsLeft s q) && !(x.starving && decide (x.starveIndex ≤ index))
  else decide (index < x.haltIndex) && !(x.haltCause = 2 && decide (x.starveIndex ≤ index))

/-- The last edge of a position's window of a vector, in units at the ball (R123, R124): CC in window mode, CO in strobe
mode or for a capture. None for a vector played too long ago for its start to be kept: its windows have closed. -/
def windowEndOf (s : State) (b index : Nat) (r : PosResult) : Option Int :=
  let q := quayOfBerth b
  let c := carrier s b r.pos.val
  (vectorAt s q index).map fun v =>
    (unitsOf v.1 : Int) + edgeTime s q c v.2 (if strobeMode s q c v.2 || r.code = 8 then 4 else 5)

/-- A window has closed by the end of the present tide count (R124). -/
def windowClosed (s : State) (b index : Nat) (r : PosResult) : Bool :=
  match windowEndOf s b index r with
  | some t => decide (t < 5000 * (s.tide + 1))
  | none => true

/-- The close of the last window of a burst (R309). -/
def windowNote (s : State) (b index : Nat) (rs : List PosResult) : State :=
  let t := (rs.filterMap (windowEndOf s b index)).foldl max (quayAt s (quayOfBerth b)).windowEnd
  modQuay s (quayOfBerth b) fun x => { x with windowEnd := t }

/-- The entry or pause that played a vector: its first index and its segment. -/
def playedEntry (s : State) (q index : Nat) : Option (Nat × Nat) := (quayAt s q).entries.find? fun e => e.1 ≤ index

/-- Failing compares enter the condition of the pass and of the entry that played them (R148, R164). -/
def noteFails (s : State) (b index : Nat) (matchWait : Bool) : State :=
  modQuay s (quayOfBerth b) fun x => { x with
    passFails := if x.passIndex ≤ index then Nat.lor x.passFails (2 ^ (b % 4)) else x.passFails
    entryFails := if !matchWait && (x.entries.find? (·.2 < 256)).any (·.1 ≤ index) then
      Nat.lor x.entryFails (2 ^ (b % 4)) else x.entryFails }

/-- COMPARE_RESULT (R111, R124, R164, R302 to R307): results of a vector of the segment that the row names, of windows
that have closed. -/
def execCompareResult (b index : Nat) (seg : Byte) (pass : BitVec 16) (matchWait : Bool)
    (results : List PosResult) (s : State) : Host.Outcome State Fault Refusal :=
  .next (let q := quayOfBerth b
    if (quayAt s q).resultsOpen && natBit (quayAt s q).resultMask (b % 4) && vectorPlayed s q index &&
        (playedEntry s q index).map (·.2) = some seg.toNat then
      let rs := results.filter fun r => inDigital s b r && windowClosed s b index r
      let failed := rs.filter fails
      let s := windowNote s b index (rs.filter fun r => r.code ≠ 5)
      let s := (rs.filter fun r => r.code = 5).foldl (maskOne b) s
      let s := if failed = [] then s else noteFails s b index matchWait
      let s := if failed = [] || matchWait then s else failVector s b index seg pass.toNat failed
      let caps := rs.filter fun r => r.code = 8
      if caps = [] then s else captureEntry s b (entryBytes index seg 1 pass.toNat caps)
    else s)

/-- The instant of ResultDone (R309): 96 tc after the close of the last window, or the burst end, whichever is later. -/
def resultInstant (x : Quay) : Nat :=
  Nat.max (posTide x.sPos) (if x.windowEnd ≤ 0 then 0 else x.windowEnd.toNat / 5000 + 96)

/-- RESULT_DONE (R306, R309, R310): each armed berth of the ended burst takes its outcome and bin, and a last partial
block of its fail log spills. -/
def execResultDone (q : Nat) (s : State) : Host.Outcome State Fault Refusal :=
  .next (let x := quayAt s q
    if x.resultsOpen && !x.running then
      let s := reach s (resultInstant x)
      let bs := (berthsOfQuay q).filter fun b => natBit x.resultMask (b % 4)
      let s := forAll s bs fun s b =>
        takeOutcome (modFc s b fun f => { (if sat32 ≤ f.burstNo then setFlag f fSat else f) with
          burstNo := bumpSat f.burstNo }) q b
      let s := forAll s (bs.map (leaderOf s)).eraseDups fun s b => takeSite s q b bs
      let s := forAll s bs fun s b => if (berthAt s b).fc.log.length < 256 then spillLog s b 256 else s
      modQuay s q fun y => { y with resultsOpen := false }
    else s)

/-- FAIL_LOG_SPILL (R306): a block of 256 entries; a partial one only when no burst's results are open. -/
def execFailLogSpill (b : Nat) (s : State) : Host.Outcome State Fault Refusal :=
  .next (if 256 ≤ (berthAt s b).fc.log.length ∨ !(quayAt s (quayOfBerth b)).resultsOpen then spillLog s b 256 else s)

/-- CAPTURE_SPILL (R307). -/
def execCaptureSpill (b : Nat) (s : State) : Host.Outcome State Fault Refusal :=
  .next (spillCapture s b captureDieEntries)

end Sys2Proof.Machine
end

