-- ==== Sys2Proof/Machine/ChanRows.lean ====
section
/-! DEFINITION. Events of channels, handovers, levels and parks (rows SHORT_LIMIT_EVENT to
RANGE_SW_END). -/

namespace Sys2Proof.Machine

/-- SHORT_LIMIT_EVENT (R109, R130): a driver that is on has been in limit for ShortFilter; counted, and the action of
the position it plays: Hi-Z from the next vector start on. A driver that is off has no limit event. -/
def execShortLimitEvent (c : Nat) (s : State) : Host.Outcome State Fault Refusal :=
  .next (let b := berthOfChan c
    let s := catchUp s (quayOfBerth b)
    if (chanAt s c).driver = .hiz then s
    else
      let act := liveF s 2 (paramInst s c) 0x10 0 5 2
      let s := countFront s 2 c 0x14 0
      let s := modChan s c fun x => { x with limitAt := some s.tide, holdNext := if act = 0 then x.holdNext else some true }
      if act = 2 then berthsFault s [b] 0x20 c (hwFault 0x20 c) (withLeaders s [b]) else s)

/-! ### Handover and release (R134 to R138) -/

/-- The circuit that comes in and the one that goes out of a handover or release of a berth. -/
def incoming (s : State) (b : Nat) : Nat :=
  let x := berthAt s b
  if x.seqPhase = 1 ∨ x.seqPhase = 2 then 1024 + b else 16 * b + x.target

def outgoing (s : State) (b : Nat) : Nat :=
  let x := berthAt s b
  if x.seqPhase = 1 ∨ x.seqPhase = 2 then 16 * b + x.target else 1024 + b

/-- SUBST_OVERLAP: the incoming path closes beside the outgoing one. -/
def execSubstOverlap (b : Nat) (s : State) : Host.Outcome State Fault Refusal :=
  .next (let x := berthAt s b
    if x.seqPhase = 1 ∨ x.seqPhase = 4 then
      let s := reach s (x.seqStart + 256)
      let s := catchUp s (quayOfBerth b)
      let s := modChan s (incoming s b) fun z => { z with connect := z.mode ≠ 0, overlap := true }
      let s := modChan s (outgoing s b) fun z => { z with overlap := true }
      modBerth s b fun z => { z with seqPhase := x.seqPhase + 1 }
    else s)

/-- The start of the first vector at or after a tide count, in 2^-16 units, in what the quay has in hand;
of a quay that does not run, that tide count itself (R134). -/
def vectorStartFrom (s : State) (q t : Nat) : Option Nat :=
  let p := 5000 * t * subUnits
  if (quayAt s q).running then
    let n := vectorsBefore s q p
    if n < vectorsLeft s q then some (posAfter s q n) else none
  else some p

/-- SUBST_COMPARE_MOVE: the compare source, measure node and time-measurement input move. -/
def execSubstCompareMove (b : Nat) (s : State) : Host.Outcome State Fault Refusal :=
  .next (let x := berthAt s b
    if (x.seqPhase = 2 ∨ x.seqPhase = 5) ∧ x.movedAt = none then
      match vectorStartFrom s (quayOfBerth b) (x.seqStart + 320) with
      | some p =>
        let s := reach s (posTide p)
        let s := modBerth s b fun z => { z with movedAt := some (ceilDiv p (5000 * subUnits)) }
        tmuHandover (acqHandover s b x.target) b x.target
      | none => s
    else s)

/-- A spare that covers no position any more is in its own mode, unless it is parked. -/
def ownMode (s : State) (c : Nat) : State :=
  if (chanAt s c).parkActive || paramInst s c ≠ c then s else setMode s c (liveMode s c) .hiz

/-- SUBST_SWITCH: the 384 tc event. -/
def execSubstSwitch (b : Nat) (s : State) : Host.Outcome State Fault Refusal :=
  .next (let x := berthAt s b
    match x.movedAt with
    | none => s
    | some m =>
      if x.seqPhase = 2 ∨ x.seqPhase = 5 then
        let s := reach s (Nat.max (x.seqStart + 384) (m + 8))
        let i := incoming s b
        let o := outgoing s b
        let s := modChan (holdMod s (modTick s.tide) o) o fun z => { z with
          connect := 1024 ≤ o && z.connect, overlap := false, driver := .hiz, limitAt := none, inClamp := false, lwDelta := [] }
        let s := if x.seqPhase = 2 then freeze s o else s
        let s := modChan s i fun z => { z with overlap := false }
        if x.seqPhase = 2 then
          calHandedOver (count (modBerth s b fun z => { z with seqPhase := 3, movedAt := none }) 3 b 0x15 1) b
        else
          ownMode (calReleased (count (modBerth s b fun z => { z with seqPhase := 0, movedAt := none }) 3 b 0x15 2) b) o
      else s)

/-! ### Unpark and park -/

/-- A berth unparks (R44, R196); a park load that is still in its first 2 µs ends there. -/
def unparkBerth (s : State) (b : Nat) : State :=
  if (berthAt s b).run = .parked && (stoppedZone s b).isNone then
    let s := parkFinish s b
    let s := freeBerth s b
    let s := modBerth s b fun x => { x with run := .idle }
    calUnparked (forAll s (chansOfBerth b) unparkChan) b
  else s

/-- The waiting UNPARK with the earliest instant. -/
def firstUnpark (s : State) : Option (Cmd × Nat) :=
  s.inflight.foldl (fun best c =>
    match c.work with
    | .unpark i =>
      match best with
      | some b => if i < b.2 then some (c, i) else best
      | none => some (c, i)
    | _ => best) none

/-- UNPARK_INSTANT (R44, R47, R52, R196). -/
def execUnparkInstant (s : State) : Host.Outcome State Fault Refusal :=
  .next (match firstUnpark s with
  | none => s
  | some (c, i) =>
    let sc := c.hdr.scope.toNat
    let s := reach s i
    let s := forAll s (berthsIn sc c.hdr.inst.toNat) unparkBerth
    let s := if 6 ≤ sc then { s with unparked := true } else s
    completeOk s c [(16, 8, i)])

/-- PARK_MODE_APPLY (R194). -/
def execParkModeApply (b : Nat) (s : State) : Host.Outcome State Fault Refusal :=
  .next (match (berthAt s b).park with
  | some p =>
    match p.applyAt with
    | some t => parkFinish (reach s t) b
    | none => s
  | none => s)

/-- ORDERLY_PARK_DEADLINE (R51, R414, R476). -/
def execOrderlyParkDeadline (b : Nat) (s : State) : Host.Outcome State Fault Refusal :=
  .next (match (berthAt s b).park with
  | some p =>
    match p.applyAt, p.deadline with
    | none, some t => parkBegin (reach s t) b
    | _, _ => s
  | none => s)

/-! ### PPMU range changes (R197, R198) -/

def rangeStep (s : State) (c from_ at_ : Nat) : State :=
  match (chanAt s c).rangeSw with
  | some w =>
    if w.step = from_ then
      modChan (reach s (w.start + at_)) c fun x => { x with rangeSw := some { w with step := from_ + 1 } }
    else s
  | none => s

def execRangeSwRegulationMove (c : Nat) (s : State) : Host.Outcome State Fault Refusal :=
  .next (rangeStep s c 0 400)

def execRangeSwOldDisconnect (c : Nat) (s : State) : Host.Outcome State Fault Refusal :=
  .next (rangeStep s c 1 800)

/-- RANGE_SW_END: the new range is in use; a queued change starts. -/
def execRangeSwEnd (c : Nat) (s : State) : Host.Outcome State Fault Refusal :=
  .next (match (chanAt s c).rangeSw with
  | some w =>
    if w.step = 2 then
      let s := reach s (w.start + usTc 2)
      modChan s c fun x => { x with
        range := w.target
        rangeSw := match w.queued with
          | some r => if r = w.target then none else some { target := r, start := s.tide }
          | none => none }
    else s
  | none => s)

/-! ### PPMU (R207, R214 to R217) -/

/-- PPMU_CLAMP_ENTRY: a PPMU in FV or FI. -/
def execPpmuClampEntry (c : Nat) (s : State) : Host.Outcome State Fault Refusal :=
  .next (if (chanAt s c).mode = 3 && funcNow s c < 2 then
    countFront (modChan s c fun x => { x with inClamp := true }) 2 c 0x51 1 else s)

/-- The mean, minimum and maximum of a finished measurement; the mean rounds half up (DEDUCED,
log 12). -/
def ppmuBytes (r : PpmuRun) : List Byte :=
  leBytes 4 (twos 32 ((2 * r.sum + r.taken) / (2 * (r.taken : Int)))) ++ leBytes 4 (twos 32 r.least) ++
    leBytes 4 (twos 32 r.most)

/-- The result of PPMU_MEASURE at scope 3 (R216). -/
def ppmuImage (b : Nat) (rs : List (Nat × BitVec 16 × List Byte)) : List Byte :=
  (List.range 16).flatMap fun k =>
    match rs.find? fun r => r.1 = chanOfPos b k with
    | some r => r.2.2 ++ leBytes 4 1
    | none => List.replicate 16 0#8

/-- One channel of a PPMU_MEASURE has all its samples. -/
def ppmuFinish (s : State) (c : Nat) (r : PpmuRun) : State :=
  let s := modChan s c fun x => { x with ppmu := none }
  match s.inflight.find? fun m => m.ord = r.cmd with
  | none => s
  | some m =>
    match m.work with
    | .ppmu cs =>
      let rest := cs.filter (· ≠ c)
      let m := { m with replies := m.replies ++ [(c, 0, ppmuBytes r)], work := .ppmu rest }
      if rest ≠ [] then putCmd s m
      else if m.hdr.scope = 3 then complete s { m with replies := [] } stOk data0 (ppmuImage m.hdr.inst.toNat m.replies)
      else complete s { m with replies := [] } stOk (padTo 16 (ppmuBytes r)) []
    | _ => s

/-- PPMU_SAMPLE (R217): the first one not during a range change or a handover of the position; none while the PPMU is
off (R104). -/
def execPpmuSample (c : Nat) (value : Int) (s : State) : Host.Outcome State Fault Refusal :=
  .next (match (chanAt s c).ppmu with
    | none => s
    | some r =>
      if (chanAt s (carrier s (berthOfChan c) (posOfChan c))).mode ≠ 3 || (r.taken = 0 && ppmuDelayed s c) then s
      else
        let r := { r with
          taken := r.taken + 1, left := r.left - 1, sum := r.sum + value
          least := if r.taken = 0 then value else min r.least value
          most := if r.taken = 0 then value else max r.most value }
        if r.left = 0 then ppmuFinish s c r
        else modChan s c fun x => { x with ppmu := some r })

end Sys2Proof.Machine
end

