-- ==== Sys2Proof/Machine/MeasRows.lean ====
section
/-! DEFINITION. Events of the acquisition engines, the time-measurement units, the GATE inputs and
the oven (rows ACQ_BASE_SAMPLE to OVEN_QUALIFIED). -/

namespace Sys2Proof.Machine

/-! ### Acquisition -/

/-- ACQ_BASE_SAMPLE (R219 to R225): the sums of the raw samples of each converter, the event sources
(bits 3 to 5) assigned to the sample that no other command brought, and whether a raw sample
saturated. -/
def execAcqBaseSample (b : Nat) (sa sb : Int) (events : Byte) (clip : Bool)
    (marker : Option (BitVec 64)) (s : State) : Host.Outcome State Fault Refusal :=
  .next (baseSample s b (sa, sb) events.toNat clip (marker.map (·.toNat)))

/-- ACQ_RECORD_CLOSE (R221, R225). -/
def execAcqRecordClose (b : Nat) (s : State) : Host.Outcome State Fault Refusal :=
  .next (if (acqAt s b).closing then acqCloseWhole s b else s)

/-- ACQ_REARM_END (R221). -/
def execAcqRearmEnd (b : Nat) (s : State) : Host.Outcome State Fault Refusal :=
  .next (if (acqAt s b).state = 3 && !(acqAt s b).closing then
    modAcq s b fun x => if x.continuous || x.left ≠ 0 then { acqRefill x with events := x.events }
      else { acqRefill x with state := 0 }
  else s)

/-- ACQ_SPILL (R233, R319). -/
def execAcqSpill (b : Nat) (s : State) : Host.Outcome State Fault Refusal := .next (acqSpillOne s b)

/-! ### Time measurement -/

/-- The event of an edge can occur: a channel in Mode OFF yields none (R242), and the internal edge of input 17 comes at
the tide counts that TideEdgeLog2 divides (R241). -/
def edgeComes (s : State) (b input stamp : Nat) : Bool :=
  (match inputCircuit s b input with
   | some c => (chanAt s c).mode ≠ 0
   | none => true) &&
    (input ≠ 17 || stamp % (5000 * 2 ^ fld (tmuWord (tmuAt s b) 0) 19 5) = 0)

/-- TMU_EDGE (R241 to R252): the tide is past the stamp, so that a snapshot holds no later edge (R255). -/
def execTmuEdge (b input edge stamp : Nat) (s : State) : Host.Outcome State Fault Refusal :=
  .next (if edgeComes s b input stamp then tmuEdgeAt (reach s (stamp / 5000 + 1)) b input edge stamp else s)

/-- TMU_ARMING_EVENT (R246, R247): an arming instant of the selected source. -/
def execTmuArmingEvent (b source a : Nat) (s : State) : Host.Outcome State Fault Refusal :=
  .next (if (tmuAt s b).source = source then tmuArmEvent s b a else s)

/-- TMU_WINDOW_OPEN (R247). -/
def execTmuWindowOpen (b : Nat) (s : State) : Host.Outcome State Fault Refusal :=
  .next (let x := tmuAt s b
    match x.pendOpen with
    | some a => if x.state = 1 then windowOpen (reach s (a / 5000)) b else s
    | none => s)

/-- TMU_WINDOW_CLOSE (R247, R250). -/
def execTmuWindowClose (b : Nat) (s : State) : Host.Outcome State Fault Refusal :=
  .next (let x := tmuAt s b
    match x.closeAt with
    | some a => if x.state = 2 then windowClose (reach s (a / 5000)) b else s
    | none => s)

/-! ### Gate inputs (R222, R246, R176) -/

/-- An event source becomes true for the next base sample of a berth's engine. -/
def acqEvent (s : State) (b n : Nat) : State :=
  modAcq s b fun x => if x.state = 1 || x.state = 3 then
    { x with events := x.events ++ [(n, s.tide, 0)] } else x

/-- The quay waits for the token and does not hold it. -/
def lacksToken (s : State) (q : Nat) : Bool := (quayAt s q).tokenWait && (quayAt s q).startAt.isNone

/-- Every quay in token wait starts at an instant; the commands whose quays they are wait for it (R176). -/
def tokenStart (s : State) (i : Nat) : State :=
  let qs := (List.range 16).filter (lacksToken s)
  let s := forAll s qs fun s q => modQuay s q fun x => { x with startAt := some i }
  (s.inflight.filter fun c => c.phase = .running).foldl (fun s c =>
    match c.work with
    | .token _ ws => if ws.any fun q => qs.contains q then putCmd s { c with work := .start i ws } else s
    | _ => s) s

/-- The pilot, or a standalone device, emits the start token at tide `e` (R176): every quay in token wait starts 2,000 tc
later. -/
def tokenEmit (s : State) (e : Nat) : State :=
  let i := e + 2000
  let s := tokenStart s i
  if isPilot s then send s (.signal none (.token (i36Of i))) else s

/-- A command that waits for a rising edge on a gate has its token emitted; a follower waits for the pilot's. -/
def tokenGate (s : State) (g : Nat) : State :=
  if !isFollower s && (s.inflight.any fun c => c.phase = .running &&
      (match c.work with
       | .token src _ => src = g + 1
       | _ => false)) then tokenEmit s s.tide
  else s

/-- GATE_EDGE: an edge registered in the tide domain. -/
def execGateEdge (g : Nat) (rising : Bool) (s : State) : Host.Outcome State Fault Refusal :=
  .next (let s := forAll s (List.range 64) fun s b =>
      let x := acqAt s b
      let w := setupWord x.setup 2
      let s := if x.state ≠ 0 && fld w 18 2 = g && bit w 20 = !rising then acqEvent s b 4 else s
      let u := tmuAt s b
      if u.source = 1 && u.gateSel = g && u.gateFall = !rising then tmuArmEvent s b (5000 * s.tide) else s
    let s := raiseLines s 0 s.tide fun w => fld w 10 6 = g && bit w 16 = !rising
    if rising then tokenGate s g else s)

/-! ### The oven (R256, R257) -/

/-- OVEN_RDY_RISE. -/
def execOvenRdyRise (s : State) : Host.Outcome State Fault Refusal :=
  .next (if s.clk.ovenLevel then s
    else { s with clk := { s.clk with ovenLevel := true, ovenRise := s.tide } })

/-- OVEN_RDY_FALL. A follower's OvenOk is the pilot's (R256). -/
def execOvenRdyFall (s : State) : Host.Outcome State Fault Refusal :=
  .next (if s.clk.ovenLevel then
    let s := count { s with clk := { s.clk with ovenLevel := false } } 6 0 0x64 1
    if isFollower s then s else ovenLost s
  else s)

/-- The selected reference is REFB and the PLL is locked to it. -/
def ovenReference (s : State) : Bool := s.clk.refSel = 1 && s.clk.refState = .locked

/-- OVEN_QUALIFIED. -/
def execOvenQualified (s : State) : Host.Outcome State Fault Refusal :=
  .next (if s.clk.ovenLevel && ovenReference s && !isFollower s then
    let s := reach s (ovenDue s)
    let s := if isPilot s && !s.clk.ovenOk then send s (.signal none (.oven true)) else s
    { s with clk := { s.clk with ovenOk := true } }
  else s)

end Sys2Proof.Machine
end

