-- ==== Sys2Proof/Machine/Status.lean ====
section
/-! DEFINITION. The read-only members of the status families (R75, R126, R178, R200, R234 and the
status family of each chapter), the value that a READ returns, and fast status (R96, R532, R533). -/

namespace Sys2Proof.Machine

/-! ### Words of several fields -/

/-- A word from (first bit, value) fields; each value fits its field. -/
def packWord (fs : List (Nat × Nat)) : Word :=
  BitVec.ofNat 32 (fs.foldl (fun v f => v + f.2 * 2 ^ f.1) 0)

/-- A truth value as 0 or 1. -/
def b01 (b : Bool) : Nat := if b then 1 else 0

/-- A word with bit `i` set where a test holds of `base + i`. -/
def bitWord (n base : Nat) (p : Nat → Bool) : Nat :=
  ((List.range n).map fun i => flag (p (base + i)) i).sum

def lowWord (v : Nat) : Word := BitVec.ofNat 32 v
def highWord (v : Nat) : Word := BitVec.ofNat 32 (v / 2 ^ 32)

/-! ### Clock domains (R468, R469, R471, R487) -/

/-- The number of domains of a kind. -/
def domainCount (k : Nat) : Nat :=
  match k with
  | 0 => 64 | 1 => 16 | 2 => 8 | 3 => 64 | 4 => 48 | 5 => 48 | 6 => 18 | 7 => 64 | 8 => 11
  | _ => 0

def domainKey (k i : Nat) : Nat := 64 * k + i

def runEn (s : State) (k i : Nat) : Bool := !tabGet false s.clk.runOff (domainKey k i)
def sleepEn (s : State) (k i : Nat) : Bool := !tabGet false s.clk.sleepOff (domainKey k i)

/-- DeepEn resets to 1 for kinds 0, 1, 7 and the boot flash domain, to 0 elsewhere. -/
def deepDefault (k i : Nat) : Bool := k = 0 || k = 1 || k = 7 || (k = 8 && i = 8)

def deepEn (s : State) (k i : Nat) : Bool :=
  xor (deepDefault k i) (tabGet false s.clk.deepFlip (domainKey k i))

/-- 0 awake, 1 asleep, 2 in deep sleep. -/
def sleepState (s : State) (k i : Nat) : Nat := tabGet 0 s.clk.asleep (domainKey k i)

/-- The PCI Express power domain is off (R544): PCIE_EN 0 on a follower. -/
def pcieOff (s : State) : Bool := isFollower s && strap s (fun x => b01 x.pcieEn) = 0

def domainAsleep (s : State) (k i : Nat) : Bool :=
  sleepState s k i ≠ 0 || !runEn s k i || (k = 6 && (pcieOff s || s.host.inL1))

def domainWord (s : State) (m : Nat) : Word :=
  let k := m / 8
  let base := 32 * (m % 2)
  let n := Nat.min 32 (domainCount k - base)
  lowWord (bitWord n base fun i =>
    match m % 8 / 2 with
    | 0 => runEn s k i
    | 1 => sleepEn s k i
    | 2 => deepEn s k i
    | _ => domainAsleep s k i)

/-! ### Thermal status (R404, R406, R410, R426 to R428) -/

/-- The zone of a sensor (R403). -/
def zoneOf (i : Nat) : Nat :=
  if i < 64 then i / 4 else if i < 80 then i - 64 else if i < 88 then 16 + (i - 80) / 2
  else if i < 92 then 20 + (i - 88) / 2 else if i < 100 then 22 else 23

def sensorsOf (z : Nat) : List Nat := (List.range 104).filter fun i => zoneOf i = z

def ignored (s : State) (i : Nat) : Bool := liveF s 6 0 0xA4 i 0 1 = 1

/-- A reading in 0.0625 °C units as 16 bits; 0x8000 where there is none. -/
def temp16Code (t : Option Int) : Nat :=
  match t with
  | some r => twos 16 (r / 16)
  | none => 0x8000

/-- The zones whose state is at least `n` (0xA3). -/
def zoneMask (s : State) (n : Nat) : Nat := bitWord 24 0 fun z => n ≤ (zoneAt s z).state

/-- Hottest and HotZone: the largest Tz, the lowest zone that holds it. -/
def hottest (s : State) : Option (Int × Nat) :=
  (List.range 24).foldl (fun best z =>
    match (zoneAt s z).temp, best with
    | some t, some b => if b.1 < t then some (t, z) else best
    | some t, none => some (t, z)
    | none, _ => best) none

/-- A zone throttles an engine (R403). -/
def throttlesEngine (z e : Nat) : Bool :=
  if z < 16 then e = z / 4 else if z < 20 then e = z - 16 else if z < 23 then e = 4 else true

/-- WaitDiv in force for an engine, 0 when it is not throttled (R410). -/
def waitDivOf (s : State) (e : Nat) : Nat :=
  (List.range 24).foldl (fun d z =>
    if 2 ≤ (zoneAt s z).state && throttlesEngine z e then Nat.max d (liveF s 6 0 0xA0 (8 * z) 6 3)
    else d) 0

def zoneWord (s : State) (m : Nat) : Word :=
  let x := zoneAt s (m / 8)
  match m % 8 with
  | 0 => packWord [(0, x.state), (3, x.levels), (9, b01 x.sensorStop), (10, x.stopKind), (12, x.stopCause)]
  | 1 => packWord [(0, temp16Code x.temp), (16, twos 16 x.rate)]
  | 6 => packWord [(0, x.firstSensor), (7, Nat.min (2 ^ 25 - 1) x.ttlAtStop)]
  | _ => 0

def sensorWord (s : State) (i : Nat) : Word :=
  packWord [(0, temp16Code (sensorAt s i).reading), (16, (sensorAt s i).badKind),
    (19, b01 (ignored s i)), (20, zoneOf i)]

def thermWord (s : State) (m : Nat) : Word :=
  match m with
  | 0 => lowWord (zoneMask s 1)
  | 1 => lowWord (zoneMask s 2)
  | 2 => lowWord (zoneMask s 3)
  | 3 => lowWord s.hold.stackHot
  | 5 => match hottest s with
    | some h => packWord [(0, temp16Code (some h.1)), (16, h.2)]
    | none => packWord [(0, 0x8000)]
  | _ => 0

/-! ### Engines and microcode (R457, R458) -/

/-- Commands counted against an engine (R58): accepted and not deferred, or deferred. -/
def engineLoad (s : State) (e : Nat) : Nat :=
  ((s.inflight ++ answeredCmds s).filter fun c => !c.remote && c.engine = e).length

def busyContexts (s : State) (e : Nat) : Nat :=
  ((List.range 16).filter fun c => (ctxAt s e c).busy).length

def phaseCode (p : RPhase) : Nat :=
  match p with
  | .prepare => 0 | .progress => 1 | .commit => 2 | .undo => 3

def engineWord (s : State) (m : Nat) : Word :=
  let e := m / 8
  let x := engAt s e
  match m % 8 with
  | 0 => packWord [(0, x.state), (2, busyContexts s e), (7, engineLoad s e),
      (16, b01 (waitDivOf s e ≠ 0)), (17, waitDivOf s e)]
  | 1 => lowWord (Config.engineRate s.freeCtr).toNat
  | 6 => packWord [(0, x.lastFaultCode), (16, x.lastFaultAddr)]
  | 7 => packWord [(0, Nat.min 65535 x.maxSafeGap), (16, phaseCode (shownPhase s e x.lastCtx)),
      (18, (tabGet 0 (ctxAt s e x.lastCtx).regs 28).toNat % 2 ^ 14)]
  | _ => 0

/-- The fused anti-rollback level (R453, R454). -/
def fusedLevel (s : State) : Nat := Nat.max Config.fuseLevel.toNat s.mc.raisedLevel

def mcWord (s : State) (m : Nat) : Word :=
  match m with
  | 0 => packWord [(0, Config.romVer.toNat), (16, s.mc.patchVer)]
  | 1 => packWord [(0, fusedLevel s), (6, s.mc.imageLevel), (12, s.mc.result), (16, s.mc.source),
      (18, s.mc.patchMask), (23, b01 Config.keyFused)]
  | _ => packWord [(0, (engAt s (m - 8)).patchVer), (16, (engAt s (m - 8)).patchPoints.length)]

/-- MCVER (R457). -/
def mcver (s : State) : Nat := (mcWord s 0).toNat + (mcWord s 1).toNat * 2 ^ 32

/-! ### Channels, crossbar, levels -/

/-- A member of a channel's status families; a spare has no counters of its own, and its 0x7D reads 0 (R331). -/
def chanWord (s : State) (i f m : Nat) : Word :=
  let x := chanAt s i
  match f, m with
  | 0x14, 2 => packWord [(0, b01 (inLimitNow s i)), (1, b01 x.heldHiZ), (2, b01 x.connect)]
  | 0x43, 1 => packWord [(0, b01 x.parkActive), (1, b01 x.rangeSw.isSome),
      (2, bitWord 9 0 fun d => tabGet 0 x.lwDelta d ≠ 0)]
  | 0x51, 0 => packWord [(0, b01 x.inClamp), (1, b01 (slowConverts s i))]
  | 0x7D, 0 => lowWord x.failCount
  | 0x7D, 1 => lowWord x.maskedCount
  | 0x7D, 2 => if i < 0x400 then lowWord x.firstFail else 0
  | 0x7D, 3 => if i < 0x400 then highWord x.firstFail else 0
  | 0x93, 0 => packWord [(0, b01 x.calCurrent), (1, x.lastItems)]
  | 0x93, 1 => x.calCount
  | 0x93, 2 => lowWord x.calTide
  | 0x93, 3 => highWord x.calTide
  | 0x93, 4 => lowWord x.limitFail
  | _, _ => 0

/-! ### Quays -/

/-- A member of a quay's status families. PhaseRemain shows the whole units of the remainder, which can hold a fraction,
rounded down (R133; DESIGN CHOICE, log 116). -/
def quayWord (s : State) (q f m : Nat) : Word :=
  let x := quayAt s q
  match f, m with
  | 0x28, 3 => lowWord (twos 32 (phaseNow s q / subUnits))
  | 0x44, 1 => packWord [(0, b01 x.lwPlaying), (1, x.lwCur), (7, x.lwBank)]
  | 0x36, 0 => packWord [(0, x.curSeg), (8, x.stack.length), (13, b01 (bankRef s q 0)),
      (14, b01 (bankRef s q 1)), (15, b01 (bankFilling s q 0)), (16, b01 (bankFilling s q 1)),
      (17, b01 x.pause.isSome), (18, b01 x.tokenWait), (19, x.jumps.length)]
  | 0x36, 1 => lowWord x.passes
  | 0x36, 2 => lowWord (vectorNow s q)
  | 0x36, 3 => highWord (vectorNow s q)
  | 0x36, 4 => packWord [(0, x.haltCause), (4, x.starveCause)]
  | 0x36, 5 => lowWord x.haltIndex
  | 0x36, 6 => highWord x.haltIndex
  | 0x36, 7 => lowWord x.starveIndex
  | 0x36, 8 => highWord x.starveIndex
  | 0x36, 13 => lowWord (fillSeq s q 0)
  | 0x36, 14 => lowWord (fillSeq s q 1)
  | _, _ => 0

/-! ### Berths -/

def spCode (x : SpState) : Nat :=
  match x with
  | .off => 0 | .starting => 1 | .rampUp => 2 | .on => 3 | .rampDown => 4 | .undoing => 5
  | .hiccup => 6 | .faulted => 7

/-- Family 0x6F: a gang's member reports the leader's controller (R285, R301). Without power nothing is sensed; the output
sensed at this very tide by an event is what that event said, any other sample is free (log 3). -/
def powerWord (s : State) (b m : Nat) : Word :=
  let l := leaderOf s b
  let x := spAt s l
  match m with
  | 0 => packWord [(0, spCode x.state), (3, b01 (powerGood s l)), (4, b01 (monLevel s l .ov)),
      (5, b01 (monLevel s l .uv)), (6, b01 (monLevel s l .oc)),
      (7, b01 (x.ov.blankEnd.isSome || x.uv.blankEnd.isSome || x.oc.blankEnd.isSome)),
      (8, b01 x.uvArmed), (9, b01 (l = b)), (10, b01 (s.tide < (spAt s b).limitUntil))]
  | 1 => lowWord (vref x)
  | 2 =>
    if !(berthAt s l).powered then 0
    else if x.voutAt = some s.tide then BitVec.ofInt 32 x.vout else Config.spSense (s.tide + s.freeCtr) l false
  | 3 => if !(berthAt s l).powered then 0 else Config.spSense (s.tide + s.freeCtr) l true
  | _ => 0

def berthWord (s : State) (b f m : Nat) : Word :=
  let x := berthAt s b
  match f, m with
  | 0x15, 0 => packWord [(0, x.target), (5, x.seqPhase)]
  | 0x57, 0 => packWord [(0, x.acq.state), (2, x.acq.decims.length)]
  | 0x57, 1 => lowWord x.acq.nextRecord
  | 0x57, 7 => lowWord (bufferFill x.acq)
  | 0x63, 0 => packWord [(0, x.tmu.state), (2, x.tmu.mode)]
  | 0x63, 1 => lowWord x.tmu.windows
  | 0x63, 2 => lowWord x.tmu.stamps.length
  | 0x6F, m => powerWord s b m
  | 0x7C, 0 => packWord [(0, x.fc.outcome), (16, x.fc.bin)]
  | 0x7C, 1 => lowWord x.fc.log.length
  | 0x92, 0 => packWord [(0, x.cal.runState), (2, x.cal.step), (5, x.cal.curPos),
      (10, x.cal.runSource), (12, b01 x.cal.spareBad), (13, x.cal.relievedPos),
      (18, b01 (calBakePend s)), (19, b01 (autoSuspended s b))]
  | 0x92, 1 => x.cal.runCount
  | 0x92, 2 => lowWord x.cal.lastTide
  | 0x92, 3 => highWord x.cal.lastTide
  | 0x92, 4 => lowWord (twos 16 x.cal.lastTemp)
  | _, _ => 0

/-! ### Chain (R372 to R374) -/

def laneCode (x : LaneState) : Nat :=
  match x with
  | .off => 0 | .detect => 1 | .train => 2 | .bitLock => 3 | .blockLock => 4 | .deskew => 5
  | .capability => 6 | .active => 7 | .test => 8 | .slip => 9 | .failed => 15

def laneWord (s : State) (l : Nat) : Word :=
  let x := laneAt s l
  packWord [(0, laneCode x.state), (4, x.rate), (6, x.cause), (10, b01 x.frozen),
    (11, b01 x.markerSeen), (12, b01 x.slipMode), (13, x.preCode), (18, x.postCode), (23, x.skew)]

def portWord (s : State) (p : Nat) : Word :=
  let x := portAt s p
  packWord [(0, x.state), (2, x.role), (4, x.rate), (6, bitWord 12 (12 * p) (laneActive s)),
    (18, x.timingLane), (22, x.capCause)]

def chainWord (s : State) (m : Nat) : Word :=
  let x := s.chain
  match m with
  | 0 => packWord [(0, x.index), (7, b01 x.enumerated), (8, x.x % 128), (15, x.y % 8), (18, (x.x + x.y) % 128),
      (25, x.upPort), (27, x.topology), (29, b01 x.tideAligned)]
  | 1 => lowWord (x.legBound % 2048)
  | 2 => lowWord (twos 32 x.theta)
  | _ => 0

/-! ### Device -/

def refCode (r : RefState) : Nat :=
  match r with
  | .none => 0 | .locked => 1 | .coast => 2 | .fallback => 3 | .relock => 4

def clockWord (s : State) (m : Nat) : Word :=
  let x := s.clk
  match m with
  | 0 => packWord [(0, refCode x.refState), (3, x.refSel), (5, b01 x.pllLock), (6, b01 x.hkSettled),
      (7, b01 x.trimLock), (8, b01 x.unsettled), (9, x.refPresent), (12, x.trimSource),
      (14, b01 x.strapConflict)]
  | 1 => packWord [(0, twos 12 x.trimCode), (12, twos 16 x.trimError)]
  | 6 => lowWord x.lossTide
  | 7 => highWord x.lossTide
  | _ => 0

/-- OvenHeld: whole seconds of 800,000,000 tc that OVEN_RDY has been high (R256, R266). -/
def ovenHeld (s : State) : Nat :=
  if s.clk.ovenLevel then Nat.min 65535 (((s.tide : Int) - s.clk.ovenRise) / 800000000).toNat else 0

/-- A pilot or standalone device whose PCIE_EN strap is 0 (R544). -/
def pcieConflict (s : State) : Bool :=
  s.boot.straps.isSome && !isFollower s && strap s (fun x => b01 x.pcieEn) = 0

/-- Vec0Cause: the causes whose counter has pending events (R536). -/
def vec0Cause (s : State) : Nat := bitWord 6 0 fun n => ackPending (ackOf s (vec0Id n)) ≠ 0

def linkWord (s : State) (m : Nat) : Word :=
  let x := s.host
  match m with
  | 0 => packWord [(0, b01 x.linkUp), (1, x.speed), (4, x.width), (9, b01 x.reversed),
      (10, b01 x.busMaster), (11, x.dState), (13, b01 (x.msixEn && !x.funcMask)),
      (14, b01 (pcieConflict s)), (15, vec0Cause s)]
  | 10 => packWord [(0, s.lastFaultSource), (16, s.lastFaultInst % 4096)]
  | _ => 0

def strapWord (s : State) : Word :=
  packWord [(0, strap s fun x => x.chainRole.toNat), (2, strap s fun x => x.refSel.toNat),
    (4, strap s fun x => x.thermMode.toNat), (6, strap s fun x => b01 x.parkSrc),
    (7, strap s fun x => b01 x.bootSrc), (8, strap s fun x => b01 x.pcieEn),
    (9, strap s fun x => x.linkWidth.toNat), (11, s.boot.strapConflicts)]

def bootWord (s : State) (m : Nat) : Word :=
  let x := s.boot
  match m with
  | 0 => packWord [(0, x.step), (4, b01 x.flashFound), (5, x.dirUsed), (7, x.configResult),
      (9, x.parkResult), (12, x.corrResult), (15, b01 x.parkSrcUsed), (16, x.unknownEntries)]
  | 1 => lowWord x.bootTime
  | 2 => lowWord x.bootBerths
  | 3 => highWord x.bootBerths
  | _ => 0

def resetWord (s : State) (m : Nat) : Word :=
  match m with
  | 0 => packWord [(0, s.host.lastType), (8, s.host.lastScope), (12, s.host.lastInst),
      (24, b01 s.host.inReset)]
  | 2 => s.host.lastFlush
  | _ => 0

/-- The TP_XFER commands of a port that this device has accepted and whose select has not fallen yet (R515). -/
def tpWaiters (s : State) (p : Nat) : List Cmd :=
  s.inflight.filter fun c => !c.remote && c.phase ≠ .deferred && c.work ≠ .tp p &&
    match c.op with
    | .tpXfer q _ _ _ _ => q.toNat = p
    | _ => false

/-- How many commands wait for a port: one of a port without a transaction is the next to run (R515). -/
def tpWaiting (s : State) (p : Nat) : Nat :=
  if (tpAt s p).run.isSome then (tpWaiters s p).length else (tpWaiters s p).length - 1

def tpErrorWord (s : State) (m : Nat) : Word :=
  let x := tpAt s (m / 8)
  match m % 8 with
  | 0 => packWord [(0, b01 x.run.isSome), (1, Nat.min 16 (tpWaiting s (m / 8))), (6, x.lastStatus), (14, x.lastError)]
  | 6 => lowWord x.lastEdgeCount
  | _ => 0

def deferredHeld (s : State) : Nat := (s.inflight.filter fun c => c.phase = .deferred).length

def bakeWord (s : State) (m : Nat) : Word :=
  match m, (s.par.pendBake.filter fun p => p.cal.isNone) with
  | 0, _ => s.par.generation
  | 1, some p => lowWord p.instant
  | 2, some p => highWord p.instant
  | 3, some p => packWord [(0, p.tray), (3, 1), (4, b01 p.chain)]
  | 6, _ => lowWord (deferredHeld s)
  | _, _ => 0

/-! ### The value of a read-only member -/

def roValue (s : State) (id : Word) : Word :=
  let i := idInst id
  let m := idMem id
  match idFam id with
  | 0x01 => bakeWord s m
  | 0x14 | 0x43 | 0x51 | 0x7D | 0x93 => chanWord s i (idFam id) m
  | 0x28 | 0x36 | 0x44 => quayWord s i (idFam id) m
  | 0x63 => berthWord (tmuFlush s i) i (idFam id) m
  | 0x15 | 0x57 | 0x6F | 0x7C | 0x92 => berthWord s i (idFam id) m
  | 0x64 => packWord [(0, b01 s.clk.ovenLevel), (1, b01 s.clk.ovenOk), (2, ovenHeld s)]
  | 0x78 => if m = 0 then lowWord s.hold.stackDown else s.hold.bcastCrc
  | 0x82 => laneWord s (m / 4)
  | 0x83 => portWord s (m / 4)
  | 0x84 => chainWord s m
  | 0xA1 => zoneWord s m
  | 0xA2 => sensorWord s m
  | 0xA3 => thermWord s m
  | 0xA8 => engineWord s m
  | 0xA9 => mcWord s m
  | 0xB1 => clockWord s m
  | 0xB2 => domainWord s m
  | 0xC0 => resetWord s m
  | 0xC1 => packWord [(0, b01 (wingAt s i).frozen), (1, Nat.min 65535 ((wingAt s i).held + (wingAt s i).heldReads))]
  | 0xCA => tpErrorWord s m
  | 0xD1 => linkWord s m
  | 0xD8 => strapWord s
  | 0xD9 => bootWord s m
  | _ => 0

/-- The ID whose count an ACK member shows: a gang member's monitor and hiccup counts are the
leader's (R285). -/
def ackHome (s : State) (id : Word) : Word :=
  if idFam id = 0x6F && (idMem id = 4 || idMem id = 5 || idMem id = 6 || idMem id = 9) then
    pid 3 (leaderOf s (idInst id)) 0x6F (idMem id)
  else id

/-- The state as a read of this parameter finds it: a time-measurement unit has evaluated its edges (R245). -/
def edgesSeen (s : State) (id : Word) : State := if idFam id = 0x63 then tmuFlush s (idInst id) else s

/-- The value a baked READ returns for a parameter (R91): the baked value of a staged member, the
count of an ACK member, the present value of a read-only one. -/
def readParam (s : State) (id : Word) : Word :=
  match idOne id with
  | some (.stg _) => baked s id
  | some .ack => (ackOf (edgesSeen s (ackHome s id)) (ackHome s id)).c
  | some .ro => roValue s id
  | none => 0

/-! ### Fast status (R96, R97, R532, R533) -/

/-- The key of a block in the state's table, and its instance's scope and number. -/
def fsKey (k : FsBlock) : Nat :=
  match k with
  | .device => 0
  | .quay q => 1 + q.val
  | .berth b => 17 + b.val

def fsTarget (k : FsBlock) : Nat × Nat :=
  match k with
  | .device => (6, 0)
  | .quay q => (4, q.val)
  | .berth b => (3, b.val)

/-- The families that the slots of a block mirror, slot 1 first (R533). -/
def fsFamilies (k : FsBlock) : List Nat :=
  match k with
  | .device => [0x01, 0x84, 0xA3, 0xA8, 0xB1, 0xD1]
  | .quay _ => [0x36]
  | .berth _ => [0x57, 0x63, 0x6F, 0x7C, 0x92]

/-- The members a family has, at most 64 in a slot. -/
def familyMembers (f : Nat) : List Nat := (List.range 64).filter fun m => (member f m).isSome

/-- The parameter that a block mirrors at word `n` of slot `k` (from 1), if any. -/
def fsParam (k : FsBlock) (slot n : Nat) : Option Word :=
  match (fsFamilies k)[slot - 1]? with
  | some f =>
    if slot ≠ 0 && n < 64 && (member f n).isSome then some (pid (fsTarget k).1 (fsTarget k).2 f n)
    else none
  | none => none

/-- The present contents of a block's mirrored words, keyed by byte offset, with the header words
that a rewrite copies: the state code (4), the generation (8) and PendingG (12). -/
def fsContents (s : State) (k : FsBlock) : List (Nat × Word) :=
  let t := fsTarget k
  let pend := match k with
    | .quay q => pendingG s q.val
    | _ => false
  [(4, lowWord (stateCode s t.1 t.2)), (8, s.par.generation), (12, lowWord (b01 pend))] ++
    (fsFamilies k).zipIdx.flatMap fun e =>
      (familyMembers e.1).map fun m => (0x100 * (e.2 + 1) + 4 * m, readParam s (pid t.1 t.2 e.1 m))

def fsAt (s : State) (k : FsBlock) : FsState := tabGet {} s.fast (fsKey k)

/-- The word at a byte offset of a fast-status block, as the last rewrite left it (R532, R533). -/
def fsRead (s : State) (k : FsBlock) (off : Nat) : Word :=
  let x := fsAt s k
  match off with
  | 0 => lowWord (2 * (x.seq % 2 ^ 31))
  | 16 => lowWord (x.notBefore - 6400)
  | 20 => highWord (x.notBefore - 6400)
  | _ => (x.words.find? fun e => e.1 = off).elim (if off = 4 then 1 else 0) (·.2)

/-- A block is rewritten where its contents have changed and 8 µs have passed since the last rewrite started
(R97). -/
def fsRewrite (s : State) (k : FsBlock) : State :=
  let x := fsAt s k
  let now := fsContents s k
  if s.tide < x.notBefore || (x.words = now) then s
  else { s with fast := tabSet s.fast (fsKey k) { x with
    seq := x.seq + 1, notBefore := s.tide + usTc 8, words := now } }

/-- The blocks: the device's, the quays' and the berths'. -/
def fsBlocks : List FsBlock :=
  .device :: ((List.range 16).map fun q => .quay (Fin.ofNat 16 q)) ++
    (List.range 64).map fun b => .berth (Fin.ofNat 64 b)

/-- Every block that may be rewritten is (R89, R97). -/
def fsRewriteAll (s : State) : State := fsBlocks.foldl fsRewrite s

/-- FAST_STATUS_REWRITE (R97). -/
def execFastStatusRewrite (k : FsBlock) (s : State) : Host.Outcome State Fault Refusal := .next (fsRewrite s k)

end Sys2Proof.Machine
end

