-- ==== Sys2Proof/Machine/Proof.lean ====
section
/-! DEFINITION. Trays (R77 to R81), what a tray would bake (R79, R83, R91), the proof rules of every
family (R82, R83 and the rule tables of the chapters), and the lead of a bake (R87). -/

namespace Sys2Proof.Machine

/-! ### Trays -/

def trayAt (s : State) (n : Nat) : Tray := tabGet {} s.par.trays n
def setTray (s : State) (n : Nat) (x : Tray) : State :=
  { s with par := { s.par with trays := tabSet s.par.trays n x } }

def trayCapacity : Nat := 16384

/-- An entry's ID covers a parameter instance (R70): the instance itself, or a wildcard. -/
def covers (e id : Word) : Bool :=
  idScope e = idScope id && idFam e = idFam id && idMem e = idMem id &&
    (idInst e = idInst id || idInst e = 0xFFF || (idInst e = 0xFFE && idWild e && idInst id < 1024))

/-- The parameter instances that an entry covers, ascending (R70, R87). -/
def expand (e : Word) : List Word :=
  if idWild e then
    (List.range (if idInst e = 0xFFE then 1024 else scopeCount (idScope e))).map fun i =>
      pid (idScope e) i (idFam e) (idMem e)
  else [e]

/-- The number of instances that an entry covers. -/
def expandCount (e : Word) : Nat :=
  if idWild e then (if idInst e = 0xFFE then 1024 else scopeCount (idScope e)) else 1

/-- Put a pair into a tray: in place where the ID is there already, at the end otherwise (R79). -/
def trayPut (es : List (Word × Word)) (e : Word × Word) : List (Word × Word) :=
  match es with
  | [] => [e]
  | x :: rest => if x.1 = e.1 then e :: rest else x :: trayPut rest e

/-- What a tray would bake for a parameter instance: the entry staged last that covers it. -/
def trayValue (es : List (Word × Word)) (id : Word) : Option Word :=
  es.foldl (fun v e => if covers e.1 id then some e.2 else v) none

/-- The instances a tray covers with the values that decide them, by ascending ID. -/
def resolve (es : List (Word × Word)) : Tab Word :=
  es.foldl (fun t e => (expand e.1).foldl (fun t id => tabSet t id.toNat e.2) t) []

/-- The state that would result if the tray were baked now, as far as baked values go (R82); no
hold keeps an earlier value in it. -/
def trial (s : State) (es : List (Word × Word)) : State :=
  { s with par := { s.par with
    baked := (resolve es).foldl (fun t e => tabSet t e.1 e.2) s.par.baked, held := [], heldG := [], heldB := [] } }

/-! ### Rules as lists of offending IDs -/

/-- A rule's verdict: the lowest offending ID (R83). -/
def lowestId (ids : List Word) : Option Word :=
  ids.foldl (fun best id =>
    match best with
    | some b => if id.toNat < b.toNat then some id else best
    | none => some id) none

def when (c : Bool) (id : Word) : List Word := if c then [id] else []

/-- The number of a range rule (R82). -/
def rangeRule (id : Word) : Nat := 0x01000000 + idScope id * 2 ^ 20 + idFam id * 256 + idMem id

/-- The first range failure: the lowest rule number, then the lowest ID. A value that a later entry of the tray overrides
everywhere is not judged (R83; DESIGN CHOICE, log 70). -/
def rangeFail (es : List (Word × Word)) : Option (Nat × Word) :=
  (resolve es).foldl (fun best e =>
    let id := BitVec.ofNat 32 e.1
    if valueLegal (idFam id) (idMem id) e.2 then best
    else
      match best with
      | some b => if rangeRule id < b.1 ∨ (rangeRule id = b.1 ∧ id.toNat < b.2.toNat) then some (rangeRule id, id) else best
      | none => some (rangeRule id, id)) none

/-! ### Timing rules (R117); `t` is the trial state -/

def validSets (t : State) (q : Nat) : List Nat := (List.range 64).filter (tsetValid t q)

/-- P' of a set in 2^-16 units, as the rules see it (R121). -/
def rawPeriod (t : State) (q set : Nat) : Int :=
  (live t (pid 4 q 0x20 set)).toNat * (subUnits : Int) + liveS t 4 q 0x28 0

def periodBad (t : State) (q set : Nat) : Bool :=
  rawPeriod t q set < 625 * subUnits || 4000000000 * subUnits < rawPeriod t q set

def goodSets (t : State) (q : Nat) : List Nat := (validSets t q).filter fun x => !periodBad t q x

def digitalChans (t : State) : List Nat :=
  (List.range 1024).filter fun c => liveF t 2 c 0x10 0 0 3 = 2

/-- Generators and whether the compare is a strobe, for a channel in a set (R112 to R114). -/
def strobeIn (t : State) (q c set : Nat) : Bool := strobeMode t q c set || formatIn t q c set = 4

def gensIn (t : State) (q c set : Nat) : List Nat :=
  gensUsed (formatIn t q c set) (strobeMode t q c set)

def edgeId (q set g : Nat) : Word := pid 4 q (0x21 + g) set

def timing1 (t : State) (q c set : Nat) : List Word :=
  (gensIn t q c set).flatMap fun g =>
    let e := edgeTime t q c set g * subUnits
    when (e < -40000 * subUnits || rawPeriod t q set + 40000 * subUnits ≤ e) (edgeId q set g)

def timing2 (t : State) (q c set : Nat) : List Word :=
  let co := edgeTime t q c set 4
  let cc := edgeTime t q c set 5
  when (!strobeIn t q c set && (cc ≤ co || rawPeriod t q set ≤ (cc - co) * subUnits)) (edgeId q set 5)

def timing3 (t : State) (q c set : Nat) : List Word :=
  let f := formatIn t q c set
  let d1 := edgeTime t q c set 2
  when (1 ≤ f && f ≤ 4 && edgeTime t q c set 3 < d1 + 625) (edgeId q set 3) ++
    when (f = 3 && d1 < edgeTime t q c set 0 + 625) (edgeId q set 2)

def timing4 (t : State) (q c set : Nat) : List Word :=
  when (formatIn t q c set = 4 && (c % 2 = 1 || rawPeriod t q set < 1250 * subUnits)) (pid 4 q 0x20 set)

/-- The pair (a, b) is judged where a is the set in hand, and reports a's period (R117; DESIGN CHOICE, log 91). -/
def timing5 (t : State) (q c set : Nat) : List Word :=
  (goodSets t q).flatMap fun b =>
    (gensIn t q c set).flatMap fun g =>
      when ((gensIn t q c b).contains g &&
        rawPeriod t q set + (edgeTime t q c b g - edgeTime t q c set g) * subUnits < 625 * subUnits)
        (pid 4 q 0x20 set)

def timing6 (t : State) (q _c set : Nat) : List Word := when (periodBad t q set) (pid 4 q 0x20 set)

/-- A timing rule over every digital channel and the sets that it judges. -/
def timingRule (t : State) (sets : State → Nat → List Nat) (f : State → Nat → Nat → Nat → List Word) :
    List Word :=
  (digitalChans t).flatMap fun c => (sets t (quayOfChan c)).flatMap fun x => f t (quayOfChan c) c x

/-! ### Segment rules (R151) -/

def validSegs (t : State) : List (Nat × Nat) :=
  (List.range 16).flatMap fun q => ((List.range 256).filter (segValid t q)).map (q, ·)

def segStart (t : State) (q g : Nat) : Nat := segF t q g 0x34 0 9
def segBase (t : State) (q g : Nat) : Nat := segF t q g 0x34 0 24

def seg1 (t : State) (q g : Nat) : List Word :=
  when (segKind t q g = 0 && (segLenG t q g < 4 || 512 < segStart t q g + segLenG t q g)) (pid 4 q 0x33 g)

def seg2 (t : State) (q g : Nat) : List Word :=
  when ((segKind t q g ≠ 0 && segLenG t q g < 4) ||
    (segKind t q g = 2 && holdSize < 4096 * segBase t q g + 1536 * segLenG t q g)) (pid 4 q 0x33 g)

/-- The segments that a descriptor can lead to. -/
def segTargets (t : State) (q g : Nat) : List Nat :=
  (if (segOp t q g = 0 && !segEnd t q g) || segOp t q g = 1 then [segSucc t q g] else []) ++
    (if segOp t q g = 1 then [segCall t q g] else []) ++
    (if segCond t q g = 1 || segCond t q g = 2 || (segCond t q g = 3 && !segTimeoutHalt t q g) then
      [segBranch t q g] else [])

def seg3 (t : State) (q g : Nat) : List Word :=
  when ((segTargets t q g).any fun x => !segValid t q x) (pid 4 q 0x31 g)

def seg4 (t : State) (q g : Nat) : List Word :=
  when (!segTsKeep t q g && !tsetValid t q (segTset t q g)) (pid 4 q 0x30 g)

def seg5 (t : State) (q g : Nat) : List Word :=
  when ((segEnd t q g || segCond t q g = 3) && segOp t q g ≠ 0) (pid 4 q 0x30 g)

/-- The largest template number that the operations of a program name (R167); the templates that no operation names do
not count as the program's (R151; DESIGN CHOICE, log 92). -/
def adgTopTemplate (t : State) (q p : Nat) : Nat :=
  ((List.range (adgF t q 0x38 p 2 3 + 1)).flatMap fun e =>
    (List.range (adgOps t q p e)).map fun o => adgF t q 0x3B (8 * p + e) (3 + 3 * o) 2).foldl Nat.max 0

def seg6 (t : State) (q g : Nat) : List Word :=
  let p := segF t q g 0x33 26 4
  when (segKind t q g = 1 && (adgF t q 0x38 p 0 1 = 0 || 64 * segLenG t q g < adgLength t q p ||
    511 < adgF t q 0x38 p 11 9 + adgTopTemplate t q p)) (pid 4 q 0x33 g)

def seg7 (t : State) (q g : Nat) : List Word :=
  let k := segKind t q g
  when (k ≠ 2 && live t (pid 4 q 0x35 g) ≠ 0) (pid 4 q 0x35 g) ++
    when ((k = 0 && segF t q g 0x34 9 15 ≠ 0) || (k = 1 && segBase t q g ≠ 0)) (pid 4 q 0x34 g) ++
    when (k ≠ 1 && segF t q g 0x33 26 4 ≠ 0) (pid 4 q 0x33 g)

def segRule (t : State) (f : State → Nat → Nat → List Word) : List Word :=
  (validSegs t).flatMap fun x => f t x.1 x.2

/-! ### Level rules (R199) -/

def code (t : State) (c d : Nat) : Int := liveF t 2 c 0x40 d 0 18
def modeOf (t : State) (c : Nat) : Nat := liveF t 2 c 0x10 0 0 3
def clampOn (t : State) (c : Nat) : Bool := liveF t 2 c 0x10 0 4 1 = 1

def level1 (t : State) (c : Nat) : List Word :=
  when (modeOf t c = 2 && code t c 0 - code t c 1 < 3277) (pid 2 c 0x40 0)
def level2 (t : State) (c : Nat) : List Word :=
  when (clampOn t c && code t c 5 - code t c 6 < 6554) (pid 2 c 0x40 5)
def level3 (t : State) (c : Nat) : List Word :=
  if modeOf t c = 2 && clampOn t c then
    if code t c 5 < code t c 0 then [pid 2 c 0x40 5]
    else when (code t c 1 < code t c 6) (pid 2 c 0x40 6)
  else []

def parkLevelBad (t : State) (c d : Nat) : Bool :=
  let v := liveF t 2 c 0x46 d 0 18
  v < 16384 || 245760 < v

def level4 (t : State) (c : Nat) : List Word :=
  let pm := liveF t 2 c 0x46 9 0 3
  when ((pm = 2 || pm = 3) && (parkLevelBad t c 0 || parkLevelBad t c 1)) (pid 2 c 0x46 9)

def chanRule (t : State) (f : State → Nat → List Word) : List Word :=
  (List.range 1088).flatMap (f t)

/-! ### Measurement rules (R235) -/

def setups : List (Nat × Nat) := (List.range 64).flatMap fun b => (List.range 4).map (b, ·)

def meas1 (t : State) (b n : Nat) : List Word :=
  let w := live t (pid 3 b 0x55 (8 * n + 1))
  when (liveF t 3 b 0x54 n 1 1 = 1 && signed16 (fld w 16 16) < signed16 (fld w 0 16)) (pid 3 b 0x55 (8 * n + 1))

def meas2 (t : State) (b n : Nat) : List Word :=
  let w := live t (pid 3 b 0x56 (8 * n + 2))
  when (live t (pid 3 b 0x56 (8 * n + 1)) ≠ 0 && signed16 (fld w 16 16) ≤ signed16 (fld w 0 16))
    (pid 3 b 0x56 (8 * n + 2))

def meas3 (t : State) (b n : Nat) : List Word :=
  let f (lo len : Nat) := liveF t 3 b 0x52 n lo len
  when ((f 16 1 = 1 && isCurrentInput (f 2 7)) || (f 17 1 = 1 && isCurrentInput (f 9 7))) (pid 3 b 0x52 n)

def meas4 (t : State) (b n : Nat) : List Word :=
  when (liveF t 3 b 0x54 n 0 1 = 1 && liveF t 3 b 0x55 (8 * n) 16 16 = 0) (pid 3 b 0x55 (8 * n))

def measRule (t : State) (f : State → Nat → Nat → List Word) : List Word :=
  setups.flatMap fun x => f t x.1 x.2

/-! ### Hold and bandwidth rules (R173, R321, R327) -/

def streamSegs (t : State) : List (Nat × Nat) := (validSegs t).filter fun x => segKind t x.1 x.2 = 2

def imageOf (t : State) (q g : Nat) : Nat × Nat := (4096 * segBase t q g, 1536 * segLenG t q g)

def hold1 (t : State) : List Word :=
  (streamSegs t).flatMap fun x =>
    when (!rangePattern (imageOf t x.1 x.2).1 (imageOf t x.1 x.2).2 &&
      (let a := (imageOf t x.1 x.2).1
       let z := a + (imageOf t x.1 x.2).2 - 1
       decide ((a < 0x600000000 ∧ 0x580000000 ≤ z) ∨ (a < 0xC00000000 ∧ 0xB80000000 ≤ z))))
      (pid 4 x.1 0x34 x.2)

def hold2 (t : State) : List Word :=
  (streamSegs t).flatMap fun x =>
    when ([0, 1].any fun k => stackIsDown t k && touches (imageOf t x.1 x.2).1 (imageOf t x.1 x.2).2 k)
      (pid 4 x.1 0x34 x.2)

/-- pmin of a quay in 2^-16 units (R173); none without a candidate set. -/
def shortest (t : State) (q : Nat) (sets : List Nat) : Option Nat :=
  sets.foldl (fun m x =>
    let p := effPeriod t q x
    match m with
    | some v => some (Nat.min v p)
    | none => some p) none

def streamSets (t : State) (q : Nat) : List Nat :=
  ((streamSegs t).filter (·.1 = q)).flatMap fun x =>
    if segTsKeep t q x.2 then validSets t q else [segTset t q x.2]

/-- A sum of fractions 1/p, as numerator and denominator. -/
def sumInverse (ps : List Nat) : Nat × Nat := ps.foldl (fun f p => (f.1 * p + f.2, f.2 * p)) (0, 1)

/-- The demands d = 24 × 4 × 10^12 / pmin of these quays together exceed a number of bytes per second (R173). -/
def demandOver (t : State) (qs : List Nat) (most : Nat) : Bool :=
  let f := sumInverse (qs.filterMap fun q => shortest t q (streamSets t q))
  decide (most * f.2 < 96 * 10 ^ 12 * subUnits * f.1)

/-- The demand of all quays, in whole bytes per second. -/
def totalDemand (t : State) : Nat :=
  let f := sumInverse ((List.range 16).filterMap fun q => shortest t q (streamSets t q))
  96 * 10 ^ 12 * subUnits * f.1 / f.2

/-- The quays that stream from a stack (R321). -/
def stackQuays (t : State) (k : Nat) : List Nat :=
  (List.range 16).filter fun q =>
    (streamSegs t).any fun x => x.1 = q && touches (imageOf t q x.2).1 (imageOf t q x.2).2 k

def deviceId : Word := 0x60000000#32

def band1 (t : State) : List Word := when (demandOver t (List.range 16) 1500000000000) deviceId
def band2 (t : State) : List Word :=
  when (demandOver t (stackQuays t 0) 750000000000 || demandOver t (stackQuays t 1) 750000000000) deviceId

/-! ### Chain rules (R369) -/

/-- A chain index names a device: this one, or one that the pilot knows. -/
def indexKnown (s : State) (i : Nat) : Bool :=
  i = s.chain.index || (s.chain.devices.any fun d => d.1 = i && !d.2.excluded)

/-- An index is enumerated (R353): on the pilot one that it knows, on a follower one of the chain's. A standalone device is
its own chain. -/
def indexEnumerated (s : State) (i : Nat) : Bool :=
  if isFollower s then s.chain.enumerated && i < s.chain.count
  else if isPilot s then s.chain.enumerated && indexKnown s i
  else i = s.chain.index

def chain1 (t : State) : List Word :=
  (List.range 16).flatMap fun l =>
    when (liveF t 7 0 0x88 l 0 1 = 1 && !indexEnumerated t (liveF t 7 0 0x88 l 1 7)) (pid 7 0 0x88 l)

def chain2 (t : State) : List Word :=
  (List.range 48).flatMap fun l =>
    when (32 < liveF t 6 0 0x81 l 0 5 + liveF t 6 0 0x81 l 5 5) (pid 6 0 0x81 l)

/-! ### Thermal rules (R424) -/

def zoneSet (t : State) (z w lo : Nat) : Int := signed16 (liveF t 6 0 0xA0 (8 * z + w) lo 16)

def therm1 (t : State) : List Word :=
  (List.range 24).flatMap fun z =>
    when (zoneSet t z 2 0 ≤ zoneSet t z 1 0) (pid 6 0 0xA0 (8 * z + 1)) ++
    when (zoneSet t z 3 0 ≤ zoneSet t z 2 0) (pid 6 0 0xA0 (8 * z + 2)) ++
    when (zoneSet t z 4 0 ≤ zoneSet t z 3 0) (pid 6 0 0xA0 (8 * z + 3))

def therm2 (t : State) : List Word :=
  (List.range 24).flatMap fun z =>
    let f (w lo : Nat) := liveF t 6 0 0xA0 (8 * z + w) lo 16
    when (f 5 16 < f 5 0 || f 6 0 < f 5 16) (pid 6 0 0xA0 (8 * z + 5))

def therm3 (t : State) : List Word :=
  (List.range 24).flatMap fun z =>
    when ((sensorsOf z).all (ignored t)) (pid 6 0 0xA4 (((sensorsOf z).head?).getD 0))

/-! ### Power rules (R293, R578); `s` is the present state -/

/-- The Max column of R578 in nW over the configuration of the trial state. -/
def chanPower (t : State) (c : Nat) : Nat :=
  let q := quayOfChan c
  if modeOf t c = 0 ∨ (berthAt t (berthOfChan c)).run = .off then 0
  else
    match shortest t q (validSets t q) with
    | none => 14000000
    | some p =>
      let de := (validSets t q).any fun x => effPeriod t q x = p && formatIn t q c x = 4
      let rate := Nat.min 36000000 ((if de then 2 else 1) * 36000000 * 625 * subUnits / p)
      14000000 + rate

def quayPower (t : State) (q : Nat) : Nat :=
  if (List.range 256).any (segValid t q) then 1300000000
  else if (berthsOfQuay q).all fun b => (berthAt t b).run = .off then 0 else 260000000

def linkPower (t : State) : Nat :=
  if pcieOff t then 0 else if 16 ≤ t.host.width then 4800000000
  else if 8 ≤ t.host.width then 2900000000 else 1800000000

def estimate (t : State) : Nat :=
  ((List.range 1088).map (chanPower t)).sum + ((List.range 16).map (quayPower t)).sum +
    9600000000 + 16400000000 * totalDemand t / 1500000000000 +
    300000000 * ((List.range 48).filter fun l => ctlEnables (live t (pid 6 0 0x80 (portOfLane l))) l).length + linkPower t +
    64 * 75000000 + 4800000000 + 9600000000

def power1 (t : State) : List Word := when (140000000000 < estimate t) deviceId

/-- Every controller of the berth's gang, now and as the tray would bake it, is OFF. -/
def gangOff (s t : State) (b : Nat) : Bool :=
  (b :: gangOf s b ++ gangOf t b).all fun m => (spAt s m).state = .off

/-- The fields that rule 0x0400_0002 guards. -/
def guardedBits (f m : Nat) : Nat := if f = 0x68 then 2 ^ 32 - 1 else if m = 0 then 0x70007FF else 0

def power2 (s t : State) : List Word :=
  (List.range 64).flatMap fun b =>
    [pid 3 b 0x68 0, pid 3 b 0x68 1, pid 3 b 0x69 0].flatMap fun id =>
      let g := guardedBits (idFam id) (idMem id)
      when (Nat.land (baked s id).toNat g ≠ Nat.land (baked t id).toNat g && !gangOff s t b) id

def power3 (t : State) : List Word :=
  (List.range 64).flatMap fun b =>
    let l := leaderOf t b
    when (6400000 < liveF t 3 l 0x6B 0 0 15 * liveF t 3 b 0x69 0 0 5 * (liveF t 3 b 0x69 0 5 6 + 1))
      (pid 3 l 0x6B 0)

def power4 (t : State) : List Word :=
  (leadersOf t (List.range 64)).flatMap fun b =>
    when (phasesTotal t b * liveF t 3 b 0x6B 0 0 15 < liveF t 3 b 0x6B 1 0 19) (pid 3 b 0x6B 1)

def gangKey (t : State) (b : Nat) : Nat := (liveF t 3 b 0x68 0 2 24)

def power5 (t : State) : List Word :=
  (List.range 64).flatMap fun b =>
    when ((gangOf t b).any fun m => gangKey t m ≠ gangKey t b) (pid 3 b 0x68 0)

def power6 (t : State) : List Word :=
  (List.range 64).flatMap fun b =>
    when (liveF t 3 (leaderOf t b) 0x68 0 5 14 ≤ liveF t 3 b 0x68 1 0 14) (pid 3 b 0x68 1)

def power7 (s t : State) : List Word :=
  (List.range 64).flatMap fun b =>
    let f (m lo len : Nat) := liveF t 3 b 0x6C m lo len
    when ((spAt s b).state ≠ .off && (f 0 0 10 ≤ f 2 0 8 || f 0 10 10 ≤ f 2 8 8)) (pid 3 b 0x6C 0)

/-! ### Spare rules (R82, R398) -/

def spareRule (t : State) (bad : Nat → Word → Bool) : List Word :=
  (List.range 64).flatMap fun b => when (bad b (live t (pid 3 b 0x90 0))) (pid 3 b 0x90 0)

def spare1 (t : State) : List Word := spareRule t fun b w => bit w 0 && (berthAt t b).subst = 2
def spare2 (t : State) : List Word := spareRule t fun _ w => bit w 5
def spare3 (t : State) : List Word := spareRule t fun _ w => bit w 0 && fld w 1 11 = 0

/-! ### PROOF (R83) -/

/-- A rule: its number, the families it concerns (none: device-wide), its offending IDs. -/
structure ProofRule where
  number : Nat
  families : List Nat
  offends : State → State → List Word

def timingFamilies : List Nat := [0x10, 0x11, 0x13, 0x18, 0x20, 0x21, 0x22, 0x23, 0x24, 0x25, 0x26, 0x27, 0x28]
def segFamilies : List Nat := [0x27, 0x30, 0x31, 0x32, 0x33, 0x34, 0x35, 0x38, 0x39, 0x3A, 0x3B]
def levelFamilies : List Nat := [0x10, 0x40, 0x46]
def measFamilies : List Nat := [0x52, 0x54, 0x55, 0x56]

/-- The rules after the range rule, in ascending number. -/
def proofRules : List ProofRule :=
  [⟨0x02100001, timingFamilies, fun _ t => timingRule t goodSets timing1⟩,
   ⟨0x02100002, timingFamilies, fun _ t => timingRule t goodSets timing2⟩,
   ⟨0x02100003, timingFamilies, fun _ t => timingRule t goodSets timing3⟩,
   ⟨0x02100004, timingFamilies, fun _ t => timingRule t goodSets timing4⟩,
   ⟨0x02100005, timingFamilies, fun _ t => timingRule t goodSets timing5⟩,
   ⟨0x02100006, timingFamilies, fun _ t => timingRule t validSets timing6⟩,
   ⟨0x02300001, segFamilies, fun _ t => segRule t seg1⟩,
   ⟨0x02300002, segFamilies, fun _ t => segRule t seg2⟩,
   ⟨0x02300003, segFamilies, fun _ t => segRule t seg3⟩,
   ⟨0x02300004, segFamilies, fun _ t => segRule t seg4⟩,
   ⟨0x02300005, segFamilies, fun _ t => segRule t seg5⟩,
   ⟨0x02300006, segFamilies, fun _ t => segRule t seg6⟩,
   ⟨0x02300007, segFamilies, fun _ t => segRule t seg7⟩,
   ⟨0x02400001, levelFamilies, fun _ t => chanRule t level1⟩,
   ⟨0x02400002, levelFamilies, fun _ t => chanRule t level2⟩,
   ⟨0x02400003, levelFamilies, fun _ t => chanRule t level3⟩,
   ⟨0x02400004, levelFamilies, fun _ t => chanRule t level4⟩,
   ⟨0x02500001, measFamilies, fun _ t => measRule t meas1⟩,
   ⟨0x02500002, measFamilies, fun _ t => measRule t meas2⟩,
   ⟨0x02500003, measFamilies, fun _ t => measRule t meas3⟩,
   ⟨0x02500004, measFamilies, fun _ t => measRule t meas4⟩,
   ⟨0x02780001, [], fun _ t => hold1 t⟩,
   ⟨0x02780002, [], fun _ t => hold2 t⟩,
   ⟨0x02800001, [0x88], fun _ t => chain1 t⟩,
   ⟨0x02800002, [0x81], fun _ t => chain2 t⟩,
   ⟨0x02A00001, [0xA0], fun _ t => therm1 t⟩,
   ⟨0x02A00002, [0xA0], fun _ t => therm2 t⟩,
   ⟨0x02A00003, [0xA4], fun _ t => therm3 t⟩,
   ⟨0x03000001, [], fun _ t => band1 t⟩,
   ⟨0x03000002, [], fun _ t => band2 t⟩,
   ⟨0x04000001, [], fun _ t => power1 t⟩,
   ⟨0x04000002, [0x68, 0x69], power2⟩,
   ⟨0x04000003, [0x69, 0x6B, 0x68], fun _ t => power3 t⟩,
   ⟨0x04000004, [0x6B, 0x68], fun _ t => power4 t⟩,
   ⟨0x04000005, [0x68], fun _ t => power5 t⟩,
   ⟨0x04000006, [0x68], fun _ t => power6 t⟩,
   ⟨0x04000007, [0x6C], power7⟩,
   ⟨0x05000001, [], fun _ t => spare1 t⟩,
   ⟨0x05000002, [0x90], fun _ t => spare2 t⟩,
   ⟨0x05000003, [0x90], fun _ t => spare3 t⟩]

/-- The first of a list of rules that fails, with the ID it reports. -/
def ruleFail (s t : State) (fams : List Nat) (rs : List ProofRule) : Option (Nat × Word) :=
  match rs with
  | [] => none
  | r :: rest =>
    if r.families = [] || r.families.any (fun f => fams.contains f) then
      match lowestId (r.offends s t) with
      | some id => some (r.number, id)
      | none => ruleFail s t fams rest
    else ruleFail s t fams rest

def familiesOf (es : List (Word × Word)) : List Nat := es.map fun e => idFam e.1

/-- PROOF of a tray's entries (R83). -/
def proofFail (s : State) (es : List (Word × Word)) : Option (Nat × Word) :=
  match rangeFail es with
  | some v => some v
  | none => ruleFail s (trial s es) (familiesOf es) proofRules

/-- What BAKE evaluates again (R85): rule classes 0x04 and 0x05. -/
def bakeFail (s : State) (es : List (Word × Word)) : Option (Nat × Word) :=
  ruleFail s (trial s es) (familiesOf es) (proofRules.filter fun r => 0x04000000 ≤ r.number)

def proofFailed (v : Nat × Word) : Verdict :=
  (stProofFailed, dataOf [(16, 4, v.1), (20, 4, v.2.toNat)])

/-! ### The lead of a bake (R87) -/

/-- The move path of a value: its wing's, or the device path (4). -/
def movePath (id : Word) : Nat := (owningWing (idScope id) (idInst id)).getD 4

/-- Values that an entry puts on a path. -/
def pathCount (p : Nat) (e : Word) : Nat := ((expand e).filter fun id => movePath id = p).length

def pathLoad (es : List (Word × Word)) (p : Nat) : Nat := (es.map fun e => pathCount p e.1).sum

/-- lmin of a tray (R87). An instance that several entries name counts once for each of them (R87; DESIGN CHOICE,
log 70). -/
def bakeLead (es : List (Word × Word)) : Nat :=
  let v := [0, 1, 2, 3, 4].foldl (fun m p => Nat.max m (pathLoad es p)) 0
  1600 + ceilDiv (v - 8192) 4

end Sys2Proof.Machine
end

