-- ==== Sys2Proof/Machine/Bake.lean ====
section
/-! DEFINITION. The parameter class: STAGE, PROOF, BAKE, READ, TRAY_CLEAR, TRAY_STATUS and ACK_WRITE
(R77 to R103), the bake strobe (R20, R89) and the decision of a chain bake (R92 to R94). A `perform`
function is what a command does once it runs; `c` is the command in flight. -/

namespace Sys2Proof.Machine

/-! ### Division of chain-scope commands (R63) -/

/-- The pilot sends a chain-scope command to every follower and waits for their replies. -/
def forwardAll (s : State) (c : Cmd) : State × Cmd :=
  let fs := followers s
  let s := fs.foldl (fun s i =>
    send s (.frame none (.command
      { c.hdr with chain := BitVec.ofNat 7 i, defer := false, deferGen := 0#32 } c.op))) s
  let c := { c with missing := fs }
  (putCmd s c, c)

/-! ### Offsets of offending parameters -/

def offendIf (c : Bool) (off : Nat) : List Nat := if c then [off] else []

/-- A pair STAGE may carry (R78). -/
def stageable (id : Word) : Bool :=
  (decide (idInst id < scopeCount (idScope id)) || idWild id) &&
    (match idNames id with
     | some (.stg _) => true
     | _ => false)

/-- A pair ACK_WRITE may carry (R103). -/
def ackable (id : Word) : Bool :=
  match idOne id with
  | some .ack => true
  | _ => false

/-- Offsets in the parameter block, from byte `from_`, of the list elements that a test refuses. -/
def listOffsets {α : Type} (ok : α → Bool) (from_ step : Nat) (xs : List α) : List Nat :=
  match xs with
  | [] => []
  | x :: rest => offendIf (!ok x) from_ ++ listOffsets ok (from_ + step) step rest

/-! ### STAGE, PROOF, TRAY_CLEAR, TRAY_STATUS, READ, ACK_WRITE -/

def stageEntries (es : List (Word × Word)) (ps : List Pair) : List (Word × Word) :=
  ps.foldl (fun es p => trayPut es (p.id, p.value)) es

/-- STAGE (R78, R79). -/
def performStage (s : State) (c : Cmd) (tray : Byte) (ps : List Pair) : State :=
  let x := trayAt s tray.toNat
  let es := stageEntries x.entries ps
  completeOk (setTray s tray.toNat { x with entries := es, proven := false }) c [(16, 4, ps.length)]

/-- PROOF (R83, R84). -/
def performProof (s : State) (c : Cmd) (tray : Byte) : State :=
  let x := trayAt s tray.toNat
  match proofFail s x.entries with
  | some v => completeV s c (proofFailed v)
  | none =>
    completeOk (setTray s tray.toNat { x with proven := true, provenGen := s.par.generation }) c
      [(16, 4, x.entries.length)]

/-- TRAY_CLEAR (R81). -/
def performTrayClear (s : State) (c : Cmd) (tray : Byte) : State :=
  completeOk (setTray s tray.toNat {}) c []

/-- TRAY_STATUS (R83). -/
def performTrayStatus (s : State) (c : Cmd) (tray : Byte) : State :=
  let x := trayAt s tray.toNat
  completeOk s c [(16, 4, x.entries.length), (20, 1, b01 x.proven), (24, 4, x.provenGen.toNat)]

/-- The value that READ returns for an ID (R91); reserved bits that a STAGE has left in a tray read 0 (R7). -/
def readValue (s : State) (sel : Nat) (id : Word) : Word :=
  if sel < 8 then readParam s id
  else match trayValue (trayAt s (sel - 8)).entries id with
    | some v => readBits (idFam id) (idMem id) v
    | none => readParam s id

/-- READ (R91): the (ID, value) pairs. -/
def performRead (s : State) (c : Cmd) (sel : Byte) (ids : List Word) : State :=
  let pairs := ids.flatMap fun id => leBytes 4 id.toNat ++ leBytes 4 (readValue s sel.toNat id).toNat
  complete s c stOk (padTo 16 pairs) pairs

/-- After an accepted acknowledgement: a short that is acknowledged in full releases its driver at the next vector start
(R109); vector 0 is raised again while a cause is still pending (R101, R536). -/
def ackAfter (s : State) (id : Word) : State :=
  let done := decide (ackPending (ackOf s id) = 0)
  let s := if idFam id = 0x14 && idMem id = 0 && done then
    modChan (catchUp s (quayOfBerth (berthOfChan (idInst id)))) (idInst id) fun x =>
      { x with holdNext := if x.heldHiZ then some false else none } else s
  match (List.range 6).find? fun n => vec0Id n = id with
  | some n => if done then s else vec0 s n
  | none => s

/-- One write of an ACK field (R100): accepted, or counted in AckReject. -/
def ackOne (s : State) (id w : Word) : State × Bool :=
  let id := ackHome s id
  let s := edgesSeen s id
  let x := ackOf s id
  if ackAccepts x w then (ackAfter (setAck s id { x with a := w }) id, true)
  else (count s 6 0 0x02 0, false)

/-- ACK_WRITE (R103). -/
def performAckWrite (s : State) (c : Cmd) (ps : List Pair) : State :=
  let r := ps.foldl (fun (r : State × Nat) p =>
    let y := ackOne r.1 p.id p.value
    (y.1, if y.2 then r.2 + 1 else r.2)) (s, 0)
  completeOk r.1 c [(16, 4, r.2), (20, 4, ps.length - r.2)]

/-! ### BAKE -/

/-- The bake instant that a BAKE accepted at a tide names (R66, R9). -/
def bakeInstant (accepted instant : Nat) (relative : Bool) : Nat :=
  if relative then tideSum accepted instant else instant

/-- The entries of a tray on the follower of an index, as the pilot's rings have made them (R64, R88). -/
def followerTray (s : State) (tray i : Nat) : List (Word × Word) :=
  match tabFind s.chain.devices i with
  | some d => tabGet [] d.trays tray
  | none => []

/-- The smallest lead of a bake of a tray (R87, R88): at scope 7 from the largest lead of any device. -/
def bakeMinLead (s : State) (sc tray : Nat) : Nat :=
  let l := bakeLead (trayAt s tray).entries
  if sc = 7 then
    Nat.max 6400 (4800 + (followers s).foldl (fun m i => Nat.max m (bakeLead (followerTray s tray i))) l)
  else l

/-- A BAKE that has been accepted is pending, its instant fixed (R66, R86); a pending calibration bake is
withdrawn (R384). -/
def pendOf (s : State) (c : Cmd) : State :=
  match c.op with
  | .bake instant tray _ relative _ =>
    let chain := decide (c.hdr.scope = 7)
    { s with par := { s.par with pendBake := some {
      instant := bakeInstant c.accepted instant.toNat relative, tray := tray.toNat, chain := chain, go := !chain
      wanted := if chain then followers s else [], tag := some c.ord, armed := false } } }
  | _ => s

/-- BAKE runs (R18, R88, R92): the comparators are armed; a chain bake's arm goes out. -/
def performBake (s : State) (c : Cmd) : State :=
  match s.par.pendBake with
  | none => s
  | some p =>
    let s := { s with par := { s.par with shadow := [], pendBake := some { p with
      armed := true, ready := if p.chain then [s.chain.index] else [] } } }
    let s := if p.chain then send s (.signal none (.bakeArm (i36Of p.instant) p.tray)) else s
    putCmd s { c with work := .bake }

/-- The command of a bake, if one of this device's rings holds it. -/
def bakeCmd (s : State) (p : PendBake) : Option Cmd :=
  match p.tag with
  | some t => s.inflight.find? fun c => c.ord = t
  | none => none

/-- A bake ends with HW_FAULT and no load: counted in BakeFault (R75). A follower does not count a chain bake that
does not load there, having no BAKE of its own (DESIGN CHOICE, log 68). -/
def bakeFaultEnd (s : State) (p : PendBake) (v : Verdict) : State :=
  let c := bakeCmd s p
  let s := bakeDrop s
  match c with
  | some c => completeV (count s 6 0 0x01 4) c v
  | none => s

/-- The pilot cancels a chain bake: the lowest chain index whose READY is missing (R93). -/
def chainCancel (s : State) (p : PendBake) : State :=
  let gone := (s.chain.index :: p.wanted).filter fun i => !p.ready.contains i
  let s := send s (.signal none (.bakeCancel (i36Of p.instant)))
  bakeFaultEnd s p (hwFault 0x10 ((gone.min?).getD 0))

/-- CHAIN_BAKE_DECISION (R92, R93): GO, no later than I − 1,600 tc, once every READY is held, otherwise CANCEL. -/
def execChainBakeDecision (s : State) : Host.Outcome State Fault Refusal :=
  .next (match s.par.pendBake with
  | none => s
  | some p =>
    if p.chain && !p.go && p.tag.isSome then
      if p.armed && s.tide + 1600 ≤ p.instant && p.wanted.all fun i => p.ready.contains i then
        let s := send s (.signal none (.bakeGo (i36Of p.instant)))
        { s with par := { s.par with pendBake := some { p with go := true } } }
      else chainCancel (reach s (p.instant - 1600)) p
    else s)

/-! ### The strobe (R20, R76, R81, R89, R94) -/

/-- What the shadow register of a parameter that the tray names holds: the tray's value, or what a
microword has written over it (R433). -/
def shadowValue (s : State) (e : Nat × Word) : Word := (tabFind s.par.shadow e.1).getD e.2

/-- The values of a tray load, in ascending ID order. -/
def bakeTray (s : State) (tray : Nat) : State :=
  (resolve (trayAt s tray).entries).foldl (fun s e => bakeOne s (BitVec.ofNat 32 e.1) (shadowValue s e)) s

/-- The strobe loads every shadow register in scope: the generation rises, the tray's proven mark is
cleared, and calibration steps that are ready are taken; a chain bake after a reference loss leaves the
chain unaligned (R484). -/
def strobe (s : State) (p : PendBake) : State :=
  let s := forAll s (List.range 16) catchUp
  let s := { s with par := { s.par with pendBake := none, comparators := [] } }
  let s := if p.cal.isSome then s else
    let s := bakeTray s p.tray
    let s := { s with par := { s.par with shadow := [] } }
    setTray s p.tray { (trayAt s p.tray) with proven := false }
  let s := { s with par := { s.par with generation := s.par.generation + 1 } }
  let s := match p.cal with
    | some b => count s 3 b 0x92 8
    | none => s
  let s := if p.chain && s.clk.refState ≠ .locked then chainUnalign s else s
  calReschedule (calStrobe s p.instant)

/-- The fault source of a bake whose shadow registers were not loaded: the spec names none, so it is
a free value (log 3). -/
def bakeFaultSource (s : State) : Nat := (Config.freeWord s.freeCtr).toNat % 65536

/-- The pending bake's instant. `loaded` says whether every shadow register in scope was
loaded and armed (R20), which those of a BAKE that has not run yet are not; the generation and the fast status are
updated before the reply (R89). -/
def pendStrobe (loaded : Bool) (s : State) : State :=
  match s.par.pendBake with
  | none => s
  | some p =>
    let s := reach s p.instant
    if p.chain && !p.go then
      if p.tag.isSome then chainCancel s p else bakeDrop s
    else if loaded && p.armed then
      let c := bakeCmd s p
      let s := fsRewriteAll (strobe s p)
      match c with
      | some c => completeOk s c [(16, 8, p.instant), (24, 1, p.tray)]
      | none => s
    else bakeFaultEnd { s with freeCtr := s.freeCtr + 1 } p (hwFault (bakeFaultSource s) 0)

end Sys2Proof.Machine
end

