-- ==== Sys2Proof/Machine/SeqOps.lean ====
section
/-! DEFINITION. The sequencing commands (R143 to R177): SEG_LOAD, ARM, START, HALT, JUMP, DISARM,
CLEAR_HALT, SEQ_STATUS, and which of their operands are undefined. -/

namespace Sys2Proof.Machine

/-! ### The quays that a command acts on (R50, R153) -/

/-- A quay is ARMED or RUNNING. -/
def quayBusy (s : State) (q : Nat) : Bool := (quayAt s q).armed || (quayAt s q).running

/-- A START is pending for a quay, at an instant or in token wait. -/
def startPending (s : State) (q : Nat) : Bool := (quayAt s q).startAt.isSome || (quayAt s q).tokenWait

/-- The quay is in the state that the command requires (R50); ARM also needs a berth it may arm. -/
def quayFits (s : State) (op : HostOp) (q : Nat) : Bool :=
  match op with
  | .arm _ mask _ => quayRun s q = 3 && armMask s q mask.toNat ≠ 0
  | .start _ _ _ => quayRun s q = 4 && !startPending s q
  | .disarm => quayRun s q = 4
  | .halt | .jump _ => quayRun s q = 5
  | .clearHalt => quayRun s q = 6
  | _ => true

def quaysFor (s : State) (sc i : Nat) (op : HostOp) : List Nat := (quaysIn sc i).filter (quayFits s op)

/-! ### SEG_LOAD (R141 to R145) -/

def segFromHold (source : Nat) : Bool := natBit source 63
def segHoldAddr (source : Nat) : Nat := source % 2 ^ 36

/-- The descriptor store and the reserved range of a bank (R141). -/
def segStore (off : Nat) : Bool := 0x100000 ≤ off && off < 0x120000

/-- Parameter bytes of SEG_LOAD that break R143. -/
def segLoadOffsets (sc bank off source len : Nat) : List Nat :=
  let offBad := bankSize ≤ off || segStore off
  offendIf (1 < bank) 0 ++ offendIf (off % 64 ≠ 0 || offBad) 4 ++
    offendIf (source % 64 ≠ 0 ||
      (if segFromHold source then bitsOf source 36 27 ≠ 0 || holdSize < segHoldAddr source + len
       else sc = 7)) 8 ++
    offendIf (len % 64 ≠ 0 || len < 64 || bankSize < off + len ||
      (off < 0x100000 && 0x100000 < off + len)) 16

/-- An image is complete in a bank of a quay. -/
def segFill (s : State) (q bank off : Nat) (bytes : List Byte) : State :=
  modQuay s q fun x => { x with
    seg := memWriteBytes x.seg (bank * bankSize + off) bytes
    fill := tabSet x.fill bank (tabGet 0 x.fill bank + 1) }

def segFillAll (s : State) (qs : List Nat) (bank off : Nat) (bytes : List Byte) : State :=
  forAll s qs fun s q => segFill s q bank off bytes

/-- The lowest quay of a scope whose bank is referenced (R144). -/
def bankBusy (s : State) (sc i bank : Nat) : Option Verdict :=
  ((quaysIn sc i).find? fun q => bankRef s q bank).map fun q => busy 1 q

/-- SEG_LOAD starts (R144, R145): the resource check and the start of filling are one step. The bank fills until the
command's reply. -/
def performSegLoad (s : State) (c : Cmd) (bank : Nat) : State :=
  let qs := quaysIn c.hdr.scope.toNat c.hdr.inst.toNat
  match bankBusy s c.hdr.scope.toNat c.hdr.inst.toNat bank with
  | some v => completeV s c v
  | none =>
    putCmd (forAll s qs fun s q => modQuay s q fun x => { x with filling := (bank, c.ord) :: x.filling })
      { c with work := .segRead }

/-- The read of a SEG_LOAD's image has completed: `data` from the host, this device's hold from the hold. -/
def segReadDone (s : State) (c : Cmd) (data : List Byte) : State :=
  match c.op with
  | .segLoad bank off source len =>
    let qs := quaysIn c.hdr.scope.toNat c.hdr.inst.toNat
    if segFromHold source.toNat then
      match holdRead s (segHoldAddr source.toNat) len.toNat with
      | (s, some v) => completeV s c v
      | (s, none) =>
        completeOk (segFillAll s qs bank.toNat off.toNat (memReadBytes s.hold.mem (segHoldAddr source.toNat) len.toNat))
          c [(16, 4, len.toNat)]
    else completeOk (segFillAll s qs bank.toNat off.toNat (padTo len.toNat data)) c [(16, 4, len.toNat)]
  | _ => s

/-! ### ARM, START, HALT, JUMP, DISARM, CLEAR_HALT, SEQ_STATUS -/

/-- Reply with the state code of the target. -/
def completeState (s : State) (c : Cmd) : State :=
  completeOk s c [(16, 2, stateCode s c.hdr.scope.toNat c.hdr.inst.toNat)]

/-- The commit of an ARM: its quays that are READY still, each with the berths that it may arm (R50, R152). -/
def armAll (s : State) (c : Cmd) (qs : List Nat) (entry mask tset : Nat) : State :=
  let fit := qs.filter (quayFits s c.op)
  let s := forAll s qs fun s q => modQuay s q fun x => { x with prefill := none }
  if fit = [] then completeV s c (conflict s 4 ((quaysIn c.hdr.scope.toNat c.hdr.inst.toNat).headD 0))
  else completeState (forAll s fit fun s q => armQuay s q entry (armMask s q mask) tset) c

/-- ARM (R50, R152, R174): with an entry segment that streams it arms its quays once their FIFOs are filled along the
path. -/
def performArm (s : State) (c : Cmd) (entry mask tset : Nat) : State :=
  let qs := quaysFor s c.hdr.scope.toNat c.hdr.inst.toNat c.op
  let slow := qs.filter fun q => segKind s q entry = 2
  if slow = [] then armAll s c qs entry mask tset
  else
    putCmd (forAll s slow fun s q => modQuay s q fun x => { x with
      prefill := some entry, fifo := 0, fifoBad := none, stream := [] })
      { c with work := .prefill slow qs }

/-- STREAM_PREFILL_DONE (R174). -/
def execStreamPrefillDone (q : Nat) (s : State) : Host.Outcome State Fault Refusal :=
  .next (match s.inflight.find? (fun c => c.phase = .running &&
    match c.work with
    | .prefill qs _ => qs.contains q
    | _ => false) with
  | none => s
  | some c =>
    match c.op, c.work with
    | .arm entry mask tset, .prefill qs all =>
      if prefilled s q then
        let rest := qs.filter (· ≠ q)
        if rest = [] then armAll s c all entry.toNat mask.toNat tset.toNat
        else putCmd s { c with work := .prefill rest all }
      else s
    | _, _ => s)

/-- The start instant of START mode 0 and of UNPARK where 0 is given (R52, R153). -/
def leastLead (sc : Nat) : Nat := if sc = 7 then 6400 else 1600

def instantOf (accepted sc instant : Nat) : Nat :=
  if instant = 0 then tideSum accepted (leastLead sc) else instant

/-- An instant with too short a lead, or already past. -/
def leadBad (s : State) (sc instant : Nat) : Bool := instant ≠ 0 && instant < s.tide + leastLead sc

/-- START (R153, R176, R411). -/
def performStart (s : State) (c : Cmd) (mode source instant : Nat) : State :=
  let sc := c.hdr.scope.toNat
  let qs := quaysFor s sc c.hdr.inst.toNat c.op
  if mode = 0 then
    let i := instantOf c.accepted sc instant
    let i := if sc = 4 then Nat.max i (gateOf s c.hdr.inst.toNat) else i
    putCmd (forAll s qs fun s q => modQuay s q fun x => { x with startAt := some i })
      { c with work := .start i qs }
  else
    let c := { c with work := .token source qs }
    let s := putCmd (forAll s qs fun s q => modQuay s q fun x => { x with tokenWait := true }) c
    if source = 0 && !isFollower s then tokenEmit s c.accepted else s

/-- No quay of the scope is in the state that the command requires: the lowest is named (R50). -/
def noQuay (s : State) (sc i : Nat) : Verdict := conflict s 4 ((quaysIn sc i).headD 0)

/-- HALT (R162): one that starts after its quays' burst has ended carries the index of the lowest (DEDUCED, log 89). -/
def performHalt (s : State) (c : Cmd) : State :=
  let qs := quaysFor s c.hdr.scope.toNat c.hdr.inst.toNat c.op
  if qs = [] then
    completeOk s c [(16, 8, (quayAt s ((quaysIn c.hdr.scope.toNat c.hdr.inst.toNat).headD 0)).haltIndex)]
  else forAll (putCmd s { c with work := .halt qs ((qs.head?).getD 0) }) qs fun s q => haltRequest s q 1

/-- Pending JUMPs stand in order of acceptance (R160). -/
def insertJump (js : List (Nat × Nat × Nat)) (j : Nat × Nat × Nat) : List (Nat × Nat × Nat) :=
  js.filter (fun x => x.2.2 < j.2.2) ++ j :: js.filter (fun x => j.2.2 ≤ x.2.2)

/-- JUMP (R160): the request is delivered to the quay, which still runs (`run`). -/
def performJump (s : State) (c : Cmd) (target : Nat) : State :=
  let q := c.hdr.inst.toNat
  putCmd (modQuay s q fun x => { x with jumps := insertJump x.jumps (s.tide, target, c.ord) })
    { c with work := .jump q }

/-- DISARM (R166): a START of one of its quays that has become pending while it waited is not undone. -/
def performDisarm (s : State) (c : Cmd) : State :=
  let qs := quaysFor s c.hdr.scope.toNat c.hdr.inst.toNat c.op
  match qs.find? (startPending s) with
  | some q => completeV s c (conflict s 4 q)
  | none => completeState (forAll s qs disarm) c

/-- CLEAR_HALT (R46). -/
def performClearHalt (s : State) (c : Cmd) : State :=
  completeState (forAll s (quaysFor s c.hdr.scope.toNat c.hdr.inst.toNat c.op) fun s q =>
    modQuay s q fun x => { x with halted := false }) c

/-- SEQ_STATUS (R178). -/
def performSeqStatus (s : State) (c : Cmd) : State :=
  let q := c.hdr.inst.toNat
  completeOk s c [(16, 2, stateCode s 4 q), (18, 2, (quayAt s q).curSeg), (24, 8, vectorNow s q)]

/-- Parameter bytes of ARM that break R152 on some quay of the scope. -/
def armOffsets (s : State) (qs : List Nat) (entry mask tset : Nat) : List Nat :=
  let bad := qs.any fun q => 255 < entry || !segValid s q entry
  offendIf bad 0 ++ offendIf (mask = 0) 4 ++
    offendIf (!bad && qs.any fun q => segTsKeep s q entry && !tsetValid s q tset) 5

/-- Parameter bytes of START that break R153 and R176. -/
def startOffsets (s : State) (sc mode source instant : Nat) : List Nat :=
  offendIf (1 < mode) 0 ++ offendIf (if mode = 0 then source ≠ 0 else 4 < source) 1 ++
    offendIf (if mode = 0 then leadBad s sc instant || (sc = 7 && s.tide + 2 ^ 34 < instant)
      else instant ≠ 0) 8

def jumpOffsets (s : State) (q target : Nat) : List Nat :=
  offendIf (255 < target || !segValid s q target) 0

end Sys2Proof.Machine
end

