-- ==== Sys2Proof/Machine/MeasOps.lean ====
section
/-! DEFINITION. The measurement commands: PPMU_MEASURE (R214 to R217), ACQ_ARM and ACQ_READ (R218,
R233), TMU_ARM and TMU_READ (R253 to R255), RESULT_UPLOAD (R311 to R313), FAIL_LOG_READ (R308). -/

namespace Sys2Proof.Machine

/-! ### PPMU_MEASURE -/

/-- The channels a PPMU_MEASURE measures: its target, or every position in PPMU mode. -/
def ppmuChans (s : State) (sc i : Nat) : List Nat :=
  if sc = 2 then [i]
  else ((List.range 16).map (chanOfPos i)).filter fun c => pinMode s c = 3

/-- Parameter bytes of PPMU_MEASURE that break R214 to R216. A current measurement at scope 3 is not refused for a position
whose Func is MV: R215 speaks of scope 2, and R212 says what such a current reads (DESIGN CHOICE, log 117). -/
def ppmuOffsets (s : State) (sc i : Nat) (resDma current slow : Bool) (range samples : Nat) : List Nat :=
  let cs := ppmuChans s sc i
  offendIf (sc = 3 && (!slow || !resDma)) 0 ++
    offendIf (sc = 2 && current && liveF s 2 (paramInst s i) 0x50 0 0 2 = 2) 0 ++
    offendIf (range ≠ 255 && (4 < range ||
      cs.any fun c => liveF s 2 (paramInst s c) 0x50 0 2 3 ≠ range)) 1 ++
    offendIf (samples = 0 || 65536 < samples) 4

/-- A channel that a PPMU_MEASURE needs still measures for another: its own converter, or for the digitizer path
converter A of the berth. The command waits for it (DESIGN CHOICE, log 95). -/
def ppmuTaken (s : State) (sc i : Nat) (slow : Bool) : Bool :=
  (ppmuChans s sc i).any fun c =>
    (chanAt s c).ppmu.isSome ||
      (!slow && (chansOfBerth (berthOfChan c)).any fun k => (chanAt s k).ppmu.any fun r => !r.slow)

/-- PPMU_MEASURE starts on every channel it measures. -/
def performPpmu (s : State) (c : Cmd) (slow : Bool) (samples : Nat) : State :=
  let i := c.hdr.inst.toNat
  match ppmuChans s c.hdr.scope.toNat i with
  | [] => complete s c stOk data0 (ppmuImage i [])
  | cs =>
    putCmd (forAll s cs fun s k => modChan s k fun x => { x with
      ppmu := some { cmd := c.ord, slow := slow, left := samples } }) { c with work := .ppmu cs }

/-! ### Acquisition -/

/-- Parameter bytes of ACQ_ARM that break R218. -/
def acqArmOffsets (s : State) (b setup pre : Nat) : List Nat :=
  let x := copySetup s b setup
  offendIf (convMask x = 0 || (List.range 2).any fun v => gainOf x v = 1 && isCurrentInput (inputCode x v)) 0 ++
    offendIf (131072 < pre * convCount x) 4

/-- ACQ_ARM (R218, R219): the setup is copied; a post-count of 0 ends the engine. -/
def performAcqArm (s : State) (c : Cmd) (setup pre post : Nat) : State :=
  let b := c.hdr.inst.toNat
  if post = 0 then
    let s := acqEnd s b
    completeOk s c [(16, 4, (acqAt s b).nextRecord)]
  else
    let w := copySetup s b setup
    let d := 40 * 2 ^ log2Base w
    let first := (s.tide / d + 1) * d
    let s := modAcq s b fun x => { acqRefill x with
      setupNo := setup, setup := w, pre := pre, want := post, left := setupRecords w
      continuous := decide (setupRecords w = 0), first := first, samples := 0 }
    completeOk s c [(16, 4, (acqAt s b).nextRecord), (20, 8, first)]

/-- The record is closed and still held: on die or in its region. -/
def recordHeld (s : State) (b n : Nat) : Bool :=
  let x := acqAt s b
  x.unspilled.any (fun r => r.1 = n) || x.held.any (fun r => r.1 = n)

/-- The record is the one in progress. -/
def recordOpen (s : State) (b n : Nat) : Bool :=
  ((acqAt s b).state = 2 || (acqAt s b).closing) && (acqAt s b).nextRecord = n

/-- ACQ_READ (R233). -/
def performAcqRead (s : State) (c : Cmd) (n : Nat) : State :=
  let b := c.hdr.inst.toNat
  match (acqAt s b).unspilled.find? fun r => r.1 = n with
  | some r => complete s c stOk data0 r.2
  | none =>
    match (acqAt s b).held.find? fun r => r.1 = n with
    | some r =>
      match holdRead s (acqRegion b + r.2.1) r.2.2 with
      | (s, some v) => completeV s c v
      | (s, none) => complete s c stOk data0 (memReadBytes s.hold.mem (acqRegion b + r.2.1) r.2.2)
    | none => completeV s c (badParam 0x8000)

/-! ### Time measurement -/

/-- Parameter bytes of TMU_ARM that break R253. -/
def tmuArmOffsets (s : State) (b mode source markSel : Nat) : List Nat :=
  let w (k : Nat) : Nat := (baked s (((tmuIds b)[k]?).getD 0)).toNat
  offendIf (4 < mode || ((mode = 0 || mode = 3) && w 1 = 0)) 0 ++
    offendIf (4 < source || (source = 2 && markSel = 0) ||
      (source = 4 && w 5 + w 6 * 2 ^ 32 + w 2 / 5000 < s.tide)) 4

/-- TMU_ARM (R246, R253, R254): mode 4 ends the measurement, another clears it and arms; the last edges stay, since the
160 units of R244 know no measurement. The results are PROVISIONAL from the start while OvenOk is 0 (R257). -/
def performTmuArm (s : State) (c : Cmd) (mode source gate : Nat) (fall : Bool) (mark line : Nat) :
    State :=
  let b := c.hdr.inst.toNat
  let s := tmuEnd (tmuFlush s b) b
  if mode = 4 then completeOk s c []
  else
    let x : Tmu := {
      state := 1, mode := mode, words := (tmuIds b).map (baked s), source := source, gateSel := gate
      gateFall := fall, markSel := mark, chainLine := line, armTide := s.tide
      generation := s.par.generation, flags := if s.clk.ovenOk then 0 else tProvisional
      lastAccepted := (tmuAt s b).lastAccepted, queue := (tmuAt s b).queue, queueTide := (tmuAt s b).queueTide }
    let a := if source = 0 then some (5000 * (s.tide + 1) + winDelay x)
      else if source = 4 then some (5000 * tmuTrigTide x + winDelay x) else none
    completeOk (modTmu s b fun _ => { x with pendOpen := a }) c []

/-- TMU_READ (R255). -/
def performTmuRead (s : State) (c : Cmd) : State :=
  let s := tmuFlush s c.hdr.inst.toNat
  complete s c stOk data0 (tmuImage s c.hdr.inst.toNat)

/-! ### FAIL_LOG_READ (R308) -/

/-- The oldest fail-log entry still held. -/
def logOldest (x : Fc) : Nat := x.logSpilled - logRegionEntries

/-- The entries that a FAIL_LOG_READ returns. -/
def logCount (x : Fc) (first count room : Nat) : Nat :=
  Nat.min (if count = 0 then (room - 32) / 16 else count) (x.logTotal - Nat.max first (logOldest x))

/-- The result of FAIL_LOG_READ: the header and the entries. -/
def logImage (s : State) (b first count room : Nat) : List Byte :=
  let x := (berthAt s b).fc
  let old := logOldest x
  let from_ := Nat.max first old
  let n := logCount x first count room
  leBytes 8 old ++ leBytes 8 from_ ++ leBytes 8 n ++
    leBytes 8 (flag (decide (first < old)) 0 + flag x.logRefused 1) ++
    (List.range n).flatMap fun k =>
      streamEntry s (failRegion b) logRegionEntries x.logSpilled x.log (from_ + k)

/-- FAIL_LOG_READ: the entries it returns that have been spilled are read from the berth's region, in two ranges where
they pass its end. -/
def performFailLogRead (s : State) (c : Cmd) (first count : Nat) : State :=
  let b := c.hdr.inst.toNat
  let x := (berthAt s b).fc
  let room := c.hdr.resultLen.toNat
  let lo := Nat.max first (logOldest x)
  let n := Nat.min (logCount x first count room) (x.logSpilled - lo)
  let at_ := lo % logRegionEntries
  let n1 := Nat.min n (logRegionEntries - at_)
  match holdReadAll s [(failRegion b + 16 * at_, 16 * n1), (failRegion b, 16 * (n - n1))] with
  | (s, some v) => completeV s c v
  | (s, none) => complete s c stOk data0 (logImage s b first count room)

/-! ### RESULT_UPLOAD (R311 to R313) -/

/-- This device takes its part at the present tide; bit 7 clears what it took. -/
def takePart (s : State) (mask : Byte) (sc i : Nat) : State × Except Verdict (List Byte) :=
  let bs := berthsIn sc i
  match uploadRead s mask bs with
  | (s, some v) => (s, .error v)
  | (s, none) =>
    let part := uploadPart s mask sc bs
    (if mask.getLsbD 7 then forAll s bs clearResults else s, .ok part)

/-- A device's part that never came: its header with Missing 1. -/
def missingPart (s : State) (mask : Byte) (i snap : Nat) : List Byte :=
  uploadHeader i mask.toNat 7 0 0 s.par.generation.toNat snap 64 true

/-- The parts in ascending chain index. -/
def uploadBytes (parts : List (Nat × List Byte)) : List Byte :=
  (List.range 128).flatMap fun i => ((parts.find? fun p => p.1 = i).elim [] (·.2))

/-- The tide instant of the snapshot of an upload (R312, R313): on a follower the one that the pilot has named. -/
def snapTide (c : Cmd) : Nat := (c.snap).getD (if c.hdr.scope = 7 then c.accepted + 6400 else c.accepted)

/-- The pilot names the SnapTide of a divided upload (R313). -/
def snapSend (s : State) (c : Cmd) : State :=
  match c.op with
  | .resultUpload _ => send s (.frame none (.snapTide c.hdr.tag (BitVec.ofNat 64 (snapTide c))))
  | _ => s

/-- The SnapTide of an upload reaches a follower. -/
def snapArrive (s : State) (tag : BitVec 16) (t : Nat) : State :=
  match s.inflight.find? fun c => c.viaChain && c.hdr.tag = tag && c.snap.isNone && isUpload c.op with
  | some c => putCmd s { c with snap := some t }
  | none => s

/-- An upload holds this device's part already. -/
def partTaken (s : State) (parts : List (Nat × List Byte)) : Bool := parts.any fun p => p.1 = s.chain.index

/-- Every part of an upload is there: it completes (R313). -/
def uploadSettle (s : State) (c : Cmd) : State :=
  match c.work with
  | .upload parts [] =>
    if partTaken s parts then complete s c stOk data0 (uploadBytes parts) else s
  | _ => s

/-- This device's part enters its upload. -/
def uploadTake (s : State) (c : Cmd) (mask : Byte) : State :=
  match c.work with
  | .upload parts waiting =>
    match takePart s mask c.hdr.scope.toNat c.hdr.inst.toNat with
    | (s, .error v) => completeV s c v
    | (s, .ok part) =>
      let c := { c with work := .upload (parts ++ [(s.chain.index, part)]) waiting }
      uploadSettle (putCmd s c) c
  | _ => s

/-- RESULT_UPLOAD: at once at scopes 3 to 6; at scope 7 every device takes its part at SnapTide. -/
def performUpload (s : State) (c : Cmd) (mask : Byte) : State :=
  if c.hdr.scope = 7 then
    let waiting := if c.viaChain then [] else c.missing
    putCmd s { c with missing := [], work := .upload [] waiting }
  else
    let c := { c with work := .upload [] [] }
    uploadTake (putCmd s c) c mask

/-- The mask of an upload in flight that has not taken this device's part. -/
def uploadPending (s : State) (c : Cmd) : Option Byte :=
  match c.op, c.work with
  | .resultUpload mask, .upload parts _ =>
    if partTaken s parts || (c.viaChain && c.snap.isNone) then none else some mask
  | _, _ => none

/-- RESULT_SNAPSHOT (R312): the tide reaches the SnapTide of the oldest upload that waits for it. -/
def execResultSnapshot (s : State) : Host.Outcome State Fault Refusal :=
  .next (match s.inflight.find? fun c => (uploadPending s c).isSome with
  | none => s
  | some c =>
    match uploadPending s c with
    | some mask => uploadTake (reach s (snapTide c)) c mask
    | none => s)

/-- RESULT_PART_TIMEOUT (R313): parts that have not begun to arrive are written as headers. -/
def execResultPartTimeout (s : State) : Host.Outcome State Fault Refusal :=
  .next (match s.inflight.find? fun c =>
      match c.work with
      | .upload parts waiting => waiting ≠ [] && partTaken s parts
      | _ => false with
  | none => s
  | some c =>
    match c.op, c.work with
    | .resultUpload mask, .upload parts waiting =>
      let s := reach s (snapTide c + usTc 10000)
      let all := parts ++ waiting.map fun i => (i, missingPart s mask i (snapTide c))
      let s := if canRequest s then
        writeResult s c.hdr.resultPtr.toNat ((uploadBytes all).take c.hdr.resultLen.toNat) else s
      completeV s c (hwFault 0x42 ((waiting.min?).getD 0))
    | _, _ => s)

end Sys2Proof.Machine
end

