-- ==== Sys2Proof/Machine/PowerOps.lean ====
section
/-! DEFINITION. The site power commands (R277 to R284, R301) and what a controller's ramps, starts,
undos and fault actions do (R278 to R280, R289, R290). -/

namespace Sys2Proof.Machine

/-! ### Operands (R277, R283) -/

/-- A target is taken to the nearest 25 µV. -/
def spTarget (t : Nat) : Nat := (2 * t + 25) / 50 * 25

/-- A target that a controller does not accept (R277), judged as it is given, before its rounding. -/
def targetBad (s : State) (b t : Nat) : Bool :=
  let vin := liveF s 3 b 0x69 1 16 16
  let duty := liveF s 3 b 0x68 0 19 7
  let ri4 := liveF s 3 b 0x69 0 0 5 * (liveF s 3 b 0x69 0 5 6 + 1)
  t ≠ 0 && (t < 250000 || 5500000 < t || vin * 10 * duty < t ||
    (vin * 500 < t && 80000 * liveF s 3 b 0x69 0 11 8 * liveF s 3 b 0x69 1 0 16 < ri4 * t))

/-- The slew of a command: 0 means RampSlew. -/
def spSlew (s : State) (b slew : Nat) : Nat := if slew = 0 then liveF s 3 b 0x6D 0 0 17 else slew

def spRampOffsets (s : State) (b target slew : Nat) : List Nat :=
  offendIf (targetBad s b target) 0 ++ offendIf (slew ≠ 0 && (slew < 10 || 100000 < slew)) 4

/-- The byte within an entry at which it breaks R283 or R277, if any. -/
def seqEntryOffset (s : State) (sc : Nat) (e : SeqEntry) : Option Nat :=
  let b := e.berth.toNat
  if entryOwn s sc e && leaderOf s b ≠ b then some 0
  else if (sc ≠ 7 && e.chain.toNat ≠ s.chain.index) ||
      (sc = 7 && !indexKnown s e.chain.toNat) then some 1
  else if entryOwn s sc e && targetBad s b e.target.toNat then some 4
  else none

def seqEntryOffsets (s : State) (sc k : Nat) (es : List SeqEntry) : List Nat :=
  match es with
  | [] => []
  | e :: rest =>
    (match seqEntryOffset s sc e with
     | some o => [k + o]
     | none => []) ++ seqEntryOffsets s sc (k + 8) rest

def spSequenceOffsets (s : State) (sc : Nat) (es : List SeqEntry) : List Nat :=
  offendIf (es.length = 0 || 64 < es.length) 0 ++ seqEntryOffsets s sc 4 es

/-! ### Controllers and the commands that move them (R281) -/

/-- A command that ramps or turns off this controller has not posted its reply. -/
def ctrlBusy (s : State) (b : Nat) : Bool :=
  rampBusy s b || (answeredCmds s).any (fun c => c.work = .ramp b) ||
    s.inflight.any fun c => c.phase = .running &&
      (match c.work with
       | .off ls => ls.contains b && !isOff s b
       | _ => false)

/-- The controller starts or ramps, be it for no command: a hiccup's restart is not retargeted mid-way either (R281;
DESIGN CHOICE, log 98). -/
def ctrlMoves (s : State) (b : Nat) : Bool :=
  ctrlBusy s b || (spAt s b).state = .starting || ramping (spAt s b)

/-- The command whose SP_RAMP moves a controller. -/
def rampCmd (s : State) (b : Nat) : Option Cmd :=
  s.inflight.find? fun c => c.phase = .running && c.work = .ramp b

/-- The command whose SP_SEQUENCE ramps a controller. -/
def sequenceCmd (s : State) (b : Nat) : Option Cmd :=
  s.inflight.find? fun c => c.phase = .running &&
    (match c.work with
     | .sequence _ started _ _ => started.any (runsOn s c.hdr.scope.toNat b)
     | _ => false)

/-! ### Undo (R280, R284) -/

/-- A controller returns to a reference, at a slew; a start from OFF turns it off. The return counts as upward or
downward by itself: an upward one arms UV at its end (R279), a downward one leaves UV armed or not, as it was
(DESIGN CHOICE, log 113). -/
def undoTo (s : State) (b home slew : Nat) (off : Bool) (tag : Nat) : State :=
  if (spAt s b).state = .starting then
    modSp (pwmAll s b .mid) b fun x => { x with
      state := .undoing, rampTarget := 0, rampFrom := 0, acc := 0, readyAt := none
      enFallAt := some (s.tide + usTc 1), abortTag := some tag }
  else
    let home := if off then 0 else home
    modSp s b fun x => { x with
      state := .undoing, rampTarget := home, rampFrom := vref x, rampSlew := slew, upward := decide (vref x ≤ home)
      enFallAt := none, stepAt := s.tide, abortTag := some tag }

/-- A controller returns to where its ramp began (R280). -/
def undoBegin (s : State) (b tag : Nat) : State :=
  let x := spAt s b
  undoTo s b x.rampFrom x.rampSlew x.fromOff tag

/-- A started entry has something to undo: its controller regulates or ramps still. -/
def undoable (s : State) (sc : Nat) (r : SeqRun) : Bool :=
  let b := r.entry.berth.toNat
  entryOwn s sc r.entry && (rampCmd s b).isNone &&
    match (spAt s b).state with
    | .off | .faulted | .hiccup => false
    | _ => true

/-- The last started entry of an aborted SP_SEQUENCE that has something to undo is undone, be its ramp over or not; with
none left the command ends (R284). -/
def undoNext (s : State) (c : Cmd) (tag : Nat) : State :=
  match c.work with
  | .sequence _ started _ ending =>
    match (started.filter (undoable s c.hdr.scope.toNat)).getLast? with
    | some r =>
      let rest := started.filter (· ≠ r)
      let s := putCmd s { c with work := .sequence [] (rest ++ [{ r with done := false }]) none ending }
      undoTo s r.entry.berth.toNat r.home r.slew r.off tag
    | none => completeV s c (ending.getD (abortedBy tag))
  | _ => s

/-! ### SP_SEQUENCE (R283) -/

/-- The instant at which the next entry of a sequence starts, once `prev` has started at the present
tide: after its delay, from the start of `prev` or from its PowerGood. A predecessor on another
device counts from its start (DEDUCED, log 21). -/
def nextEntryAt (s : State) (sc : Nat) (prev : Option SeqEntry) (left : List SeqEntry) : Option Nat :=
  match left, prev with
  | [], _ => none
  | e :: _, some p =>
    if e.waitGood && entryOwn s sc p && !powerGood s p.berth.toNat then none
    else some (s.tide + usTc e.delay.toNat)
  | e :: _, none => some (s.tide + usTc e.delay.toNat)

/-- A sequence is done when nothing is left to start and every started entry of this device has reached its target; one
that an event has stopped then ends with that event's verdict (R283, R284). -/
def sequenceSettle (s : State) (c : Cmd) : State :=
  match c.work with
  | .sequence [] started _ ending =>
    let own := started.filter fun r => entryOwn s c.hdr.scope.toNat r.entry
    if own.all (·.done) then
      match ending with
      | some v => completeV s c v
      | none => completeOk s c [(16, 2, own.length)]
    else s
  | _ => s

/-- A PowerGood that a waiting entry counts from has come. -/
def sequenceGood (s : State) : State :=
  s.inflight.foldl (fun s c =>
    match c.work with
    | .sequence (e :: rest) started none v =>
      let at_ := nextEntryAt s c.hdr.scope.toNat (started.getLast?.map (·.entry)) (e :: rest)
      putCmd s { c with work := .sequence (e :: rest) started at_ v }
    | _ => s) s

/-- An event stops the sequences that name one of these berths: no further entry starts, and the command ends with a
verdict once the ramps that have started are over (R284, R291). -/
def sequenceStop (s : State) (bs : List Nat) (v : Verdict) : State :=
  (cmdsWhere s fun c => c.phase = .running && (actsOn s c).any fun b => bs.contains b).foldl (fun s c =>
    match c.work with
    | .sequence _ started _ none =>
      let c := { c with work := .sequence [] started none (some v) }
      sequenceSettle (putCmd s c) c
    | _ => s) s

/-! ### The end of a ramp (R279) -/

/-- A command's ramp of a controller has ended: its SP_RAMP completes, or its SP_SEQUENCE counts an
entry; an undo completes with ABORTED_CLEAN. -/
def rampReply (s : State) (b : Nat) (undo : Option Nat) : State :=
  match rampCmd s b with
  | some c =>
    match undo with
    | some tag => completeV s c (abortedBy tag)
    | none => completeOk s c [(16, 4, twos 32 (spAt s b).vout)]
  | none =>
    match sequenceCmd s b with
    | none => s
    | some c =>
      let here := runsOn s c.hdr.scope.toNat b
      match c.work, undo with
      | .sequence left started at_ v, none =>
        let c := { c with work := .sequence left (started.map fun r => if here r then { r with done := true } else r) at_ v }
        sequenceSettle (putCmd s c) c
      | .sequence _ started _ v, some tag =>
        let c := { c with work := .sequence [] (started.filter fun r => !here r) none v }
        undoNext (putCmd s c) c tag
      | _, _ => s

/-- A turn-off that waited for the ramp begins (R291). -/
def offResume (s : State) (b : Nat) : State :=
  if (spAt s b).offAfter then offRamp (modSp s b fun x => { x with offAfter := false }) b else s

/-- The commit of a ramp to a non-zero target. -/
def rampCommit (s : State) (b : Nat) : State :=
  let x := spAt s b
  let undo := if x.state = .undoing then x.abortTag else none
  let arm := x.upward
  let s := modSp s b fun x => { x with state := .on, ovHold := none, abortTag := none, fromOff := false }
  let s := noteGood (if arm then armUv s b else s) b
  settle (offAdvance (offResume (sequenceGood (rampReply s b undo)) b))

/-- Vref has reached 0: the phases go to mid-level, and enable falls 1 µs later. -/
def rampZero (s : State) (b : Nat) : State :=
  modSp (pwmAll s b .mid) b fun x => { x with enFallAt := some (s.tide + usTc 1) }

/-! ### Fault actions (R289, R290) -/

def spSource (m : Mon) : Nat :=
  match m with
  | .ov => 0x30
  | .uv => 0x31
  | .oc => 0x32

/-- Commands that ramp a controller end with a verdict. -/
def rampCut (s : State) (b : Nat) (v : Verdict) : State :=
  cancelAll s (fun c => c.phase = .running &&
    (c.work = .ramp b ||
      (match c.work with
       | .sequence left started _ _ => (left ++ started.map (·.entry)).any fun e =>
           entryOwn s c.hdr.scope.toNat e && e.berth.toNat = b
       | _ => false))) v

/-- The controller's outputs turn off as SP_OFF mode 1. -/
def cutOff (s : State) (b : Nat) : State := settle (offAdvance (offNow s b))

/-- Every berth of the gang enters FAULT; site power follows the action itself (R285, R291). -/
def gangFault (s : State) (b src : Nat) : State :=
  berthsFault s (gangOf s b) src b (hwFault src b) []

/-- Action 3 of OV: low-side switches on, the reference at 0, FAULTED. -/
def spFaulted (s : State) (b : Nat) : State :=
  modSp (pwmAll (goodEnd s b) b .low) b fun x => { x with
    state := .faulted, acc := 0, rampTarget := 0, rampFrom := 0, uvArmed := false, ovHold := none
    readyAt := none, hiccupAt := none, enFallAt := none, offAfter := false
    abortTag := none }

/-- Action 2: off as mode 1, and berth FAULT. -/
def action2 (s : State) (b src : Nat) : State :=
  settle (offAdvance (gangFault (offNow (rampCut s b (hwFault src b)) b) b src))

/-- A hiccup is counted, and the commands that ramp the controller end (R290). -/
def hiccupCount (s : State) (b : Nat) (m : Mon) : State :=
  let s := countFront (rampCut (goodEnd s b) b (hwFault (spSource m) b)) 3 b 0x6F 9
  modSp s b fun x => { x with hiccupsDone := x.hiccupsDone + 1 }

/-- Hiccup (R290). A FAULTED controller stays FAULTED (R289), an OFF one OFF; one that is being turned off, or is to be,
restarts no more: it goes off at once (R282, R291; DESIGN CHOICE, log 114). -/
def hiccup (s : State) (b : Nat) (m : Mon) : State :=
  let x := spAt s b
  if x.state = .faulted ∨ x.state = .off then s
  else if liveF s 3 b 0x6C 2 24 4 ≤ x.hiccupsDone then action2 (goodEnd s b) b 0x35
  else if x.offAfter || (x.state ≠ .hiccup && goesOff x) then settle (offAdvance (offNow (hiccupCount s b m) b))
  else
    let s := pwmAll (hiccupCount s b m) b .mid
    modSp s b fun x => { x with
      state := .hiccup, acc := 0, rampTarget := 0, rampFrom := 0, uvArmed := false, ovHold := none
      readyAt := none, enFallAt := some (s.tide + usTc 1)
      hiccupAt := some (s.tide + usTc (1000 * liveF s 3 b 0x6C 1 24 6)), abortTag := none }

/-- The action number of a monitor. -/
def monActionNo (s : State) (b : Nat) (m : Mon) : Nat :=
  liveF s 3 b 0x6C 1 (match m with | .ov => 0 | .uv => 2 | .oc => 4) 2

/-- The rank of a fault cause among those of one action number (R292): a stage fault flag has 0, open remote sense 1. -/
def monRank (m : Mon) : Nat :=
  match m with
  | .ov => 2
  | .oc => 3
  | .uv => 4

/-- A cause takes effect now on a controller: unless another has taken effect on the same root edge that goes before it
(R292). -/
def causeWins (s : State) (b act rank : Nat) : Bool :=
  match (spAt s b).lastAct with
  | some (t, a, r) => t ≠ s.tide || a < act || (a = act && rank < r)
  | none => true

/-- A fault action is taken (R292): monitors that blank end that without a trip count, and a source that a lesser cause
of the same root edge has left gives way. -/
def actTaken (s : State) (b act rank src : Nat) : State :=
  let again := ((spAt s b).lastAct.map (·.1)) = some s.tide
  let quiet (y : Monitor) : Monitor := if y.blankEnd.isSome then { y with quiet := true } else y
  let s := modSp s b fun x => { x with
    lastAct := some (s.tide, act, rank), ov := quiet x.ov, uv := quiet x.uv, oc := quiet x.oc }
  if again then
    forAll { s with lastFaultSource := src } ((gangOf s b).filter fun k => (berthAt s k).run = .fault) fun s k =>
      modBerth s k fun x => { x with lastFault := src }
  else s

/-- The action of a monitor (R289). -/
def monAct (s : State) (b : Nat) (m : Mon) : State :=
  match monActionNo s b m with
  | 0 => s
  | 1 => cutOff (rampCut s b (hwFault (spSource m) b)) b
  | 2 => action2 s b (spSource m)
  | _ =>
    match m with
    | .ov =>
      settle (offAdvance (gangFault (spFaulted (rampCut s b (hwFault (spSource m) b)) b) b (spSource m)))
    | _ => hiccup s b m

/-- A monitor's filter has run out: its action, unless a cause that goes before it has acted on this root edge. -/
def monAction (s : State) (b : Nat) (m : Mon) : State :=
  let n := monActionNo s b m
  if n = 0 || !causeWins s b n (monRank m) then s
  else monAct (actTaken s b n (monRank m) (spSource m)) b m

/-! ### Commands -/

/-- SP_RAMP (R277 to R279). -/
def performSpRamp (s : State) (c : Cmd) (target slew : Nat) : State :=
  let b := c.hdr.inst.toNat
  rampCommand (putCmd s { c with work := .ramp b }) b (spTarget target) (spSlew s b slew)

/-- SP_SEQUENCE (R283): the first entry's delay counts from the commit. -/
def performSpSequence (s : State) (c : Cmd) (es : List SeqEntry) : State :=
  putCmd s { c with work := .sequence es [] (nextEntryAt s c.hdr.scope.toNat none es) none }

/-- The controllers an SP_OFF acts on (R49: berths in OFF are skipped). -/
def offLeaders (s : State) (sc i : Nat) : List Nat :=
  leadersOf s ((berthsIn sc i).filter fun b => (berthAt s b).run ≠ .off)

/-- SP_OFF (R282). -/
def performSpOff (s : State) (c : Cmd) (mode : Nat) : State :=
  let ls := offLeaders s c.hdr.scope.toNat c.hdr.inst.toNat
  let s := putCmd s { c with work := .off ls }
  let s := if mode = 0 then offOrderly s ls else offHard s ls
  settle (offAdvance s)

/-- SP_STATUS (R301). -/
def performSpStatus (s : State) (c : Cmd) : State :=
  let b := c.hdr.inst.toNat
  let trips (m : Nat) : Nat := (ackOf s (ackHome s (pid 3 b 0x6F m))).c.toNat
  completeOk s c [(16, 4, (powerWord s b 2).toNat), (20, 4, (powerWord s b 3).toNat),
    (24, 2, trips 4), (26, 2, trips 5), (28, 2, trips 6), (30, 2, (powerWord s b 0).toNat)]

end Sys2Proof.Machine
end

