-- ==== Sys2Proof/Machine/CalOps.lean ====
section
/-! DEFINITION. The calibration commands (R391 to R396, R400, R401) and the calibration events (rows
CAL_AUTO_TRIGGER to CAL_SERVICE_RETRY). -/

namespace Sys2Proof.Machine

/-! ### CAL_RUN (R391, R392) -/

/-- The bits of an item mask that name items (R377). -/
def calItemBits : Nat := 0x71F

def calRunOffsets (sc items positions : Nat) : List Nat :=
  offendIf (items = 0 || Nat.land items calItemBits ≠ items) 0 ++ offendIf (sc = 2 && positions ≠ 0) 4

/-- The positions of a CAL_RUN: at scope 2 the target's own, none for a spare. -/
def calRunPositions (sc i positions : Nat) : List Nat :=
  if sc = 2 then (if i < 1024 then [i % 16] else [])
  else if positions = 0 then List.range 16
  else (List.range 16).filter (natBit positions)

/-- A position that the run has not covered for the items asked for (R391): the position in hand is measured with them
too until its measurements are done. -/
def calUncovered (s : State) (b items k : Nat) : Bool :=
  let x := calAt s b
  !(k = x.curPos && (x.step = 1 || x.step = 2) && !inPath s b) && !natBit x.skipped k &&
    Nat.land (Nat.land items 15) (Nat.xor 15 (Nat.land (tabGet 0 x.covered k) 15)) ≠ 0

/-- A position that PATH has still to take. -/
def pathUncovered (s : State) (b k : Nat) : Bool :=
  !natBit (calAt s b).pathDone k && !(inPath s b && k = (calAt s b).curPos)

/-- What a CAL_RUN adds to the run in progress (R391). -/
def calJoin (s : State) (b items : Nat) (ks : List Nat) : State :=
  modCal s b fun x => { x with
    items := Nat.lor x.items items
    left := if Nat.land items 15 = 0 then x.left else
      (List.range 16).filter fun k => x.left.contains k || (ks.contains k && calUncovered s b items k)
    pathLeft := if !natBit items 4 then x.pathLeft else
      (List.range 16).filter fun k => x.pathLeft.contains k || ((ks = [] || ks.contains k) && pathUncovered s b k)
    services := Nat.lor x.services (Nat.land (Nat.land items 0x700) (Nat.xor 0x700 (Nat.land x.items 0x700))) }

/-- CAL_RUN: starts a run, or joins the one in progress. -/
def performCalRun (s : State) (c : Cmd) (items positions : Nat) : State :=
  let sc := c.hdr.scope.toNat
  let i := c.hdr.inst.toNat
  let b := (berthsIn sc i).headD 0
  let s := putCmd s { c with work := .cal b }
  if calBusy s b then calJoin s b items (calRunPositions sc i positions)
  else calStart s b items 1 (calRunPositions sc i positions)

/-- ABORT of a CAL_RUN (R392): before the first release that loads, ABORTED_CLEAN and 1; after it, OK
with the masks and 2. One that joined an automatic run leaves alone (DEDUCED, log 24). -/
def calAbort (s : State) (c : Cmd) (b tag : Nat) : State × Nat :=
  let x := calAt s b
  if x.runSource ≠ 1 then (completeV s c (abortedBy tag), 1)
  else if x.step = 4 then (s, if x.committed then 2 else 1)
  else if x.committed then (calUndo s b none, 2)
  else (calUndo s b (some (abortedBy tag)), 1)

/-! ### RELIEVE, UNRELIEVE (R393, R394) -/

/-- RELIEVE: the spare is calibrated first where it is not current, then the handover waits for its
strobe. -/
def performRelieve (s : State) (c : Cmd) : State :=
  let i := c.hdr.inst.toNat
  let b := berthOfChan i
  let k := posOfChan i
  let s := putCmd s { c with work := .relieve b k }
  if (chanAt s (1024 + b)).calCurrent then
    calReady (modCal s b fun x => { calIdle x with purpose := 1, runState := 2, curPos := k }) b 2 s.tide
  else spareMeasure (modCal s b fun x => { calIdle x with
    purpose := 1, items := 15, left := [k], startTemp := (temp16 s b).getD x.lastTemp }) b

/-- UNRELIEVE: the own circuit is calibrated in place, then the release waits for its strobe. -/
def performUnrelieve (s : State) (c : Cmd) : State :=
  let b := berthOfChan c.hdr.inst.toNat
  modCal (putCmd s { c with work := .unrelieve b }) b fun x => { calIdle x with
    purpose := 2, runState := 2, step := 1, curPos := x.relievedPos, items := 15, inPlace := true
    startTemp := (temp16 s b).getD x.lastTemp }

/-- ABORT of a RELIEVE or UNRELIEVE: the same stop; the berth ends as it was. -/
def reliefAbort (s : State) (b tag : Nat) : State × Nat :=
  if (calAt s b).step = 4 ∨ substMoving s b then (s, 2)
  else (calUndo s b (some (abortedBy tag)), 1)

/-! ### CAL_SAVE, CAL_RESTORE (R395, R396) -/

def berthPartBytes : Nat := 5504

def imageCrcAt : Nat := 60

/-- An image with its Crc field put in. -/
def withCrc (image : List Byte) : List Byte :=
  image.take imageCrcAt ++ leBytes 4 (crc32 image).toNat ++ image.drop (imageCrcAt + 4)

/-- What a berth part holds last: the LastTemp of its berth, which CAL_RESTORE brings back (R396; DESIGN CHOICE, log 127: the
records are the device's own). -/
def partTemp (part : List Byte) : Int := (BitVec.ofNat 16 (leAt part 5502 2)).toInt

/-- The correction image of a list of consecutive berths; the other record contents are the device's own
(free, log 3). -/
def correctionImage (s : State) (bs : List Nat) : List Byte :=
  let temps := bs.map fun b => (calAt s b).lastTemp
  let first := (temps.head?).getD 0
  let n := 64 + berthPartBytes * bs.length
  let head := padTo 64 ([1#8, 64#8, 1#8] ++ leBytes 1 s.chain.index ++ leBytes 1 (bs.headD 0) ++
    leBytes 1 bs.length ++ [0#8, 0#8] ++ leBytes 8 Config.serial.toNat ++ leBytes 8 s.tide ++
    leBytes 4 s.par.generation.toNat ++ leBytes 4 n ++ leBytes 2 (twos 16 (minOf temps first)) ++
    leBytes 2 (twos 16 (maxOf temps first)))
  withCrc (head ++ bs.zipIdx.flatMap fun e =>
    padTo (berthPartBytes - 2) ((Config.freeBytes s.freeCtr).drop (berthPartBytes * e.2)) ++
      leBytes 2 (twos 16 (calAt s e.1).lastTemp))

def performCalSave (s : State) (c : Cmd) : State :=
  let image := correctionImage s (berthsIn c.hdr.scope.toNat c.hdr.inst.toNat)
  complete { s with freeCtr := s.freeCtr + 1 } c stOk data0 image

/-- The berths of an image, by its header. -/
def imageBerths (image : List Byte) : List Nat :=
  (List.range (leAt image 5 1 % 128)).map (leAt image 4 1 % 64 + ·)

/-- The image passes R396 on this device for a scope. -/
def imageOk (sc i : Nat) (image : List Byte) : Bool :=
  let zeroed := image.take imageCrcAt ++ [0#8, 0#8, 0#8, 0#8] ++ image.drop (imageCrcAt + 4)
  leAt image imageCrcAt 4 = (crc32 zeroed).toNat && leAt image 8 8 = Config.serial.toNat &&
    leAt image 0 1 = 1 && leAt image 2 1 = 1 && imageBerths image ≠ [] &&
    (imageBerths image).all fun b => (berthsIn sc i).contains b

/-- The part of an image that belongs to its `n`-th berth. -/
def imagePart (image : List Byte) (n : Nat) : List Byte :=
  (image.drop (64 + berthPartBytes * n)).take berthPartBytes

/-- Restored corrections wait for the next bake strobe. -/
def restoreImage (s : State) (image : List Byte) : State :=
  ((imageBerths image).zipIdx).foldl (fun s e =>
    modCal s e.1 fun x => { x with restore := some (partTemp (imagePart image e.2)) }) s

def performCalRestore (s : State) (c : Cmd) (image : List Byte) : State :=
  completeOk (restoreImage s image) c []

/-- CAL_STATUS (R400, R401). -/
def performCalStatus (s : State) (c : Cmd) : State :=
  let i := c.hdr.inst.toNat
  if c.hdr.scope = 3 then
    completeOk s c [(16, 4, (calAt s i).runCount.toNat), (24, 8, (calAt s i).lastTide)]
  else completeOk s c [(16, 4, (chanAt s i).calCount.toNat), (24, 8, (chanAt s i).calTide)]

/-! ### Events -/

/-- The condition of an automatic trigger (R382). -/
def autoDue (s : State) (b : Nat) (why : CalTrigger) : Bool :=
  let x := calAt s b
  match why with
  | .temperature =>
    match temp16 s b with
    | some t => decide (liveF s 3 b 0x90 1 0 8 ≤ (t - x.lastTemp).natAbs)
    | none => false
  | .period =>
    let p := liveF s 3 b 0x90 1 8 16
    p ≠ 0 && x.lastStart + p * 60 * 800000000 ≤ s.tide

/-- A patch load that has been accepted keeps the engines of its mask: no other command starts on them,
and no automatic run on their wings (R456). -/
def patchHolds (s : State) (ord e : Nat) : Bool :=
  s.inflight.any fun c => c.ord ≠ ord &&
    (match c.op with
     | .mcPatchLoad mask _ => natBit mask.toNat e
     | _ => false)

/-- CAL_AUTO_TRIGGER (R382). -/
def execCalAutoTrigger (b : Nat) (why : CalTrigger) (s : State) : Host.Outcome State Fault Refusal :=
  .next (let r := (berthAt s b).run
    let items := liveF s 3 b 0x90 0 1 11
    let items := if autoSuspended s b then Nat.land items 0x700 else items
    if liveF s 3 b 0x90 0 0 1 = 1 && r ≠ .off && r ≠ .fault && !calBusy s b && items ≠ 0 &&
        s.clk.refState = .locked && autoDue s b why &&
        !patchHolds s s.nextOrd (wingOfBerth b) then
      calStart (count s 3 b 0x92 7) b items (match why with | .temperature => 2 | .period => 3)
        (List.range 16)
    else s)

/-- CAL_MEASURE_DONE: the measurements of the step in hand are done; bit n of `failed` says that item
n yielded a correction outside its trim range (R386, R387). -/
def execCalMeasureDone (b : Nat) (failed : BitVec 11) (s : State) : Host.Outcome State Fault Refusal :=
  .next (let x := calAt s b
    if x.step ≠ 1 then s
    else
      let f := failed.toNat
      let s := measureServices s b f
      if x.runState = 1 then calSpareDone s b f
      else if x.runState = 3 then calNext s b
      else if inPath s b then
        if (berthAt s b).run = .parked then calPathDone s b f else pathLeave s b
      else if x.curPos < 16 && (x.inPlace || (berthAt s b).seqPhase = 3) then calPosDone s b f
      else s)

/-- CAL_RIDE_TIMEOUT (R383): no bake has been accepted RideMax µs after the step became ready; the
calibration bake's lead counts from here (DEDUCED, log 24). -/
def execCalRideTimeout (b : Nat) (s : State) : Host.Outcome State Fault Refusal :=
  .next (match (calAt s b).readyAt, s.par.pendBake with
  | some r, none =>
    if liveF s 3 b 0x90 0 12 2 = 1 then
      let s := reach s (r + usTc (liveF s 3 b 0x90 2 0 16))
      { s with par := { s.par with
        pendBake := some { instant := s.tide + 1600, tray := 0, cal := some b } } }
    else s
  | _, _ => s)

/-- CAL_SERVICE_RETRY (R390): a berth item whose service was busy is tried again; whether it stays in
its limits is free (log 3). -/
def execCalServiceRetry (b : Nat) (s : State) : Host.Outcome State Fault Refusal :=
  .next (if calBusy s b && (calAt s b).services ≠ 0 then
    measureServices { s with freeCtr := s.freeCtr + 1 } b
      (Nat.land (Config.freeWord s.freeCtr).toNat 0x700)
  else s)

end Sys2Proof.Machine
end

