-- ==== Sys2Proof/Machine/ChainOps.lean ====
section
/-! DEFINITION. The chain commands (R347, R348, R353, R358 to R361, R373, R324): CHAIN_ENUM,
CHAIN_STATUS, LANE_TEST, LANE_BITSLIP, BCAST_LOAD, TIDE_ALIGN; the replies of other devices (R63);
and the loss of a link (R30, R367). -/

namespace Sys2Proof.Machine

/-! ### Positions (R351) -/

/-- Link transit of a SIGNAL in tc by rate code (R352). -/
def hopTc (rate : Nat) : Nat :=
  match rate with
  | 0 => 12
  | 1 => 16
  | _ => 24

/-- The leg bound of the pilot, to which the links of a tree path add (R352). -/
def legBase : Nat := 75

/-- The device at position a lies on the tree path of, or is, the device at position b: along column
0, then along the row. -/
def onPath (ax ay bx by_ : Nat) : Bool := (ay = by_ && ax ≤ bx) || (ax = 0 && ay ≤ by_)

/-- The downstream tree ports of a device at column `x` (R351): those of them that are up. -/
def treePorts (s : State) (topology x : Nat) : List Nat :=
  ([1] ++ (if topology = 2 && x = 0 then [2] else [])).filter fun p => 2 ≤ (portAt s p).state

/-- Port roles after a device has taken its position (R351, R373). -/
def setRoles (s : State) (topology x : Nat) (up : Option Nat) : State :=
  let ps := treePorts s topology x
  forAll s (List.range 4) fun s p => modPort s p fun y => { y with
    role := if up = some p then 1 else if ps.contains p then 2 else if 2 ≤ y.state then 3 else 0 }

/-! ### Replies of other devices (R63) -/

/-- What a command that a follower has completed has done to its trays (R79, R81, R502), for R88. -/
def trayEffect (op : HostOp) (ts : Tab (List (Word × Word))) : Tab (List (Word × Word)) :=
  match op with
  | .stage tray ps => tabSet ts tray.toNat (stageEntries (tabGet [] ts tray.toNat) ps)
  | .trayClear tray => tabErase ts tray.toNat
  | .resetScope t _ => if t = 3#8 then [] else ts
  | _ => ts

/-- The pilot notes the trays of a follower that has completed a command. -/
def noteTrays (s : State) (op : HostOp) (i status : Nat) : State :=
  match tabFind s.chain.devices i with
  | some d =>
    if status = stOk ∨ status = stOkDeferred then { s with chain := { s.chain with
      devices := tabSet s.chain.devices i { d with trays := trayEffect op d.trays } } }
    else s
  | none => s

/-- A forwarded command's reply is posted unchanged, with the follower's generation and stamp. -/
def finishForwarded (s : State) (c : Cmd) (status : Nat) (gen : Word) (stamp : Nat) (data : List Byte) :
    State :=
  let result := match c.own with
    | some r => r.2.2
    | none => []
  let s := noteTrays s c.op c.hdr.chain.toNat status
  postOrdered s c
    { status := BitVec.ofNat 16 status, tag := c.hdr.tag, gen := gen, stamp := stamp, phase := true
      data := padTo 16 data } (resultCut c.hdr status result)

/-- Insert a device's reply in ascending chain index. -/
def insertReply (rs : List (Nat × BitVec 16 × List Byte)) (i : Nat) (status : BitVec 16)
    (data : List Byte) : List (Nat × BitVec 16 × List Byte) := tabSet rs i (status, data)

/-- The command was sent to one other device. -/
def forwarded (s : State) (c : Cmd) : Bool := c.hdr.chain.toNat ≠ s.chain.index && !c.viaChain

/-- The followers that run a part of the command that an ABORT ends are sent it too, and their replies are still awaited
(R63, R177; DEDUCED, log 112). -/
def abortParts (s : State) (t : Cmd) : State :=
  if t.hdr.scope = 7 && !t.viaChain then
    t.missing.foldl (fun s i => send s (.frame none (.command { t.hdr with chain := BitVec.ofNat 7 i } (.abort t.hdr.tag)))) s
  else s

/-- A follower's answer to its part of an SP_SEQUENCE (R283, R284; DESIGN CHOICE, log 115): one that rejects it rejects
the whole, what has started is undone; after any other failure there no further entry starts. -/
def sequencePart (s : State) (c : Cmd) (status : Nat) (data : List Byte) : State :=
  match c.work with
  | .sequence _ started _ none =>
    if status = stOk then s
    else if status = stBadParam ∨ status = stBusy then
      let c := { c with work := .sequence [] started none (some (status, data)) }
      undoNext (putCmd (abortParts s c) c) c 0
    else
      let c := { c with work := .sequence [] started none none }
      sequenceSettle (putCmd s c) c
  | _ => s

/-- A device's reply of a divided command has come; with none missing and this device's own part done
the command completes. -/
def partReply (s : State) (c : Cmd) (i : Nat) (status : BitVec 16) (data : List Byte) : State :=
  let c := { c with replies := insertReply c.replies i status data, missing := c.missing.erase i }
  let s := sequencePart (noteTrays (putCmd s c) c.op i status.toNat) c status.toNat data
  match s.inflight.find? fun x => x.ord = c.ord with
  | some c =>
    (match c.missing, c.own with
     | [], some own => complete s c own.1 own.2.1 own.2.2
     | _, _ => s)
  | none => s

/-! ### TIDE_ALIGN (R360, R361) -/

/-- The ports on which this device is the parent end of a measured link: its downstream tree ports,
and the ME and MS ends of its cross links that are up (DEDUCED, log 30). -/
def measPorts (s : State) : List Nat :=
  (List.range 4).filter fun p =>
    2 ≤ (portAt s p).state && ((portAt s p).role = 2 || ((portAt s p).role = 3 && (p = 1 || p = 2)))

def measAt (s : State) (p : Nat) : TideMeas := tabGet {} s.chain.meas p

def setMeas (s : State) (p : Nat) (x : TideMeas) : State :=
  { s with chain := { s.chain with meas := tabSet s.chain.meas p x } }

/-- Exchanges of one measurement (R360). -/
def exchanges : Nat := 256

/-- Every link of this device is measured. -/
def measDone (s : State) : Bool := (measPorts s).all fun p => exchanges ≤ (measAt s p).done

/-- A measurement starts on every port: the first ping goes out. -/
def measStart (s : State) : State :=
  forAll s (measPorts s) fun s p =>
    send (setMeas s p {}) (.signal (some p) (.tidePing 0))

/-- The chain index of the device behind a downstream tree port, if one has been enumerated there. -/
def childIndex (s : State) (p : Nat) : Option Nat :=
  let at_ (d : Nat × Device) : Bool :=
    if p = 1 then d.2.y = s.chain.y && d.2.x = s.chain.x + 1 else d.2.x = 0 && d.2.y = s.chain.y + 1
  (s.chain.devices.find? fun d => at_ d && !d.2.lost && !d.2.excluded).map (·.1)

/-- The alignment in progress. -/
def alignCmd (s : State) : Option (Cmd × Bool × List (Nat × Int × Bool)) :=
  s.inflight.findSome? fun c =>
    match c.work with
    | .align corrected ts => if c.phase = .running then some (c, corrected, ts) else none
    | _ => none

/-- Θ of a follower: the sum of θ over the links of its tree path. -/
def thetaOf (s : State) (ts : List (Nat × Int × Bool)) (i : Nat) : Int :=
  match tabFind s.chain.devices i with
  | none => 0
  | some d =>
    ((ts.filter fun t => !t.2.2 &&
      (match tabFind s.chain.devices t.1 with
       | some e => onPath e.x e.y d.x d.y
       | none => false)).map (·.2.1)).sum

/-- Residuals by device: |Θ| of each follower, |θ| of each cross link. -/
def residuals (s : State) (ts : List (Nat × Int × Bool)) : List (Nat × Nat) :=
  ((followers s).map fun i => (i, (thetaOf s ts i).natAbs)) ++
    ((ts.filter (·.2.2)).map fun t => (t.1, t.2.1.natAbs))

/-- The largest residual and the lowest index that has it. -/
def worstResidual (rs : List (Nat × Nat)) : Nat × Nat :=
  rs.foldl (fun w r => if w.2 < r.2 then r else w) (0, 0)

/-- The corrections go out, to apply at a tide count at least 800 tc ahead (free, log 3). -/
def alignCorrect (s : State) (c : Cmd) (ts : List (Nat × Int × Bool)) : State :=
  let at_ := s.tide + 800 + (Config.freeWord s.freeCtr).toNat
  let s := { s with freeCtr := s.freeCtr + 1 }
  let s := (followers s).foldl (fun s i =>
    send s (.frame none (.correction (Fin.ofNat 128 i) (-(thetaOf s ts i)) at_))) s
  putCmd { s with chain := { s.chain with correction := some (0, at_) } }
    { c with work := .align true [] }

/-- The alignment ends; every follower learns the Θ that is left. -/
def alignEnd (s : State) (c : Cmd) (ts : List (Nat × Int × Bool)) : State :=
  let w := worstResidual (residuals s ts)
  if 5000 < w.2 then
    let s := { s with chain := { s.chain with
      tideAligned := false, devices := s.chain.devices.map fun d => (d.1, { d.2 with aligned := false }) } }
    completeV (send s (.frame none (.aligned false))) c (hwFault 0x51 w.1)
  else
    let s := { s with chain := { s.chain with
      tideAligned := true, theta := 0
      devices := s.chain.devices.map fun d => (d.1, { d.2 with aligned := true }) } }
    let s := (followers s).foldl (fun s i => send s (.frame none (.theta (Fin.ofNat 128 i) (thetaOf s ts i)))) s
    completeOk (send s (.frame none (.aligned true))) c [(16, 4, roundDiv (w.2 * 65536) 5000)]

/-- Every link has been measured: correct, or end. On a follower its part of the command is done. -/
def alignSettle (s : State) : State :=
  match alignCmd s with
  | none => s
  | some (c, corrected, ts) =>
    if !measDone s then s
    else if c.viaChain then completeOk s c []
    else if c.missing ≠ [] then s
    else match c.replies.find? fun r => r.2.1 ≠ 0 with
      | some r => complete s { c with replies := [] } r.2.1.toNat r.2.2 []
      | none =>
        if !corrected then alignCorrect s c ts
        else if s.chain.correction.isSome then s
        else alignEnd s c ts

/-- TIDE_ALIGN: the pilot has every device measure its links; a follower measures its own. -/
def performTideAlign (s : State) (c : Cmd) : State :=
  let r := if c.viaChain then (s, c) else forwardAll s c
  let s := putCmd r.1 { r.2 with work := .align false [] }
  alignSettle (measStart s)

/-- The second measurement, once the corrections have been applied. -/
def alignAgain (s : State) : State :=
  match alignCmd s with
  | some (c, true, _) =>
    if c.viaChain then s
    else
      let r := forwardAll s { c with replies := [], work := .align true [] }
      alignSettle (measStart r.1)
  | _ => s

/-- A link's θ is known: the pilot notes it, a follower reports it up the tree. -/
def noteTheta (s : State) (i : Nat) (theta : Int) (cross : Bool) : State :=
  if isFollower s then
    send s (.frame (some s.chain.upPort) (.residual (Fin.ofNat 128 i) theta cross))
  else match alignCmd s with
    | some (c, corrected, ts) => putCmd s { c with work := .align corrected (ts ++ [(i, theta, cross)]) }
    | none => s

/-- The child's stamps of an exchange have come: 2θ = (t1 − t0) − (t3 − t2) − LinkAsym; the mean of
the exchanges rounds half up to a unit. -/
def exchangeDone (s : State) (p exchange t1 t2 : Nat) : State :=
  let m := measAt s p
  match m.stamps with
  | none => s
  | some (t0, t3) =>
    if m.exchange ≠ exchange ∨ exchanges ≤ m.done then s
    else
      let twice : Int := (t1 : Int) - t0 - ((t3 : Int) - t2) - liveS s 6 0 0x85 p
      let m : TideMeas := { exchange := exchange + 1, done := m.done + 1, sum := m.sum + twice }
      let s := setMeas s p m
      if m.done < exchanges then send s (.signal (some p) (.tidePing m.exchange))
      else
        let theta : Int := (m.sum + exchanges) / (2 * (exchanges : Int))
        let cross := decide ((portAt s p).role = 3)
        match if cross then some s.chain.index else childIndex s p with
        | some i => alignSettle (noteTheta s i theta cross)
        | none => alignSettle s

/-! ### CHAIN_ENUM (R353, R354, R566) -/

/-- A report of CHAIN_ENUM: position, leg bound, still booting, tree links east and south. -/
abbrev Report := Nat × Nat × Nat × Bool × Bool × Bool

/-- The positions behind a device's tree links. -/
def behind (x y : Nat) (east south : Bool) : List (Nat × Nat) :=
  (if east then [(x + 1, y)] else []) ++ (if south then [(0, y + 1)] else [])

/-- Every device that the tree links name has reported. -/
def reportsWhole (s : State) (rs : List Report) : Bool :=
  let ps := downPorts s
  let wanted := behind 0 0 (ps.contains 1) (ps.contains 2) ++
    rs.flatMap fun r => if r.2.2.2.1 then [] else behind r.1 r.2.1 r.2.2.2.2.1 r.2.2.2.2.2
  wanted.all fun w => rs.any fun r => r.1 = w.1 && r.2.1 = w.2

/-- A device that is excluded for itself: still booting, outside the positions, or not admissible. -/
def reportBad (topology : Nat) (r : Report) : Bool :=
  r.2.2.2.1 || 1599 < r.2.2.1 ||
    (if topology = 2 then 15 < r.1 || 7 < r.2.1 else 127 < r.1 || 0 < r.2.1)

/-- A device is excluded with the subtree behind it. -/
def reportOut (topology : Nat) (rs : List Report) (r : Report) : Bool :=
  rs.any fun a => reportBad topology a && onPath a.1 a.2.1 r.1 r.2.1

/-- The reports in ascending (y, x), one for each position. -/
def reportOrder (rs : List Report) : List Report :=
  (rs.foldl (fun (t : Tab Report) r => tabSet t (r.2.1 * 2 ^ 32 + r.1) r) []).map (·.2)

/-- The trays noted of the device at a position, which a new enumeration does not change (R354). -/
def traysAt (s : State) (x y : Nat) : Tab (List (Word × Word)) :=
  match s.chain.devices.find? (fun d => d.2.x = x && d.2.y = y && !d.2.lost) with
  | some d => d.2.trays
  | none => []

/-- CHAIN_ENUM ends: indices from 1 on in ascending (y, x); the rest is excluded. -/
def enumFinish (s : State) (c : Cmd) (rs : List Report) : State :=
  let topology := s.chain.topology
  let rs := reportOrder rs
  let good := rs.filter fun r => !reportOut topology rs r
  let out := rs.filter (reportOut topology rs)
  let devices : Tab Device := (0, { leg := legBase }) ::
    good.zipIdx.map fun e => (e.2 + 1, {
      x := e.1.1, y := e.1.2.1, leg := e.1.2.2.1, trays := traysAt s e.1.1 e.1.2.1 })
  let s := { s with chain := { s.chain with
    index := 0, enumerated := true, devices := devices, tideAligned := false } }
  let s := good.zipIdx.foldl (fun s e =>
    send s (.frame none (.assignIndex e.1.1 e.1.2.1 (Fin.ofNat 128 (e.2 + 1)) false))) s
  let s := out.foldl (fun s r => send s (.frame none (.assignIndex r.1 r.2.1 0 true))) s
  let s := send { s with chain := { s.chain with count := devices.length } } (.frame none (.chainCount devices.length))
  let s := countN s 6 0 0x84 5 out.length
  let depths := good.map fun r => r.1 + r.2.1
  let legs := legBase :: good.map fun r => r.2.2.1
  completeOk s c [(16, 1, devices.length), (17, 1, topology), (18, 1, out.length),
    (19, 1, depths.foldl Nat.max 0), (20, 2, legs.foldl Nat.max 0)]

/-- The enumeration in progress. -/
def enumCmd (s : State) : Option (Cmd × List Report) :=
  s.inflight.findSome? fun c =>
    match c.work with
    | .enum rs => if c.phase = .running then some (c, rs) else none
    | _ => none

def enumSettle (s : State) : State :=
  match enumCmd s with
  | some (c, rs) => if reportsWhole s rs then enumFinish s c rs else s
  | none => s

/-- CHAIN_ENUM: ENUM frames leave on the downstream tree ports; a standalone device is the one that is enumerated. -/
def performChainEnum (s : State) (c : Cmd) : State :=
  if !isPilot s then
    completeOk (if isFollower s then s else { s with chain := { s.chain with enumerated := true, count := 1 } }) c [(16, 1, 1)]
  else
    let topology := liveF s 7 0 0x89 0 0 2
    let s := { s with chain := { s.chain with
      topology := topology, x := 0, y := 0, legBound := legBase } }
    let s := setRoles s topology 0 none
    let s := send s (.frame none (.enum (Fin.ofNat 4 topology) 0 0 legBase))
    enumSettle (putCmd s { c with work := .enum [] })

/-- ENUM arrives on port `q`: the position of R351; a cross link's frame is not for this device. -/
def enumArrive (s : State) (q topology x y leg : Nat) : State :=
  if !isFollower s then s
  else
    let pos := if q = 3 then some (x + 1, y)
      else if q = 0 && topology = 2 && x = 0 then some (0, y + 1) else none
    match pos with
    | none => s
    | some (px, py) =>
      let leg := leg + hopTc (portAt s q).rate
      let s := { s with chain := { s.chain with
        x := px, y := py, upPort := q, topology := topology, legBound := leg, enumerated := false
        index := 0, tideAligned := false, devices := [], lost := false } }
      let s := setRoles s topology px (some q)
      let ps := downPorts s
      let s := if s.booted then send s (.frame none (.enum (Fin.ofNat 4 topology) px py leg)) else s
      send s (.frame (some q) (.enumReport px py leg (!s.booted) (ps.contains 1) (ps.contains 2) (BitVec.ofNat 64 (mcver s))
        (portAt s 1).rate (portAt s 2).rate))

/-- A report arrives from downstream: the pilot notes it, a follower passes it up. -/
def enumReported (s : State) (body : FrameBody) (r : Report) : State :=
  if isFollower s then send s (.frame (some s.chain.upPort) body)
  else match enumCmd s with
    | some (c, rs) => enumSettle (putCmd s { c with work := .enum (rs ++ [r]) })
    | none => s

/-- Every berth parks (an excluded device, R353; a device that leaves the chain, R30). -/
def parkAll (s : State) (cause wait : Nat) : State :=
  let bs := (List.range 64).filter fun b => (berthAt s b).run ≠ .off
  deviceParked (forAll s bs fun s b => parkOne s b cause wait bs)

/-- The pilot's assignment: this device's, or one to pass on and remember. -/
def indexAssigned (s : State) (x y i : Nat) (excluded : Bool) : State :=
  if !isFollower s then s
  else if x = s.chain.x && y = s.chain.y then
    if excluded then parkAll { s with chain := { s.chain with enumerated := false, index := 0 } } 8 800
    else { s with chain := { s.chain with
      index := i, enumerated := true, tideAligned := false
      devices := tabSet s.chain.devices i { x := x, y := y, leg := s.chain.legBound } } }
  else
    let s := send s (.frame none (.assignIndex x y (Fin.ofNat 128 i) excluded))
    if excluded then s
    else { s with chain := { s.chain with devices := tabSet s.chain.devices i { x := x, y := y } } }

/-! ### BCAST_LOAD (R324, R358) -/

/-- A DMA or hold source is 64-byte aligned, the destination lies in the pattern area. -/
def bcastOffsets (source dest len : Nat) : List Nat :=
  offendIf (source % 64 ≠ 0 || (segFromHold source &&
    (bitsOf source 36 27 ≠ 0 || holdSize < segHoldAddr source + len))) 0 ++
  offendIf (dest % 64 ≠ 0 || !rangePattern dest len) 8 ++ offendIf (len % 64 ≠ 0 || len < 64) 16

/-- F3 frames carry at most 512 bytes each (R355); `n` bounds their number. -/
def bcastFrames (s : State) (addr n : Nat) (bytes : List Byte) : State :=
  match n with
  | 0 => s
  | n + 1 =>
    let rest := bytes.drop 512
    let s := send s (.frame none (.broadcast addr (bytes.take 512) (rest.isEmpty)))
    if rest.isEmpty then s else bcastFrames s (addr + 512) n rest

/-- Every device has answered, or has left the chain. -/
def bcastSettle (s : State) (c : Cmd) : State :=
  match c.work with
  | .bcast _ crcs =>
    let fs := followers s
    if fs.all fun i => crcs.any fun e => e.1 = i then
      let own := ((crcs.find? fun e => e.1 = s.chain.index).map (·.2.1)).getD 0
      let good (i : Nat) : Bool := crcs.any fun e => e.1 = i && e.2.2 && e.2.1 = own
      let all := s.chain.index :: c.missing
      match (all.filter fun i => !good i).min? with
      | some i => completeV s { c with missing := [] } (hwFault 0x43 i)
      | none => completeOk s { c with missing := [] } [(16, 4, all.length), (20, 4, own.toNat)]
    else s
  | _ => s

/-- The pilot has read the source: its own hold is written and the frames go out. -/
def bcastGo (s : State) (c : Cmd) (bytes : List Byte) : State :=
  match c.op with
  | .bcastLoad _ dest len =>
    let a := dest.toNat
    let down := (stackIsDown s 0 && touches a len.toNat 0) || (stackIsDown s 1 && touches a len.toNat 1)
    let s := if down then s else holdWrite s a bytes
    let crc := crc32 bytes
    let s := { s with hold := { s.hold with bcastCrc := crc } }
    let s := if down then s else count s 6 0 0x78 4
    let s := bcastFrames s a bytes.length bytes
    let c := { c with work := .bcast 1 [(s.chain.index, crc, !down)] }
    bcastSettle (putCmd s c) c
  | _ => s

/-- BCAST_LOAD. `missing` lists the devices to be loaded besides the pilot. -/
def performBcastLoad (s : State) (c : Cmd) (source len : Nat) : State :=
  let c := { c with missing := followers s, work := .bcast 0 [] }
  let s := putCmd s c
  if segFromHold source then
    match holdRead s (segHoldAddr source) len with
    | (s, some v) => completeV s { c with missing := [] } v
    | (s, none) => bcastGo s c (memReadBytes s.hold.mem (segHoldAddr source) len)
  else s

/-- The load in progress. -/
def bcastCmd (s : State) : Option Cmd :=
  s.inflight.find? fun c => c.phase = .running &&
    (match c.work with
     | .bcast _ _ => true
     | _ => false)

/-- A device's CRC arrives: the pilot notes it, a follower passes it up. -/
def bcastCrcArrive (s : State) (i : Nat) (crc : Word) (wrote : Bool) : State :=
  if isFollower s then
    send s (.frame (some s.chain.upPort) (.bcastCrc (Fin.ofNat 128 i) crc wrote))
  else match bcastCmd s with
    | some c =>
      match c.work with
      | .bcast n crcs =>
        let c := { c with work := .bcast n (crcs ++ [(i, crc, wrote)]) }
        bcastSettle (putCmd s c) c
      | _ => s
    | none => s

/-- A broadcast frame arrives at a follower (R358): written to its hold, copied downstream; the last
one returns the CRC over the bytes written. -/
def bcastArrive (s : State) (a : Nat) (bytes : List Byte) (last : Bool) : State :=
  let s := send s (.frame none (.broadcast a bytes last))
  let down := (stackIsDown s 0 && touches a bytes.length 0) || (stackIsDown s 1 && touches a bytes.length 1)
  let s := if down then s else holdWrite s a bytes
  let run := bytes.foldl crcByte s.hold.bcastRun
  let bad := s.hold.bcastBad || down
  if last then
    let crc : Word := BitVec.ofNat 32 (Nat.xor run 0xFFFFFFFF)
    let s := { s with hold := { s.hold with bcastCrc := crc, bcastRun := 0xFFFFFFFF, bcastBad := false } }
    let s := if bad then s else count s 6 0 0x78 4
    send s (.frame (some s.chain.upPort) (.bcastCrc (Fin.ofNat 128 s.chain.index) crc (!bad)))
  else { s with hold := { s.hold with bcastRun := run, bcastBad := bad } }

/-! ### CHAIN_STATUS, LANE_TEST, LANE_BITSLIP -/

/-- One of this device's tree ports is DEGRADED. -/
def treeDegraded (s : State) : Bool :=
  (List.range 4).any fun p => ((portAt s p).role = 1 || (portAt s p).role = 2) && (portAt s p).state = 3

/-- CHAIN_STATUS (R373). -/
def performChainStatus (s : State) (c : Cmd) : State :=
  let lanes := bitWord 48 0 (laneActive s)
  if c.hdr.scope = 7 then
    completeOk s c [(16, 8, lanes), (24, 1, 1 + (followers s).length), (25, 1, b01 (treeDegraded s))]
  else completeOk s c [(16, 8, lanes)]

/-- Parameter bytes of LANE_TEST that break R348; the conditions on the port are reported at the lane. -/
def laneTestOffsets (s : State) (lane : Nat) (loopback : Bool) (time : Nat) : List Nat :=
  let p := portOfLane lane
  offendIf (47 < lane || activeLanes s p = [lane] || (!loopback && (portAt s p).state ≠ 2)) 0 ++
    offendIf (time = 0 || 10000000 < time) 4

/-- LANE_TEST: the lane leaves its port for the test. -/
def performLaneTest (s : State) (c : Cmd) (lane : Nat) : State :=
  laneLeave (putCmd s { c with work := .laneTest lane }) lane .test 8

def laneBitslipOffsets (lane count : Nat) : List Nat := offendIf (47 < lane) 0 ++ offendIf (66 < count) 1

/-- LANE_BITSLIP is legal for a lane in FAILED or SLIP (R347). -/
def slipLegal (s : State) (lane : Nat) : Bool :=
  (laneAt s lane).state = .failed || (laneAt s lane).state = .slip

/-- LANE_BITSLIP. -/
def performLaneBitslip (s : State) (c : Cmd) (lane count : Nat) : State :=
  if count = 0 then
    completeOk (modLane s lane fun x => { x with state := .bitLock, slipMode := false }) c []
  else
    putCmd (modLane s lane fun x => { x with
      state := .slip, slipMode := true, slips := (x.slips + count) % 66 })
      { c with work := .bitslip lane count }

/-! ### Loss of a link (R30, R367) -/

/-- The enumerated devices of a subtree, by its root. -/
def subtree (s : State) (root : Nat) : List Nat :=
  match tabFind s.chain.devices root with
  | none => []
  | some r => (followers s).filter fun i =>
    match tabFind s.chain.devices i with
    | some d => onPath r.x r.y d.x d.y
    | none => false

/-- A command waits for this device, or is addressed to it. -/
def cmdNames (s : State) (i : Nat) (c : Cmd) : Bool :=
  (forwarded s c && c.hdr.chain.toNat = i) ||
    (c.missing.contains i &&
      (match c.work with
       | .bcast _ _ => false
       | _ => true))

/-- One lost device's part in the commands in flight. -/
def lostReplies (s : State) (i : Nat) : State :=
  (cmdsWhere s (cmdNames s i)).foldl (fun s c =>
    if forwarded s c then
      finish s { c with missing := [] } (hwFault 0x50 i).1 (hwFault 0x50 i).2 []
    else partReply s c i (BitVec.ofNat 16 stHwFault) (hwFault 0x50 i).2) s

/-- The pilot handles the loss of a subtree: its devices leave the chain, FollowerLost is counted and
vector 0 raised, and commands to them fail. -/
def chainLost (s : State) (root : Nat) : State :=
  let gone := subtree s root
  if gone = [] then s
  else
    let s := { s with chain := { s.chain with
      devices := s.chain.devices.map fun d =>
        if gone.contains d.1 then (d.1, { d.2 with lost := true }) else d } }
    let s := forAll (causeEvent s 4) gone lostReplies
    let s := match bcastCmd s with
      | some c => bcastSettle s c
      | none => s
    alignSettle s

/-- A lane starts TRAIN at its port's rate, with the preset codes; its transmit parameters take force (R340, R371). -/
def laneTrain (s : State) (l cause : Nat) : State :=
  let w := live s (pid 6 0 0x81 l)
  let rate := (portAt s (portOfLane l)).rate
  modLane s l fun x => { x with
    state := .train, cause := cause, rate := rate, tx := w, preCode := fld w 0 5, postCode := fld w 5 5
    preStat := 0, postStat := 0, preReq := 0, postReq := 0, rxReady := false, refGood := false, retried := false
    markerSeen := false
    slipMode := false, frozen := false, bips := [] }

/-- A port's link is down: its lanes retrain at the port's rate (R346), its frames are lost with it, and but for the
upstream port it has no place in the tree any more (DEDUCED, log 54). A parent reports the lost subtree, and an alignment
does not wait for the link. -/
def portDown (s : State) (p : Nat) : State :=
  let role := (portAt s p).role
  let root := childIndex s p
  let s := count s 6 0 0x83 (4 * p + 3)
  let s := forAll s (activeLanes s p) fun s l => laneTrain (laneLeave s l .train 7) l 7
  let s := modPort s p fun x => { x with
    state := 0, downPend := false, replay := [], replays := 0, txSeq := 0, rxSeq := 0, credits := [], queue := []
    lastF2 := false, slot := 0, capSent := false, role := if x.role = 1 then 1 else 0 }
  let s := { s with chain := { s.chain with grants := s.chain.grants.filter fun g => g.1 ≠ p } }
  match role, root with
  | 2, some i => if isFollower s then alignSettle (send s (.signal (some s.chain.upPort) (.lost i))) else chainLost s i
  | _, _ => alignSettle s

end Sys2Proof.Machine
end

