-- ==== Sys2Proof/Machine/ClockOps.lean ====
section
/-! DEFINITION. Clocks and references: the commands REF_SELECT, CLOCK_MODE and FREQ_MEASURE (R471,
R472, R482), the loss of the reference (R475 to R477, R484), and the rows REF_LOSS_DECLARED to
DOMAIN_WAKE and REF_PRESENT_CHANGE. -/

namespace Sys2Proof.Machine

/-! ### Loss of the selected reference (R475 to R477) -/

def modClk (s : State) (f : Clk → Clk) : State := { s with clk := f s.clk }

def refLossVerdict : Verdict := hwFault 0x90 0

/-- RefLossAction of a berth's controller (R291). -/
def refLossOff (s : State) (b : Nat) : Bool := liveF s 3 (leaderOf s b) 0x6D 0 21 1 = 1

/-- Commands that end at a reference loss (R484, R593); calibration commands follow their run. -/
def refTouched (s : State) (c : Cmd) : Bool :=
  match c.op with
  | .start _ _ _ | .arm _ _ _ | .unpark _ | .jump _ | .tideAlign | .chainEnum => true
  | .calRun _ _ | .relieve | .unrelieve =>
    (match c.work with
     | .cal _ | .relieve _ _ | .unrelieve _ => false
     | _ => true)
  | .laneTest _ _ _ _ _ _ _ | .laneBitslip _ _ => isFollower s
  | .spRamp _ _ | .spSequence _ =>
    (match c.work with
     | .none => (actsOn s c).any (refLossOff s)
     | _ => false)
  | _ => false

/-- Completing routines that a reference loss ends all the same (R484, R593). -/
def refForced (s : State) (c : Cmd) : Bool :=
  match c.op with
  | .tideAlign | .chainEnum => c.phase = .running
  | .laneTest _ _ _ _ _ _ _ | .laneBitslip _ _ => c.phase = .running && isFollower s
  | _ => false

/-- A chain bake that is pending at the declaration of its pilot, before GO (R484). -/
def refLossBake (s : State) : State :=
  match s.par.pendBake with
  | some p =>
    if p.chain && !p.go && p.tag.isSome then
      bakeFaultEnd (send s (.signal none (.bakeCancel (i36Of p.instant)))) p refLossVerdict
    else s
  | none => s

/-- A gate of FREQ_MEASURE in progress has seen RefState not LOCKED (R472). -/
def freqUnlock (s : State) : State :=
  { s with inflight := s.inflight.map fun c =>
      match c.work with
      | .freq t fl => { c with work := .freq t (Nat.lor fl 1) }
      | _ => c }

/-- The PLL coasts: the end of CoastMin and the 10 ms limit start to run. -/
def coastStart (s : State) : State :=
  modClk (freqUnlock s) fun x => { x with
    refState := .coast, pllLock := false, refBack := false, lossTide := s.tide, coastDone := false
    coastEnd := some (s.tide + usTc (liveF s 6 0 0xB0 1 16 10))
    coastLong := some (s.tide + usTc 10000), fallbackBy := none }

/-- Calibration runs end at a reference loss (R484). -/
def refLossCal (s : State) (b : Nat) : State := calStop s b refLossVerdict

/-- A REF_SELECT whose PLL has moved to the new reference when that fails (R484). -/
def refSelectFail (s : State) : State :=
  completeAll s (fun c => c.phase = .running && c.work = .refSelect) (hwFault 0x91 0)

/-- The transitions of R476: halts, disarms, the orderly park of every berth. -/
def refLossPark (s : State) : State :=
  let bs := (List.range 64).filter fun b => (berthAt s b).run ≠ .off
  let off := bs.filter (refLossOff s)
  let s := forAll s (List.range 16) fun s q =>
    if (quayAt s q).running then haltRequest s q 5 else if (quayAt s q).armed then disarm s q else s
  let s := forAll s bs fun s b => parkOne s b 5 800 (withLeaders s off)
  let idle := bs.all fun b => !parking s b
  settle (offAdvance (if idle then offOrderly s off else s))

/-- The whole of a declaration. -/
def refLoss (s : State) : State :=
  let s := refSelectFail s
  let s := causeEvent s 3
  let s := coastStart s
  let s := cancelAll s (refForced s) refLossVerdict
  let s := interrupt s (refTouched s) refLossVerdict
  let s := forAll s (List.range 64) fun s b => if refLossOff s b then rampCut s b refLossVerdict else s
  let s := forAll s (List.range 64) refLossCal
  let s := refLossBake s
  let s := forAll s (List.range 64) fun s b => tmuCut s b true
  let s := ovenLost s
  let s := if isFollower s then { s with chain := { s.chain with lost := true } } else s
  let s := if isPilot s then
      let s := send s (.frame none .lossPark)
      match s.par.pendBake with
      | some p => if p.chain then s else chainUnalign s
      | none => chainUnalign s
    else s
  deviceParked (refLossPark s)

/-- REF_LOSS_DECLARED: only a reference that the PLL runs on, or moves to, can be lost; a loss during a
deferred switchover starts the coast again. -/
def execRefLossDeclared (s : State) : Host.Outcome State Fault Refusal :=
  .next (if s.clk.refState = .locked ∨ s.clk.refState = .relock ∨
      (s.clk.refState = .coast ∧ s.clk.unsettled) then refLoss s else s)

/-! ### Fallback and recovery (R478 to R481) -/

/-- The switchover decision (R479). -/
def switchover (s : State) : State :=
  if s.clk.refState = .coast && s.clk.coastDone && s.clk.fallbackBy.isNone then
    if s.clk.hkSettled && s.clk.trimLock then
      modClk s fun x => { x with fallbackBy := some (s.tide + usTc 2000) }
    else if s.clk.unsettled then s
    else count (modClk s fun x => { x with unsettled := true }) 6 0 0xB1 3
  else s

/-- COAST_MIN_EXPIRY. -/
def execCoastMinExpiry (s : State) : Host.Outcome State Fault Refusal :=
  .next (match s.clk.coastEnd with
  | some t =>
    if s.clk.refState = .coast && !s.clk.coastDone then
      switchover (modClk (reach s t) fun x => { x with coastDone := true, coastEnd := none })
    else s
  | none => s)

/-- The chain ports and the hold stacks return from a long coast (R464). -/
def coastReturn (s : State) : State :=
  { (modClk s fun x => { x with coastEnd := none, coastLong := none, coastDone := false
                                fallbackBy := none, unsettled := false, pllLock := true }) with
    hold := { s.hold with selfRefresh := 0 } }

/-- COAST_LONG_TIMEOUT (R464): the chain ports go to electrical idle, the stacks into self-refresh. -/
def execCoastLongTimeout (s : State) : Host.Outcome State Fault Refusal :=
  .next (match s.clk.coastLong with
  | some t =>
    if s.clk.refState = .coast then
      let s := modClk (reach s t) fun x => { x with coastLong := none }
      let s := forAll s (List.range 4) fun s p =>
        if 2 ≤ (portAt s p).state then portDown s p else s
      let s := forAll s (List.range 48) fun s l => modLane s l fun x => { x with state := .off }
      { s with hold := { s.hold with selfRefresh := 3 } }
    else s
  | none => s)

/-- FALLBACK_LOCKED (R478). -/
def execFallbackLocked (s : State) : Host.Outcome State Fault Refusal :=
  .next (if s.clk.refState = .coast && s.clk.fallbackBy.isSome then
    count (modClk (coastReturn s) fun x => { x with refState := .fallback }) 6 0 0xB1 8
  else s)

/-- FALLBACK_TIMEOUT (R481). -/
def execFallbackTimeout (s : State) : Host.Outcome State Fault Refusal :=
  .next (match s.clk.fallbackBy with
  | some t =>
    if s.clk.refState = .coast then
      deviceFault (modClk (reach s t) fun x => { x with fallbackBy := none }) 0x92 0
    else s
  | none => s)

def setPresent (x : Clk) (ref : Nat) (present : Bool) : Clk :=
  { x with refPresent := Nat.lor (Nat.land x.refPresent (Nat.xor 7 (2 ^ ref))) (flag present ref) }

/-- REF_QUALIFIED (R480): with AutoRelock the PLL moves back to the lost reference. -/
def execRefQualified (s : State) : Host.Outcome State Fault Refusal :=
  .next (if s.clk.refState = .coast ∨ s.clk.refState = .fallback then
    let s := modClk s fun x => { setPresent x x.refSel true with refBack := true }
    if liveF s 6 0 0xB0 0 1 1 = 1 then
      modClk s fun x => { x with
        refState := .relock, coastEnd := none, coastDone := false, fallbackBy := none, pllLock := false }
    else s
  else s)

def trimSourceOf (s : State) (ref : Nat) : Nat := if isFollower s then 3 else ref + 1

/-- A REF_SELECT reaches lock: within 1.5 ms of its start the new reference is in use, later the
previous one is. -/
def refSelectDone (s : State) (c : Cmd) : State :=
  match c.op with
  | .refSelect r =>
    let s := modClk (coastReturn s) fun x => { x with refState := .locked }
    if s.tide ≤ c.started + usTc 1500 then
      let s := modClk s fun x => { x with refSel := r.toNat, trimSource := trimSourceOf s r.toNat }
      let s := if r.toNat = 1 then s else ovenLost s
      let s := if c.hdr.scope = 7 then chainUnalign s else s
      completeOk s c []
    else completeV s c (hwFault 0x91 0)
  | _ => s

/-- RELOCK_DONE (R480, R482). -/
def execRelockDone (s : State) : Host.Outcome State Fault Refusal :=
  .next (if s.clk.refState = .relock then
    match s.inflight.find? fun c => c.phase = .running && c.work = .refSelect with
    | some c => refSelectDone s c
    | none => count (modClk (coastReturn s) fun x => { x with refState := .locked }) 6 0 0xB1 4
  else s)

/-! ### Start-up and trim (R463, R465 to R467) -/

/-- HK_SETTLED. -/
def execHkSettled (s : State) : Host.Outcome State Fault Refusal :=
  .next (if s.boot.aonOn && !s.clk.hkSettled then switchover (modClk s fun x => { x with hkSettled := true }) else s)

/-- PLL_LOCK: the tide starts, RefState becomes LOCKED. -/
def execPllLock (s : State) : Host.Outcome State Fault Refusal :=
  .next (if s.boot.refQualified && s.clk.refState = .none && refcGood s then
    { (modClk s fun x => { x with
        refState := .locked, pllLock := true, trimSource := trimSourceOf s x.refSel }) with tideOn := true }
  else s)

/-- The nearest multiple of `n`, half up. -/
def nearest (v : Int) (n : Int) : Int := (2 * v + n) / (2 * n)

/-- The trim source is present: the selected reference, or a follower's markers, from lock on, and after a loss once it
has qualified again (R466, R480). -/
def trimRuns (s : State) : Bool :=
  s.clk.refState = .locked || s.clk.refState = .relock ||
    ((s.clk.refState = .coast || s.clk.refState = .fallback) && s.clk.refBack)

/-- TRIM_MEASUREMENT: the trim code moves by the error, against it (DEDUCED, log 31); a change of TrimLock makes the
decision of R479 again. -/
def execTrimMeasurement (ppm : Int) (s : State) : Host.Outcome State Fault Refusal :=
  .next (if trimRuns s then
    let locked := s.clk.trimLock
    let far := decide (1000 < ppm.natAbs)
    let near := decide (ppm.natAbs ≤ 100)
    let s := if far && s.clk.trimLock then count s 6 0 0xB1 5 else s
    let s := modClk s fun x =>
      let good := if near then x.trimGood + 1 else 0
      { x with
        trimCode := max (-2000) (min 2000 (x.trimCode - nearest ppm 25)), trimError := ppm
        trimGood := good, trimLock := if far then false else x.trimLock || decide (4 ≤ good) }
    if s.clk.trimLock = locked then s else switchover s
  else s)

/-- REF_PRESENT_CHANGE (R474): a non-selected reference starts or stops; without REFA the host link has
no clock (R484, R526, R540). Before the PLL first locks, the selected one stops without a declaration, and Q restarts
(R568). -/
def execRefPresentChange (ref : Nat) (present : Bool) (s : State) : Host.Outcome State Fault Refusal :=
  .next (let s := modClk s fun x => setPresent x ref present
    let s := if ref = s.clk.refSel && !present && s.clk.refState = .none then
        { s with boot := { s.boot with refQualified := false } } else s
    if ref = 0 && !present then hostLinkLost s else s)

/-! ### Domains (R469 to R471) -/

/-- A command that keeps a quay's sequencer awake is in progress. -/
def quayCommand (s : State) (q : Nat) : Bool :=
  s.inflight.any fun c => c.phase = .running &&
    (match c.op with
     | .segLoad _ _ _ _ | .arm _ _ _ | .jump _ => (quaysIn c.hdr.scope.toNat c.hdr.inst.toNat).contains q
     | _ => false)

def sleepCond (s : State) (k i : Nat) : Bool :=
  match k with
  | 0 =>
    let x := berthAt s i
    x.run ≠ .armed && x.run ≠ .running && x.acq.state = 0 && (x.tmu.state = 0 || x.tmu.state = 3) &&
      !substMoving s i && x.cal.step = 0
  | 1 =>
    let r := quayRun s i
    (r = 2 || r = 3 || r = 6) && !quayCommand s i
  | 3 => (List.range 16).all fun q =>
      !(((quayAt s q).armed || (quayAt s q).running) && streamsStack s q (i / 32))
  | 6 => s.host.inL1 || pcieOff s
  | 7 => ctrlOff s i
  | 8 => if i < 8 then (tpAt s i).run.isNone && (tpAt s i).queue = []
    else i = 8 && (s.booted || strap s (fun x => b01 x.bootSrc) = 1 || s.boot.flashRead = 31 ||
      (natBit s.boot.flashRead 0 && !s.boot.flashFound))
  | _ => false

def deepCond (s : State) (k i : Nat) : Bool :=
  match k with
  | 0 | 7 => (berthAt s i).run = .off
  | 1 => (berthsOfQuay i).all fun b => (berthAt s b).run = .off
  | 3 => sleepCond s 3 i
  | 8 => i = 8 && s.booted
  | _ => false

def setAsleep (s : State) (k i v : Nat) : State :=
  modClk s fun x => { x with asleep := tabSet x.asleep (domainKey k i) v }

/-- Kinds 2, 4 and 5, JTAG and housekeeping never sleep; kind 6 follows L1 alone. -/
def mayGate (s : State) (k i : Nat) : Bool := i < domainCount k && runEn s k i && (k = 6 || sleepEn s k i)

/-- DOMAIN_SLEEP. -/
def execDomainSleep (k i : Nat) (deep : Bool) (s : State) : Host.Outcome State Fault Refusal :=
  .next (if mayGate s k i then
    if deep then (if deepEn s k i && deepCond s k i then setAsleep s k i 2 else s)
    else if sleepCond s k i && sleepState s k i = 0 then setAsleep s k i 1
    else s
  else s)

/-- DOMAIN_WAKE: the domain's condition has ended, or its enables no longer let it gate. -/
def execDomainWake (k i : Nat) (s : State) : Host.Outcome State Fault Refusal :=
  .next (if i < domainCount k && (!mayGate s k i || !sleepCond s k i) then setAsleep s k i 0 else s)

/-! ### CLOCK_MODE -/

/-- Domains whose RunEn may be 0 (R471). -/
def stoppable (k i : Nat) : Bool := k = 4 || k = 5 || (k = 6 && i < 16) || (k = 8 && (i < 8 || i = 9))

def clockModeOffsets (mask kind : Nat) (run : Bool) : List Nat :=
  if 8 < kind then [9]
  else
    let named := (List.range 64).filter (natBit mask)
    offendIf (named.any fun i => domainCount kind ≤ i) 0 ++
      offendIf (!run && named.any fun i => i < domainCount kind && !stoppable kind i) 8

/-- A domain that RunEn = 0 may not stop now. -/
def domainUsed (s : State) (k i : Nat) : Bool :=
  match k with
  | 4 | 5 => (laneAt s i).state ≠ .off && (laneAt s i).state ≠ .failed
  | 6 => i < s.host.width
  | 8 => i < 8 && (tpAt s i).run.isSome
  | _ => false

def clockModeConflict (s : State) (mask kind : Nat) (run : Bool) : Bool :=
  !run && ((List.range 64).filter (natBit mask)).any (domainUsed s kind)

/-- CLOCK_MODE (R471). -/
def performClockMode (s : State) (c : Cmd) (mask kind : Nat) (run sleep deep : Bool) : State :=
  let s := forAll s ((List.range 64).filter (natBit mask)) fun s i =>
    let k := domainKey kind i
    modClk s fun x => { x with
      runOff := tabSet x.runOff k (!run), sleepOff := tabSet x.sleepOff k (!sleep)
      deepFlip := tabSet x.deepFlip k (xor deep (deepDefault kind i)) }
  completeOk s c []

/-! ### FREQ_MEASURE (R472) -/

def freqOffsets (inst kind gate : Nat) : List Nat :=
  offendIf (9 < kind || (if kind = 9 then 5 < inst else domainCount kind ≤ inst)) 0 ++
    offendIf (gate = 0 || 10000000 < gate) 4

/-- The domain has no clock to count. -/
def freqStopped (s : State) (k i : Nat) : Bool := k < 9 && (!runEn s k i || sleepState s k i = 2)

/-- The reply at the end of a gate: the frequency is what the counter finds (free, log 3); a domain that was stopped at
either end of the gate counts 0. -/
def freqReply (s : State) (c : Cmd) (inst kind flags : Nat) : State :=
  let flags := Nat.lor flags (flag (freqStopped s kind inst) 1)
  let f := (Config.freeWord s.freeCtr).toNat + 2 ^ 32 * (Config.freeWord (s.freeCtr + 1)).toNat
  completeOk { s with freeCtr := s.freeCtr + 2 } c [(16, 8, if natBit flags 1 then 0 else f), (24, 1, flags)]

/-- FREQ_MEASURE: the gate starts; timed by the housekeeping oscillator it has no tide to end at, and the command
completes at once (log 32). -/
def performFreqMeasure (s : State) (c : Cmd) (inst kind gate : Nat) : State :=
  let flags := flag (decide (s.clk.refState ≠ .locked)) 0 + flag (freqStopped s kind inst) 1 + flag (!s.tideOn) 2
  if s.tideOn then putCmd s { c with work := .freq (tideSum s.tide (usTc gate)) flags } else freqReply s c inst kind flags

/-- The gates that have reached their end (log 32). -/
def freqEnd (s : State) : State :=
  (cmdsWhere s fun c => match c.work with
    | .freq t _ => decide (t ≤ s.tide)
    | _ => false).foldl (fun s c =>
      match c.op, c.work with
      | .freqMeasure inst kind _, .freq _ flags => freqReply s c inst.toNat kind.toNat flags
      | _, _ => s) s

/-! ### REF_SELECT (R482) -/

/-- The reference is one of this device's kind (R461). -/
def refKind (s : State) (r : Nat) : Bool := if isFollower s then r = 2 else r < 2

/-- The new reference shows activity and, under TrimLock, lies within RefTol (free, log 3). -/
def refUsable (s : State) (r : Nat) : Bool :=
  natBit s.clk.refPresent r && (!s.clk.trimLock || bit (Config.freeWord s.freeCtr) 0)

/-- The device's own part of a REF_SELECT; not while a quay is ARMED or RUNNING, which may have become so since its
acceptance (R17, R482). -/
def refSelectGo (s : State) (c : Cmd) (r : Nat) : State :=
  if s.clk.refState = .locked ∧ s.clk.refSel = r then completeOk s c []
  else if (List.range 16).any (quayBusy s) then completeV s c (conflict s 6 0)
  else if !refUsable s r then completeV { s with freeCtr := s.freeCtr + 1 } c (hwFault 0x91 0)
  else
    let s := modClk { (freqUnlock (ovenLost s)) with freeCtr := s.freeCtr + 1 } fun x => { x with
      refState := .relock, pllLock := false, fallbackBy := none, coastEnd := none, coastDone := false }
    putCmd s { c with work := .refSelect, started := s.tide }

/-- REF_SELECT: at scope 7 the followers are asked first whether they are PARKED or READY; a follower
has nothing to do. -/
def performRefSelect (s : State) (c : Cmd) (r : Nat) : State :=
  if c.viaChain then completeOk s c []
  else if c.hdr.scope = 7 && followers s ≠ [] then
    let x := forwardAll s c
    putCmd x.1 { x.2 with work := .forward x.2.missing }
  else refSelectGo s c r

/-- Every follower has answered a REF_SELECT at scope 7. -/
def refSelectResume (s : State) : State :=
  match s.inflight.find? fun c => c.phase = .running && c.missing = [] && c.own.isNone &&
      (match c.op, c.work with
       | .refSelect _, .forward _ => c.hdr.scope = 7
       | _, _ => false) with
  | none => s
  | some c =>
    match c.replies.find? fun r => r.2.1 ≠ 0 with
    | some r => complete s { c with replies := [] } r.2.1.toNat r.2.2 []
    | none =>
      match c.op with
      | .refSelect r => refSelectGo s { c with replies := [] } r.toNat
      | _ => s

end Sys2Proof.Machine
end

