-- ==== Sys2Proof/Machine/Thermal.lean ====
section
/-! DEFINITION. Thermal supervision: samples, sensor health, levels and stops (R402 to R423), the
commands THERM_READ and THERM_CLEAR, a hold stack that goes down (R319), and the rows THERMAL_SAMPLE,
FOLLOWER_THERMAL_REPORT and HOLD_STACK_DOWN. -/

namespace Sys2Proof.Machine

/-! ### Sensors (R404, R405). Readings are in 1/256 °C, rates in 0.25 °C/s -/

/-- The rate over 64 samples (16 ms), rounded toward zero; 0 before the 65th sample. -/
def rateOf (x : Sensor) : Int :=
  match x.reading, x.hist[63]? with
  | some t, some o => Int.tdiv ((t - o) * 125) 128
  | _, _ => 0

/-- What the diagnostic and range checks say of a sample: 0, or the BadKind. -/
def sampleKind (i : SensorIn) : Nat :=
  match i.diag with
  | .opened => 1
  | .shorted => 2
  | .ok => if i.reading < -10240 ∨ 38400 < i.reading then 4 else 0

/-- A sensor that takes part in its zone (R404). -/
def healthy (s : State) (i : Nat) : Bool :=
  (sensorAt s i).badKind = 0 && (sensorAt s i).reading.isSome && !ignored s i

/-- The mean of a zone's other healthy sensors, in 1/65536 °C. -/
def othersMean (s : State) (i : Nat) : Option Int :=
  let ts := ((sensorsOf (zoneOf i)).filter fun j => j ≠ i && healthy s j).filterMap fun j =>
    (sensorAt s j).reading
  if ts = [] then none else some (ts.sum * 256 / (ts.length : Int))

/-- A sample enters its sensor; `hist` holds the earlier readings. -/
def takeSample (s : State) (i : SensorIn) : State :=
  let x := sensorAt s i.sensor.val
  let k := sampleKind i
  setSensor s i.sensor.val { x with
    reading := some i.reading
    hist := (match x.reading with
      | some t => t :: x.hist
      | none => x.hist).take 64
    stuck := if x.reading = some i.reading then x.stuck + 1 else 0
    good := if k = 0 then x.good + 1 else 0
    badKind := if x.badKind = 0 && !ignored s i.sensor.val then k else x.badKind }

/-- The stuck test of R405, once every sample of the instant is in: the mean of the others is kept from the last change of
the code, or from the first sample since on which the zone had another healthy sensor. -/
def stuckTest (s : State) (i : Nat) : State :=
  let x := sensorAt s i
  match othersMean s i, x.stuckMean with
  | some m, some m0 =>
    if x.stuck = 0 then setSensor s i { x with stuckMean := some m }
    else if 4096 ≤ x.stuck && 65536 ≤ (m - m0).natAbs && x.badKind = 0 && !ignored s i then
      setSensor s i { x with badKind := 3 }
    else s
  | some m, none => setSensor s i { x with stuckMean := some m }
  | none, _ => if x.stuck = 0 then setSensor s i { x with stuckMean := none } else s

/-! ### Zones (R404, R406, R407) -/

def largest (xs : List Int) : Option Int :=
  match xs with
  | [] => none
  | x :: rest => some (rest.foldl max x)

def zoneTemp (s : State) (z : Nat) : Option Int :=
  largest (((sensorsOf z).filter (healthy s)).filterMap fun i => (sensorAt s i).reading)

def zoneRate (s : State) (z : Nat) : Int :=
  (largest (((sensorsOf z).filter (healthy s)).map fun i => rateOf (sensorAt s i))).getD 0

/-- A word of family 0xA0. -/
def zoneF (s : State) (z w lo len : Nat) : Nat := liveF s 6 0 0xA0 (8 * z + w) lo len

/-- A ladder set point or Limit in 1/256 °C. -/
def zoneX (s : State) (z w : Nat) : Int := 16 * signed16 (zoneF s z w 0 16)

def zoneHyst (s : State) (z w : Nat) : Int := 16 * (zoneF s z w 16 8 : Int)

/-- The slope set point of level n (0 to 2). -/
def slopeX (s : State) (z n : Nat) : Int :=
  if n = 2 then (zoneF s z 6 0 16 : Int) else (zoneF s z 5 (16 * n) 16 : Int)

/-- A level with hysteresis: it sets at `x`, clears below `x − h`, and keeps its state between. -/
def levelOn (on : Bool) (v x h : Int) : Bool := if on then decide (x - h ≤ v) else decide (x ≤ v)

def ladderOn (s : State) (z n : Nat) (fresh on : Bool) (t : Option Int) : Bool :=
  match t with
  | none => on && !fresh
  | some t => levelOn (on || fresh) t (zoneX s z (n + 1)) (zoneHyst s z (n + 1))

def slopeOn (s : State) (z n : Nat) (fresh on : Bool) (r : Int) : Bool :=
  levelOn (on && !fresh) r (slopeX s z n) (zoneF s z 6 16 16)

/-- The levels of a zone after a sample: ladder in bits 0 to 2, slope in bits 3 to 5, as its mode
selects. -/
def levelsOf (s : State) (z : Nat) (fresh : Bool) (old : Nat) (t : Option Int) (r : Int) : Nat :=
  let mode := zoneF s z 0 0 2
  ((List.range 3).map fun n =>
    flag (mode ≠ 1 && ladderOn s z n fresh (natBit old n) t) n +
    flag (mode ≠ 0 && slopeOn s z n fresh (natBit old (3 + n)) r) (3 + n)).sum

/-- A bad sensor that is not ignored. -/
def badHolds (s : State) (i : Nat) : Bool := (sensorAt s i).badKind ≠ 0 && !ignored s i

def overLimit (s : State) (z : Nat) (t : Option Int) : Bool :=
  match t with
  | some t => decide (zoneX s z 4 ≤ t)
  | none => false

/-- The causes of a stop condition: bit 0 ladder or Limit, bit 1 slope, bit 2 sensor (R426). -/
def stopCauses (s : State) (z levels : Nat) (t : Option Int) : Nat :=
  flag (natBit levels 2 || overLimit s z t) 0 + flag (natBit levels 5) 1 +
    flag ((sensorsOf z).any (badHolds s)) 2

/-- The state that levels give without a stop (R408). -/
def levelState (levels : Nat) : Nat :=
  if natBit levels 1 || natBit levels 4 then 2 else if natBit levels 0 || natBit levels 3 then 1 else 0

/-- The lowest sensor that sets a stop condition. -/
def firstStopSensor (s : State) (z levels : Nat) (fresh : Bool) : Nat :=
  let sets (i : Nat) : Bool :=
    let x := sensorAt s i
    badHolds s i || (healthy s i &&
      (match x.reading with
       | some t => (natBit levels 2 &&
           decide (zoneX s z 3 - (if fresh then zoneHyst s z 3 else 0) ≤ t)) || decide (zoneX s z 4 ≤ t)
       | none => false)) ||
      (healthy s i && natBit levels 5 && decide (slopeX s z 2 ≤ rateOf x))
  (((sensorsOf z).find? sets).getD ((sensorsOf z).headD 0))

/-- The time to limit (R413): none where it is infinite, else its numerator and denominator in µs. -/
def ttlOf (s : State) (z causes : Nat) (t : Option Int) (r : Int) : Option (Int × Int) :=
  match t with
  | none => none
  | some t => if r ≤ 0 ∨ causes = 4 then none else some ((zoneX s z 4 - t) * 15625, r)

def ttlShort (v : Option (Int × Int)) : Bool :=
  match v with
  | none => false
  | some (n, d) => decide (n ≤ 2000 * d)

def ttlField (v : Option (Int × Int)) : Nat :=
  match v with
  | none => 2 ^ 25 - 1
  | some (n, d) => Nat.min (2 ^ 25 - 1) (n / d).toNat

/-! ### Stops (R414 to R418) -/

/-- A command addresses a hold stack (R319): by the range that it names, or an ARM by the image it prefills from. -/
def addressesStack (s : State) (k : Nat) (c : Cmd) : Bool :=
  match c.op with
  | .arm entry _ _ =>
    (match c.work with
     | .prefill qs _ => qs.any fun q => touches (4096 * segF s q entry.toNat 0x34 0 24) (1536 * segLenG s q entry.toNat) k
     | _ => false)
  | .segLoad _ _ source len => segFromHold source.toNat && touches (segHoldAddr source.toNat) len.toNat k
  | .bcastLoad source dest len =>
    (segFromHold source.toNat && touches (segHoldAddr source.toNat) len.toNat k) || touches dest.toNat len.toNat k
  | _ => false

/-- A calibration command whose run is in progress: it ends with the run (R397). -/
def calRunning (c : Cmd) : Bool :=
  match c.work with
  | .cal _ | .relieve _ _ | .unrelieve _ => true
  | _ => false

/-- A command runs on a chain lane (R418). -/
def testsLane (c : Cmd) : Bool :=
  match c.work with
  | .laneTest _ | .bitslip _ _ => true
  | _ => false

/-- Every chain port goes to electrical idle (R417). -/
def portsIdle (s : State) : State :=
  let s := forAll s (List.range 4) fun s p => if 2 ≤ (portAt s p).state then portDown s p else s
  forAll s (List.range 48) fun s l => modLane s l fun x => { x with state := .off }

/-- The resources of an orderly stop: parks at the halt boundary or 1 ms, then site power. -/
def stopOrderly (s : State) (z : Nat) : State :=
  let bs := (stopBerths z).filter fun b => (berthAt s b).run ≠ .off
  let s := forAll s bs fun s b => parkOne s b 6 800000 (withLeaders s bs)
  let s := if bs.all fun b => !parking s b then offOrderly s bs else s
  settle (offAdvance s)

/-- The resources of an immediate stop, or of an escalation. -/
def stopImmediate (s : State) (z : Nat) : State :=
  let bs := (stopBerths z).filter fun b => (berthAt s b).run ≠ .off
  let s := forAll s bs fun s b => parkOneHard s b 6
  settle (offAdvance (offHard s (withLeaders s bs)))

/-- Commands that a stop ends (R418), calibration runs among them (R397). -/
def stopCommands (s : State) (z sensor : Nat) : State :=
  let v := thermalStop z sensor
  let bs := stopBerths z
  let s := forAll s bs fun s b => calStop s b v
  if z = 20 ∨ z = 21 then interrupt s (addressesStack s (z - 20)) v
  else if z = 22 then cancelAll s testsLane v
  else interrupt s (fun c => actsOnAny s bs c && !calRunning c) v

/-- A stop begins: the latch and its record, vector 0, the commands, then the stop set. -/
def stopBegin (s : State) (z causes levels : Nat) (fresh : Bool) (t : Option Int) (r : Int) : State :=
  let first := firstStopSensor s z levels fresh
  let ttl := ttlOf s z causes t r
  let device := z = 20 ∨ z = 21 ∨ z = 22
  let now := ttlShort ttl || overLimit s z t
  let s := modZone s z fun x => { x with
    state := 3, stopKind := if device then 0 else if now then 2 else 1, stopCause := causes
    firstSensor := first, ttlAtStop := ttlField ttl }
  let s := causeEvent (count s 6 0 0xA1 (8 * z + 4)) 2
  let s := if isFollower s then
      send s (.frame (some s.chain.upPort) (.thermalReport (Fin.ofNat 128 s.chain.index) (Fin.ofNat 24 z)
        (Fin.ofNat 104 first)))
    else s
  let s := stopCommands s z first
  if z = 20 ∨ z = 21 then
    settle { s with hold := { s.hold with stackHot := Nat.lor s.hold.stackHot (2 ^ (z - 20)) } }
  else if z = 22 then
    let s := settle (portsIdle s)
    if isFollower s && (s.clk.refState = .locked ∨ s.clk.refState = .relock) then
      refLoss { s with chain := { s.chain with lost := true } } else s
  else if now then stopImmediate s z
  else stopOrderly s z

/-- An orderly stop escalates (R416). -/
def escalate (s : State) (z : Nat) : State :=
  stopImmediate (modZone s z fun x => { x with stopKind := 3 }) z

/-- The state of a zone that is not stopped changes: entries into WARN and THROTTLE count. -/
def zoneEnter (s : State) (z old new : Nat) : State :=
  if old = new then s
  else if new = 1 then count s 6 0 0xA1 (8 * z + 2)
  else if new = 2 then count s 6 0 0xA1 (8 * z + 3)
  else s

/-- One zone's decision on a sample. -/
def zoneSample (s : State) (z : Nat) : State :=
  let x := zoneAt s z
  let t := zoneTemp s z
  let r := zoneRate s z
  if t = none && !(sensorsOf z).any (badHolds s) then modZone s z fun y => { y with temp := none, rate := 0 }
  else
    let levels := levelsOf s z x.fresh x.levels t r
    let causes := stopCauses s z levels t
    let s := modZone s z fun y => { y with
      temp := t, rate := r, levels := levels, fresh := false
      sensorStop := natBit causes 2 }
    if x.state < 3 then
      if causes ≠ 0 then stopBegin s z causes levels x.fresh t r
      else
        let new := levelState levels
        zoneEnter (modZone s z fun y => { y with state := new }) z x.state new
    else if x.state = 3 && x.stopKind = 1 && (ttlShort (ttlOf s z causes t r) || overLimit s z t) then
      escalate s z
    else s

/-- A circuit whose berth sensor is more than 5.0 °C from LastTemp of the run that gave its corrections:
its CalCurrent clears (R381). -/
def driftedAt (s : State) (t : Int) (c : Nat) : Bool :=
  (chanAt s c).calCurrent && 80 < (t - (chanAt s c).calTemp).natAbs

def calDrift (s : State) (b : Nat) : State :=
  match temp16 s b with
  | some t => forAll s ((chansOfBerth b).filter (driftedAt s t)) fun s c =>
      modChan s c fun x => { x with calCurrent := false }
  | none => s

/-- THERMAL_SAMPLE (R404 to R416): one sample of every sensor that is given. In COLD the sensors only
read (R551); supervision starts at the strap capture (R564). -/
def execThermalSample (samples : List SensorIn) (s : State) : Host.Outcome State Fault Refusal :=
  .next (let s := samples.foldl takeSample s
    let s := forAll s (samples.map (·.sensor.val)) stuckTest
    if s.cold then s
    else gatesLift (forAll (forAll s (List.range 24) zoneSample) (List.range 64) calDrift))

/-- The zones whose Mode a bake has changed are evaluated afresh at the bake, on the readings as they stand (R407). -/
def zonesAfresh (s : State) : State :=
  if s.cold then s else gatesLift (forAll s ((List.range 24).filter fun z => (zoneAt s z).fresh) zoneSample)

/-- BAKE_STROBE (R20, R89, R407). -/
def execBakeStrobe (loaded : Bool) (s : State) : Host.Outcome State Fault Refusal :=
  .next (zonesAfresh (pendStrobe loaded s))

/-- FOLLOWER_THERMAL_REPORT (R421). -/
def followerThermal (s : State) : State := if isPilot s then causeEvent s 5 else s

def execFollowerThermalReport (_index _zone _sensor : Nat) (s : State) :
    Host.Outcome State Fault Refusal := .next (followerThermal s)

/-! ### HOLD_STACK_DOWN (R319) -/

def execHoldStackDown (k : Nat) (s : State) : Host.Outcome State Fault Refusal :=
  .next (if natBit s.hold.stackDown k then s
    else
      let s := { s with hold := { s.hold with stackDown := Nat.lor s.hold.stackDown (2 ^ k) } }
      let s := interrupt s (addressesStack s k) (hwFault 0x41 k)
      if s.hold.stackDown = 3 then deviceFault s 0x41 k else s)

/-! ### THERM_READ, THERM_CLEAR (R419, R420) -/

def thermReadOffsets (first count : Nat) : List Nat :=
  offendIf (103 < first) 0 ++ offendIf (first ≤ 103 && 104 < first + count) 2

def performThermRead (s : State) (c : Cmd) (first count : Nat) : State :=
  let data := (List.range count).flatMap fun k =>
    let x := sensorAt s (first + k)
    leBytes 2 (if x.badKind ≠ 0 then 0x8000 else temp16Code x.reading)
  complete s c stOk (padTo 16 data) data

/-- A bad sensor that THERM_CLEAR treats as good. -/
def recovered (s : State) (i : Nat) : Bool := (sensorAt s i).badKind ≠ 0 && 1024 ≤ (sensorAt s i).good

/-- The zone with its recovered sensors good and its levels evaluated fresh. -/
def clearTrial (s : State) (z : Nat) : State :=
  let s := forAll s ((sensorsOf z).filter (recovered s)) fun s i =>
    setSensor s i { (sensorAt s i) with badKind := 0 }
  let t := zoneTemp s z
  let r := zoneRate s z
  modZone s z fun x => { x with temp := t, rate := r, levels := levelsOf s z true x.levels t r }

/-- THERM_CLEAR of a zone in STOPPED whose stop condition has ended. -/
def stopEnd (s : State) (z : Nat) : State :=
  let new := levelState (zoneAt s z).levels
  let s := modZone s z fun x => { x with
    state := new, stopKind := 0, stopCause := 0, sensorStop := false, fresh := false }
  let s := gatesLift (zoneEnter s z 4 new)
  if z = 20 ∨ z = 21 then
    { s with hold := { s.hold with stackHot := Nat.land s.hold.stackHot (Nat.xor 3 (2 ^ (z - 20))) } }
  else s

/-- THERM_CLEAR. -/
def performThermClear (s : State) (c : Cmd) (z : Nat) : State :=
  if (zoneAt s z).state ≠ 4 then completeOk s c []
  else
    let t := clearTrial s z
    if stopCauses t z (zoneAt t z).levels (zoneAt t z).temp ≠ 0 then
      completeV s c (match stopBerths z with
        | b :: _ => conflict s 3 b
        | [] =>
          let v := conflict s 6 0
          (v.1, putData v.2 18 4 0x60000000))
    else completeOk (stopEnd t z) c []

end Sys2Proof.Machine
end

