-- ==== Sys2Proof/Machine/Tender.lean ====
section
/-! DEFINITION. Tender ports (R507 to R523): TP_XFER, TP_STATUS, and the rows TP_TRANSACTION_START to
TP_TRANSACTION_END. -/

namespace Sys2Proof.Machine

/-! ### TP_XFER (R513 to R516) -/

/-- Parameter bytes of TP_XFER that break R513; `units` are the write units. -/
def tpOffsets (bits : Nat) (units : List (BitVec 32)) : List Nat :=
  let len := bits < 4 || 32 < bits
  offendIf len 2 ++ (if len then [] else listOffsets (fun u => decide (u.toNat < 2 ^ bits)) 4 4 units)

/-- A TP_XFER that RESOURCE_BUSY turns away: 16 wait already, or the port's clock is stopped. -/
def tpFull (s : State) (p : Nat) : Bool := !runEn s 8 p || 16 ≤ tpWaiting s p

/-- A TP_XFER waits for its port, without a context, while the port has one in hand or one accepted earlier waits (R515). -/
def tpBusy (s : State) (ord p : Nat) : Bool :=
  (tpAt s p).run.isSome || (tpAt s p).queue ≠ [] || (tpWaiters s p).any fun d => d.ord < ord

/-- TP_XFER waits for its port; its select falls at TP_TRANSACTION_START. -/
def performTpXfer (s : State) (c : Cmd) (p : Nat) : State :=
  putCmd (modTp s p fun x => { x with queue := x.queue ++ [c.ord] }) { c with work := .none }

/-- TP_STATUS (R518). -/
def performTpStatus (s : State) (c : Cmd) (p : Nat) : State :=
  let n (m : Nat) : Nat := (ackOf s (pid 6 0 0xCA (8 * p + m))).c.toNat
  completeOk s c [(16, 4, n 2), (20, 4, n 3), (24, 4, n 4), (28, 4, n 5)]

/-! ### Transactions -/

/-- The unit length and write units of a command. -/
def tpUnits (c : Cmd) : Nat × List (BitVec 32) :=
  match c.op with
  | .tpXfer _ _ bits _ units => (bits.toNat, units)
  | _ => (0, [])

/-- The transaction in progress on a port, with its command. -/
def tpRun (s : State) (p : Nat) : Option (TpRun × Cmd) :=
  match (tpAt s p).run with
  | none => none
  | some r => (s.inflight.find? fun c => c.ord = r.cmd).map fun c => (r, c)

/-! ### The balls (R507, R508, R510) -/

/-- A clock period of a port in root periods. -/
def tpPeriod (ctrl : Word) : Nat := 128 * (fld ctrl 0 8 + 1)

/-- The selects of a port: the driven one is low. -/
def tpSelects (s : State) (p : Nat) : List Bool :=
  let driven : Option Nat := match tpRun s p with
    | some (_, c) =>
      (match c.op with
       | .tpXfer _ sel _ _ _ => some sel.toNat
       | _ => none)
    | none => none
  (List.range 4).map fun k => decide (driven ≠ some k)

/-- The bits of a word of `n` bits in the order in which they are sent: MSB first, or LSB first. -/
def tpBits (lsbFirst : Bool) (n v : Nat) : List Bool :=
  let up := (List.range n).map fun k => natBit v k
  if lsbFirst then up else up.reverse

/-- What a transaction puts on DOUT, one bit to a clock period: the lead byte, then the write units. -/
def tpDout (settings : Word) (op : HostOp) : List Bool :=
  match op with
  | .tpXfer _ _ bits lead units =>
    tpBits (bit settings 2) 8 lead.toNat ++ units.flatMap fun u => tpBits (bit settings 2) bits.toNat u.toNat
  | _ => []

/-- A word from the bits that DIN carried. -/
def tpWord (lsbFirst : Bool) (bits : List Bool) : Nat :=
  ((if lsbFirst then bits else bits.reverse).zipIdx.map fun e => if e.1 then 2 ^ e.2 else 0).sum

/-- The rising clock edges that a transaction is expected to have: one to each bit. -/
def tpEdges (settings : Word) (op : HostOp) : Nat := (tpDout settings op).length

/-- The shortest a select stays low, in root periods: setup, lead, units and hold (R510). -/
def tpLength (ctrl settings : Word) (op : HostOp) : Nat :=
  tpPeriod ctrl * (fld ctrl 8 4 + fld ctrl 12 4) / 2 + tpPeriod ctrl * tpEdges settings op

/-- TP_TRANSACTION_START (R516, R517): the select of the oldest waiting command falls, where the port's clock runs
(R471). -/
def execTpTransactionStart (p : Nat) (s : State) : Host.Outcome State Fault Refusal :=
  .next (match (tpAt s p).run, (tpAt s p).queue with
  | none, ord :: rest =>
    if !runEn s 8 p then s else match s.inflight.find? fun c => c.ord = ord with
    | none => s
    | some c =>
      match c.op with
      | .tpXfer _ sel _ _ _ =>
        let s := modTp s p fun x => { x with
          queue := rest
          run := some { cmd := ord, settings := baked s (pid 6 0 0xC9 (4 * p + sel.toNat))
                        ctrl := baked s (pid 6 0 0xC8 p) } }
        putCmd s { c with work := .tp p }
      | _ => s
  | _, _ => s)

/-- TP_STATUS_BYTE (R512): the lead phase ends. -/
def execTpStatusByte (p : Nat) (status : Byte) (s : State) : Host.Outcome State Fault Refusal :=
  .next (match (tpAt s p).run with
  | some r =>
    if r.status.isNone && r.failed = 0 then
      let w := r.settings
      let reject := bit w 4 && Nat.land status.toNat (fld w 8 8) ≠ fld w 16 8
      modTp s p fun x => { x with
        lastStatus := status.toNat
        run := some { r with status := some status.toNat, failed := if reject then 3 else 0 } }
    else s
  | none => s)

/-- TP_READY_HIGH (R511): the next unit starts; `din` is what it reads. Before the lead phase the check
lets the lead byte go. -/
def execTpReadyHigh (p : Nat) (din : BitVec 32) (s : State) : Host.Outcome State Fault Refusal :=
  .next (match tpRun s p with
  | some (r, c) =>
    let u := tpUnits c
    if r.status.isSome && r.failed = 0 && r.unit < u.2.length then
      modTp s p fun x => { x with
        run := some { r with unit := r.unit + 1, read := r.read ++ [din.toNat % 2 ^ u.1] } }
    else s
  | none => s)

/-- TP_READY_TIMEOUT (R511, R519), at a READY check: the port holds SelHold and releases the select. -/
def execTpReadyTimeout (p : Nat) (s : State) : Host.Outcome State Fault Refusal :=
  .next (match tpRun s p with
  | some (r, c) =>
    let u := tpUnits c
    if bit r.settings 3 && r.failed = 0 && (r.status.isNone || r.unit < u.2.length) then
      modTp s p fun x => { x with run := some { r with failed := 4 } }
    else s
  | none => s)

/-- The counter of an error code (R523). -/
def tpCounter (error : Nat) : Nat :=
  match error with
  | 1 => 2
  | 2 => 3
  | 3 => 5
  | _ => 4

/-- The transaction has ended: its counters, and the command's reply. -/
def tpEnd (s : State) (p edges error : Nat) (c : Cmd) (status : Nat) (data result : List Byte) : State :=
  let s := count s 6 0 0xCA (8 * p + 1)
  let s := if error = 0 then s else count s 6 0 0xCA (8 * p + tpCounter error)
  let s := modTp s p fun x => { x with
    run := none, lastEdgeCount := edges, lastError := if error = 0 then x.lastError else error }
  complete s c status data result

/-- The unit index of an error: 0xFFFF_FFFF in or before the lead phase (R519). -/
def tpIndex (r : TpRun) (k : Nat) : Nat := if r.status.isNone then 0xFFFFFFFF else k

/-- TP_SEL_BREAK (R519): clocking stops at once; the edges counted till then are free (log 3). -/
def execTpSelBreak (p : Nat) (s : State) : Host.Outcome State Fault Refusal :=
  .next (match tpRun s p with
  | some (r, c) =>
    tpEnd { s with freeCtr := s.freeCtr + 1 } p (Config.freeWord s.freeCtr).toNat 1 c stHwFault
      (dataOf [(16, 2, 0xC8), (18, 4, p), (24, 4, tpIndex r (r.unit - 1)), (28, 4, r.unit - 1)]) []
  | none => s)

/-- The inline data of a TP_XFER (R514). -/
def tpInline (status : Nat) (units : List Nat) : List Byte :=
  padTo 16 (leBytes 1 status ++ leBytes 1 (Nat.min 3 units.length) ++ leBytes 2 units.length ++
    (units.take 3).flatMap (leBytes 4))

/-- TP_TRANSACTION_END (R519): the select is released. -/
def execTpTransactionEnd (p : Nat) (edges : BitVec 32) (s : State) : Host.Outcome State Fault Refusal :=
  .next (match tpRun s p with
  | some (r, c) =>
    let u := tpUnits c
    let status := r.status.getD 0
    let wanted := tpEdges r.settings c.op
    let e := edges.toNat
    if r.failed = 3 then
      tpEnd s p e 3 c stHwFault (dataOf [(16, 2, 0xCA), (18, 4, p), (24, 1, status)]) []
    else if r.failed = 4 then
      tpEnd s p e 4 c stTimeout (dataOf [(16, 2, 0x0A), (18, 4, fld r.ctrl 16 16), (24, 4, tpIndex r r.unit)]) []
    else if r.status.isNone ∨ r.unit < u.2.length then s
    else if e ≠ wanted then
      tpEnd s p e 2 c stHwFault (dataOf [(16, 2, 0xC9), (18, 4, p), (24, 4, e), (28, 4, wanted)]) []
    else
      tpEnd s p e 0 c stOk (tpInline status r.read)
        (leBytes 4 (status + u.2.length * 2 ^ 16) ++ r.read.flatMap (leBytes 4))
  | none => s)

end Sys2Proof.Machine
end

