-- ==== Sys2Proof/Machine/Aborts.lean ====
section
/-! DEFINITION. ABORT (R90, R94, R177, R280, R284, R392, R435, R438, R441, R443): what it finds, what ends the command that
it names, and the parts of that command on other devices. -/

namespace Sys2Proof.Machine

/-- An ABORT reports 2 (R458). -/
def abortLate (s : State) (t : Cmd) : State × Nat := (count s 6 0 0xA8 (8 * t.engine + 3), 2)

/-- ABORT of a bake (R90, R94). -/
def abortBake (s : State) (t : Cmd) (tag : Nat) : State × Nat :=
  match s.par.pendBake with
  | none => abortLate s t
  | some p =>
    if p.tag ≠ some t.ord then abortLate s t
    else if p.armed && p.chain && p.go then abortLate s t
    else if p.armed && !p.chain && p.instant ≤ s.tide + 64 then abortLate s t
    else
      let s := if p.chain && p.armed then send s (.signal none (.bakeCancel (i36Of p.instant))) else s
      (cancel s t (abortedBy tag), 1)

/-- ABORT of a ramp (R279, R280): it is undone; one in its commit, to 0 from the fall of EN on, goes on. -/
def abortRamp (s : State) (t : Cmd) (b tag : Nat) : State × Nat :=
  if (spAt s b).state = .undoing then (s, 1)
  else if (spAt s b).state = .off then abortLate s t
  else (undoBegin s b tag, 1)

/-- ABORT of a sequence (R284): entries that have started are undone, last first. -/
def abortSequence (s : State) (t : Cmd) (started : List SeqRun) (tag : Nat) : State × Nat :=
  if started.any fun r => entryOwn s t.hdr.scope.toNat r.entry && (spAt s r.entry.berth.toNat).state = .undoing then (s, 1)
  else
    let t := { t with work := .sequence [] started none none }
    (undoNext (putCmd s t) t tag, 1)

/-- The command in flight, as it stands now. -/
def nowCmd (s : State) (t : Cmd) : Option Cmd := s.inflight.find? fun c => c.ord = t.ord

/-- ABORT of a command by the work that it has in hand, and what it reports. -/
def abortWork (s : State) (t : Cmd) (tag : Nat) : State × Nat :=
  match t.work with
  | .ramp b => abortRamp s t b tag
  | .sequence _ started _ _ => abortSequence (abortParts s t) t started tag
  | .cal b =>
    let r := calAbort s t b tag
    if r.2 = 2 then abortLate r.1 t else r
  | .relieve b _ | .unrelieve b =>
    let r := reliefAbort s b tag
    if r.2 = 2 then abortLate r.1 t else r
  | .bcast _ _ => (completeV s { t with missing := [] } (abortedBy tag), 1)
  | _ => (cancel (abortParts s t) t (abortedBy tag), 1)

/-- An abort is taken at a safe point (R438, R441): by the handler of the routine, or by the work in hand. -/
def takeAbort (s : State) (t : Cmd) (tag : Nat) : State :=
  if routineOnly t then enterHandler s t.engine t.context (some (abortedBy tag)) else (abortWork s t tag).1

/-- An abort request reaches a routine that executes microwords: its flag is set, and a WAIT outside commit, a safe point
throughout, ends (R435). A second request has no effect. -/
def abortRoutine (s : State) (t : Cmd) (tag : Nat) : State :=
  let x := ctxAt s t.engine t.context
  if x.abort then s
  else
    let s := setCtx s t.engine t.context { x with abort := true, abortTag := tag }
    if x.wait.isSome && !x.handled then takeAbort s t tag else s

/-- The outcome of an ABORT on the command it finds. A bake is decided by its instant, wherever its routine stands. -/
def abortTarget (s : State) (t : Cmd) (tag : Nat) : State × Nat :=
  match t.op with
  | .bake _ _ _ _ _ => if foundPhase t = .late then abortLate s t else abortBake s t tag
  | _ =>
    match foundPhase t with
    | .waiting => (cancel s t (abortedBy tag), 1)
    | .late => abortLate s t
    | _ => if inRoutine s t then (abortRoutine s t tag, 1) else abortWork s t tag

/-- The command in flight that an ABORT names: not a NOP, not an ABORT, not the ABORT itself. -/
def abortFind (s : State) (ord : Nat) (tag : BitVec 16) : Option Cmd :=
  s.inflight.find? fun t => t.hdr.tag = tag && t.ord ≠ ord &&
    (match t.op with
     | .nop | .abort _ => false
     | _ => true)

/-- ABORT: its reply tells what it found; the target's own reply carries the ABORT's tag. -/
def performAbort (s : State) (c : Cmd) (tag : BitVec 16) : State :=
  match abortFind s c.ord tag with
  | none => completeOk s c [(16, 1, 0)]
  | some t =>
    let r := abortTarget s t c.hdr.tag.toNat
    completeOk r.1 c [(16, 1, r.2)]

end Sys2Proof.Machine
end

