-- ==== Sys2Proof/Machine/Packets.lean ====
section
/-! DEFINITION. Command slots as bytes (R37, R38, R65, R591): the operation that a parameter block
spells, the slot's header, and the fields of a slot or a block that are reserved or misaligned. -/

namespace Sys2Proof.Machine

/-! ### The operation that a block spells -/

def byteAt (b : List Byte) (k : Nat) : Byte := (b[k]?).getD 0#8
def wordAt (b : List Byte) (k : Nat) : Word := BitVec.ofNat 32 (leAt b k 4)
def quadAt (b : List Byte) (k : Nat) : BitVec 64 := BitVec.ofNat 64 (leAt b k 8)
def bitAt (b : List Byte) (k n : Nat) : Bool := (byteAt b k).getLsbD n

/-- Words of a block from byte `k` on. -/
def wordsFrom (b : List Byte) (k n : Nat) : List Word := (List.range n).map fun i => wordAt b (k + 4 * i)

/-- Pairs of a block from byte `k` on. -/
def pairsFrom (b : List Byte) (k n : Nat) : List Pair :=
  (List.range n).map fun i => ⟨wordAt b (k + 8 * i), wordAt b (k + 8 * i + 4)⟩

/-- Entries of SP_SEQUENCE from byte `k` on. -/
def entriesFrom (b : List Byte) (k n : Nat) : List SeqEntry :=
  (List.range n).map fun i =>
    let j := k + 8 * i
    { berth := (byteAt b j).setWidth 6, waitGood := bitAt b j 7, chain := (byteAt b (j + 1)).setWidth 7
      delay := BitVec.ofNat 16 (leAt b (j + 2) 2), target := wordAt b (j + 4) }

/-- The operation of an opcode and a parameter block of the opcode's length (R65); none for an
undefined opcode. -/
def parseOp (opc : Nat) (b : List Byte) : Option HostOp :=
  match opc with
  | 0x0000 => some .nop
  | 0x0001 => some .identify
  | 0x0002 => some .getState
  | 0x0003 => some (.park (byteAt b 0))
  | 0x0004 => some (.unpark (quadAt b 0))
  | 0x0005 => some (.berthPower (byteAt b 0))
  | 0x0006 => some .clearFault
  | 0x0007 => some (.abort (BitVec.ofNat 16 (leAt b 0 2)))
  | 0x0008 => some (.resetScope (byteAt b 0) (if b.length = 2 then some (byteAt b 1) else none))
  | 0x1000 => some (.stage (byteAt b 0) (pairsFrom b 8 ((b.length - 8) / 8)))
  | 0x1001 => some (.proof (byteAt b 0))
  | 0x1002 => some (.bake (quadAt b 0) ((byteAt b 8).setWidth 3) (bitAt b 8 6) (bitAt b 8 7) (wordAt b 12))
  | 0x1003 => some (.read (byteAt b 0) (wordsFrom b 8 ((b.length - 8) / 4)))
  | 0x1004 => some (.trayClear (byteAt b 0))
  | 0x1005 => some (.trayStatus (byteAt b 0))
  | 0x1006 => some (.ackWrite (pairsFrom b 0 (b.length / 8)))
  | 0x2000 => some (.segLoad (byteAt b 0) (wordAt b 4) (quadAt b 8) (wordAt b 16))
  | 0x2001 => some (.arm (wordAt b 0) ((byteAt b 4).setWidth 4) ((byteAt b 5).setWidth 6))
  | 0x2002 => some (.start (byteAt b 0) (byteAt b 1) (quadAt b 8))
  | 0x2003 => some .halt
  | 0x2004 => some (.jump (wordAt b 0))
  | 0x2005 => some .disarm
  | 0x2006 => some .clearHalt
  | 0x2007 => some .seqStatus
  | 0x3000 => some (.ppmuMeasure (bitAt b 0 0) (bitAt b 0 1) (byteAt b 1) (wordAt b 4))
  | 0x3001 => some (.acqArm ((byteAt b 0).setWidth 2) (wordAt b 4) (wordAt b 8))
  | 0x3002 => some (.acqRead (wordAt b 0))
  | 0x3003 =>
    let w := leAt b 4 4
    some (.tmuArm ((byteAt b 0).setWidth 3) (BitVec.ofNat 3 w) (BitVec.ofNat 2 (w / 8)) (natBit w 5)
      (BitVec.ofNat 4 (w / 64)) (BitVec.ofNat 4 (w / 1024)))
  | 0x3004 => some .tmuRead
  | 0x3005 => some (.resultUpload (byteAt b 0))
  | 0x3006 => some (.failLogRead (quadAt b 0) (wordAt b 8))
  | 0x4000 => some (.spRamp (wordAt b 0) (wordAt b 4))
  | 0x4001 => some (.spSequence (entriesFrom b 4 ((b.length - 4) / 8)))
  | 0x4002 => some (.spOff (byteAt b 0))
  | 0x4003 => some .spStatus
  | 0x5000 => some .chainEnum
  | 0x5001 => some .chainStatus
  | 0x5002 => some (.laneTest (byteAt b 0) ((byteAt b 1).setWidth 2) (bitAt b 1 2) (bitAt b 2 0) (bitAt b 2 1)
      (BitVec.ofNat 6 ((byteAt b 2).toNat / 4)) (wordAt b 4))
  | 0x5003 => some (.laneBitslip (byteAt b 0) (byteAt b 1))
  | 0x5004 => some (.bcastLoad (quadAt b 0) (quadAt b 8) (wordAt b 16))
  | 0x5005 => some .tideAlign
  | 0x6000 => some (.calRun (wordAt b 0) (BitVec.ofNat 16 (leAt b 4 2)))
  | 0x6001 => some .calSave
  | 0x6002 => some (.calRestore b)
  | 0x6003 => some .relieve
  | 0x6004 => some .unrelieve
  | 0x6005 => some .calStatus
  | 0x7000 => some (.refSelect (byteAt b 0))
  | 0x7001 => some (.freqMeasure (byteAt b 0) ((byteAt b 1).setWidth 4) (wordAt b 4))
  | 0x7002 => some (.thermRead (byteAt b 0) (byteAt b 2))
  | 0x7003 => some (.thermClear (byteAt b 0))
  | 0x7004 => some (.clockMode (quadAt b 0) (bitAt b 8 0) (bitAt b 8 1) (bitAt b 8 2) (byteAt b 9))
  | 0x8000 => some (.tpXfer ((byteAt b 0).setWidth 3) ((byteAt b 1).setWidth 2) (byteAt b 2) (byteAt b 3)
      (wordsFrom b 4 ((b.length - 4) / 4)))
  | 0x8001 => some (.tpStatus ((byteAt b 0).setWidth 3))
  | 0xF000 => some (.mcPatchLoad ((byteAt b 0).setWidth 5) (b.drop 8))
  | 0xF001 => some .mcVersion
  | 0xF002 => some (.fuseRead (byteAt b 0))
  | _ => none

/-- ParamLen equals the length of the opcode's block (R591); `b` is the block as far as it was read. -/
def paramLenOk (opc n : Nat) (b : List Byte) : Bool :=
  match opc with
  | 0x0008 => n = (if byteAt b 0 = 2 then 2 else 1)
  | 0x1000 => 8 ≤ n && n % 8 = 0 && n ≤ 8 + 8 * 8190
  | 0x1003 => 12 ≤ n && n % 4 = 0
  | 0x1006 => 8 ≤ n && n % 8 = 0 && n ≤ 8 * 8190
  | 0x4001 => n = 4 + 8 * leAt b 0 4
  | 0x6002 => 1 ≤ n
  | 0x8000 => 4 ≤ n && n % 4 = 0 && n ≤ 16388
  | 0xF000 => 8 ≤ n
  | 0x0003 | 0x0005 | 0x1001 | 0x1004 | 0x1005 | 0x4002 | 0x7000 | 0x7003 | 0x8001 | 0xF002 => n = 1
  | 0x0007 | 0x5003 => n = 2
  | 0x7002 => n = 3
  | 0x2004 | 0x3002 | 0x3005 => n = 4
  | 0x2001 => n = 6
  | 0x0004 | 0x3000 | 0x3003 | 0x4000 | 0x5002 | 0x6000 | 0x7001 => n = 8
  | 0x7004 => n = 10
  | 0x3001 | 0x3006 => n = 12
  | 0x1002 | 0x2002 => n = 16
  | 0x2000 | 0x5004 => n = 20
  | _ => n = 0

/-! ### Reserved bits -/

/-- Offset `off` where bits of byte `k` under a mask, or bytes, are not 0. -/
def resBits (b : List Byte) (k mask : Nat) : List Nat := if Nat.land (byteAt b k).toNat mask = 0 then [] else [k]
def resBytes (b : List Byte) (k n : Nat) : List Nat := if leAt b k n = 0 then [] else [k]

/-- Offsets of the reserved fields of a parameter block that are not 0 (R7, R591). -/
def reservedOffsets (opc : Nat) (b : List Byte) : List Nat :=
  match opc with
  | 0x1000 | 0x1003 | 0xF000 =>
    resBytes b 1 7 ++ (if opc = 0xF000 then resBits b 0 0xE0 else [])
  | 0x1002 => resBits b 8 0x38 ++ resBytes b 9 3
  | 0x2000 => resBytes b 1 3
  | 0x2001 => resBits b 4 0xF0 ++ resBits b 5 0xC0
  | 0x2002 => resBytes b 2 6
  | 0x3000 => resBits b 0 0xFC ++ resBytes b 2 2
  | 0x3001 => resBits b 0 0xFC ++ resBytes b 1 3
  | 0x3003 => resBits b 0 0xF8 ++ resBytes b 1 3 ++ (if leAt b 4 4 / 2 ^ 14 = 0 then [] else [5])
  | 0x3005 => resBits b 0 0x78 ++ resBytes b 1 3
  | 0x4001 => (List.range ((b.length - 4) / 8)).flatMap fun i =>
      resBits b (4 + 8 * i) 0x40 ++ resBits b (5 + 8 * i) 0x80
  | 0x5002 => resBits b 1 0xF8 ++ resBytes b 3 1
  | 0x6000 => resBytes b 6 2
  | 0x7001 => if leAt b 0 4 / 4096 = 0 then [] else [1]
  | 0x7002 => resBytes b 1 1
  | 0x7004 => resBits b 8 0xF8
  | 0x8000 => resBits b 0 0xF8 ++ resBits b 1 0xFC
  | 0x8001 => resBits b 0 0xF8
  | _ => []

/-! ### The slot (R37) -/

/-- The header that a slot of ring `ring` carries. -/
def parseHdr (ring : Fin 16) (b : List Byte) : Hdr where
  ring := ring
  tag := BitVec.ofNat 16 (leAt b 2 2)
  defer := bitAt b 4 1
  irq := bitAt b 4 2
  order := bitAt b 4 3
  resDma := bitAt b 4 4
  chain := BitVec.ofNat 7 (leAt b 8 2)
  inst := BitVec.ofNat 12 (leAt b 10 2)
  scope := BitVec.ofNat 4 (leAt b 11 1 / 16)
  deferGen := wordAt b 12
  resultPtr := quadAt b 24
  resultLen := wordAt b 32

def slotOpcode (b : List Byte) : Nat := leAt b 0 2
def slotExt (b : List Byte) : Bool := bitAt b 4 0
def slotLen (b : List Byte) : Nat := leAt b 6 2

/-- The parameter block of a slot: inline, or the block that ParamPtr names. -/
def slotBlock (slot block : List Byte) : List Byte :=
  if slotExt slot then padTo (slotLen slot) block else (slot.drop 36).take (slotLen slot)

/-- Slot bytes whose reserved bits or pointers break R37 and R38, and ParamLen. -/
def slotOffsets (slot block : List Byte) : List Nat :=
  let ext := slotExt slot
  let n := slotLen slot
  (if leAt slot 4 2 / 32 = 0 then [] else [4]) ++
  (if leAt slot 8 2 / 128 % 512 = 0 then [] else [8]) ++
  (if (if ext then 0 < n else n ≤ 28) && paramLenOk (slotOpcode slot) n (slotBlock slot block) then []
    else [6]) ++
  (if (if ext then leAt slot 16 8 % 8 = 0 else leAt slot 16 8 = 0) then [] else [16]) ++
  (if ext then resBytes slot 36 28
    else if n ≤ 28 && leAt slot (36 + n) (28 - n) ≠ 0 then [36 + n] else [])

/-- A slot with its inline parameters, or with an address for them (R37). -/
def buildSlot (h : Hdr) (op : HostOp) (ptr : BitVec 64) : List Byte :=
  let b := paramBytes op
  let ext := decide (28 < b.length)
  leBytes 2 (opcode op) ++ leBytes 2 h.tag.toNat ++
    leBytes 2 (flag ext 0 + flag h.defer 1 + flag h.irq 2 + flag h.order 3 + flag h.resDma 4) ++
    leBytes 2 b.length ++ leBytes 4 (targetWord h.chain.toNat h.scope.toNat h.inst.toNat) ++
    word4 h.deferGen ++ leBytes 8 (if ext then ptr.toNat else 0) ++ leBytes 8 h.resultPtr.toNat ++
    word4 h.resultLen ++ (if ext then zeros 28 else padTo 28 b)

end Sys2Proof.Machine
end

