-- ==== Sys2Proof/Machine/Engines.lean ====
section
/-! DEFINITION. The command engines (R429 to R449): contexts, engine registers, the control store, safe
points, engine faults, and the rows of the microwords. A microword acts when its engine runs and its
context runs a command and does not wait; otherwise the event does not apply and the state is kept. -/

namespace Sys2Proof.Machine

/-! ### The control store (R448, R449) -/

def inRom (a : Nat) : Bool := a < 0x4000
def inPatchRam (a : Nat) : Bool := 0x8000 ≤ a && a < 0x9000

/-- The address that a fetch reads: a patch point redirects a ROM address to patch RAM. -/
def fetchAddr (x : Eng) (a : Nat) : Nat := if inRom a then (tabFind x.patchPoints a).getD a else a

/-- The microword at an address. -/
def fetchWord (x : Eng) (a : Nat) : Word :=
  let a := fetchAddr x a
  if inPatchRam a then tabGet 0 x.patchRam a else Config.romWord (BitVec.ofNat 16 a)

/-- The fetch at the pc of a context delivers a microword: from patch RAM the word that stands there, from ROM whatever
it holds, which the row tells (R431, R448; log 105). -/
def delivers (s : State) (e : Nat) (x : Ctx) (w : Word) : Bool :=
  !inPatchRam (fetchAddr (engAt s e) x.pc) || fetchWord (engAt s e) x.pc = w

/-- The word of a microword, its fields in the order of R431. -/
def uword (op a b imm : Nat) : Word :=
  microWord (BitVec.ofNat 6 op) (Fin.ofNat 32 a) (Fin.ofNat 32 b) (BitVec.ofNat 16 imm)

/-! ### Engine faults (R446, R447) -/

/-- A ramp in progress holds its present reference. -/
def rampHold (s : State) (b : Nat) : State :=
  if ramping (spAt s b) && (spAt s b).enFallAt = none then
    modSp s b fun x => { x with
      state := .on, rampTarget := vref x, rampFrom := vref x, acc := accUnits * vref x, abortTag := none }
  else s

/-- End a command without giving back what it has armed in the data plane; a bank it was filling is
given back. -/
def faultEnd (v : Verdict) (s : State) (c : Cmd) : State :=
  match c.work with
  | .start _ _ | .token _ _ => completeV s c v
  | .bake => if c.engine = 4 then s else cancel s c v
  | _ => cancel s c v

/-- A disabled engine that would run a command or a part of it. -/
def disabledEngine (s : State) (c : Cmd) : Option Nat := (enginesFor s c).find? fun e => (engAt s e).state = 2

/-- A command whose engine is disabled ends with source 0x0089; a BAKE counts in BakeFault (R75, R447). -/
def endDisabled (s : State) (c : Cmd) (e : Nat) : State :=
  match c.op, s.par.pendBake with
  | .bake _ _ _ _ _, some p =>
    if p.tag = some c.ord then bakeFaultEnd s p (hwFault 0x89 e) else completeV s c (hwFault 0x89 e)
  | _, _ => cancel s c (hwFault 0x89 e)

/-- Commands that wait for a disabled engine end with source 0x0089. -/
def disabledEnd (s : State) (e : Nat) : State :=
  (cmdsWhere s fun c => (enginesFor s c).contains e && c.phase = .waiting && c.work = .none).foldl
    (fun s c => endDisabled s c e) s

/-- Faults of an engine within the last second, this one included. -/
def recentFaults (s : State) (e : Nat) : List Nat :=
  s.tide :: (engAt s e).faultTides.filter fun t => s.tide < t + usTc 1000000

/-- An engine fault at a microword address: counted; the commands that run on the engine end; it
restarts, or is disabled at its third fault within 1 s; a fault of CE4 puts the device in FAULT. -/
def engineFault (s : State) (e code addr : Nat) : State :=
  let s := count s 6 0 0xA8 (8 * e + 5)
  let ts := recentFaults s e
  let off := decide (e < 4 ∧ 3 ≤ ts.length)
  let s := setEng s e { engAt s e with
    faultTides := ts, lastFaultCode := code, lastFaultAddr := addr, state := if off then 2 else 1 }
  let s := (cmdsWhere s fun c =>
      (c.engine = e || (enginesFor s c).contains e) && (c.phase = .running || c.phase = .commit)).foldl
    (faultEnd (hwFault (0x80 + code) e)) s
  let s := if e < 4 then forAll s (berthsOfWing e) rampHold else deviceFault s (0x80 + code) 4
  let s := setEng s e { engAt s e with ctxs := [] }
  if off then disabledEnd s e else s

/-! ### Engine registers (R432) -/

/-- E31. -/
def flagsWord (x : Ctx) : Word :=
  BitVec.ofNat 32 (flag x.zf 0 + flag x.nf 1 + flag x.cf 2 + flag x.vf 3 + flag x.abort 4 +
    flag x.interrupt 5 + flag x.inCommit 6)

def readReg (s : State) (x : Ctx) (r : Nat) : Word :=
  if r = 0 then 0 else if r = 30 then BitVec.ofNat 32 s.tide else if r = 31 then flagsWord x
  else tabGet 0 x.regs r

/-- A write to E00 and to the read-only E30 is discarded; one to E31 sets the four result flags
(DESIGN CHOICE, log 33). -/
def writeReg (x : Ctx) (r : Nat) (v : Word) : Ctx :=
  if r = 0 ∨ r = 30 then x
  else if r = 31 then { x with zf := bit v 0, nf := bit v 1, cf := bit v 2, vf := bit v 3 }
  else { x with regs := tabSet x.regs r v }

/-! ### Flags -/

def setZN (x : Ctx) (v : Word) : Ctx := { x with zf := decide (v = 0), nf := bit v 31 }

/-- Flags of A + B. -/
def addFlags (x : Ctx) (a b : Word) : Ctx :=
  let v := a + b
  { setZN x v with
    cf := decide (2 ^ 32 ≤ a.toNat + b.toNat)
    vf := decide (v.toInt ≠ a.toInt + b.toInt) }

/-- Flags of A − B. -/
def subFlags (x : Ctx) (a b : Word) : Ctx :=
  let v := a - b
  { setZN x v with
    cf := Config.carryIsBorrow == decide (a.toNat < b.toNat)
    vf := decide (v.toInt ≠ a.toInt - b.toInt) }

def signExt (imm : BitVec 16) : Word := imm.signExtend 32

/-! ### Safe points (R438 to R440) -/

/-- The gap since the last safe point in ns. -/
def gapNs (s : State) (x : Ctx) : Nat := (s.tide - x.safeAt) * 5 / 4

def safePhase (x : Ctx) : Bool := x.phase ≠ .commit

/-- The gap that ends now is kept in MaxSafeGap if it is the largest (R440). -/
def noteGap (s : State) (e c : Nat) : State :=
  setEng s e { engAt s e with maxSafeGap := Nat.max (engAt s e).maxSafeGap (gapNs s (ctxAt s e c)) }

/-- A safe point of a context: its counters restart, MaxSafeGap is kept. -/
def safePoint (s : State) (e c : Nat) : State :=
  modCtx (noteGap s e c) e c fun x => { x with sinceSafe := 0, safeAt := s.tide }

/-- At a safe point a pending interrupt, or else a pending abort, is taken (R438, R441, R444); a handler that runs is
not entered again. -/
def takePending (s : State) (e c : Nat) : State × Bool :=
  let x := ctxAt s e c
  match ctxCmd s e c with
  | none => (s, false)
  | some k =>
    if x.handled then (s, false)
    else if x.interrupt then (takeInterrupt s k ((x.held).getD abortedByEvent), true)
    else if x.abort then (takeAbort s k x.abortTag, true)
    else (s, false)

/-! ### One microword -/

/-- The context runs a command and waits for nothing. -/
def ctxRuns (s : State) (e c : Nat) : Bool := (ctxAt s e c).busy && (ctxAt s e c).wait = none

/-- The context has microwords to execute: its command's work does not stand in the data plane with the routine at its
dispatch entry still (R430). -/
def inHand (s : State) (e c : Nat) : Bool :=
  ctxRuns s e c &&
    match ctxCmd s e c with
    | some k => k.work = .none || inRoutine s k
    | none => false

/-- How many contexts the round robin passes before it comes to this one: none for the one that has executed last, unless
it has yielded (R430). -/
def turnsTo (x : Eng) (c : Nat) : Nat := (c + 16 - (x.turn + b01 x.yielded) % 16) % 16

/-- No context whose turn comes first has microwords to execute. -/
def itsTurn (s : State) (e c : Nat) : Bool :=
  (List.range 16).all fun d => turnsTo (engAt s e) c ≤ turnsTo (engAt s e) d || !inHand s e d

/-- The context can execute a microword: its engine runs and its turn has come (R430). -/
def ctxReady (s : State) (e c : Nat) : Bool := (engAt s e).state = 0 && ctxRuns s e c && itsTurn s e c

/-- A context executes a microword; a WAIT and a fabric read yield (R430). -/
def takeTurn (s : State) (e c : Nat) (yields : Bool) : State :=
  setEng s e { engAt s e with turn := c, yielded := yields }

/-- The fault that stops a microword before it acts: a fetch from a reserved address, a gap or a commit
that is too long (R440, R446). -/
def ctxFault (s : State) (x : Ctx) : Option Nat :=
  if !(inRom x.pc || inPatchRam x.pc) then some 8
  else if safePhase x then
    (if 256 ≤ x.sinceSafe then some 4 else if 3200 < s.tide - x.safeAt then some 5 else none)
  else if x.inCommit && 3200 < s.tide - x.commitAt then some 6 else none

def advancePc (x : Ctx) : Ctx := { x with pc := (x.pc + 1) % 65536, sinceSafe := x.sinceSafe + 1 }

/-- A microword `w` that is no safe point: `f` is its action, with the pc already at the next address. -/
def micro (s : State) (e c : Nat) (w : Word) (f : State → Ctx → State) : State :=
  if ctxReady s e c then
    match ctxFault s (ctxAt s e c) with
    | some code => engineFault (noteGap s e c) e code (ctxAt s e c).pc
    | none =>
      if delivers s e (ctxAt s e c) w then
        f (takeTurn (modCtx s e c advancePc) e c false) (advancePc (ctxAt s e c))
      else s
  else s

/-- A microword that is a safe point: a gap of more than 256 microwords is found before it. -/
def microSafe (s : State) (e c : Nat) (w : Word) (f : State → State) : State :=
  if ctxReady s e c then
    match ctxFault s { (ctxAt s e c) with sinceSafe := (ctxAt s e c).sinceSafe - 1 } with
    | some code => engineFault (noteGap s e c) e code (ctxAt s e c).pc
    | none => if delivers s e (ctxAt s e c) w then f (takeTurn (modCtx s e c advancePc) e c false) else s
  else s

/-- A microword whose only effect is on its context. -/
def microCtx (s : State) (e c : Nat) (w : Word) (f : State → Ctx → Ctx) : State :=
  micro s e c w fun s x => setCtx s e c (f s x)

/-! ### Moves, arithmetic and logic -/

def execNopMicroword (e c : Nat) (s : State) : Host.Outcome State Fault Refusal :=
  .next (micro s e c (uword 0x00 0 0 0) fun s _ => s)

def execMov (e c a b : Nat) (s : State) : Host.Outcome State Fault Refusal :=
  .next (microCtx s e c (uword 0x01 a b 0) fun s x => writeReg x a (readReg s x b))

def execLdi (e c a : Nat) (imm : BitVec 16) (s : State) : Host.Outcome State Fault Refusal :=
  .next (microCtx s e c (uword 0x02 a 0 imm.toNat) fun _ x => writeReg x a (imm.setWidth 32))

def execLdh (e c a : Nat) (imm : BitVec 16) (s : State) : Host.Outcome State Fault Refusal :=
  .next (microCtx s e c (uword 0x03 a 0 imm.toNat) fun s x =>
    writeReg x a (BitVec.ofNat 32 (imm.toNat * 65536 + (readReg s x a).toNat % 65536)))

def execAdd (e c a b : Nat) (s : State) : Host.Outcome State Fault Refusal :=
  .next (microCtx s e c (uword 0x04 a b 0) fun s x =>
    addFlags (writeReg x a (readReg s x a + readReg s x b)) (readReg s x a) (readReg s x b))

def execAddi (e c a : Nat) (imm : BitVec 16) (s : State) : Host.Outcome State Fault Refusal :=
  .next (microCtx s e c (uword 0x05 a 0 imm.toNat) fun s x =>
    addFlags (writeReg x a (readReg s x a + signExt imm)) (readReg s x a) (signExt imm))

def execSub (e c a b : Nat) (s : State) : Host.Outcome State Fault Refusal :=
  .next (microCtx s e c (uword 0x06 a b 0) fun s x =>
    subFlags (writeReg x a (readReg s x a - readReg s x b)) (readReg s x a) (readReg s x b))

def logic (s : State) (e c op a b : Nat) (f : Word → Word → Word) : State :=
  microCtx s e c (uword op a b 0) fun s x =>
    let v := f (readReg s x a) (readReg s x b)
    setZN (writeReg x a v) v

def execAnd (e c a b : Nat) (s : State) : Host.Outcome State Fault Refusal :=
  .next (logic s e c 0x07 a b fun x y => x &&& y)

def execOr (e c a b : Nat) (s : State) : Host.Outcome State Fault Refusal :=
  .next (logic s e c 0x08 a b fun x y => x ||| y)

def execXor (e c a b : Nat) (s : State) : Host.Outcome State Fault Refusal :=
  .next (logic s e c 0x09 a b fun x y => x ^^^ y)

def execShl (e c a n : Nat) (s : State) : Host.Outcome State Fault Refusal :=
  .next (microCtx s e c (uword 0x0A a 0 n) fun s x => writeReg x a (readReg s x a <<< n))

def execShr (e c a n : Nat) (s : State) : Host.Outcome State Fault Refusal :=
  .next (microCtx s e c (uword 0x0B a 0 n) fun s x => writeReg x a (readReg s x a >>> n))

def execCmp (e c a b : Nat) (s : State) : Host.Outcome State Fault Refusal :=
  .next (microCtx s e c (uword 0x0C a b 0) fun s x => subFlags x (readReg s x a) (readReg s x b))

def execCmpi (e c a : Nat) (imm : BitVec 16) (s : State) : Host.Outcome State Fault Refusal :=
  .next (microCtx s e c (uword 0x0D a 0 imm.toNat) fun s x => subFlags x (readReg s x a) (signExt imm))

/-! ### Control flow (R433, R434) -/

def goto (x : Ctx) (a : Nat) : Ctx := { x with pc := a % 65536 }

def execJmp (e c : Nat) (imm : BitVec 16) (s : State) : Host.Outcome State Fault Refusal :=
  .next (microCtx s e c (uword 0x10 0 0 imm.toNat) fun _ x => goto x imm.toNat)

/-- The state of the command's target has changed since its start. -/
def targetChanged (s : State) (e c : Nat) : Bool :=
  match ctxCmd s e c with
  | some k => stateCode s k.hdr.scope.toNat k.hdr.inst.toNat ≠ (ctxAt s e c).startCode
  | none => false

/-- The branch conditions of R434. -/
def branchHolds (s : State) (e c : Nat) (x : Ctx) (cond : Nat) : Bool :=
  match cond with
  | 0 => true
  | 1 => x.zf
  | 2 => !x.zf
  | 3 => x.nf
  | 4 => !x.nf
  | 5 => x.cf
  | 6 => !x.cf
  | 7 => x.nf != x.vf
  | 8 => x.nf == x.vf
  | 9 => x.abort
  | 10 => x.interrupt
  | 11 => x.timedOut
  | 12 => x.inCommit
  | 13 => targetChanged s e c
  | _ => false

def execBr (e c cond : Nat) (imm : BitVec 16) (s : State) : Host.Outcome State Fault Refusal :=
  .next (microCtx s e c (uword 0x11 cond 0 imm.toNat) fun s x => if branchHolds s e c x cond then goto x imm.toNat else x)

/-- CALL: a ninth frame is engine fault 3. -/
def execCall (e c : Nat) (imm : BitVec 16) (s : State) : Host.Outcome State Fault Refusal :=
  .next (micro s e c (uword 0x12 0 0 imm.toNat) fun s x =>
    if 8 ≤ x.stack.length then engineFault s e 3 ((x.pc + 65535) % 65536)
    else setCtx s e c (goto { x with stack := x.pc :: x.stack } imm.toNat))

/-- RET: an empty stack is engine fault 3. -/
def execRet (e c : Nat) (s : State) : Host.Outcome State Fault Refusal :=
  .next (micro s e c (uword 0x13 0 0 0) fun s x =>
    match x.stack with
    | [] => engineFault s e 3 ((x.pc + 65535) % 65536)
    | a :: rest => setCtx s e c (goto { x with stack := rest } a))

def execSwitch (e c b : Nat) (imm : BitVec 16) (s : State) : Host.Outcome State Fault Refusal :=
  .next (microCtx s e c (uword 0x14 0 b imm.toNat) fun s x => goto x (imm.toNat + fld (readReg s x b) 0 8))

/-! ### Fabric, trays, shadow registers, host memory -/

def fabricAddr (s : State) (x : Ctx) (b : Nat) (imm : BitVec 16) : Nat :=
  (readReg s x b + imm.setWidth 32).toNat

/-- FRD: a fabric word that no microword has written is free (log 3): the spec gives no map of the fabric (log 111). -/
def execFrd (e c a b : Nat) (imm : BitVec 16) (s : State) : Host.Outcome State Fault Refusal :=
  .next (micro s e c (uword 0x18 a b imm.toNat) fun s x =>
    let s := takeTurn s e c true
    match tabFind s.mc.fabric (fabricAddr s x b imm) with
    | some v => setCtx s e c (writeReg x a v)
    | none => setCtx { s with freeCtr := s.freeCtr + 1 } e c (writeReg x a (Config.freeWord s.freeCtr)))

def execFwr (e c a b : Nat) (imm : BitVec 16) (s : State) : Host.Outcome State Fault Refusal :=
  .next (micro s e c (uword 0x19 a b imm.toNat) fun s x =>
    { s with mc := { s.mc with fabric := tabSet s.mc.fabric (fabricAddr s x b imm) (readReg s x a) } })

/-- The tray that an operation names. -/
def trayOf (op : HostOp) : Option Nat :=
  match op with
  | .stage t _ | .proof t | .trayClear t | .trayStatus t => some (t.toNat % 8)
  | .bake _ t _ _ _ => some t.toNat
  | .read sel _ => if 8 ≤ sel.toNat then some (sel.toNat % 8) else none
  | _ => none

/-- The tray of a context's command. -/
def ctxTray (s : State) (e c : Nat) : Option Nat :=
  match ctxCmd s e c with
  | some k => trayOf k.op
  | none => none

/-- TRD (the tray is the command's, DEDUCED, log 34): a field of an entry that the tray does not hold is
free. -/
def execTrd (e c a b : Nat) (value : Bool) (s : State) : Host.Outcome State Fault Refusal :=
  .next (micro s e c (uword 0x1A a b value.toNat) fun s x =>
    match (trayAt s ((ctxTray s e c).getD 8)).entries[(readReg s x b).toNat]? with
    | some p => setCtx s e c (writeReg x a (if value then p.2 else p.1))
    | none => setCtx { s with freeCtr := s.freeCtr + 1 } e c (writeReg x a (Config.freeWord s.freeCtr)))

/-- A tray with a field of entry `n` written; entry `n` is made where the tray ends before it. -/
def trayWrite (es : List (Word × Word)) (n : Nat) (value : Bool) (v : Word) : List (Word × Word) :=
  let put (p : Word × Word) : Word × Word := if value then (p.1, v) else (v, p.2)
  if n < es.length then es.modify n put
  else if n = es.length ∧ n < trayCapacity then es ++ [put (0, 0)] else es

/-- TWR. -/
def execTwr (e c a b : Nat) (value : Bool) (s : State) : Host.Outcome State Fault Refusal :=
  .next (micro s e c (uword 0x1B a b value.toNat) fun s x =>
    match ctxTray s e c with
    | some t => setTray s t { trayAt s t with
        entries := trayWrite (trayAt s t).entries (readReg s x b).toNat value (readReg s x a) }
    | none => s)

/-- SHW. -/
def execShw (e c a b : Nat) (s : State) : Host.Outcome State Fault Refusal :=
  .next (micro s e c (uword 0x1C a b 0) fun s x =>
    { s with par := { s.par with shadow := tabSet s.par.shadow (readReg s x b).toNat (readReg s x a) } })

/-- The word of the command's parameter block at an offset; past its end the word is free. -/
def paramWord (s : State) (e c off : Nat) : Option Word :=
  match ctxCmd s e c with
  | some k => if off < (paramBytes k.op).length then some (wordAt (paramBytes k.op) off) else none
  | none => none

/-- HRD: E26 is the cursor. -/
def execHrd (e c a : Nat) (imm : BitVec 16) (s : State) : Host.Outcome State Fault Refusal :=
  .next (micro s e c (uword 0x1D a 0 imm.toNat) fun s x =>
    let cur := readReg s x 26
    let x := writeReg x 26 (cur + 4)
    match paramWord s e c (cur + imm.setWidth 32).toNat with
    | some v => setCtx s e c (writeReg x a v)
    | none => setCtx { s with freeCtr := s.freeCtr + 1 } e c (writeReg x a (Config.freeWord s.freeCtr)))

/-- HWR queues a result word. -/
def execHwr (e c a b : Nat) (imm : BitVec 16) (s : State) : Host.Outcome State Fault Refusal :=
  .next (microCtx s e c (uword 0x1E a b imm.toNat) fun s x =>
    { x with dma := tabSet x.dma (readReg s x b + imm.setWidth 32).toNat (readReg s x a) })

/-- PST: the reply goes out with status E29 and data E01 to E04, or with what a handler was entered for (R441, R444); result
words go before it (R39). -/
def execPst (e c : Nat) (s : State) : Host.Outcome State Fault Refusal :=
  .next (micro s e c (uword 0x1F 0 0 0) fun s x =>
    match ctxCmd s e c with
    | none => s
    | some k =>
      let status := match x.ending with
        | some v => BitVec.ofNat 16 v.1
        | none => (readReg s x 29).setWidth 16
      let data := match x.ending with
        | some v => padTo 16 v.2
        | none => word4 (readReg s x 1) ++ word4 (readReg s x 2) ++ word4 (readReg s x 3) ++ word4 (readReg s x 4)
      let result := if k.hdr.resDma && x.ending.isNone then dmaBytes s k.hdr x else []
      let s := if x.ending.isSome then unwind s k status.toNat else s
      let s := if status.toNat = stAborted then count s 6 0 0xA8 (8 * e + 2) else s
      postOrdered s k
        { status := status, tag := k.hdr.tag, gen := s.par.generation, stamp := s.tide % 2 ^ 63
          phase := true, data := data } result)

/-! ### WAIT (R435, R436) -/

/-- Whether a condition holds (R436): of an event, whether it has come since the WAIT began. The fabric writes of a context
are acknowledged, and its hold transfers done, before its next microword (DESIGN CHOICE, log 111); its host DMA is
complete once requests can leave. -/
def waitShown (s : State) (w : WaitFor) : Bool :=
  let arg := w.arg
  match w.cond with
  | 0x01 | 0x0B => true
  | 0x09 => canRequest s
  | 0x02 => decide ((s.tide + 2 ^ 32 - arg.toNat) % 2 ^ 32 < 2 ^ 31)
  | 0x03 => decide (quayRun s (fld arg 0 4) = fld arg 8 8)
  | 0x04 => decide ((berthAt s (fld arg 0 6)).seqPhase = fld arg 8 3)
  | 0x05 => let x := spAt s (arg.toNat % 64)
    decide (x.state = .off) || decide (x.state = .on)
  | 0x08 => decide (0 < creditOf (portAt s (fld arg 0 2)) (fld arg 2 2))
  | 0x0A => (tpAt s (arg.toNat % 8)).run.isNone
  | 0x0D => decide (0 < rqFree (rqAt s (arg.toNat % 16)))
  | 0x0E => decide (laneCode (laneAt s (fld arg 0 6)).state = fld arg 8 4)
  | 0x11 => s.par.pendBake.isNone
  | 0x12 => powerGood s (arg.toNat % 64)
  | _ => w.met

/-- A WAIT's condition is one that R436 gives, and its timeout is not the reserved 0. -/
def waitDefined (cond : Nat) (timeout : Word) : Bool := 1 ≤ cond && cond ≤ 0x12 && timeout ≠ 0

/-- A context goes on after a WAIT. In PREPARE, PROGRESS and UNDO the WAIT was a safe point throughout. -/
def waitOver (s : State) (e c : Nat) (timedOut : Bool) : State :=
  modCtx s e c fun x => { x with
    wait := none, timedOut := timedOut
    sinceSafe := if safePhase x then 0 else x.sinceSafe
    safeAt := if safePhase x then s.tide else x.safeAt }

/-- WAIT: a safe point in PREPARE, PROGRESS and UNDO; a reserved condition or timeout is an undefined
operation (DEDUCED, log 35). -/
def execWait (e c a b : Nat) (cond : Byte) (invert : Bool) (s : State) : Host.Outcome State Fault Refusal :=
  .next (microSafe s e c (uword 0x20 a b (cond.toNat + 256 * invert.toNat)) fun s =>
    let x := ctxAt s e c
    let arg := readReg s x a
    let timeout := readReg s x b
    if !waitDefined cond.toNat timeout then engineFault s e 1 ((x.pc + 65535) % 65536)
    else
      let r := if safePhase x then takePending (safePoint s e c) e c else (s, false)
      let w : WaitFor := ⟨cond.toNat, invert, arg, some (s.tide + ceilDiv (4 * timeout.toNat) 5), false⟩
      if r.2 then r.1
      else modCtx (takeTurn r.1 e c true) e c fun x => { x with timedOut := false, wait := some w })

/-- The tide at which a WAIT for the tide ends. -/
def waitTide (s : State) (w : WaitFor) : Nat :=
  if w.cond = 2 ∧ !w.invert then s.tide + (w.arg.toNat + 2 ^ 32 - s.tide % 2 ^ 32) % 2 ^ 32 else s.tide

/-- The result words of a context reach host memory (R39, R433). -/
def dmaDrain (s : State) (e c : Nat) : State :=
  match ctxCmd s e c with
  | some k =>
    let x := ctxAt s e c
    if x.dma = [] ∨ !k.hdr.resDma ∨ k.viaChain then s
    else writeResult s k.hdr.resultPtr.toNat (dmaBytes s k.hdr x)
  | none => s

/-- WAIT_WAKE: the condition of the WAIT is true; its host DMA is complete as it wakes for that. -/
def execWaitWake (e c : Nat) (s : State) : Host.Outcome State Fault Refusal :=
  .next (match (ctxAt s e c).wait with
  | none => s
  | some w =>
    if (engAt s e).state ≠ 0 then s
    else
      if waitShown s w != w.invert then waitOver (if w.cond = 9 then dmaDrain s e c else s) e c false
      else if w.cond = 2 ∧ !w.invert then waitOver (reach s (waitTide s w)) e c false
      else s)

/-- WAIT_TIMEOUT: the context goes on with condition 11 true. -/
def execWaitTimeout (e c : Nat) (s : State) : Host.Outcome State Fault Refusal :=
  .next (match (ctxAt s e c).wait with
  | none => s
  | some w =>
    if (engAt s e).state ≠ 0 then s
    else waitOver (count (reach s ((w.until_).getD s.tide)) 6 0 0xA8 (8 * e + 4)) e c true)

/-! ### Phases (R437 to R439) -/

/-- POLL. -/
def execPoll (e c : Nat) (s : State) : Host.Outcome State Fault Refusal :=
  .next (microSafe s e c (uword 0x21 0 0 0) fun s => (takePending (safePoint s e c) e c).1)

/-- COMMIT: a safe point, then the commit phase; the command is past its commit point. -/
def execCommit (e c : Nat) (s : State) : Host.Outcome State Fault Refusal :=
  .next (microSafe s e c (uword 0x22 0 0 0) fun s =>
    let r := takePending (safePoint s e c) e c
    if r.2 then r.1
    else
      let s := modCtx r.1 e c fun x => { x with phase := .commit, inCommit := true, commitAt := s.tide }
      match ctxCmd s e c with
      | some k => putCmd s { k with phase := .commit }
      | none => s)

/-- ENDC. -/
def execEndc (e c : Nat) (s : State) : Host.Outcome State Fault Refusal :=
  .next (microCtx s e c (uword 0x23 0 0 0) fun _ x => { x with inCommit := false })

/-- The phase after a PROG: a routine in PREPARE enters PROGRESS, a handler of an abort taken in PROGRESS enters UNDO
(R437, R438; DESIGN CHOICE, log 110). -/
def progPhase (x : Ctx) : RPhase :=
  if x.phase = .prepare then .progress
  else if x.phase = .progress && x.handled && x.abort then .undo else x.phase

/-- PROG: the progress code. -/
def execProg (e c : Nat) (imm : BitVec 16) (s : State) : Host.Outcome State Fault Refusal :=
  .next (microCtx s e c (uword 0x24 0 0 imm.toNat) fun _ x =>
    { writeReg x 28 (imm.setWidth 32) with phase := progPhase x })

/-! ### Tide, chain and events -/

/-- TIDE: the read of the low half latches the high half. -/
def execTide (e c a : Nat) (high : Bool) (s : State) : Host.Outcome State Fault Refusal :=
  .next (microCtx s e c (uword 0x28 a 0 high.toNat) fun s x =>
    if high then writeReg x a x.tideHigh
    else { writeReg x a (BitVec.ofNat 32 s.tide) with tideHigh := BitVec.ofNat 32 (s.tide / 2 ^ 32) })

/-- The pending bake of a context's command is armed for an instant (R20, R433; DESIGN CHOICE, log 111). -/
def armPending (s : State) (e c i : Nat) : State :=
  match s.par.pendBake, ctxCmd s e c with
  | some p, some k =>
    if p.tag = some k.ord then { s with par := { s.par with pendBake := some { p with armed := true, instant := i } } }
    else s
  | _, _ => s

/-- TARM. -/
def execTarm (e c a b : Nat) (s : State) : Host.Outcome State Fault Refusal :=
  .next (micro s e c (uword 0x29 a b 0) fun s x =>
    let i := (readReg s x a).toNat + 2 ^ 32 * (readReg s x 1).toNat
    armPending { s with par := { s.par with comparators := tabSet s.par.comparators (readReg s x b).toNat i } } e c i)

/-- The SIGNAL of a code with a 32-bit argument (R363). -/
def signalOf (code : Nat) (a : Word) : Signal :=
  let v := a.toNat
  match code with
  | 0x01 => .bakeArm v 0
  | 0x02 => .bakeReady v
  | 0x03 => .bakeGo v
  | 0x04 => .bakeCancel v
  | 0x05 => .token v
  | 0x06 => .trigRaise 0 v
  | 0x07 => .trigDeliver 0 v
  | 0x08 => .oven (bit a 0)
  | 0x09 => .tidePing (v % 65536)
  | 0x0A => .tidePong (v % 65536)
  | 0x0B => .lost (v % 128)
  | _ => .raw code a

/-- SIGNALs that go up the tree. -/
def signalUp (code : Nat) : Bool := code = 2 || code = 6 || code = 0x0A || code = 0x0B

/-- SIG. -/
def execSig (e c a : Nat) (code : Byte) (s : State) : Host.Outcome State Fault Refusal :=
  .next (micro s e c (uword 0x2A a 0 code.toNat) fun s x =>
    send s (.signal (if signalUp code.toNat then some s.chain.upPort else none)
      (signalOf code.toNat (readReg s x a))))

/-- FWD: the slot goes to the device, whose reply is then awaited. -/
def execFwd (e c a : Nat) (s : State) : Host.Outcome State Fault Refusal :=
  .next (micro s e c (uword 0x2B a 0 0) fun s x =>
    match ctxCmd s e c with
    | none => s
    | some k =>
      let i := fld (readReg s x a) 0 7
      if treePort s i = [] then s
      else
        let s := putCmd s { k with missing := if k.missing.contains i then k.missing else k.missing ++ [i] }
        send s (.frame none (.command { k.hdr with chain := BitVec.ofNat 7 i } k.op)))

/-- EVT: the ACK field of family Imm[15:8], member Imm[7:0], of the command's target counts (DEDUCED,
log 36); a count that is a cause of vector 0 raises it. -/
def execEvt (e c : Nat) (imm : BitVec 16) (s : State) : Host.Outcome State Fault Refusal :=
  .next (micro s e c (uword 0x2C 0 0 imm.toNat) fun s x =>
    let t := readReg s x 25
    let id := pid (fld t 28 4) (fld t 16 12) (imm.toNat / 256) (imm.toNat % 256)
    match idOne id with
    | some .ack =>
      let s := setAck s id (ackBump (ackOf s id))
      (match (List.range 6).find? fun n => vec0Id n = id with
       | some n => vec0 s n
       | none => s)
    | _ => s)

/-- What the fetch of a context delivers can raise the fault: an undefined word, any word with a parity error, or the
FAULT microword (R433, R446). -/
def deliversFault (s : State) (e : Nat) (x : Ctx) (cause : EngCause) : Bool :=
  match cause with
  | .undefinedOp => !inPatchRam (fetchAddr (engAt s e) x.pc) || (microDecode 0 0 (fetchWord (engAt s e) x.pc)).isNone
  | .parity => true
  | .microword code => delivers s e x (uword 0x30 0 0 code.toNat)

/-- FAULT: engine fault 7 by the microword; 1 and 2 by what the fetch delivers. -/
def execFault (e c : Nat) (cause : EngCause) (s : State) : Host.Outcome State Fault Refusal :=
  .next (if ctxReady s e c && deliversFault s e (ctxAt s e c) cause then
    engineFault s e (match cause with | .undefinedOp => 1 | .parity => 2 | .microword _ => 7)
      (ctxAt s e c).pc
  else s)

/-- ENGINE_RESTART (R447): the engine runs again, with its patch. -/
def execEngineRestart (e : Nat) (s : State) : Host.Outcome State Fault Refusal :=
  .next (if (engAt s e).state = 1 then setEng s e { engAt s e with state := 0, ctxs := [] } else s)

end Sys2Proof.Machine
end

