-- ==== Sys2Proof/Machine/McOps.lean ====
section
/-! DEFINITION. Microcode patches (R450 to R457): the verification of an image, its load, and the
commands MC_PATCH_LOAD, MC_VERSION and FUSE_READ. -/

namespace Sys2Proof.Machine

/-! ### The image (R450, R451) -/

def imgRomVer (b : List Byte) : Nat := leAt b 8 2
def imgPatchVer (b : List Byte) : Nat := leAt b 10 2
def imgLevel (b : List Byte) : Nat := leAt b 12 1 % 64
def imgBump (b : List Byte) : Bool := bitAt b 13 0
def imgMask (b : List Byte) : Nat := leAt b 13 1 / 2 % 32
def imgPayload (b : List Byte) : Nat := leAt b 16 4
def imgPoints (b : List Byte) : Nat := leAt b 20 4
def imgWords (b : List Byte) : Nat := (imgPayload b - 8 * imgPoints b) / 4
def imgKey (b : List Byte) : List Byte := (b.drop 48).take 97

/-- Every byte of a range is 0. -/
def allZero (b : List Byte) (k n : Nat) : Bool := leAt b k n = 0

/-- A patch-point entry (R451). -/
def pointOk (b : List Byte) (i : Nat) : Bool :=
  let k := 256 + 8 * i
  leAt b k 2 < 0x4000 && 0x8000 ≤ leAt b (k + 2) 2 && leAt b (k + 2) 2 < 0x8000 + imgWords b &&
    allZero b (k + 4) 4

/-- Step 1 of R452 for the engines requested. -/
def imgHeaderOk (b : List Byte) (mask : Nat) : Bool :=
  leAt b 0 4 = 0x434D5850 && leAt b 4 1 = 1 && allZero b 5 1 && leAt b 6 2 = 256 &&
    imgRomVer b = Config.romVer.toNat && imgPatchVer b ≠ 0 && leAt b 12 1 < 64 && leAt b 13 3 < 64 &&
    allZero b 28 20 && allZero b 145 111 && imgPoints b ≤ 256 &&
    8 * imgPoints b + 4 ≤ imgPayload b && imgPayload b = 8 * imgPoints b + 4 * imgWords b &&
    imgWords b ≤ 4096 && b.length = 256 + imgPayload b + 96 &&
    (List.range (imgPoints b)).all (pointOk b) &&
    Nat.land mask (imgMask b) = mask &&
    leAt b 24 4 = (crc32 ((b.drop 256).take (imgPayload b))).toNat

/-- Why an image fails: the first step of R452 that does, as a verdict and as Result (R457). -/
def imgFails (s : State) (b : List Byte) (mask : Nat) : Option (Verdict × Nat) :=
  if !imgHeaderOk b mask then some ((stAuth, dataOf [(16, 1, 1)]), 2)
  else if !(Config.keyFused && Config.keyHashOk (imgKey b)) then some ((stAuth, dataOf [(16, 1, 2)]), 3)
  else if !Config.signatureOk b then some ((stAuth, dataOf [(16, 1, 3)]), 4)
  else if imgLevel b < fusedLevel s then
    some ((stRollback, dataOf [(16, 2, fusedLevel s), (18, 2, imgLevel b)]), 5)
  else none

/-! ### Loading (R449, R454 to R456) -/

def enginesOf (mask : Nat) : List Nat := (List.range 5).filter (natBit mask)

/-- The engines of a mask switch to the image's patch points and patch RAM. -/
def patchEngines (s : State) (b : List Byte) (mask : Nat) : State :=
  let points := (List.range (imgPoints b)).foldl (fun t i =>
    tabSet t (leAt b (256 + 8 * i) 2) (leAt b (256 + 8 * i + 2) 2)) ([] : Tab Nat)
  let base := 256 + 8 * imgPoints b
  let ram : Tab Word := (List.range (imgWords b)).map fun i => (0x8000 + i, wordAt b (base + 4 * i))
  let s := forAll s (enginesOf mask) fun s e => setEng s e { engAt s e with
    patchRam := ram, patchPoints := points, patchVer := imgPatchVer b }
  let run := (List.range 5).filter fun e => (engAt s e).patchVer = imgPatchVer b
  { s with mc := { s.mc with
    patchVer := imgPatchVer b, patchMask := (run.map (2 ^ ·)).sum, imageLevel := imgLevel b, result := 1 } }

/-- An image is offered from a source: 1 boot flash, 2 MC_PATCH_LOAD. -/
def mcOffered (s : State) (source result : Nat) : State :=
  { s with mc := { s.mc with source := source, result := result } }

/-- At boot the image goes to every engine of its own mask; the fused level stays (R454, R455). -/
def bootPatch (s : State) (b : List Byte) : State :=
  match imgFails s b (imgMask b) with
  | some f => mcOffered s 1 f.2
  | none => patchEngines (mcOffered s 1 1) b (imgMask b)

/-- MC_PATCH_LOAD. -/
def performPatch (s : State) (c : Cmd) (mask : Nat) (b : List Byte) : State :=
  match imgFails s b mask with
  | some f => completeV (mcOffered s 2 f.2) c f.1
  | none =>
    let bump := imgBump b && decide (fusedLevel s < imgLevel b)
    let s := patchEngines (mcOffered s 2 1) b mask
    if bump then
      let ok := Config.fuseProgramOk s.freeCtr
      let s := { s with freeCtr := s.freeCtr + 1 }
      if ok then
        let s := { s with mc := { s.mc with raisedLevel := imgLevel b } }
        completeOk s c [(16, 8, mcver s)]
      else completeV (mcOffered s 2 6) c (hwFault 0x8A 0)
    else completeOk s c [(16, 8, mcver s)]

/-- An engine that an MC_PATCH_LOAD finds busy (R456). -/
def patchBusy (s : State) (ord e : Nat) : Bool :=
  s.inflight.any (fun c => (enginesFor s c).contains e && c.ord ≠ ord) || (answeredCmds s).any (fun c => (enginesFor s c).contains e) ||
    (engAt s e).state = 2 ||
    (e < 4 && (berthsOfWing e).any fun b => calBusy s b || ramping (spAt s b) || (spAt s b).state = .starting)

def performMcVersion (s : State) (c : Cmd) : State := completeOk s c [(16, 8, mcver s)]

/-- FUSE_READ: the fuse words are the die's own (log 3). -/
def performFuseRead (s : State) (c : Cmd) (w : BitVec 8) : State :=
  completeOk s c [(16, 4, (Config.fuseWord w).toNat)]

end Sys2Proof.Machine
end

