-- ==== Sys2Proof/Machine/Boot.lean ====
section
/-! DEFINITION. Start-up and power (R543 to R571): the fall of RST_N, the supplies, the strap capture,
the boot flash, the park load and the end of BOOTING; berth power (R44, R499). -/

namespace Sys2Proof.Machine

def modBoot (s : State) (f : Boot → Boot) : State := { s with boot := f s.boot }

/-! ### Berth power (R44, R195, R499) -/

/-- A berth's analog domain is on and its park load starts with the disconnect switches open: ParkMode is applied 2.0 µs
later (R194). It is PARKED from the park load on. -/
def berthOn (s : State) (b : Nat) : State :=
  let entered := !(berthAt s b).powered
  let s := forAll s (chansOfBerth b) fun s c =>
    parkStart (modChan s c fun x => { x with mode := 0, connect := false, frozen := [] }) c
  let s := modBerth s b fun x => { x with
    run := .parked, powered := true, park := some { applyAt := some (s.tide + usTc 2) } }
  if entered && leaderOf s b = b then blankAll s b else s

/-- LastTemp is set at park load before the berth's first run (R400). -/
def parkTemp (s : State) (b : Nat) : State :=
  if (calAt s b).runCount = 0 then
    modCal s b fun x => { x with lastTemp := (temp16 s b).getD x.lastTemp }
  else s

/-- A channel circuit in a domain that is off: no driver, the switch open (R193). -/
def chanOff (s : State) (c : Nat) : State :=
  modChan s c fun x => { x with
    connect := false, parkActive := false, parkSet := [], loadOff := true, mode := 0, driver := .hiz, limitAt := none, frozen := []
    holdNext := none, overlap := false, crowd := [], rangeSw := none, inClamp := false
    lwDelta := [], calCurrent := false, ppmu := none }

/-- The crossbar opens and relief ends (R394, R499). -/
def crossbarOpen (s : State) (b : Nat) : State :=
  modBerth s b fun x => { x with
    subst := 0, seqPhase := 0, target := 31, movedAt := none, cal := { x.cal with relievedPos := 31 } }

/-- A berth's analog domain is off (R499). -/
def berthOff (s : State) (b : Nat) : State :=
  let s := crossbarOpen (forAll s (chansOfBerth b) chanOff) b
  modBerth s b fun x => { x with run := .off, powered := false, park := none }

/-! ### The fall of RST_N (R551) -/

/-- ACK counts of the always-on domain (R506, R576). -/
def alwaysOnFam (f : Nat) : Bool := f = 0xC0 || f = 0xC1 || f = 0xD8 || f = 0xD9

/-- The hold's contents after a loss: any bytes (log 3). -/
def freeMem (n : Nat) : Mem := memWriteBytes [] 0 ((Config.freeBytes n).take holdSize)

/-- A zone across the fall: a stop stays latched, and its berths are off (R408). -/
def zoneCold (x : Zone) : Zone := { x with state := if x.state = 3 then 4 else x.state }

/-- The device in COLD: the always-on domain is kept, everything else is as before the boot. -/
def coldState (s : State) : State :=
  { State.reset with
    pending := s.pending
    out := s.out
    freeCtr := s.freeCtr + 1
    nextOrd := s.nextOrd
    acks := s.acks.filter fun e => alwaysOnFam (idFam (BitVec.ofNat 32 e.1))
    host := { State.reset.host with
      rqMem := s.host.rqMem
      hostMem := s.host.hostMem
      msix := s.host.msix.map fun v => (v.1, { v.2 with masked := true, pending := false })
      perstHeld := s.host.perstHeld
      lastType := s.host.lastType
      lastScope := s.host.lastScope
      lastInst := s.host.lastInst
      lastFlush := s.host.lastFlush }
    hold := { mem := freeMem s.freeCtr, stackHot := s.hold.stackHot }
    therm := { s.therm with zones := s.therm.zones.map fun z => (z.1, zoneCold z.2) }
    clk := { State.reset.clk with
      hkSettled := s.clk.hkSettled
      trimLock := s.clk.trimLock
      trimCode := s.clk.trimCode
      trimError := s.clk.trimError
      refPresent := s.clk.refPresent
      ovenLevel := s.clk.ovenLevel }
    mc := { State.reset.mc with raisedLevel := s.mc.raisedLevel }
    boot := { State.reset.boot with
      aonOn := s.boot.aonOn
      railVdd := s.boot.railVdd
      railVdda := s.boot.railVdda
      railsBad := s.boot.railsBad
      rst := s.boot.rst
      testReset := s.boot.testReset } }

/-- RST_N_FALL. -/
def execRstNFall (s : State) : Host.Outcome State Fault Refusal :=
  .next (if s.boot.rst || !s.boot.aonOn then s
    else
      let s := count s 6 0 0xD9 4
      let s := if s.cold then s else coldState s
      modBoot s fun x => { x with rst := true, straps := none, strapConflicts := 0 })

/-- The number of a monitored rail (R584). -/
def railNo (r : Rail) : Nat :=
  match r with
  | .vddCore => 0 | .vddaFe => 1 | .vddHbm => 2 | .vpinHi => 3 | .vpinLo => 4

/-- RAIL_FAULT (R554): as a fall of RST_N; the straps must be captured again. -/
def execRailFault (r : Rail) (s : State) : Host.Outcome State Fault Refusal :=
  .next (if !s.boot.aonOn then s
    else
      let s := count s 6 0 0xD9 5
      let s := if s.cold then s else coldState s
      modBoot s fun x => { x with
        railsBad := Nat.lor x.railsBad (2 ^ railNo r), straps := none, strapConflicts := 0
        railVdda := if r = .vddaFe then false else x.railVdda })

/-! ### Supplies, RST_N's release, the other reset balls -/

/-- AON_POWER_UP (R467): the housekeeping oscillator starts on its fuse trim. -/
def execAonPowerUp (s : State) : Host.Outcome State Fault Refusal :=
  .next (if s.boot.aonOn then s else modBoot s fun x => { x with aonOn := true })

/-- AON_SUPPLY_LOSS (R554): only what is fused, and host memory, is kept. -/
def execAonSupplyLoss (s : State) : Host.Outcome State Fault Refusal :=
  .next { State.reset with
    pending := s.pending
    out := s.out
    freeCtr := s.freeCtr + 1
    nextOrd := s.nextOrd
    host := { State.reset.host with
      rqMem := s.host.rqMem
      hostMem := s.host.hostMem
      msix := s.host.msix.map fun v => (v.1, { v.2 with masked := true, pending := false })
      perstHeld := s.host.perstHeld }
    hold := { mem := freeMem s.freeCtr }
    clk := { State.reset.clk with ovenLevel := s.clk.ovenLevel }
    mc := { State.reset.mc with raisedLevel := s.mc.raisedLevel } }

/-- RAIL_VALID (R555). -/
def execRailValid (r : IoRail) (s : State) : Host.Outcome State Fault Refusal :=
  .next (match r with
  | .vddIo => modBoot s fun x => { x with railVdd := true }
  | .vddaFe => modBoot s fun x => { x with railVdda := true, railsBad := Nat.land x.railsBad 0x1D })

/-- TRST_N_ASSERT (R550). -/
def execTrstNAssert (s : State) : Host.Outcome State Fault Refusal :=
  .next (modBoot s fun x => { x with testReset := true })

/-- DEV_READY is released in PARKED to HALTED (R550). -/
def devReady (s : State) : Bool := 2 ≤ devRun s && devRun s ≤ 6

/-! ### The strap capture (R548, R549, R460) -/

/-- The conflicts of R549. -/
def conflictsOf (x : Straps) : Nat :=
  let follower := decide (x.chainRole = 2#2)
  flag (!follower && x.refSel = 3#2) 0 + flag (decide (x.chainRole = 3#2)) 1 + flag (x.parkSrc && x.bootSrc) 2 +
    flag (!follower && !x.pcieEn) 3

/-- The selected reference that the straps give. -/
def strapRef (x : Straps) : Nat :=
  if x.chainRole = 2#2 then 2 else if x.refSel = 1#2 || x.refSel = 2#2 then 1 else 0

/-- STRAP_CAPTURE: BOOTING begins (step 1 of R564). After a rail fault RST_N must have been low (R554). -/
def execStrapCapture (x : Straps) (s : State) : Host.Outcome State Fault Refusal :=
  .next (if s.cold && s.boot.aonOn && s.clk.hkSettled && (s.boot.railsBad = 0 || s.boot.rst) then
    let s := { s with cold := false, booted := false, unparked := false }
    let s := modBoot s fun y => { y with
      straps := some x, strapConflicts := conflictsOf x, rst := false, railsBad := 0, step := 2 }
    modClk s fun y => { y with
      refSel := strapRef x, strapConflict := decide (x.chainRole ≠ 2#2 ∧ x.refSel = 3#2) }
  else s)

/-! ### Boot steps (R564) -/

/-- The flash is not read: steps 4 to 8 are skipped. -/
def flashSkipped (s : State) : Bool :=
  strap s (fun x => b01 x.bootSrc) = 1 || (natBit s.boot.flashRead 0 && !s.boot.flashFound)

def flashGot (s : State) (n : Nat) : Bool := flashSkipped s || natBit s.boot.flashRead n

def booting (s : State) : Bool := !s.cold && !s.booted

/-- Berths that step 7 powers. -/
def bootMask (s : State) (b : Nat) : Bool := natBit s.boot.bootBerths b && (stoppedZone s b).isNone

/-- Step 7 has nothing left to power from quay `q` on. -/
def quaysDone (s : State) (q : Nat) : Bool :=
  (List.range 64).all fun b => quayOfBerth b < q || !bootMask s b

def step6Done (s : State) : Bool := flashGot s 2 && flashGot s 3
def step3Done (s : State) : Bool := s.boot.refQualified && s.tideOn
def step7Done (s : State) : Bool := flashSkipped s || quaysDone s s.boot.quaysUp

/-- The lowest step of R564 that is not complete. -/
def bootStep (s : State) : Nat :=
  if !s.boot.fusesRead then 2
  else if !step3Done s then 3
  else if !flashGot s 0 then 4
  else if !flashGot s 1 then 5
  else if !step6Done s then 6
  else if !step7Done s then 7
  else if !flashGot s 4 then 8
  else if !s.booted then 9
  else 10

def stepNote (s : State) : State := modBoot s fun x => { x with step := bootStep s }

/-- BOOT_REFERENCE_QUALIFIED (R467, R474): point Q. -/
def execBootReferenceQualified (s : State) : Host.Outcome State Fault Refusal :=
  .next (if booting s && s.clk.refState = .none && !s.boot.refQualified && refcGood s then
    stepNote (modBoot (modClk s fun x => setPresent x x.refSel true) fun x => { x with refQualified := true })
  else s)

/-- FUSES_READ_DONE: CE0 to CE4 run. -/
def execFusesReadDone (s : State) : Host.Outcome State Fault Refusal :=
  .next (if booting s && !s.boot.fusesRead then stepNote (modBoot s fun x => { x with fusesRead := true }) else s)

/-! ### The boot flash (R556 to R563) -/

/-- A configuration content (R560) that is valid. -/
def configOk (b : List Byte) : Bool :=
  b.length = 64 && leAt b 0 1 = 1 && leAt b 1 1 = 0 && leAt b 6 2 = 0 && allZero b 16 48

/-- Without a valid configuration the defaults apply. -/
def configDefault (s : State) (result : Nat) : State :=
  modBoot s fun x => { x with bootBerths := 2 ^ 64 - 1, configResult := result }

def configRead (s : State) (e : Option (Bool × List Byte)) : State :=
  match e with
  | none => configDefault s 0
  | some (false, _) => configDefault s 2
  | some (true, b) =>
    if configOk b then
      modBoot { s with host := { s.host with subsysVendor := leAt b 2 2, subsysId := leAt b 4 2 } } fun x =>
        { x with bootBerths := leAt b 8 8, configResult := 1 }
    else configDefault s 3

/-- The record of a channel in a park table (R561). -/
def parkRecord (b : List Byte) (c : Nat) : List Word := wordsFrom b (64 + 40 * c) 10

/-- A park table header that is valid. -/
def parkHeadOk (b : List Byte) : Bool :=
  let uniform := bitAt b 1 0
  let n := if uniform then 1 else 1088
  leAt b 0 1 = 1 && leAt b 1 3 / 2 = 0 && leAt b 4 2 = n && allZero b 6 58 && b.length = 64 + 40 * n

/-- The park set of every channel. -/
def parkTableOf (b : List Byte) : Tab (List Word) :=
  let uniform := bitAt b 1 0
  (List.range 1088).map fun c => (c, parkRecord b (if uniform then 0 else c))

/-- Every word is defined, and each code lies in its DAC's legal range (R562, R179). -/
def parkWordsOk (ws : List Word) : Bool :=
  (ws.zipIdx).all fun e => valueLegal 0x46 e.2 e.1 &&
    (8 < e.2 || (decide (dacLeast e.2 ≤ fld e.1 0 18) && decide (fld e.1 0 18 ≤ dacMost e.2)))

def parkUse (s : State) (t : Tab (List Word)) : State :=
  modBoot s fun x => { x with parkSrcUsed := true, parkTable := t, parkResult := 1 }

def parkRefuse (s : State) (result : Nat) : State :=
  modBoot s fun x => { x with parkSrcUsed := false, parkTable := [], parkResult := result }

/-- The park table is used for all channels or for none (R562). -/
def parkTableRead (s : State) (e : Option (Bool × List Byte)) : State :=
  if strap s (fun x => b01 (x.parkSrc && !x.bootSrc)) = 0 then parkRefuse s 0
  else match e with
  | none => parkRefuse s 0
  | some (false, _) => parkRefuse s 2
  | some (true, b) =>
    if !parkHeadOk b then parkRefuse s 3
    else
      let t := parkTableOf b
      let u := parkUse s t
      if t.all (fun e => parkWordsOk e.2) && (List.range 1088).all (fun c => level4 u c = []) then u
      else parkRefuse s 4

/-- The correction image (R563): checked under R396 for the whole device. -/
def corrRead (s : State) (e : Option (Bool × List Byte)) : State :=
  let note (n : Nat) (b : List Byte) : State := modBoot s fun x => { x with corrResult := n, corrImage := b }
  match e with
  | none => note 0 []
  | some (false, _) => note 2 []
  | some (true, b) =>
    if imageOk 6 0 b then note 1 b
    else if leAt b 8 8 ≠ Config.serial.toNat then note 4 []
    else note 3 []

/-! ### Directories (R557 to R559) -/

def dirCount (b : List Byte) : Nat := leAt b 6 1 % 16
def dirSeq (b : List Byte) : Nat := leAt b 8 4

/-- A copy is valid: Magic, Format and DirCrc, the CRC over header and entries with DirCrc taken as 0. -/
def dirOk (b : List Byte) : Bool :=
  leAt b 0 4 = 0x4C465850 && leAt b 4 1 = 1 && 64 + 16 * dirCount b ≤ b.length &&
    leAt b 60 4 = (crc32 (b.take 60 ++ List.replicate 4 0#8 ++ (b.drop 64).take (16 * dirCount b))).toNat

/-- The copy in use and its number (R557): of two valid ones the higher DirSeq, copy A when they are equal. -/
def dirPick (a b : List Byte) : Nat × List Byte :=
  if dirOk a && (!dirOk b || dirSeq b ≤ dirSeq a) then (1, a) else if dirOk b then (2, b) else (0, [])

def dirEntries (b : List Byte) : List DirEntry :=
  (List.range (dirCount b)).map fun i =>
    let k := 64 + 16 * i
    ⟨leAt b k 1, leAt b (k + 4) 4, leAt b (k + 8) 4, wordAt b (k + 12)⟩

/-- The entry type of a content (R559), by its number in `flashRead`. -/
def flashType (n : Nat) : Nat :=
  match n with
  | 1 => 3
  | 2 => 1
  | 3 => 2
  | _ => 4

/-- The entry of a content: the first of its type. One that reaches past flash offset 0x0FFF_FFFF is not used (R556;
taken as absent, DESIGN CHOICE, log 107). -/
def dirEntry (s : State) (n : Nat) : Option DirEntry :=
  match s.boot.dir.find? fun e => e.type = flashType n with
  | some e => if e.offset + e.length ≤ 0x10000000 then some e else none
  | none => none

/-- A content that has been read: whether its bytes match the entry's Crc, and the bytes (R559). -/
def entryOf (s : State) (n : Nat) (bytes : List Byte) : Option (Bool × List Byte) :=
  (dirEntry s n).map fun e =>
    let b := bytes.take e.length
    (b.length = e.length && crc32 b = e.crc, b)

/-- The outcome of a content: absent, with a CRC error, or with its bytes. -/
def contentRead (s : State) (n : Nat) (e : Option (Bool × List Byte)) : State :=
  match n with
  | 1 =>
    (match e with
     | some (true, b) => bootPatch s b
     | _ => s)
  | 2 => configRead s e
  | 3 => parkTableRead s e
  | _ => corrRead s e

/-- A content has been read. -/
def flashMark (s : State) (n : Nat) : State :=
  stepNote (modBoot s fun x => { x with flashRead := Nat.lor x.flashRead (2 ^ n) })

/-- The device waits for this content: the earlier steps are done and the flash is read. -/
def flashWants (s : State) (n : Nat) : Bool :=
  booting s && s.boot.fusesRead && strap s (fun x => b01 x.bootSrc) = 0 && !flashSkipped s &&
    !natBit s.boot.flashRead n &&
    (match n with
     | 0 => true
     | 1 => natBit s.boot.flashRead 0
     | 4 => natBit s.boot.flashRead 2 && natBit s.boot.flashRead 3
     | _ => natBit s.boot.flashRead 1)

/-- The directories have been read; contents without an entry are absent, and nothing is read for them. -/
def directoriesRead (s : State) (sfdp : Bool) (a b : List Byte) : State :=
  let p := if sfdp then dirPick a b else (0, [])
  let es := dirEntries p.2
  let s := flashMark (modBoot s fun x => { x with
    flashFound := sfdp, dirUsed := p.1, dir := es
    unknownEntries := (es.filter fun e => e.type = 0 || 4 < e.type).length }) 0
  if !sfdp then s
  else forAll s [1, 2, 3, 4] fun s n => if (dirEntry s n).isSome then s else flashMark (contentRead s n none) n

/-- A content of the flash arrives where the device waits for it. -/
def contentCome (s : State) (n : Nat) (bytes : List Byte) : State :=
  if flashWants s n then flashMark (contentRead s n (entryOf s n bytes)) n else s

/-- FLASH_CONTENT_READ: steps 4, 5, 6 and 8. -/
def execFlashContentRead (content : FlashContent) (s : State) : Host.Outcome State Fault Refusal :=
  .next (match content with
  | .directories sfdp a b => if flashWants s 0 then directoriesRead s sfdp a b else s
  | .patch b => contentCome s 1 b
  | .configuration b => contentCome s 2 b
  | .parkTable b => contentCome s 3 b
  | .correction b => contentCome s 4 b)

/-! ### Hold training, berth power, park load, the end of BOOTING -/

/-- HOLD_TRAINING_DONE (R319, R564): a stack that fails training is down. -/
def execHoldTrainingDone (failed : BitVec 2) (s : State) : Host.Outcome State Fault Refusal :=
  .next (if booting s && step3Done s && !s.hold.trained then
    { s with hold := { s.hold with trained := true, stackDown := Nat.lor s.hold.stackDown failed.toNat } }
  else s)

/-- QUAY_POWER_UP_DONE (step 7): quays in ascending order; those without a berth to power are passed. -/
def execQuayPowerUpDone (q : Nat) (s : State) : Host.Outcome State Fault Refusal :=
  .next (if booting s && !s.boot.reload && step3Done s && step6Done s && !flashSkipped s && s.boot.quaysUp ≤ q &&
      (List.range 64).all (fun b => quayOfBerth b < s.boot.quaysUp || q ≤ quayOfBerth b || !bootMask s b) then
    let s := forAll s ((berthsOfQuay q).filter (bootMask s)) fun s b =>
      let s := modBerth s b fun x => { x with powered := true }
      if leaderOf s b = b then blankAll s b else s
    stepNote (modBoot s fun x => { x with quaysUp := q + 1 })
  else s)

/-- The corrections of a correction image load (R563); CalCurrent stays 0. -/
def corrLoad (s : State) : State :=
  if s.boot.corrImage = [] then s
  else
    let s := restoreImage s s.boot.corrImage
    let s := forAll s (List.range 64) fun s b =>
      match (calAt s b).restore with
      | some t =>
        forAll (modCal s b fun x => { x with restore := none, lastTemp := t }) (chansOfBerth b) fun s c =>
          modChan s c fun x => { x with corrGen := x.corrGen + 1, corrAt := modTick s.tide, calTemp := t }
      | none => s
    modBoot s fun x => { x with corrImage := [] }

/-- PARK_LOAD (step 9): every powered berth at one tide instant; one whose zone has stopped meanwhile is
parked hard (R568). -/
def execParkLoad (s : State) : Host.Outcome State Fault Refusal :=
  .next (if booting s && step3Done s && !s.boot.parkLoaded && s.boot.fusesRead &&
      (if s.boot.reload then step6Done s else step7Done s && flashGot s 4) then
    let bs := (List.range 64).filter fun b => (berthAt s b).powered
    let s := forAll s bs fun s b =>
      if (stoppedZone s b).isSome then modBerth (parkHard (berthOn s b) b) b fun x => { x with park := none }
      else berthOn s b
    let s := corrLoad (forAll s bs parkTemp)
    modBoot s fun x => { x with parkLoaded := true, step := 9 }
  else s)

/-- BOOT_COMPLETE (R565): PARKED, or FAULT with both stacks down. BootTime counts from the capture, in a
time that the model does not keep: it is free (log 3). -/
def execBootComplete (s : State) : Host.Outcome State Fault Refusal :=
  .next (if booting s && s.boot.parkLoaded && s.hold.trained && s.clk.hkSettled && s.clk.refState = .locked then
    let s := { s with booted := true, unparked := false, freeCtr := s.freeCtr + 1 }
    let s := modBoot s fun x => { x with
      step := 10, reload := false
      bootTime := if x.reload then x.bootTime else (Config.freeWord (s.freeCtr - 1)).toNat }
    if s.hold.stackDown = 3 then deviceFault s 0x41 0 else s
  else s)

/-! ### Balls (R550, R555) -/

/-- What a ball shows: high impedance, a level, mid-level, the internal pull-down, a reference voltage. -/
inductive BallState where
  | hiz | low | high | mid | pullDown | ref
  deriving DecidableEq, Repr

/-- Sbb_EN: the pull-down alone until VDDA_FE is valid. -/
def enBall (s : State) (b : Nat) : BallState :=
  if !s.boot.railVdda then .pullDown else if (spAt s (leaderOf s b)).enHigh then .high else .low

/-- Sbb_PWMn: mid-level from VDDA_FE valid on, until its controller drives it. -/
def pwmBall (s : State) (b n : Nat) : BallState :=
  if !s.boot.railVdda then .hiz
  else match (phaseAt (spAt s b).phases n).pwm with
    | .low => .low
    | .high => .high
    | .mid => .mid

/-- Sbb_IREF. -/
def irefBall (s : State) : BallState := if s.boot.railVdda then .ref else .hiz

/-- TPn_SELk_N, TPn_CLK and TPn_DOUT while no transaction clocks them: Hi-Z until VDD_IO is valid. -/
def tpSelBall (s : State) (p k : Nat) : BallState :=
  if !s.boot.railVdd then .hiz else if ((tpSelects s p)[k]?).getD true then .high else .low

def tpClkBall (s : State) (p sel : Nat) : BallState :=
  if !s.boot.railVdd then .hiz
  else if (tpAt s p).run.isSome && bit (baked s (pid 6 0 0xC9 (4 * p + sel))) 0 then .high else .low

/-- The flash port drives its balls only while it may be read. -/
def flashPort (s : State) : Bool :=
  !s.boot.rst && booting s && strap s (fun x => b01 x.bootSrc) = 0 && s.boot.flashRead ≠ 31

/-- DEV_READY, open drain: Hi-Z is released high by the board's pull-up. -/
def readyBall (s : State) : BallState := if s.boot.railVdd && !devReady s then .low else .hiz

end Sys2Proof.Machine
end

