-- ==== Sys2Proof/Machine/Resets.lean ====
section
/-! DEFINITION. RESET_SCOPE and the rows about die-to-die links and resets of crossing sides (R15, R496
to R506). -/

namespace Sys2Proof.Machine

/-! ### Parameters and conditions (R501) -/

/-- The scopes of a reset type. -/
def resetScopes (type : Nat) : List Nat :=
  match type with
  | 0 => [3, 4, 5]
  | 1 => [5]
  | 2 | 3 => [6]
  | _ => []

/-- The engine mask of p+1[3:0]. -/
def resetMask (engines : Option Byte) : Nat := ((engines.map fun e => e.toNat % 16).getD 0)

/-- BAD_PARAM of RESET_SCOPE: the type, its scope, an empty engine mask. -/
def resetOffsets (sc type : Nat) (engines : Option Byte) : List Nat :=
  if (resetScopes type).contains sc && (type ≠ 2 || resetMask engines ≠ 0) then [] else [0]

/-- The engines that a reset restarts. -/
def resetEngines (type : Nat) (engines : Option Byte) : List Nat :=
  match type with
  | 2 => (List.range 4).filter (natBit (resetMask engines))
  | 3 => List.range 5
  | _ => []

/-- A berth that a BERTH reset may cover. -/
def resetBerthOk (s : State) (b : Nat) : Bool :=
  let x := berthAt s b
  (x.run = .off || x.run = .parked || x.run = .idle || x.run = .fault) && ctrlOff s b && !calBusy s b

/-- A berth that a DEVICE reset may find: its controller OFF, and not in the armed set of a quay that is ARMED or
RUNNING. -/
def resetDeviceOk (s : State) (b : Nat) : Bool :=
  let q := quayOfBerth b
  ctrlOff s b && !(((quayAt s q).armed || (quayAt s q).running) && (armedBerths s q).contains b)

/-- The condition of a type, and what failed it first: a berth or an engine. -/
def resetConflict (s : State) (sc i type : Nat) (engines : Option Byte) : Option Verdict :=
  match type with
  | 0 => ((berthsIn sc i).find? fun b => !resetBerthOk s b).map fun b => conflict s 3 b
  | 2 => ((resetEngines 2 engines).find? fun e => (engAt s e).state = 2).map fun e => conflict s 6 e
  | 3 => ((List.range 64).find? fun b => !resetDeviceOk s b).map fun b => conflict s 3 b
  | _ => none

/-- A RESET_SCOPE in progress. -/
def isReset (c : Cmd) : Bool :=
  match c.work with
  | .reset _ _ => true
  | _ => false

/-- The berths, the engines and the wings that a RESET_SCOPE covers. -/
def resetReach (sc i type : Nat) (engines : Option Byte) : List Nat × List Nat × List Nat :=
  match type with
  | 0 => (berthsIn sc i, [], [])
  | 1 => ([], [], [i])
  | 2 => ([], resetEngines 2 engines, [])
  | _ => (List.range 64, List.range 5, List.range 4)

def meets (xs ys : List Nat) : Bool := xs.any fun x => ys.contains x

/-- RESOURCE_BUSY kind 6: a RESET_SCOPE in progress overlaps (R504). -/
def resetOverlap (s : State) (sc i type : Nat) (engines : Option Byte) : Bool :=
  s.inflight.any fun c => isReset c &&
    match c.op with
    | .resetScope t e =>
      let a := resetReach sc i type engines
      let b := resetReach c.hdr.scope.toNat c.hdr.inst.toNat t.toNat e
      meets a.1 b.1 || meets a.2.1 b.2.1 || meets a.2.2 b.2.2
    | _ => false

/-- An ENGINES or DEVICE reset is in progress (R504). -/
def resetOfEngines (s : State) : Bool :=
  s.inflight.any fun c => isReset c &&
    match c.op with
    | .resetScope t _ => 2 ≤ t.toNat
    | _ => false

/-! ### The effects (R502) -/

/-- An ACK counter of a scope-2 or scope-3 family of a berth. -/
def ackOfBerth (b : Nat) (id : Word) : Bool :=
  (idScope id = 2 && berthOfChan (idInst id) = b) || (idScope id = 3 && idInst id = b)

/-- A BERTH reset of one berth. -/
def resetBerth (s : State) (b : Nat) : State :=
  let s := modBerth s b fun x => { x with fc := {}, acq := {}, tmu := {} }
  let s := forAll (crossbarOpen s b) (chansOfBerth b) fun s c =>
    modChan s c fun x => { x with
      failCount := 0, maskedCount := 0, firstFail := 2 ^ 64 - 1, failBurst := 0, calCurrent := false }
  let s := { s with acks := s.acks.filter fun e => !ackOfBerth b (BitVec.ofNat 32 e.1) }
  if (berthAt s b).run = .off then s else berthOn s b

/-- A command on a reset engine completes with ABORTED_CLEAN, whatever it waits for (R503). -/
def resetEnd (s : State) (c : Cmd) : State :=
  finish (unwind s c abortedByEvent.1) c abortedByEvent.1 abortedByEvent.2 []

/-- The commands of a reset engine, or with a part on it, but for the RESET_SCOPE itself: these are what an ENGINES
reset ends; commands on other engines go on (DEDUCED, log 130). -/
def onEngine (s : State) (ord : Nat) (es : List Nat) (c : Cmd) : Bool :=
  c.ord ≠ ord && (enginesFor s c).any es.contains && (c.phase = .running || c.phase = .commit)

/-- The engine's context that runs the RESET_SCOPE survives with it. -/
def keptCtx (s : State) (c : Cmd) (e : Nat) : Tab Ctx :=
  if e = c.engine then [(c.context, ctxAt s e c.context)] else []

/-- An ENGINES reset of one engine: a ramp in progress holds its reference, as when an engine restarts by itself (R447;
DEDUCED, log 38). -/
def resetEngine (c : Cmd) (s : State) (e : Nat) : State :=
  let s := forAll s (if e < 4 then berthsOfWing e else []) rampHold
  setEng s e { engAt s e with state := 0, ctxs := keptCtx s c e, faultTides := [] }

/-- ACK counts that a DEVICE reset keeps: the always-on domain, the host link, the chain links, the
reference. -/
def deviceKeeps (f : Nat) : Bool :=
  alwaysOnFam f || f = 0xD1 || f = 0x82 || f = 0x83 || f = 0x84 || f = 0xB1

/-- A berth across a DEVICE reset; its last cause of FAULT is kept (R594). -/
def deviceBerth (x : Berth) : Berth :=
  { run := if x.run = .off then .off else .parked
    powered := x.powered
    lastFault := x.lastFault
    cal := { lastTemp := x.cal.lastTemp } }

/-- A channel across a DEVICE reset: its corrections are kept. -/
def deviceChan (x : Chan) : Chan :=
  { corrGen := x.corrGen, lastItems := x.lastItems, calCount := x.calCount, calTide := x.calTide
    limitFail := x.limitFail }

/-- An engine across a DEVICE reset: its patch RAM is kept. -/
def deviceEng (s : State) (c : Cmd) (e : Nat) : Eng :=
  { ctxs := keptCtx s c e, patchRam := (engAt s e).patchRam, patchPoints := (engAt s e).patchPoints
    patchVer := (engAt s e).patchVer }

/-- A DEVICE reset: everything outside the always-on domain, the items that R502 keeps and the last causes that
R594 keeps; the park reload of R567 follows. -/
def resetDevice (s : State) (c : Cmd) : State :=
  let sel := (List.range 8).filter fun p => (tpAt s p).run.isSome
  let s := chainUnalign s
  let s' := { State.reset with
    pending := s.pending
    tideOn := s.tideOn
    cold := false
    acks := s.acks.filter fun e => deviceKeeps (idFam (BitVec.ofNat 32 e.1))
    lastDevFault := s.lastDevFault
    lastFaultSource := s.lastFaultSource
    lastFaultInst := s.lastFaultInst
    freeCtr := s.freeCtr
    nextOrd := s.nextOrd
    out := s.out
    host := s.host
    fast := s.fast
    inflight := s.inflight.filter fun x => x.ord = c.ord
    unposted := s.unposted
    chan := s.chan.map fun x => (x.1, deviceChan x.2)
    berth := s.berth.map fun x => (x.1, deviceBerth x.2)
    quay := s.quay.map fun x => (x.1, { haltCause := x.2.haltCause })
    wing := s.wing
    hold := { mem := s.hold.mem, trained := s.hold.trained, stackHot := s.hold.stackHot, selfRefresh := s.hold.selfRefresh }
    chain := { s.chain with pendTrig := [] }
    clk := { s.clk with ovenRise := s.clk.ovenRise - s.tide }
    therm := s.therm
    eng := (List.range 5).map fun e => (e, deviceEng s c e)
    mc := { s.mc with fabric := [] }
    boot := { s.boot with
      step := 6, parkLoaded := false, reload := true
      flashRead := if strap s (fun x => b01 (x.parkSrc && !x.bootSrc)) = 1 && (dirEntry s 3).isSome then
        Nat.land s.boot.flashRead 0x17 else s.boot.flashRead } }
  let s' := if s'.clk.ovenOk && !isFollower s' && s'.tide < ovenDue s' then ovenLost s' else s'
  forAll s' sel fun s p => count s 6 0 0xCA (8 * p + tpCounter 1)

/-- The wings whose partner sides must acknowledge a reset (R496). -/
def resetWings (sc i type : Nat) (engines : Option Byte) : List Nat :=
  match type with
  | 0 => ((berthsIn sc i).map wingOfBerth).eraseDups
  | 1 => [i]
  | 2 => resetEngines 2 engines
  | _ => List.range 4

/-- A command whose target lies in the scope of a reset. -/
def inResetScope (s : State) (sc i : Nat) (c : Cmd) : Bool :=
  let k := c.hdr.scope.toNat
  1 ≤ k && k ≤ 5 && c.hdr.chain.toNat = s.chain.index &&
    (berthsIn k c.hdr.inst.toNat).all fun b => (berthsIn sc i).contains b

/-- Commands in the scope are interrupted, deferred ones that name a covered target end (R57, R444). -/
def resetInterrupt (s : State) (sc i : Nat) (ord : Nat) : State :=
  let p (c : Cmd) : Bool := c.ord ≠ ord && inResetScope s sc i c
  deferredEnd (interrupt s p abortedByEvent) p

/-- RESET_SCOPE past its checks: the indications are raised and the sides clear (R502, R503). -/
def performReset (s : State) (c : Cmd) (type : Nat) (engines : Option Byte) : State :=
  let sc := c.hdr.scope.toNat
  let i := c.hdr.inst.toNat
  let s := { s with host := { s.host with
    lastType := type, lastScope := sc, lastInst := i, inReset := true, lastFlush := 0 } }
  let s := putCmd s { c with work := .reset (resetWings sc i type engines) 0 }
  match type with
  | 0 => forAll (resetInterrupt s sc i c.ord) (berthsIn sc i) resetBerth
  | 1 => resetInterrupt s sc i c.ord
  | 2 =>
    let es := resetEngines 2 engines
    let s := (cmdsWhere s (onEngine s c.ord es)).foldl resetEnd s
    forAll s es (resetEngine c)
  | _ => resetDevice ((cmdsWhere s fun x => x.ord ≠ c.ord).foldl resetEnd s) c

/-- The RESET_SCOPE completes (R503). -/
def resetDone (s : State) (c : Cmd) (flushed : Nat) : State :=
  let s := { s with host := { s.host with
    lastFlush := BitVec.ofNat 32 flushed, inReset := s.inflight.any fun x => isReset x && x.ord ≠ c.ord } }
  let s := count s 6 0 0xC0 1
  match c.op with
  | .resetScope t _ => completeOk s c [(16, 4, flushed), (20, 1, t.toNat), (24, 4, s.par.generation.toNat)]
  | _ => s

/-! ### The rows -/

/-- A RESET_SCOPE of type WING_LINK on wing `w` is in progress. -/
def linkReset (s : State) (w : Nat) : Option (Cmd × Nat) :=
  s.inflight.findSome? fun c =>
    match c.op, c.work with
    | .resetScope t _, .reset [] n => if t = 1#8 && c.hdr.inst.toNat = w then some (c, n) else none
    | _, _ => none

/-- D2D_LINK_LOSS (R15, R500): transfers are frozen, the wing's berths fault. -/
def execD2dLinkLoss (w writes reads : Nat) (s : State) : Host.Outcome State Fault Refusal :=
  .next (if s.cold || (wingAt s w).linkDown then s
    else
      let s := modWing s w fun x => { x with
        linkDown := true, frozen := true, held := writes, heldReads := reads, lastCause := 0xC1 }
      let s := count s 5 w 0xC1 4
      let bs := berthsOfWing w
      berthsFault s bs 0xC1 w (linkFault w) (withLeaders s bs))

/-- The RESET_SCOPE in progress that awaits the partner sides of wing `w`. -/
def awaiting (s : State) (w : Nat) : Option (Cmd × List Nat × Nat) :=
  s.inflight.findSome? fun c =>
    match c.work with
    | .reset ws n => if ws.contains w then some (c, ws, n) else none
    | _ => none

/-- Transfers of a wing that are flushed: each is counted once (R498). -/
def flushCount (s : State) (w deck front reads device : Nat) : State :=
  countN (countN (countN (countN s 5 w 0xC1 1 deck) 5 w 0xC1 2 front) 5 w 0xC1 3 reads) 5 0 0xC1 5 device

/-- RESET_INDICATION (R497 to R499): the partner sides flush the given transfers; a WING_LINK reset also flushes those
that the loss has frozen (R500). A berth of the wing whose domain is off is a reset of its side as well. -/
def execResetIndication (w deck front reads device : Nat) (s : State) : Host.Outcome State Fault Refusal :=
  .next (match awaiting s w with
  | some (c, ws, n) =>
    let link : Bool := match c.op with
      | .resetScope t _ => decide (t = 1#8)
      | _ => false
    let front := if link then front + (wingAt s w).held else front
    let reads := if link then reads + (wingAt s w).heldReads else reads
    let s := flushCount s w deck front reads device
    let s := if link then modWing s w fun x => { x with frozen := false, held := 0, heldReads := 0 } else s
    putCmd s { c with work := .reset (ws.erase w) (n + deck + front + reads + device) }
  | none =>
    if s.booted && (berthsOfWing w).any (fun b => (berthAt s b).run = .off) then flushCount s w deck front reads 0 else s)

/-- A RESET_SCOPE whose partner sides have acknowledged, and which is not training a link. -/
def acknowledged (s : State) : Option (Cmd × Nat) :=
  s.inflight.findSome? fun c =>
    match c.op, c.work with
    | .resetScope t _, .reset [] n =>
      if t = 1#8 && (wingAt s c.hdr.inst.toNat).retrainBy.isSome then none else some (c, n)
    | _, _ => none

/-- RESET_ACKNOWLEDGE (R496): the sides leave reset; for a WING_LINK the training starts, with 100 µs to
retrain. -/
def execResetAcknowledge (s : State) : Host.Outcome State Fault Refusal :=
  .next (match acknowledged s with
  | some (c, n) =>
    match c.op with
    | .resetScope t _ =>
      if t = 1#8 then modWing s c.hdr.inst.toNat fun x => { x with retrainBy := some (s.tide + usTc 100) }
      else resetDone s c n
    | _ => s
  | none => s)

/-- D2D_LINK_RETRAINED (R502): the wing leaves FAULT; its berths stay in FAULT. -/
def execD2dLinkRetrained (w : Nat) (s : State) : Host.Outcome State Fault Refusal :=
  .next (match linkReset s w with
  | some (c, n) =>
    if (wingAt s w).retrainBy.isSome then
      resetDone (lateCross (modWing s w fun x => { x with
        linkDown := false, frozen := false, held := 0, heldReads := 0, retrainBy := none }) w) c n
    else s
  | none => s)

/-- D2D_RETRAIN_TIMEOUT (R500, R503): the crossings stay frozen. -/
def execD2dRetrainTimeout (w : Nat) (s : State) : Host.Outcome State Fault Refusal :=
  .next (match linkReset s w, (wingAt s w).retrainBy with
  | some (c, n), some t =>
    let s := modWing (reach s t) w fun x => { x with
      linkDown := true, frozen := true, retrainBy := none, lastCause := 0xC1 }
    let s := { s with host := { s.host with
      lastFlush := BitVec.ofNat 32 n, inReset := s.inflight.any fun x => isReset x && x.ord ≠ c.ord } }
    completeV s c (hwFault 0xC0 w)
  | _, _ => s)

end Sys2Proof.Machine
end

