-- ==== Sys2Proof/Machine/AdminOps.lean ====
section
/-! DEFINITION. The administration commands (R44, R51, R52, R65, R441, R594, R596): IDENTIFY,
GET_STATE, PARK, UNPARK, BERTH_POWER, CLEAR_FAULT and ABORT. -/

namespace Sys2Proof.Machine

/-! ### NOP, IDENTIFY, GET_STATE -/

def performNop (s : State) (c : Cmd) : State := completeOk s c []

/-- Devices of the chain, this one included. -/
def chainSize (s : State) : Nat := 1 + (followers s).length

/-- IDENTIFY: the spec lists the contents and no layout (free, log 3). -/
def performIdentify (s : State) (c : Cmd) : State :=
  complete s c stOk data0 (padTo 256 ((Config.identifyBytes [0x6410, Config.deckRevision.toNat,
    Config.serial.toNat, s.chain.index, chainSize s, (strapWord s).toNat, mcver s]).take 256))

/-- GET_STATE (R594). -/
def performGetState (s : State) (c : Cmd) : State :=
  let sc := c.hdr.scope.toNat
  let i := c.hdr.inst.toNat
  completeOk s c [(16, 2, stateCode s sc i), (18, 2, lastCause s sc i), (20, 4, s.par.generation.toNat)]

/-! ### PARK (R51, R291) -/

/-- Commands that a PARK touches (R593). -/
def parkTouches (op : HostOp) : Bool :=
  match op with
  | .arm _ _ _ | .start _ _ _ | .halt | .jump _ | .disarm | .ppmuMeasure _ _ _ _ | .acqArm _ _ _
  | .tmuArm _ _ _ _ _ _ => true
  | _ => false

/-- The berths of a scope that a PARK parks. -/
def parksIn (s : State) (sc i : Nat) : List Nat :=
  (berthsIn sc i).filter fun b =>
    (berthAt s b).run = .idle || (berthAt s b).run = .armed || (berthAt s b).run = .running

/-- The state that the parks leave, for the state code of the commands they end (R444). -/
def afterParks (s : State) (bs : List Nat) : State := forAll s bs fun s b => parkOneHard s b 8

/-- Commands touched by a PARK end with STATE_CONFLICT and the state code after it. -/
def parkInterrupt (s : State) (bs : List Nat) : State :=
  let t := afterParks s bs
  (cmdsWhere s fun x => parkTouches x.op && actsOnAny s bs x && x.phase ≠ .deferred &&
      foundPhase x ≠ .late).foldl
    (fun s x => interruptOne (conflict t x.hdr.scope.toNat x.hdr.inst.toNat) s x) s

/-- PARK. -/
def performPark (s : State) (c : Cmd) (mode : Nat) : State :=
  let sc := c.hdr.scope.toNat
  let bs := parksIn s sc c.hdr.inst.toNat
  let group := withLeaders s bs
  let s := putCmd (parkInterrupt s bs) { c with work := .park bs }
  let s := if 6 ≤ sc then deviceParked s else s
  if mode = 0 then
    let s := sequenceStop s group (conflict (afterParks s bs) c.hdr.scope.toNat c.hdr.inst.toNat)
    settle (offAdvance (forAll s bs fun s b => parkOne s b 8 800 group))
  else
    let s := (leadersOf s group).foldl (fun s b => rampCut s b (hwFault 0x36 b)) s
    settle (offAdvance (offHard (forAll s bs fun s b => parkOneHard s b 8) group))

/-! ### UNPARK (R52) -/

/-- UNPARK: a follower that receives it too late stays as it was. -/
def performUnpark (s : State) (c : Cmd) (instant : Nat) : State :=
  if c.viaChain && c.hdr.scope = 7 && decide (instant < c.accepted + 1600) then
    completeV s c (hwFault 0x12 s.chain.index)
  else putCmd s { c with work := .unpark (instantOf c.accepted c.hdr.scope.toNat instant) }

/-! ### BERTH_POWER, CLEAR_FAULT -/

/-- BERTH_POWER (R44, R499). -/
def performBerthPower (s : State) (c : Cmd) (on : Bool) : State :=
  let b := c.hdr.inst.toNat
  completeState (if on then parkTemp (berthOn s b) b else berthOff s b) c

/-- A berth's cause of FAULT still holds (R596). -/
def causeHolds (s : State) (b : Nat) : Bool :=
  (wingAt s (wingOfBerth b)).linkDown || !isOff s b ||
    monLevel s b .ov || monLevel s b .uv || monLevel s b .oc ||
    (chansOfBerth b).any (inLimitNow s)

/-- The device's cause of FAULT still holds (R596). -/
def deviceCauseHolds (s : State) : Bool :=
  !(s.clk.refState = .fallback || s.clk.refState = .locked) || (engAt s 4).state ≠ 0 || s.hold.stackDown = 3

/-- The berths that a CLEAR_FAULT clears. -/
def faultsIn (s : State) (sc i : Nat) : List Nat :=
  if 6 ≤ sc then [] else (berthsIn sc i).filter fun b => (berthAt s b).run = .fault

/-- A berth leaves FAULT; a FAULTED controller of it goes to mid-level and is OFF 1 µs later (R291). -/
def clearBerth (s : State) (b : Nat) : State :=
  let s := modBerth s b fun x => { x with
    run := .parked, park := x.park.map fun p => { p with toFault := false } }
  let s := if leaderOf s b = b && (spAt s b).state = .faulted then
    modSp (pwmAll s b .mid) b fun x => { x with enFallAt := some (s.tide + usTc 1) } else s
  calResume s b

/-- CLEAR_FAULT: the berths of the scope, or the device, which enters PARKED (R47). -/
def performClearFault (s : State) (c : Cmd) : State :=
  let sc := c.hdr.scope.toNat
  let s := if sc = 6 then deviceParked { s with devFault := none }
    else forAll s (faultsIn s sc c.hdr.inst.toNat) clearBerth
  completeState s c

end Sys2Proof.Machine
end

