-- ==== Sys2Proof/Machine/Checks.lean ====
section
/-! DEFINITION. The checks of a command (R38): parameters, target, tag and deferral, legality in the
target's state (R48 to R50, R596), resources, and the proof of a BAKE. -/

namespace Sys2Proof.Machine

/-! ### Checks 2 and 3: parameters and target -/

/-- The scopes that an opcode takes (R65). -/
def opScopes (op : HostOp) : List Nat :=
  match op with
  | .getState | .read _ _ => [2, 3, 4, 5, 6, 7]
  | .park _ | .unpark _ | .resultUpload _ | .spOff _ => [3, 4, 5, 6, 7]
  | .clearFault | .resetScope _ _ | .calSave | .calRestore _ => [3, 4, 5, 6]
  | .stage _ _ | .proof _ | .bake _ _ _ _ _ | .trayClear _ | .trayStatus _ | .spSequence _ | .chainStatus
  | .refSelect _ => [6, 7]
  | .segLoad _ _ _ _ | .arm _ _ _ | .start _ _ _ | .halt | .disarm | .clearHalt => [4, 5, 6, 7]
  | .jump _ | .seqStatus => [4]
  | .ppmuMeasure _ _ _ _ | .calRun _ _ | .calStatus => [2, 3]
  | .berthPower _ | .acqArm _ _ _ | .acqRead _ | .tmuArm _ _ _ _ _ _ | .tmuRead | .failLogRead _ _
  | .spRamp _ _ | .spStatus => [3]
  | .relieve | .unrelieve => [2]
  | .chainEnum | .bcastLoad _ _ _ | .tideAlign => [7]
  | _ => [6]

/-- An opcode that needs ResDma (R65, R591). -/
def needsDma (op : HostOp) : Bool :=
  match op with
  | .identify | .acqRead _ | .tmuRead | .resultUpload _ | .failLogRead _ _ | .calSave => true
  | .read _ ids => decide (2 < ids.length)
  | .thermRead _ count => decide (8 < count.toNat)
  | _ => false

/-- A parameter block whose length the opcode does not take (R591). No slot names a block of more than 65,535 bytes (R37),
so an image of more than 11 berths goes back in parts (DEDUCED, log 127). -/
def lengthBad (op : HostOp) : Bool :=
  match op with
  | .resetScope t e => (t = 2#8) != e.isSome
  | .stage _ ps => decide (8190 < ps.length)
  | .read _ ids => ids.isEmpty || decide (16381 < ids.length)
  | .ackWrite ps => ps.isEmpty || decide (8190 < ps.length)
  | .calRestore image => image.isEmpty || decide (65535 < image.length)
  | .tpXfer _ _ _ _ us => decide (4096 < us.length)
  | .mcPatchLoad _ image => decide (65527 < image.length)
  | _ => false

/-- Slot bytes of a command's own fields that break R37, R38 and R591. -/
def hdrOffsets (h : Hdr) (op : HostOp) : List Nat :=
  offendIf (needsDma op && !h.resDma) 4 ++ offendIf (lengthBad op) 6 ++
    offendIf (!h.defer && h.deferGen ≠ 0#32) 12 ++
    offendIf (if h.resDma then h.resultPtr.toNat % 64 ≠ 0 else h.resultPtr ≠ 0#64) 24 ++
    offendIf (if h.resDma then op = .identify && h.resultLen.toNat < 256 else h.resultLen ≠ 0#32) 32

/-- Parameter bytes whose values no device accepts, whatever its state. -/
def freeOffsets (sc : Nat) (op : HostOp) : List Nat :=
  match op with
  | .park mode => offendIf (1 < mode.toNat) 0
  | .berthPower on => offendIf (1 < on.toNat) 0
  | .resetScope t e => resetOffsets sc t.toNat e ++ offendIf (match e with | some m => 15 < m.toNat | none => false) 1
  | .stage tray ps =>
    offendIf (7 < tray.toNat) 0 ++ listOffsets (fun p => stageable p.id) 8 8 ps
  | .proof tray | .trayClear tray | .trayStatus tray => offendIf (7 < tray.toNat) 0
  | .read sel ids =>
    offendIf (sel ≠ 0#8 && (sel.toNat < 8 || 15 < sel.toNat)) 0 ++
      listOffsets (fun id => (idOne id).isSome) 8 4 ids
  | .ackWrite ps => listOffsets (fun p => ackable p.id) 0 8 ps
  | .segLoad bank off source len => segLoadOffsets sc bank.toNat off.toNat source.toNat len.toNat
  | .arm entry mask _ => offendIf (255 < entry.toNat) 0 ++ offendIf (mask = 0#4) 4
  | .start mode source instant =>
    offendIf (1 < mode.toNat) 0 ++ offendIf (if mode = 0#8 then source ≠ 0#8 else 4 < source.toNat) 1 ++
      offendIf (mode ≠ 0#8 && instant ≠ 0#64) 8
  | .jump target => offendIf (255 < target.toNat) 0
  | .ppmuMeasure _ _ range samples =>
    offendIf (range ≠ 255#8 && 4 < range.toNat) 1 ++ offendIf (samples = 0#32 || 65536 < samples.toNat) 4
  | .tmuArm mode source _ _ _ _ => offendIf (4 < mode.toNat) 0 ++ offendIf (4 < source.toNat) 4
  | .resultUpload content => offendIf (Nat.land content.toNat 0x78 ≠ 0) 0
  | .spRamp _ slew => offendIf (slew ≠ 0#32 && (slew.toNat < 10 || 100000 < slew.toNat)) 4
  | .spSequence es => offendIf (es.isEmpty || 64 < es.length) 0
  | .spOff mode => offendIf (1 < mode.toNat) 0
  | .laneBitslip lane n => laneBitslipOffsets lane.toNat n.toNat
  | .laneTest lane _ _ _ _ _ time => offendIf (47 < lane.toNat) 0 ++ offendIf (time = 0#32 || 10000000 < time.toNat) 4
  | .bcastLoad source dest len => bcastOffsets source.toNat dest.toNat len.toNat
  | .calRun items positions => calRunOffsets sc items.toNat positions.toNat
  | .refSelect r => offendIf (2 < r.toNat) 0
  | .freqMeasure inst kind gate => freqOffsets inst.toNat kind.toNat gate.toNat
  | .thermRead first n => thermReadOffsets first.toNat n.toNat
  | .thermClear z => offendIf (23 < z.toNat) 0
  | .clockMode mask run _ _ kind => clockModeOffsets mask.toNat kind.toNat run
  | .tpXfer _ _ bits _ units => tpOffsets bits.toNat units
  | _ => []

/-- Parameter bytes that break a lead of R52, R88 or R153 at the present tide. -/
def leadOffsets (s : State) (sc : Nat) (op : HostOp) : List Nat :=
  match op with
  | .unpark instant => offendIf (leadBad s sc instant.toNat) 0
  | .start mode source instant =>
    if mode = 0#8 then startOffsets s sc mode.toNat source.toNat instant.toNat else []
  | .bake instant tray _ relative _ =>
    let i := bakeInstant s.tide instant.toNat relative
    offendIf (i < s.tide + bakeMinLead s sc tray.toNat || (sc = 7 && s.tide + 2 ^ 34 < i)) 0
  | _ => []

/-- Parameter bytes that the executing device refuses in its present state. -/
def boundOffsets (s : State) (h : Hdr) (op : HostOp) : List Nat :=
  let sc := h.scope.toNat
  let i := h.inst.toNat
  match op with
  | .arm entry mask tset => armOffsets s (quaysIn sc i) entry.toNat mask.toNat tset.toNat
  | .jump target => jumpOffsets s i target.toNat
  | .ppmuMeasure current slow range samples =>
    ppmuOffsets s sc i h.resDma current slow range.toNat samples.toNat
  | .acqArm setup pre _ => acqArmOffsets s i setup.toNat pre.toNat
  | .acqRead n => offendIf (!recordOpen s i n.toNat && !recordHeld s i n.toNat) 0
  | .tmuArm mode source _ _ mark _ => tmuArmOffsets s i mode.toNat source.toNat mark.toNat
  | .spRamp target slew => spRampOffsets s i target.toNat slew.toNat
  | .spSequence es => spSequenceOffsets s sc es
  | .laneTest lane _ loopback _ _ _ time => laneTestOffsets s lane.toNat loopback time.toNat
  | .calRestore image => offendIf (!imageOk sc i image) 0
  | .refSelect r => offendIf (sc ≠ 7 && !refKind s r.toNat) 0
  | _ => []

/-- Slot bytes of a target that does not exist or that the opcode does not take (R38 check 3). -/
def targetOffsets (s : State) (h : Hdr) (op : HostOp) : List Nat :=
  let sc := h.scope.toNat
  offendIf (!indexKnown s h.chain.toNat || (sc = 7 && h.chain ≠ 0#7)) 8 ++
    offendIf (1 ≤ sc && sc ≤ 7 && scopeCount sc ≤ h.inst.toNat) 10 ++
    offendIf (!(opScopes op).contains sc) 11

/-- Instances that the opcode refuses at slot byte 10 (R277, R393). -/
def instanceBad (s : State) (h : Hdr) (op : HostOp) : Bool :=
  let i := h.inst.toNat
  match op with
  | .spRamp _ _ => leaderOf s i ≠ i
  | .relieve => 1024 ≤ i || (calAt s (berthOfChan i)).spareBad
  | _ => false

/-- BAD_PARAM at the lowest of some slot bytes, or else at the lowest of some parameter bytes. -/
def paramVerdict (slot par : List Nat) : Option Verdict :=
  match slot.min? with
  | some o => some (badParam o)
  | none => (par.min?).map fun o => badParam (0x8000 + o)

/-- The command is for this device itself, its part of a chain-scope command included. -/
def isOwn (s : State) (viaChain : Bool) (h : Hdr) : Bool := viaChain || h.chain.toNat = s.chain.index

/-! ### Checks 4 and 5: tag and deferral -/

/-- A command with this tag is in flight through the device's rings. -/
def tagBusy (s : State) (tag : BitVec 16) : Bool :=
  (s.inflight ++ answeredCmds s).any fun c => !c.viaChain && c.hdr.tag = tag

/-- Opcodes that may be deferred (R55). -/
def deferAllowed (op : HostOp) : Bool :=
  match op with
  | .stage _ _ | .proof _ | .read _ _ => true
  | op => let k := opcode op / 4096; k = 2 || k = 3 || k = 4 || k = 6

def deferVerdict (s : State) (h : Hdr) (op : HostOp) : Option Verdict :=
  if !h.defer then none
  else if !deferAllowed op then some (badParam 4)
  else
    let ahead := (h.deferGen - s.par.generation).toNat
    if ahead = 0 ∨ 16 < ahead then some (badParam 12) else none

/-! ### Check 6: legality -/

/-- What a follower takes from its own rings (R64). -/
def followerTakes (op : HostOp) : Bool :=
  match op with
  | .nop | .identify | .getState | .mcVersion | .fuseRead _ => true
  | _ => false

/-- The wing whose lost link fails a command that targets a berth of it (R15): a channel or a berth as target, or a
reset of type BERTH; CLEAR_FAULT of a berth in FAULT has the verdict of R596. -/
def linkVerdict (s : State) (sc i : Nat) (op : HostOp) : Option Verdict :=
  let w := wingOfBerth ((berthsIn sc i).headD 0)
  let berths := match op with
    | .resetScope t _ => t = 0#8 && sc ≤ 5
    | .clearFault => sc = 3 && (berthAt s i).run ≠ .fault
    | _ => sc ≤ 3
  if 1 ≤ sc && berths && (wingAt s w).linkDown then some (linkFault w) else none

/-- Commands refused while RefState is not LOCKED (R481). -/
def needsReference (op : HostOp) : Bool :=
  match op with
  | .unpark _ | .arm _ _ _ | .start _ _ _ | .tideAlign | .chainEnum => true
  | _ => false

/-- The masked berths on which an ARM would act but for a stop (R418): those of the quays that it could arm that are not
OFF, and the stopped ones. -/
def maskedBerths (s : State) (sc i mask : Nat) : List Nat :=
  ((quaysIn sc i).flatMap berthsOfQuay).filter fun b => natBit mask (b % 4) &&
    ((stoppedZone s b).isSome || ((sc = 4 || quayRun s (quayOfBerth b) = 3) && (berthAt s b).run ≠ .off))

/-- The berths of the entries of a sequence that are this device's. -/
def sequenceBerths (s : State) (sc : Nat) (es : List SeqEntry) : List Nat :=
  (es.filter (entryOwn s sc)).map (·.berth.toNat)

/-- THERMAL_STOP with the lowest stopped zone of some berths. -/
def thermalVerdict (s : State) (bs : List Nat) : Option Verdict :=
  ((bs.filterMap (stoppedZone s)).min?).map fun z => thermalStop z (zoneAt s z).firstSensor

/-- Wide commands are refused only when every berth they would act on is stopped (R418). -/
def thermalWide (s : State) (bs : List Nat) : Option Verdict :=
  if bs.all fun b => (stoppedZone s b).isSome then thermalVerdict s bs else none

/-- THERMAL_STOP (R418). -/
def stopVerdict (s : State) (sc i : Nat) (op : HostOp) : Option Verdict :=
  match op with
  | .berthPower on => if on = 0#8 then none else thermalVerdict s [i]
  | .spRamp _ _ => thermalVerdict s [i]
  | .spSequence es => thermalVerdict s (sequenceBerths s sc es)
  | .unpark _ =>
    if sc ≤ 4 then thermalVerdict s (berthsIn sc i)
    else thermalWide s ((berthsIn sc i).filter fun b => (berthAt s b).run = .parked)
  | .arm _ mask _ =>
    let bs := maskedBerths s sc i mask.toNat
    if sc = 4 then thermalVerdict s bs else thermalWide s bs
  | _ => none

/-- REF_SELECT outside PARKED and READY (R482). -/
def refSelectLegal (s : State) (sc run : Nat) : Bool :=
  run = 2 || run = 3 || (run = 7 && sc = 6 &&
    (List.range 16).all fun q => !(quayAt s q).armed && !(quayAt s q).running)

/-- Legality by device state (R48) and the Legal column of R65. -/
def deviceLegal (s : State) (sc run : Nat) (op : HostOp) : Bool :=
  match op with
  | .nop | .identify | .getState | .mcVersion | .fuseRead _ => true
  | .clearFault => run ≠ 1 && (sc ≠ 6 || run = 7)
  | .park _ | .unpark _ | .berthPower _ | .abort _ | .resetScope _ _ => run ≠ 1
  | .read _ _ | .trayStatus _ | .ackWrite _ => run ≠ 1
  | .stage _ _ | .proof _ | .bake _ _ _ _ _ | .trayClear _ => run ≠ 1 && run ≠ 7
  | .seqStatus => run ≠ 1
  | .segLoad _ _ _ _ => run ≠ 1 && run ≠ 7
  | .arm _ _ _ | .start _ _ _ | .halt | .jump _ | .disarm | .clearHalt => 3 ≤ run && run ≤ 6
  | .acqRead _ | .tmuRead | .resultUpload _ | .failLogRead _ _ => run ≠ 1
  | .ppmuMeasure _ _ _ _ | .acqArm _ _ _ | .tmuArm _ _ _ _ _ _ => 3 ≤ run && run ≤ 6
  | .spOff _ | .spStatus => run ≠ 1
  | .spRamp _ _ | .spSequence _ => 3 ≤ run && run ≤ 6
  | .chainStatus => run ≠ 1
  | .bcastLoad _ _ _ => run ≠ 1 && run ≠ 7
  | .chainEnum | .laneTest _ _ _ _ _ _ _ | .laneBitslip _ _ | .tideAlign | .calRestore _
  | .clockMode _ _ _ _ _ => run = 2 || run = 3
  | .calStatus | .calSave => run ≠ 1
  | .calRun _ _ | .relieve | .unrelieve => run ≠ 1 && run ≠ 7
  | .refSelect _ => refSelectLegal s sc run
  | .thermRead _ _ | .freqMeasure _ _ _ => true
  | .thermClear _ => run ≠ 1 && run ≠ 7
  | .tpXfer _ _ _ _ _ | .tpStatus _ => run ≠ 1
  | .mcPatchLoad _ _ => run = 2 || run = 7

/-- STATE_CONFLICT of R50, and of a DISARM whose START is pending. The pilot's quays alone do not decide at
scope 7 while a follower may have one (`dividedVerdict`). -/
def quayVerdict (s : State) (viaChain : Bool) (sc i : Nat) (op : HostOp) : Option Verdict :=
  if !quayOp op then none
  else
    let qs := quaysFor s sc i op
    if qs = [] then
      (if sc = 7 && !viaChain && followers s ≠ [] then none else some (noQuay s sc i))
    else if op = .disarm then (qs.find? (startPending s)).map fun q => conflict s 4 q
    else none

/-- The berths that R49 checks for a command. -/
def checkedBerths (s : State) (sc i : Nat) (op : HostOp) : List Nat :=
  match op with
  | .arm _ mask _ => ((quaysFor s sc i op).flatMap berthsOfQuay).filter fun b => natBit mask.toNat (b % 4)
  | .start _ _ _ | .halt | .jump _ | .disarm => (quaysFor s sc i op).flatMap (armedBerths s)
  | .spSequence es => sequenceBerths s sc es
  | .clearFault => if 6 ≤ sc then [] else berthsIn sc i
  | .berthPower _ | .park _ | .unpark _ | .spOff _ | .ppmuMeasure _ _ _ _ | .acqArm _ _ _
  | .tmuArm _ _ _ _ _ _ | .spRamp _ _ | .spStatus | .calRun _ _ | .relieve | .unrelieve => berthsIn sc i
  | _ => []

/-- Legality by berth state (R49). -/
def berthLegal (op : HostOp) (pos : Nat) (x : Berth) : Bool :=
  let parkedOrIdle := x.run = .parked || x.run = .idle
  match op with
  | .berthPower on => x.run = (if on = 0#8 then .parked else .off)
  | .park _ => x.run ≠ .fault
  | .unpark _ => parkedOrIdle
  | .clearFault => x.run = .fault
  | .arm _ _ _ => x.run = .idle
  | .start _ _ _ | .disarm => x.run = .armed
  | .halt | .jump _ => x.run = .running
  | .ppmuMeasure _ _ _ _ | .spRamp _ _ | .spSequence _ => x.run = .idle || x.run = .armed
  | .acqArm _ _ _ | .tmuArm _ _ _ _ _ _ => x.run = .idle || x.run = .armed || x.run = .running
  | .calRun _ _ => x.run ≠ .fault
  | .relieve => parkedOrIdle && (x.subst = 0 || (x.subst = 1 && x.cal.runState ≠ 0))
  | .unrelieve => parkedOrIdle && x.subst = 2 && x.target = pos
  | _ => true

/-- A berth that R49 passes over: OFF, but for BERTH_POWER; stopped, for a wide UNPARK or ARM. -/
def passedOver (s : State) (sc : Nat) (op : HostOp) (b : Nat) : Bool :=
  match op with
  | .berthPower _ => false
  | .unpark _ | .arm _ _ _ => (berthAt s b).run = .off || (5 ≤ sc && (stoppedZone s b).isSome)
  | _ => (berthAt s b).run = .off

/-- STATE_CONFLICT of R49: the first failing berth in ascending number. -/
def berthVerdict (s : State) (sc i : Nat) (op : HostOp) : Option Verdict :=
  let bs := (List.range 64).filter fun b => (checkedBerths s sc i op).contains b
  (bs.find? fun b => !passedOver s sc op b && !berthLegal op (posOfChan i) (berthAt s b)).map fun b =>
    conflict s 3 b

/-- An enumerated device has TideAligned 0 (R354): any, as the pilot knows, or on a follower itself. -/
def unaligned (s : State) : Bool :=
  s.chain.enumerated && (!s.chain.tideAligned || !isFollower s &&
    s.chain.devices.any fun d => d.1 ≠ 0 && !d.2.lost && !d.2.excluded && !d.2.aligned)

/-- Chain-scope commands that need every TideAligned, and BAKE every index (R30, R52, R354). -/
def chainVerdict (s : State) (sc : Nat) (op : HostOp) : Option Verdict :=
  let whole := match op with
    | .bake _ _ _ _ _ | .start _ _ _ | .unpark _ => true
    | .bcastLoad source _ _ => segFromHold source.toNat
    | _ => false
  let gone := match op with
    | .bake _ _ _ _ _ => s.chain.devices.any fun d => d.2.lost
    | _ => false
  if sc = 7 && ((whole && unaligned s) || gone) then some (conflict s 7 0) else none

/-- The remaining causes of STATE_CONFLICT. -/
def otherVerdict (s : State) (h : Hdr) (op : HostOp) : Option Verdict :=
  let sc := h.scope.toNat
  let i := h.inst.toNat
  match op with
  | .clearFault =>
    if sc = 6 then (if deviceCauseHolds s then some (conflict s 6 0) else none)
    else if faultsIn s sc i = [] then some (conflict s sc i)
    else ((faultsIn s sc i).find? (causeHolds s)).map fun b => conflict s 3 b
  | .berthPower on =>
    if on = 0#8 && !ctrlOff s i then some (conflict s 3 i) else none
  | .resetScope t e => resetConflict s sc i t.toNat e
  | .ppmuMeasure _ _ _ _ => if sc = 2 && pinMode s i ≠ 3 then some (conflict s 2 i) else none
  | .laneBitslip lane _ => if slipLegal s lane.toNat then none else some (conflict s 6 0)
  | .clockMode mask run _ _ kind =>
    if clockModeConflict s mask.toNat kind.toNat run then some (conflict s 6 0) else none
  | .bake _ _ check _ expected =>
    if check && expected ≠ s.par.generation then some (conflict s sc 0) else none
  | _ => none

/-- A command that addresses a stack that is down (R319). -/
def stackVerdict (s : State) (h : Hdr) (op : HostOp) : Option Verdict :=
  ((List.range 2).find? fun k => stackIsDown s k && addressesStack s k { ord := 0, hdr := h, op := op, accepted := 0 }).map
    fun k => hwFault 0x41 k

/-- A follower's own rings take few commands, and only for itself (R64). -/
def ownRingVerdict (s : State) (h : Hdr) (op : HostOp) : Option Verdict :=
  if isFollower s && (!followerTakes op || h.chain.toNat ≠ s.chain.index) then
    some (conflict s h.scope.toNat h.inst.toNat)
  else none

/-- Check 6 (R38), made when the command is accepted or, deferred, when it starts. -/
def legality (s : State) (viaChain : Bool) (h : Hdr) (op : HostOp) : Option Verdict :=
  let sc := h.scope.toNat
  let i := h.inst.toNat
  (if viaChain then none else ownRingVerdict s h op).or <|
    (linkVerdict s sc i op).or <|
    (if needsReference op && s.clk.refState ≠ .locked then some (hwFault 0x90 0) else none).or <|
    (stopVerdict s sc i op).or <|
    (if deviceLegal s sc (devRun s) op then none else some (conflict s sc i)).or <|
    (quayVerdict s viaChain sc i op).or <|
    (berthVerdict s sc i op).or <|
    (chainVerdict s sc op).or <|
    (otherVerdict s h op).or <|
    stackVerdict s h op

/-! ### Check 7: resources -/

/-- The tray of a pending bake of one of the BAKE commands (R81, R86). -/
def bakedTray (s : State) : Option Nat :=
  match s.par.pendBake with
  | some p => if p.cal.isSome then none else some p.tray
  | none => none

/-- A tray after a STAGE would hold more than it can. -/
def trayOverflow (s : State) (tray : Nat) (ps : List Pair) : Bool :=
  decide (trayCapacity < (stageEntries (trayAt s tray).entries ps).length)

/-- The lowest berth of a list that calibrates. -/
def calBusyOf (s : State) (bs : List Nat) : Option Verdict :=
  (bs.find? (calBusy s)).map fun b => busy 3 b

/-- RESOURCE_BUSY (R38 check 7). -/
def resources (s : State) (h : Hdr) (op : HostOp) : Option Verdict :=
  let sc := h.scope.toNat
  let i := h.inst.toNat
  match op with
  | .stage tray ps =>
    if bakedTray s = some tray.toNat || trayOverflow s tray.toNat ps then some (busy 2 tray.toNat) else none
  | .proof tray | .trayClear tray =>
    if bakedTray s = some tray.toNat then some (busy 2 tray.toNat) else none
  | .bake _ _ _ _ _ => (bakedTray s).map fun t => busy 2 t
  | .segLoad bank _ _ _ => bankBusy s sc i bank.toNat
  | .jump target => if bankFilling s i (segBank target.toNat) then some (busy 1 i) else none
  | .relieve | .unrelieve => calBusyOf s (berthsIn sc i)
  | .calRun _ _ =>
    ((berthsIn sc i).find? fun b => (calAt s b).purpose ≠ 0 || (calAt s b).step = 4).map fun b => busy 3 b
  | .calRestore image => calBusyOf s (imageBerths image)
  | .berthPower on => if on = 0#8 then calBusyOf s [i] else none
  | .tpXfer p _ _ _ _ => if tpFull s p.toNat then some (busy 4 p.toNat) else none
  | .ppmuMeasure _ slow _ _ =>
    let b := (berthsIn sc i).headD 0
    if !slow && (acqAt s b).state ≠ 0 then some (busy 5 b) else none
  | .acqArm _ _ post => if post ≠ 0#32 && (acqAt s i).state ≠ 0 then some (busy 5 i) else none
  | .acqRead n => if recordOpen s i n.toNat then some (busy 5 i) else none
  | .resetScope t e => if resetOverlap s sc i t.toNat e then some (busy 6 i) else none
  | .mcPatchLoad mask _ =>
    let es := enginesOf mask.toNat
    if resetOfEngines s then some (busy 6 (es.headD 4))
    else (es.find? (patchBusy s s.nextOrd)).map fun e => busy 6 e
  | .thermClear z => if (zoneAt s z.toNat).state = 3 then some (busy 7 z.toNat) else none
  | _ => none

/-! ### Check 8: the proof of a BAKE (R85) -/

def proofVerdict (s : State) (op : HostOp) : Option Verdict :=
  match op with
  | .bake _ tray _ _ _ =>
    let x := trayAt s tray.toNat
    if !x.proven || x.provenGen ≠ s.par.generation then some (proofFailed (0x06000001, Config.currencyId))
    else (bakeFail s x.entries).map proofFailed
  | _ => none

/-- Checks 6 to 8. -/
def startChecks (s : State) (viaChain : Bool) (h : Hdr) (op : HostOp) : Option Verdict :=
  (legality s viaChain h op).or ((resources s h op).or (proofVerdict s op))

/-- Checks 2 to 5 of a command at the head of a ring; `slot` and `par` are bytes whose reserved bits or
pointers break R37. -/
def fieldChecks (s : State) (slot par : List Nat) (h : Hdr) (op : HostOp) : Option Verdict :=
  let sc := h.scope.toNat
  let target := targetOffsets s h op
  let own := isOwn s false h && target = []
  let bound := if isOwn s false h then leadOffsets s sc op else []
  let bound := if own then bound ++ boundOffsets s h op else bound
  (paramVerdict (slot ++ hdrOffsets h op) (par ++ freeOffsets sc op ++ bound)).or <|
  (paramVerdict (target ++ offendIf (own && instanceBad s h op) 10) []).or <|
  (if isOwn s false h && tagBusy s h.tag then some (badTag 2) else none).or <|
  (if isOwn s false h then deferVerdict s h op else none)

/-- A command with this tag is in flight on this device (R38 check 4 as R63 lets a follower apply it). -/
def tagHere (s : State) (tag : BitVec 16) : Bool :=
  (s.inflight ++ answeredCmds s).any fun c => c.hdr.tag = tag

/-- What a forwarded command meets on arrival (R63): the bounds of its parameters on this device, and
checks 4 to 8. -/
def arrivalChecks (s : State) (h : Hdr) (op : HostOp) : Option Verdict :=
  let sc := h.scope.toNat
  let bound := (if sc = 7 then [] else leadOffsets s sc op) ++ boundOffsets s h op
  (paramVerdict (offendIf (instanceBad s h op) 10) bound).or <|
  (if tagHere s h.tag then some (badTag 2) else none).or <|
  (deferVerdict s h op).or (if h.defer then none else startChecks s true h op)

end Sys2Proof.Machine
end

