-- ==== Sys2Proof/Machine/Host.lean ====
section
/-! DEFINITION. A command from its slot to its work: the fetch at the head of a ring (R32, R59, R60), its
rejection or acceptance (R38, R58), its start on an engine (R54, R61, R281, R430), its forwarding over the
chain (R63), and what each opcode does once it runs. -/

namespace Sys2Proof.Machine

/-! ### What a command does -/

/-- A command's operation runs on this device, its context held. -/
def perform (s : State) (c : Cmd) : State :=
  match c.op with
  | .nop => performNop s c
  | .identify => performIdentify s c
  | .getState => performGetState s c
  | .park mode => performPark s c mode.toNat
  | .unpark instant => performUnpark s c instant.toNat
  | .berthPower on => performBerthPower s c (on ≠ 0#8)
  | .clearFault => performClearFault s c
  | .abort tag => performAbort s c tag
  | .resetScope type e => performReset s c type.toNat e
  | .stage tray ps => performStage s c tray ps
  | .proof tray => performProof s c tray
  | .bake _ _ _ _ _ => performBake s c
  | .read sel ids => performRead s c sel ids
  | .trayClear tray => performTrayClear s c tray
  | .trayStatus tray => performTrayStatus s c tray
  | .ackWrite ps => performAckWrite s c ps
  | .segLoad bank _ _ _ => performSegLoad s c bank.toNat
  | .arm entry mask tset => performArm s c entry.toNat mask.toNat tset.toNat
  | .start mode source instant => performStart s c mode.toNat source.toNat instant.toNat
  | .halt => performHalt s c
  | .jump target => performJump s c target.toNat
  | .disarm => performDisarm s c
  | .clearHalt => performClearHalt s c
  | .seqStatus => performSeqStatus s c
  | .ppmuMeasure _ slow _ samples => performPpmu s c slow samples.toNat
  | .acqArm setup pre post => performAcqArm s c setup.toNat pre.toNat post.toNat
  | .acqRead n => performAcqRead s c n.toNat
  | .tmuArm mode source gate fall mark line =>
    performTmuArm s c mode.toNat source.toNat gate.toNat fall mark.toNat line.toNat
  | .tmuRead => performTmuRead s c
  | .resultUpload content => performUpload s c content
  | .failLogRead first n => performFailLogRead s c first.toNat n.toNat
  | .spRamp target slew => performSpRamp s c target.toNat slew.toNat
  | .spSequence es => performSpSequence s c es
  | .spOff mode => performSpOff s c mode.toNat
  | .spStatus => performSpStatus s c
  | .chainEnum => performChainEnum s c
  | .chainStatus => performChainStatus s c
  | .laneTest lane _ _ _ _ _ _ => performLaneTest s c lane.toNat
  | .laneBitslip lane n => performLaneBitslip s c lane.toNat n.toNat
  | .bcastLoad source _ len => performBcastLoad s c source.toNat len.toNat
  | .tideAlign => performTideAlign s c
  | .calRun items positions => performCalRun s c items.toNat positions.toNat
  | .calSave => performCalSave s c
  | .calRestore image => performCalRestore s c image
  | .relieve => performRelieve s c
  | .unrelieve => performUnrelieve s c
  | .calStatus => performCalStatus s c
  | .refSelect r => performRefSelect s c r.toNat
  | .freqMeasure inst kind gate => performFreqMeasure s c inst.toNat kind.toNat gate.toNat
  | .thermRead first n => performThermRead s c first.toNat n.toNat
  | .thermClear z => performThermClear s c z.toNat
  | .clockMode mask run sleep deep kind => performClockMode s c mask.toNat kind.toNat run sleep deep
  | .tpXfer p _ _ _ _ => performTpXfer s c p.toNat
  | .tpStatus p => performTpStatus s c p.toNat
  | .mcPatchLoad mask image => performPatch s c mask.toNat image
  | .mcVersion => performMcVersion s c
  | .fuseRead w => performFuseRead s c w

/-- Commands at chain scope that every device runs besides the pilot (R63); the others do their own
forwarding. -/
def divides (op : HostOp) : Bool :=
  match op with
  | .chainEnum | .tideAlign | .bcastLoad _ _ _ | .refSelect _ | .bake _ _ _ _ _ => false
  | _ => true

/-- Chain-scope instants are fixed by the pilot, from its acceptance, before they go out (R52, R153). -/
def fixInstant (c : Cmd) : Cmd :=
  match c.op with
  | .unpark i => { c with op := .unpark (BitVec.ofNat 64 (instantOf c.accepted 7 i.toNat)) }
  | .start mode source i =>
    if mode = 0#8 then { c with op := .start mode source (BitVec.ofNat 64 (instantOf c.accepted 7 i.toNat)) }
    else c
  | _ => c

/-- A measurement, power or calibration command on a berth that is OFF acts on nothing (R49: berths in OFF
are skipped). -/
def actsOnNothing (s : State) (c : Cmd) : Bool :=
  match c.op with
  | .acqArm _ _ _ | .tmuArm _ _ _ _ _ _ | .spRamp _ _ | .calRun _ _ | .relieve | .unrelieve =>
    (berthsIn c.hdr.scope.toNat c.hdr.inst.toNat).all fun b => (berthAt s b).run = .off
  | _ => false

/-- A quay command finds no quay in the state that it requires: the burst has ended while it waited, or, at
scope 7, only followers have one (R50, R160). -/
def noQuayLeft (s : State) (c : Cmd) : Bool :=
  quayOp c.op && quaysFor s c.hdr.scope.toNat c.hdr.inst.toNat c.op = []

/-- What a command does on this device. -/
def runHere (s : State) (c : Cmd) : State :=
  if noQuayLeft s c && !(c.op = .halt && c.hdr.scope ≠ 7) then completeV s c (noQuay s c.hdr.scope.toNat c.hdr.inst.toNat) else perform s c

/-- The command runs: at chain scope it first goes out to the followers. -/
def run (s : State) (c : Cmd) : State :=
  if actsOnNothing s c then completeOk s c []
  else if c.hdr.scope = 7 && !c.viaChain && divides c.op then
    let c := fixInstant c
    let r := forwardAll (putCmd s c) c
    runHere (snapSend r.1 r.2) r.2
  else runHere s c

/-! ### Start on an engine (R54, R61, R281, R354, R430) -/

/-- The number of contexts of an engine (R429). -/
def contexts : Nat := 16

def freeContext (s : State) (e : Nat) : Option Nat := findFrom (fun k => !(ctxAt s e k).busy) 0 contexts

/-- An earlier command that holds the start of this one up (R61, R430): Order waits for every reply of its ring;
commands of one ring and target start in ring order. -/
def heldUpBy (c a : Cmd) : Bool := comesBefore c a && (c.hdr.order || a.phase = .waiting)

def heldUp (s : State) (c : Cmd) : Bool :=
  s.inflight.any (heldUpBy c) ||
    (c.hdr.order && (s.unposted.any (fun u => comesBefore c u.cmd) || s.host.heldReplies.any fun h => comesBefore c h.cmd))

/-- The engines of a command each have a context for it or its part free (R18, R430). -/
def contextsFree (s : State) (c : Cmd) : Bool := (enginesFor s c).all fun e => (freeContext s e).isSome

/-- The command has parts on other devices. -/
def hasParts (s : State) (c : Cmd) : Bool := forwarded s c || c.missing ≠ []

/-- A TIDE_ALIGN is about to move the device's clocks (R17). -/
def aligning (s : State) : Bool :=
  s.chain.correction.isSome || s.inflight.any fun a => a.op = .tideAlign && a.phase = .running

/-- A REF_SELECT is about to move the device's clocks, or does (R17). -/
def selecting (s : State) : Bool :=
  s.inflight.any fun a => a.phase = .running && !a.viaChain &&
    match a.op with
    | .refSelect _ => true
    | _ => false

/-- An ARM is in prefill: its quays will be ARMED (R17, R174). -/
def prefilling (s : State) : Bool :=
  s.inflight.any fun a => a.phase = .running &&
    match a.work with
    | .prefill _ _ => true
    | _ => false

/-- What R17, R160, R354, R515, a pending chain bake and a converter that measures let wait. -/
def mustWait (s : State) (c : Cmd) : Bool :=
  match c.op with
  | .jump _ => decide (16 ≤ (quayAt s c.hdr.inst.toNat).jumps.length)
  | .arm _ _ _ => aligning s || selecting s
  | .refSelect _ => !c.viaChain && prefilling s
  | .tpXfer p _ _ _ _ => tpBusy s c.ord p.toNat
  | .ppmuMeasure _ slow _ _ => ppmuTaken s c.hdr.scope.toNat c.hdr.inst.toNat slow
  | .chainEnum => s.inflight.any fun a => a.ord ≠ c.ord && hasParts s a
  | .tideAlign =>
    (match s.par.pendBake with
     | some p => p.chain
     | none => false)
  | _ => false

/-- A CHAIN_ENUM waits or runs: no new command is forwarded (R354). -/
def enumAhead (s : State) (c : Cmd) : Bool :=
  s.inflight.any fun a => a.op = .chainEnum && a.ord ≠ c.ord && a.ord < c.ord

/-- Nothing holds a waiting command but, perhaps, contexts and the controllers that it moves. -/
def unheld (s : State) (c : Cmd) : Bool :=
  c.phase = .waiting && !c.remote && (enginesFor s c).all (fun e => (engAt s e).state = 0 && !patchHolds s c.ord e) &&
    !heldUp s c && !mustWait s c && !((hasParts s c || c.hdr.scope = 7) && c.op ≠ .chainEnum && enumAhead s c)

/-- The controllers that a command would ramp or turn off. -/
def controllersOf (s : State) (c : Cmd) : List Nat :=
  match c.op with
  | .spRamp _ _ => [leaderOf s c.hdr.inst.toNat]
  | .spOff _ => offLeaders s c.hdr.scope.toNat c.hdr.inst.toNat
  | _ => []

/-- A running SP_SEQUENCE waits to start its next entry on a controller. -/
def entryWaits (s : State) (b : Nat) (c : Cmd) : Bool :=
  match c.phase, c.work with
  | .running, .sequence (e :: _) _ (some t) _ =>
    decide (t ≤ s.tide) && entryOwn s c.hdr.scope.toNat e && leaderOf s e.berth.toNat = b
  | _, _ => false

/-- A command accepted earlier waits for the same controller: those that wait run in acceptance order (R281). -/
def controllerAhead (s : State) (c : Cmd) (b : Nat) : Bool :=
  s.inflight.any fun d => d.ord < c.ord &&
    (entryWaits s b d || (unheld s d && contextsFree s d && (controllersOf s d).contains b))

/-- The controllers that a command would ramp or turn off are busy, or others wait for them before it (R281). -/
def controllersBusy (s : State) (c : Cmd) : Bool :=
  (controllersOf s c).any fun b => controllerAhead s c b ||
    match c.op with
    | .spRamp _ _ => ctrlMoves s b
    | _ => ctrlBusy s b

/-- A command may run but for the contexts that it takes. -/
def runnable (s : State) (c : Cmd) : Bool := unheld s c && !controllersBusy s c

/-- A command accepted earlier waits for contexts of the same engines: as they become free commands start in acceptance
order (R430). -/
def contextAhead (s : State) (c : Cmd) : Bool :=
  s.inflight.any fun d => d.ord < c.ord && (enginesFor s d).any (fun e => (enginesFor s c).contains e) && runnable s d

/-- A waiting command may start. -/
def startable (s : State) (c : Cmd) : Bool := runnable s c && contextsFree s c && !contextAhead s c

/-- A command takes a context on its engine and one on each engine that runs a part of it (R18), and runs. -/
def startIn (s : State) (c : Cmd) (k : Nat) : State :=
  let parts := ((enginesFor s c).filter (· ≠ c.engine)).map fun e => (e, (freeContext s e).getD 0)
  let c := { c with phase := .running, context := k, started := s.tide, parts := parts }
  let code := stateCode s c.hdr.scope.toNat c.hdr.inst.toNat
  let x : Ctx := {
    busy := true, cmd := c.ord, pc := dispatchEntry (opcode c.op), safeAt := s.tide, startCode := code
    regs := [(24, BitVec.ofNat 32 (c.hdr.tag.toNat * 65536 + opcode c.op)),
      (25, BitVec.ofNat 32 (targetWord c.hdr.chain.toNat c.hdr.scope.toNat c.hdr.inst.toNat)),
      (27, s.par.generation)] }
  let s := ((c.engine, k) :: parts).foldl (fun s p =>
    setEng s p.1 { engAt s p.1 with lastCtx := p.2, ctxs := tabSet (engAt s p.1).ctxs p.2 x }) s
  run (putCmd s c) c

/-- A forwarded command leaves for its device: the pilot waits for the reply (R63). -/
def forwardOne (s : State) (c : Cmd) : State :=
  let i := c.hdr.chain.toNat
  let s := putCmd s { c with phase := .running, context := contexts, missing := [i], work := .forward [i] }
  send s (.frame none (.command c.hdr c.op))

/-- Start a command if nothing holds it; a disabled engine, its own or that of a part, fails it (R18, R447). -/
def tryStart (s : State) (c : Cmd) : State :=
  if c.phase ≠ .waiting then s
  else if forwarded s c then (if enumAhead s c || heldUp s c then s else forwardOne s c)
  else if let some e := disabledEngine s c then endDisabled s c e
  else if startable s c then
    match freeContext s c.engine with
    | some k => startIn s c k
    | none => s
  else s

/-! ### Acceptance -/

/-- A command enters: it counts as in flight from here (R58), and a BAKE is pending (R86). -/
def enter (s : State) (h : Hdr) (op : HostOp) (viaChain : Bool) : State × Cmd :=
  let own := isOwn s viaChain h
  let c : Cmd := {
    ord := s.nextOrd, seq := s.nextOrd, hdr := h, op := op, accepted := s.tide, remote := !own
    phase := if h.defer && own then .deferred else .waiting
    engine := if own then engineOf h.scope.toNat h.inst.toNat else 4, viaChain := viaChain }
  let s := { s with nextOrd := s.nextOrd + 1, inflight := s.inflight ++ [c] }
  (if own then pendOf s c else s, c)

/-- The slot at Head is resolved: Head passes it (R32). Its fetch has woken the link (R542). -/
def headPast (s : State) (n : Nat) : State :=
  setSq (wakeLink s) n { sqAt s n with
    head := ((sqAt s n).head + 1) % 2 ^ (sqAt s n).log2, stalled := false, stallOn := 0 }

/-- One entry of the reply ring is reserved (R59). -/
def reserveReply (s : State) (m : Nat) : State := setRq s m { rqAt s m with reserved := (rqAt s m).reserved + 1 }

/-- A rejected command, of a ring or of the chain, is answered in its place in ring order (R61); a deferred one stands
outside it. It was never in flight. -/
def answerRejected (s : State) (h : Hdr) (op : HostOp) (v : Verdict) (viaChain : Bool) : State :=
  let c : Cmd := { ord := s.nextOrd, seq := s.nextOrd, hdr := h, op := op, accepted := s.tide, viaChain := viaChain }
  let s := { s with nextOrd := s.nextOrd + 1 }
  let r := replyOf s h v.1 v.2 []
  if h.order || !h.defer then postInOrder s c false r [] else postTo s c false r []

/-- A rejection: a reply, and no other effect (R38). -/
def reject (s : State) (h : Hdr) (op : HostOp) (v : Verdict) : State :=
  let n := h.ring.val
  let s := reserveReply (headPast s n) (sqAt s n).replyRing
  answerRejected s h op v false

/-- A command is accepted from a ring. -/
def accept (s : State) (h : Hdr) (op : HostOp) : State :=
  let n := h.ring.val
  let s := reserveReply (headPast s n) (sqAt s n).replyRing
  let s := setSq s n { sqAt s n with inFlight := (sqAt s n).inFlight + 1 }
  let r := enter s h op false
  tryStart r.1 r.2

/-! ### Bounds and stalls (R55, R58 to R60) -/

/-- Commands in flight on this device itself. -/
def ownLoad (s : State) : Nat :=
  (s.inflight.filter fun c => !forwarded s c).length + ((answeredCmds s).filter fun c => !forwarded s c).length

/-- The followers that a command would occupy. -/
def wouldOccupy (s : State) (h : Hdr) (op : HostOp) : List Nat :=
  if !isOwn s false h then [h.chain.toNat]
  else if h.scope = 7 && divides op then followers s
  else []

/-- The followers that a command in flight occupies: those whose reply is missing, and, while it is held here, those
to which it will go. -/
def occupies (s : State) (c : Cmd) : List Nat :=
  if !c.viaChain && (c.phase = .waiting || c.phase = .deferred) then wouldOccupy s c.hdr c.op else c.missing

/-- The forwarding window of one follower, and of all. -/
def windowOf (s : State) (i : Nat) : Nat := (s.inflight.filter fun c => (occupies s c).contains i).length
def windowAll (s : State) : Nat := (s.inflight.map fun c => (occupies s c).length).sum

/-- The commands of this device's rings that count against an engine of a follower, and those deferred there
(R55, R58). -/
def windowEngine (s : State) (i e : Nat) : Nat :=
  (s.inflight.filter fun c =>
    (occupies s c).contains i && engineOf c.hdr.scope.toNat c.hdr.inst.toNat = e).length
def windowDeferred (s : State) (i : Nat) : Nat :=
  (s.inflight.filter fun c => c.remote && c.hdr.defer && (occupies s c).contains i).length

/-- The bound of one follower that a command would meet there. -/
def followerBound (s : State) (h : Hdr) (i : Nat) : Option Nat :=
  let e := engineOf h.scope.toNat h.inst.toNat
  if 1024 ≤ windowOf s i then some (64 + i)
  else if 256 ≤ windowEngine s i e then some (512 + 8 * i + e)
  else if h.defer && h.chain.toNat = i && 256 ≤ windowDeferred s i then some (517 + 8 * i)
  else none

/-- The bound that a command would meet, by the codes of `Sq.stallOn`; 0 none. -/
def boundMet (s : State) (h : Hdr) (op : HostOp) : Nat :=
  let own := isOwn s false h
  let e := engineOf h.scope.toNat h.inst.toNat
  let to_ := wouldOccupy s h op
  if own && 1024 ≤ ownLoad s then 1
  else if own && 256 ≤ engineLoad s e then 2 + e
  else if 2 ^ (sqAt s h.ring.val).log2 - 1 ≤ (sqAt s h.ring.val).inFlight then 32 + h.ring.val
  else match to_.findSome? (followerBound s h) with
    | some k => k
    | none =>
      if to_ ≠ [] && 8192 < windowAll s + to_.length then 8
      else if own && h.defer && 256 ≤ deferredHeld s then 9
      else 0

/-- The code of a stall on the entries of reply ring m. -/
def onReplyRing (m : Nat) : Nat := 16 + m % 16

/-- The ring stalls: one episode is counted once (R59, R595). -/
def stall (s : State) (n cause : Nat) : State :=
  let x := sqAt s n
  if x.stalled then setSq s n { x with stallOn := cause }
  else
    let full := cause = onReplyRing x.replyRing
    let s := setSq s n { x with
      stalled := true, stallOn := cause, stallCount := if full then x.stallCount else ackBump x.stallCount }
    if full then
      setRq s x.replyRing { rqAt s x.replyRing with fullStall := ackBump (rqAt s x.replyRing).fullStall }
    else s

/-! ### The slot at the head of a ring -/

/-- The device accepts commands, and the ring has a slot to fetch. -/
def ringReady (s : State) (n : Nat) : Bool :=
  let x := sqAt s n
  !s.cold && s.boot.fusesRead && x.enable && ringLegal x.log2 && x.head ≠ x.tail && canRequest s

/-- A lower ring is stalled on the same bound, has its slot still, and resumes first (R60). -/
def resumesLater (s : State) (n : Nat) : Bool :=
  (sqAt s n).stalled &&
    (List.range n).any fun m => (sqAt s m).stalled && (sqAt s m).stallOn = (sqAt s n).stallOn && ringReady s m

/-- A follower that has left the chain (R30). -/
def indexLost (s : State) (i : Nat) : Bool :=
  match tabFind s.chain.devices i with
  | some d => d.lost
  | none => false

/-- Checks 2 to 8 of a slot; those that a follower or a deferred start makes are left to it. -/
def slotVerdict (s : State) (slot par : List Nat) (h : Hdr) (op : HostOp) : Option Verdict :=
  (fieldChecks s slot par h op).or <|
  (ownRingVerdict s h op).or <|
  if isOwn s false h then (if h.defer then none else startChecks s false h op)
  else if indexLost s h.chain.toNat then some (hwFault 0x50 h.chain.toNat)
  else none

/-- The slot at the head of its ring is read: it is rejected, the ring stalls, or the command is
accepted. -/
def takeSlot (s : State) (slot par : List Nat) (h : Hdr) (op : HostOp) : State :=
  let n := h.ring.val
  if !ringReady s n || resumesLater s n then s
  else if rqFree (rqAt s (sqAt s n).replyRing) = 0 then stall s n (onReplyRing (sqAt s n).replyRing)
  else match slotVerdict s slot par h op with
    | some v => reject s h op v
    | none =>
      match boundMet s h op with
      | 0 => accept s h op
      | k => stall s n k

/-- A slot as its 64 bytes and its parameter block: an undefined opcode is BAD_OPCODE (R38 check 1). -/
def takeBytes (s : State) (n : Fin 16) (slot block : List Byte) : State :=
  let h := parseHdr n slot
  let b := slotBlock slot block
  let opc := slotOpcode slot
  match parseOp opc b with
  | some op => takeSlot s (slotOffsets slot block) (reservedOffsets opc b) h op
  | none =>
    if !ringReady s n.val || resumesLater s n.val then s
    else if rqFree (rqAt s (sqAt s n.val).replyRing) = 0 then stall s n.val (onReplyRing (sqAt s n.val).replyRing)
    else reject s h .nop (stBadOpcode, dataOf [(16, 2, opc)])

/-! ### Commands that come over the chain (R63) -/

/-- A forwarded command arrives at its device. -/
def arrive (s : State) (h : Hdr) (op : HostOp) : State :=
  match arrivalChecks s h op with
  | some v => answerRejected s h op v true
  | none =>
    let r := enter s h op true
    tryStart r.1 r.2

/-! ### Waiting and deferred commands -/

/-- The first command of a list that may start, in acceptance order. -/
def firstStart (s : State) (e : Nat) : Option Cmd :=
  s.inflight.find? fun c => c.phase = .waiting &&
    (if forwarded s c then e = 4 && !enumAhead s c && !heldUp s c
     else c.engine = e && ((disabledEngine s c).isSome || startable s c))

/-- COMMAND_DISPATCH: the next waiting command of an engine starts (R430). -/
def execCommandDispatch (e : Nat) (s : State) : Host.Outcome State Fault Refusal :=
  .next (match firstStart s e with
  | some c => tryStart s c
  | none => s)

/-- The generation that a deferred command awaits has come. -/
def deferDue (s : State) (c : Cmd) : Bool :=
  c.phase = .deferred && decide ((s.par.generation - c.hdr.deferGen).toNat < 2 ^ 31)

/-- Of two deferred commands that are due the one with the earlier generation starts first (R56). -/
def deferFirst (s : State) : Option Cmd :=
  (s.inflight.filter (deferDue s)).foldl (fun best c =>
    match best with
    | none => some c
    | some b =>
      if (s.par.generation - b.hdr.deferGen).toNat < (s.par.generation - c.hdr.deferGen).toNat then some c
      else some b) none

/-- DEFERRED_COMMAND_START (R54 to R56, R61, R95): checks 6 and 7 meet the present state; the command
takes its place in ring order as if accepted now. -/
def execDeferredCommandStart (s : State) : Host.Outcome State Fault Refusal :=
  .next (match deferFirst s with
  | none => s
  | some c =>
    let v := startChecks s c.viaChain c.hdr c.op
    let d := { c with ord := s.nextOrd, accepted := s.tide, phase := .waiting }
    let s := { s with nextOrd := s.nextOrd + 1, inflight := s.inflight.filter (fun x => x.ord ≠ c.ord) ++ [d] }
    match v with
    | some v => completeV s d v
    | none => tryStart s d)

end Sys2Proof.Machine
end

