-- ==== Sys2Proof/Machine/Signals.lean ====
section
/-! DEFINITION. The SIGNALs of the chain as a device receives them (R338, R363 to R367), and what follows
from them at an instant: chain bakes (R92, R93), the start token (R176, R177), trigger lines (R365), the
oven state (R366), tide exchanges (R360) and the correction and tracking of the tide (R361, R362). -/

namespace Sys2Proof.Machine

/-- A follower copies a downward SIGNAL onto its downstream tree ports (R363). -/
def copyDown (s : State) (x : Signal) : State := send s (.signal none x)

/-- Send a SIGNAL to the parent. -/
def upSignal (s : State) (x : Signal) : State := send s (.signal (some s.chain.upPort) x)

/-! ### Chain bake (R92, R93) -/

/-- The pending bake is the chain bake that the low bits of an instant name. -/
def bakeNamed (p : PendBake) (i36 : Nat) : Bool := p.chain && i36Of p.instant = i36

/-- A follower has armed and holds READY on every downstream tree port: it sends READY. -/
def readyUp (s : State) : State :=
  match s.par.pendBake with
  | some p =>
    if p.chain && p.tag.isNone && p.wanted.all (fun q => p.ready.contains q) then
      upSignal s (.bakeReady (i36Of p.instant))
    else s
  | none => s

/-- A bake other than one of calibration is pending. -/
def userBakePending (s : State) : Bool :=
  match s.par.pendBake with
  | some p => p.cal.isNone
  | none => false

/-- A follower can prepare a bake of a tray for an instant: from the arm's arrival the preparation takes its own
lead and ends no later than I − 3,200 tc (R92, DEDUCED, log 69), no other bake is pending, and the tray is proven
against its generation (R83, R86, R368). -/
def canPrepare (s : State) (i tray : Nat) : Bool :=
  s.chain.enumerated && decide (s.tide + bakeLead (trayAt s tray).entries + 3200 ≤ i) && !userBakePending s && (trayAt s tray).proven &&
    (trayAt s tray).provenGen = s.par.generation

/-- BAKE_ARM: the follower prepares and arms; one that cannot sends no READY. A pending calibration bake is withdrawn (R384);
where no bake comes of the arm, its steps become ready again. -/
def execBakeArm (i36 : BitVec 36) (tray : Fin 8) (s : State) : Host.Outcome State Fault Refusal :=
  .next (if !isFollower s then s
    else
      let i := expand36 s i36.toNat
      let s := copyDown s (.bakeArm i36.toNat tray.val)
      let cal := calBakePend s
      let s : State := if cal then { s with par := { s.par with pendBake := none } } else s
      if canPrepare s i tray.val then
        readyUp { s with par := { s.par with shadow := [], pendBake := some {
          instant := i, tray := tray.val, chain := true, go := false, wanted := downPorts s } } }
      else if cal then calReadyAgain s else s)

/-- The devices whose READY a port stands for, at the pilot. -/
def portDevices (s : State) (p : Nat) : List Nat := (followers s).filter fun i => (treePort s i).contains p

/-- BAKE_READY on port p; one that reaches the pilot after I − 1,600 tc counts for nothing (R93). -/
def execBakeReady (p : Fin 4) (i36 : BitVec 36) (s : State) : Host.Outcome State Fault Refusal :=
  .next (match s.par.pendBake with
  | some b =>
    if !bakeNamed b i36.toNat then s
    else if isFollower s then
      if b.ready.contains p.val then s
      else readyUp { s with par := { s.par with pendBake := some { b with ready := b.ready ++ [p.val] } } }
    else if b.instant < s.tide + 1600 then s
    else { s with par := { s.par with pendBake := some { b with ready := b.ready ++ portDevices s p.val } } }
  | none => s)

/-- BAKE_GO. -/
def execBakeGo (i36 : BitVec 36) (s : State) : Host.Outcome State Fault Refusal :=
  .next (if !isFollower s then s
    else
      let s := copyDown s (.bakeGo i36.toNat)
      match s.par.pendBake with
      | some b =>
        if bakeNamed b i36.toNat then { s with par := { s.par with pendBake := some { b with go := true } } }
        else s
      | none => s)

/-- BAKE_CANCEL. -/
def execBakeCancel (i36 : BitVec 36) (s : State) : Host.Outcome State Fault Refusal :=
  .next (if !isFollower s then s
    else
      let s := copyDown s (.bakeCancel i36.toNat)
      match s.par.pendBake with
      | some b => if bakeNamed b i36.toNat then bakeDrop s else s
      | none => s)

/-! ### The start token (R176, R177) -/

/-- Quays that lack the token stay ARMED, each counted late, and their START fails with this device's chain
index. -/
def tokenLate (s : State) : State :=
  let qs := (List.range 16).filter (lacksToken s)
  let cs := cmdsWhere s fun c => c.phase = .running &&
    (match c.work with
     | .token _ ws => ws.any fun q => qs.contains q
     | _ => false)
  let s := forAll s qs fun s q => count (modQuay s q fun x => { x with tokenWait := false }) 4 q 0x36 12
  cs.foldl (fun s c => completeV s c (hwFault 0x11 s.chain.index)) s

/-- TOKEN (R364): one that is held in time starts the quays. -/
def execToken (i36 : BitVec 36) (s : State) : Host.Outcome State Fault Refusal :=
  .next (if !isFollower s then s
    else
      let i := expand36 s i36.toNat
      let s := copyDown s (.token i36.toNat)
      if s.tide + 192 ≤ i then tokenStart s i else tokenLate s)

/-- TOKEN_DEADLINE: I − 192 has passed on a device that lacks the token. -/
def execTokenDeadline (s : State) : Host.Outcome State Fault Refusal :=
  .next (if isFollower s then tokenLate s else s)

/-! ### Trigger lines (R365) -/

/-- TRIG_RAISE travels up; the pilot merges or delivers it. -/
def execTrigRaise (line : Fin 16) (i36 : BitVec 36) (s : State) : Host.Outcome State Fault Refusal :=
  .next (if isFollower s then upSignal s (.trigRaise line.val i36.toNat)
    else if isPilot s then lineRaised s line.val (expand36 s i36.toNat)
    else s)

/-- TRIG_DELIVER travels down. -/
def execTrigDeliver (line : Fin 16) (i36 : BitVec 36) (s : State) : Host.Outcome State Fault Refusal :=
  .next (if isFollower s then
      lineHold (copyDown s (.trigDeliver line.val i36.toNat)) line.val (expand36 s i36.toNat)
    else s)

/-- A line is delivered at D to the acquisition engines (R222) and time-measurement units (R246). -/
def lineDeliver (s : State) (l d : Nat) : State :=
  forAll s (List.range 64) fun s b =>
    let s := if fld (setupWord (acqAt s b).setup 2) 21 4 = l then acqEvent s b 5 else s
    if (tmuAt s b).source = 3 && (tmuAt s b).chainLine = l then tmuArmEvent s b (5000 * d) else s

/-- TRIG_DELIVERY_INSTANT: the tide reaches the line's next D. -/
def execTrigDeliveryInstant (line : Fin 16) (s : State) : Host.Outcome State Fault Refusal :=
  .next (match ((s.chain.pendTrig.filter fun e => e.1 = line.val).map (·.2)).min? with
  | some d =>
    let s := reach s d
    lineDeliver { s with chain := { s.chain with pendTrig := s.chain.pendTrig.erase (line.val, d) } } line.val d
  | none => s)

/-! ### The oven (R256, R366) -/

/-- OVEN: a follower locked to REFC takes the pilot's OvenOk. -/
def execOven (ok : Bool) (s : State) : Host.Outcome State Fault Refusal :=
  .next (if !isFollower s then s
    else
      let s := copyDown { s with chain := { s.chain with ovenAt := s.tide } } (.oven ok)
      if !ok then ovenLost s
      else if s.clk.refState = .locked then { s with clk := { s.clk with ovenOk := true } }
      else s)

/-- Three marker intervals at a rate, in tc: 33.792 µs each at 32.0 Gb/s. -/
def threeMarkers (rate : Nat) : Nat := ceilDiv (3 * 270336 * 2 ^ rate) 10

/-- OVEN_TIMEOUT: no OVEN for 3 marker intervals of the upstream port. -/
def execOvenTimeout (s : State) : Host.Outcome State Fault Refusal :=
  .next (if isFollower s then
      ovenLost (reach s (s.chain.ovenAt + threeMarkers (portAt s s.chain.upPort).rate))
    else s)

/-! ### Tide exchanges (R360) -/

/-- TIDE_PING on port p: the child answers, and sends its stamps in a frame. -/
def execTidePing (p : Fin 4) (exchange : BitVec 16) (t1 t2 : Nat) (s : State) :
    Host.Outcome State Fault Refusal :=
  .next (if 2 ≤ (portAt s p).state then
      let s := send s (.signal (some p.val) (.tidePong exchange.toNat))
      send s (.frame (some p.val) (.tideData exchange t1 t2))
    else s)

/-- TIDE_PONG on port p: the parent's stamps of the exchange in hand. -/
def execTidePong (p : Fin 4) (exchange : BitVec 16) (t0 t3 : Nat) (s : State) :
    Host.Outcome State Fault Refusal :=
  .next (if (measAt s p).exchange = exchange.toNat && (measAt s p).done < exchanges then
      setMeas s p { measAt s p with stamps := some (t0, t3) }
    else s)

/-- LOST: a subtree has left the chain (R367). -/
def execLost (index : Fin 128) (s : State) : Host.Outcome State Fault Refusal :=
  .next (if isFollower s then upSignal s (.lost index.val)
    else if isPilot s then chainLost s index.val
    else s)

/-! ### Correction and tracking of the tide (R361, R362) -/

/-- Units in a tide count. -/
def tcUnits : Int := 5000

/-- The tide and the root phase take a correction of c units. -/
def tideCorrect (s : State) (c : Int) : State :=
  let k := c / tcUnits
  { s with
    tide := (((s.tide : Int) + k) % 2 ^ 64).toNat
    chain := { s.chain with
      rootPhase := s.chain.rootPhase + (c - tcUnits * k), track := s.chain.track + c, drift := 0
      correction := none }
    clk := { s.clk with ovenRise := s.clk.ovenRise + k } }

/-- TIDE_CORRECTION_APPLY: the device's own tide reaches the count that the pilot named; the pilot, whose
own correction is 0, then has every link measured again. A device with a quay ARMED or RUNNING does not move its clocks
(R17): its correction lapses, which the second measurement then finds (DESIGN CHOICE, log 97). -/
def execTideCorrectionApply (s : State) : Host.Outcome State Fault Refusal :=
  .next (match s.chain.correction with
  | some (c, at_) =>
    let s := reach s at_
    let s := if (List.range 16).any (quayBusy s) then { s with chain := { s.chain with correction := none } }
      else tideCorrect s c
    if isFollower s then s else alignAgain s
  | none => s)

/-- TrackEn (R376). -/
def trackEn (s : State) : Bool := liveF s 7 0 0x89 0 2 1 = 1

/-- TIDE_TRACK_MEASURE: a tracking follower finds its upstream link at `theta` units: what is not yet
applied of its change since the last correction. -/
def execTideTrackMeasure (theta : Int) (s : State) : Host.Outcome State Fault Refusal :=
  .next (if isFollower s && s.chain.enumerated && trackEn s then
      let old := s.chain.track
      let new := old + theta - s.chain.drift
      let s := { s with chain := { s.chain with theta := new, track := new, drift := theta } }
      let s := if 2500 < new.natAbs && old.natAbs ≤ 2500 then count s 6 0 0x84 7 else s
      if 5000 < new.natAbs then chainUnalign s else s
    else s)

/-- Steps of root phase between two applications, and what keeps them back. -/
def trackSpan : Nat := 8000

/-- TIDE_TRACK_STEP: one unit of the change is applied while no quay is ARMED or RUNNING. -/
def execTideTrackStep (s : State) : Host.Outcome State Fault Refusal :=
  .next (if isFollower s && trackEn s && s.chain.drift ≠ 0 && (List.range 16).all fun q => !quayBusy s q then
      let s := reach s s.chain.stepAt
      let d : Int := if 0 < s.chain.drift then 1 else -1
      { s with chain := { s.chain with
        drift := s.chain.drift - d, track := s.chain.track - d, rootPhase := s.chain.rootPhase - d
        stepAt := s.tide + trackSpan } }
    else s)

end Sys2Proof.Machine
end

