-- ==== Sys2Proof/Machine/Lanes.lean ====
section
/-! DEFINITION. Chain lanes and ports as rows (R335 to R349, R359, R367): bring-up, coefficient
negotiation, adaptation, markers, the loss of lanes and links, and the ends of LANE_TEST and
LANE_BITSLIP. -/

namespace Sys2Proof.Machine

/-! ### Ports (R342 to R344, R346, R367) -/

/-- A link is down (R367, R474): a follower whose upstream port goes down loses REFC and leaves the
chain. -/
def linkFall (s : State) (p : Nat) : State :=
  let up := decide (p = upstreamOf s)
  let s := portDown s p
  if up && isFollower s then
    let s := { s with
      chain := { s.chain with lost := true }
      boot := { s.boot with refQualified := s.boot.refQualified && s.clk.refState ≠ .none } }
    if s.clk.refState = .locked ∨ s.clk.refState = .relock then refLoss s else s
  else s

/-- LINK_DOWN: the port had an active lane until its loss. -/
def execLinkDown (p : Fin 4) (s : State) : Host.Outcome State Fault Refusal :=
  .next (if 2 ≤ (portAt s p).state ∨ (portAt s p).downPend then linkFall s p else s)

/-- The root has locked (R344, R464); a later loss of its reference does not stop the transmitters. -/
def rootLocked (s : State) : Bool := s.tideOn && s.clk.refState ≠ .none

/-- A port may train (R344): any once the root has locked, a follower's upstream port before, since REFC comes from it; a
standalone device does not power its ports, and a stopped zone 22 keeps them idle (R417), as does a long coast (R464). -/
def mayTrain (s : State) (p : Nat) : Bool :=
  (zoneAt s 22).state < 3 && s.hold.selfRefresh = 0 && ((isPilot s && rootLocked s) || (isFollower s && (rootLocked s || p = upstreamOf s || (p = 3 && upstreamOf s = 0))))

/-- The preset codes (R371). -/
def txPre (s : State) (l : Nat) : Nat := liveF s 6 0 0x81 l 0 5
def txPost (s : State) (l : Nat) : Nat := liveF s 6 0 0x81 l 5 5

/-- A port without active lanes trains (R373). -/
def portTraining (s : State) (p : Nat) : State :=
  modPort s p fun x => if 2 ≤ x.state then x else { x with state := 1 }

/-- A lane takes part in its port's training: it is past DETECT, and not in a test or masked. -/
def inTraining (s : State) (l : Nat) : Bool :=
  laneEnabled s l && laneSeen (laneAt s l) && (laneAt s l).state ≠ .test

/-- Every lane of a port goes back to TRAIN, or, below the lowest rate, to DETECT (R343). -/
def portRestart (s : State) (p rate cause : Nat) : State :=
  if rate ≤ 2 then
    let ls := (lanesOfPort p).filter (inTraining s)
    forAll (portTraining (modPort s p fun x => { x with rate := rate, capSent := false }) p) ls fun s l => laneTrain s l cause
  else
    let s := portEnter (modPort s p fun x => { x with state := 0 }) p
    let r := (portAt s p).rate
    forAll s (lanesOfPort p) fun s l =>
      if (laneAt s l).state = .test then s
      else if laneEnabled s l then modLane s l fun x => { x with state := .detect, cause := cause, rate := r }
      else modLane s l fun x => { x with state := .off }

/-! ### Bring-up (R342) -/

/-- Both clock domains of a lane run (R468, R469). -/
def laneClocked (s : State) (l : Nat) : Bool := runEn s 4 l && runEn s 5 l

/-- LANE_DETECT_ATTEMPT: an enabled lane enters DETECT, the first of its port with the port, or stays in it. -/
def execLaneDetectAttempt (l : Fin 48) (s : State) : Host.Outcome State Fault Refusal :=
  .next (let p := portOfLane l
    let fresh := (lanesOfPort p).all fun k => (laneAt s k).state = .off
    let s' := if fresh then portEnter s p else s
    if laneEnabled s' l && laneClocked s l && mayTrain s p then
      match (laneAt s l).state with
      | .off =>
        let r := (portAt s' p).rate
        modLane s' l fun x => { x with state := .detect, cause := 0, rate := r }
      | .detect => modLane s l fun x => { x with cause := 0 }
      | _ => s
    else s)

/-- LANE_RECEIVER_DETECTED: on a follower without a position it settles the upstream port (R344). -/
def execLaneReceiverDetected (l : Fin 48) (s : State) : Host.Outcome State Fault Refusal :=
  .next (if (laneAt s l).state = .detect then
      let s := portTraining (laneTrain s l 0) (portOfLane l)
      if isFollower s then { s with chain := { s.chain with upPort := upstreamOf s } } else s
    else s)

/-- A lane has reached BIT_LOCK at the port's rate, or is further on. -/
def pastTrain (x : LaneState) : Bool :=
  match x with
  | .bitLock | .blockLock | .deskew | .capability | .active | .slip => true
  | _ => false

/-- A lane has reached BIT_LOCK at the port's rate, whatever became of it since (R343). -/
def reachedBitLock (x : Lane) : Bool := pastTrain x.state || (x.state = .failed && x.cause ≠ 1)

/-- The port may move on from TRAIN (R343): MinLanes lanes have reached BIT_LOCK, or it has active lanes. -/
def portMoves (s : State) (p : Nat) : Bool :=
  2 ≤ (portAt s p).state || minLanes s p ≤ ((lanesOfPort p).filter fun l => reachedBitLock (laneAt s l)).length

/-- TRAIN_TIMEOUT (R343). -/
def execTrainTimeout (p : Fin 4) (s : State) : Host.Outcome State Fault Refusal :=
  .next (let ls := (lanesOfPort p).filter fun l => (laneAt s l).state = .train
    if ls = [] then s
    else
      if portMoves s p then
        forAll s ls fun s l => modLane s l fun x => { x with state := .failed, cause := 1 }
      else portRestart s p ((portAt s p).rate + 1) 1)

/-- BIT_LOCK_ACHIEVED. -/
def execBitLockAchieved (l : Fin 48) (s : State) : Host.Outcome State Fault Refusal :=
  .next (if (laneAt s l).state = .bitLock then modLane s l fun x => { x with state := .blockLock } else s)

/-- BIT_LOCK_TIMEOUT. -/
def execBitLockTimeout (l : Fin 48) (s : State) : Host.Outcome State Fault Refusal :=
  .next (if (laneAt s l).state = .bitLock then laneTrain s l 2 else s)

/-- The command that slips a lane. -/
def slipCmd (s : State) (l : Nat) : Option Cmd :=
  s.inflight.find? fun c => c.phase = .running &&
    (match c.work with
     | .bitslip k _ => k = l
     | _ => false)

/-- A LANE_BITSLIP replies 16 µs after its start (R347). -/
def slipReply (s : State) (l : Nat) (locked : Bool) : State :=
  match slipCmd s l with
  | some c => completeOk (reach s (c.started + usTc 16)) c [(16, 1, b01 locked)]
  | none => s

/-- BLOCK_LOCK_ACHIEVED: the lane enters DESKEW, from SLIP too. -/
def execBlockLockAchieved (l : Fin 48) (s : State) : Host.Outcome State Fault Refusal :=
  .next (match (laneAt s l).state with
  | .blockLock => modLane s l fun x => { x with state := .deskew, retried := false }
  | .slip => slipReply (modLane s l fun x => { x with state := .deskew, slipMode := false }) l true
  | _ => s)

/-- BLOCK_LOCK_TIMEOUT: one retry from BIT_LOCK, then TRAIN; a lane in SLIP, or taken out of it since, has no lock at its
boundary. -/
def execBlockLockTimeout (l : Fin 48) (s : State) : Host.Outcome State Fault Refusal :=
  .next (match (laneAt s l).state with
  | .blockLock =>
    if (laneAt s l).retried then laneTrain s l 3
    else modLane s l fun x => { x with state := .bitLock, cause := 3, retried := true }
  | _ => slipReply s l false)

/-- This end's capability frame (R345), once per training: when lanes of the port wait in CAPABILITY and no other is on its way
there (DEDUCED, log 54). -/
def capSend (s : State) (p : Nat) : State :=
  let on (l : Nat) (st : LaneState) : Bool := (laneAt s l).state = st
  if (lanesOfPort p).any (on · .capability) && !(portAt s p).capSent && portMoves s p &&
      !(lanesOfPort p).any fun l => on l .train || on l .bitLock || on l .blockLock || on l .deskew then
    sendRaw (modPort s p fun x => { x with capSent := true }) (.capability p (mcver s)
      (if isPilot s then 1 else if isFollower s then 2 else 0)
      (bitWord 12 (12 * p) fun l => on l .capability) (portAt s p).rate Config.serial)
  else s

/-- DESKEW_MATCH: the lane enters CAPABILITY, or rejoins a port that has active lanes (R346). -/
def execDeskewMatch (l : Fin 48) (skew : Fin 65) (s : State) : Host.Outcome State Fault Refusal :=
  .next (if (laneAt s l).state = .deskew then
      let p := portOfLane l
      let up := decide (2 ≤ (portAt s p).state)
      let s := modLane s l fun x => { x with
        state := if up then .active else .capability, skew := skew.val, markerSeen := true
        cause := if up then 0 else x.cause, bips := [] }
      if up then portSettle s p else capSend s p
    else s)

/-- DESKEW_TIMEOUT. -/
def execDeskewTimeout (l : Fin 48) (s : State) : Host.Outcome State Fault Refusal :=
  .next (if (laneAt s l).state = .deskew then
      capSend (modLane s l fun x => { x with state := .failed, cause := 4 }) (portOfLane l)
    else s)

/-! ### Capability (R345) -/

def capLanes (s : State) (p : Nat) : List Nat :=
  (lanesOfPort p).filter fun l => (laneAt s l).state = .capability

/-- This end's trained lane mask. -/
def trainedMask (s : State) (p : Nat) : Nat := bitWord 12 (12 * p) fun l => (laneAt s l).state = .capability

/-- CAPABILITY_FRAME: the port is held with a cause, goes back to TRAIN, or its lanes become ACTIVE; it does not move on
before MinLanes lanes have reached BIT_LOCK (R343). -/
def execCapabilityFrame (p : Fin 4) (isPx6410 pilot : Bool) (laneMask : BitVec 12) (rate : Fin 3) (s : State) :
    Host.Outcome State Fault Refusal :=
  .next (let ls := capLanes s p
    if ls = [] || !portMoves s p then s
    else if !isPx6410 then modPort s p fun x => { x with capCause := 2 }
    else if pilot && isPilot s then modPort s p fun x => { x with capCause := 1 }
    else if laneMask.toNat ≠ trainedMask s p && rate.val ≠ (portAt s p).rate then
      portRestart s p (portAt s p).rate 0
    else
      let s := forAll s ls fun s l => modLane s l fun x => { x with state := .active, cause := 0 }
      portSettle (modPort s p fun x => { x with capCause := 0 }) p)

/-- CAPABILITY_TIMEOUT: every lane of the port goes back to TRAIN, unless the port is held (R345). -/
def execCapabilityTimeout (p : Fin 4) (s : State) : Host.Outcome State Fault Refusal :=
  .next (if capLanes s p ≠ [] && (portAt s p).capCause = 0 then portRestart s p (portAt s p).rate 5 else s)

/-! ### Coefficient negotiation (R339, R340) -/

/-- The codes of R339. -/
def codesOk (pre post : Nat) : Bool := pre ≤ 16 && post ≤ 22 && pre + post ≤ 32

/-- A request on one code with its limit test and preset: the new code and the answer (0 not updated, 1
updated, 2 at limit). A request that has been answered is not acted on again before a hold. -/
def codeMove (ok : Nat → Bool) (negotiate : Bool) (preset code req stat : Nat) : Nat × Nat :=
  if req = 0 then (code, 0)
  else if stat ≠ 0 then (code, stat)
  else
    let want := if req = 1 then some (code + 1) else if req = 2 then (if code = 0 then none else some (code - 1))
      else if code < preset then some (code + 1) else if preset < code then some (code - 1) else some code
    match want with
    | none => (code, 2)
    | some c => if !negotiate || !ok c then (code, 2) else if c = code then (code, 0) else (c, 1)

/-- A request of this end after the other end's answer (R340): one that has been answered is held at 0, and a new one, which
its receiver's adaptation chooses (free, log 3), is made only from there. -/
def nextReq (req stat : Nat) (done : Bool) (choice : Nat) : Nat :=
  if req ≠ 0 then (if stat ≠ 0 then 0 else req) else if stat = 0 && !done then choice % 4 else 0

/-- TRAIN_BLOCK: the other end's requests are answered, and its answers end this end's requests; the lane leaves TRAIN once
both receivers are ready, and the next TRAIN block goes out. A follower whose root has not locked does not transmit, and
only listens (R344). -/
def execTrainBlock (l : Fin 48) (preReq postReq preStat postStat : Fin 4) (rxReady refGood ready : Bool)
    (s : State) : Host.Outcome State Fault Refusal :=
  .next (if (laneAt s l).state = .train && !rootLocked s then modLane s l fun x => { x with refGood := refGood }
    else if (laneAt s l).state = .train then
      let x := laneAt s l
      let neg := bit x.tx 13
      let pre := codeMove (fun c => codesOk c x.postCode) neg (fld x.tx 0 5) x.preCode preReq.val x.preStat
      let post := codeMove (fun c => codesOk pre.1 c) neg (fld x.tx 5 5) x.postCode postReq.val x.postStat
      let w := (Config.freeWord s.freeCtr).toNat
      let s := modLane { s with freeCtr := s.freeCtr + 1 } l fun x => { x with
        preCode := pre.1, preStat := pre.2, postCode := post.1, postStat := post.2, rxReady := rxReady
        preReq := nextReq x.preReq preStat.val ready w, postReq := nextReq x.postReq postStat.val ready (w / 4)
        refGood := refGood, state := if rxReady && ready then .bitLock else .train }
      let y := laneAt s l
      sendRaw s (.train l.val (trainBlock y.preReq y.postReq ready true y).payload)
    else s)

/-! ### A lane in ACTIVE (R335, R336, R338, R341, R346) -/

/-- ADAPT_WINDOW_END: a window of 4,096 blocks, of which `idle` were IDLE. -/
def execAdaptWindowEnd (l : Fin 48) (idle : Nat) (s : State) : Host.Outcome State Fault Refusal :=
  .next (if laneActive s l then
      let x := laneAt s l
      if 3686 < idle && !x.frozen then count (modLane s l fun x => { x with frozen := true }) 6 0 0x82 (4 * l + 3)
      else if idle ≤ 2048 && x.frozen then modLane s l fun x => { x with frozen := false }
      else s
    else s)

/-- An active lane is lost (R346): it retrains at the port's rate; without another the link is down. -/
def laneLoss (s : State) (l : Nat) : State :=
  let p := portOfLane l
  if activeLanes s p = [l] then linkFall s p
  else laneTrain (laneLeave s l .train 7) l 7

/-- LANE_LOST. -/
def execLaneLost (l : Fin 48) (s : State) : Host.Outcome State Fault Refusal :=
  .next (if laneActive s l then laneLoss s l else s)

/-- ALIGN_MARKER: 16 or more BIP mismatches in 4 consecutive markers lose the lane. -/
def execAlignMarker (l : Fin 48) (seq : BitVec 16) (mismatches : Fin 17) (s : State) :
    Host.Outcome State Fault Refusal :=
  .next (if laneActive s l then
      let s := modPort s (portOfLane l) fun x => { x with markerSeq := seq.toNat }
      let s := modLane s l fun x => { x with markerSeen := true, bips := (mismatches.val :: x.bips).take 4 }
      if 16 ≤ (laneAt s l).bips.sum then laneLoss s l else s
    else if (laneAt s l).state = .deskew ∨ (laneAt s l).state = .capability then
      modLane s l fun x => { x with markerSeen := true }
    else s)

/-- SIGNAL_BAD (R338, R363): the block is discarded. -/
def execSignalBad (l : Fin 48) (s : State) : Host.Outcome State Fault Refusal :=
  .next (count s 6 0 0x82 (4 * l + 2))

/-- BLOCK_ERR (R335). -/
def execBlockErr (l : Fin 48) (s : State) : Host.Outcome State Fault Refusal :=
  .next (count s 6 0 0x82 (4 * l + 1))

/-! ### LANE_TEST (R348) -/

/-- The command that tests a lane. -/
def testCmd (s : State) (l : Nat) : Option Cmd :=
  s.inflight.find? fun c => c.phase = .running && c.work = .laneTest l

/-- The test time of a LANE_TEST in µs. -/
def testTime (c : Cmd) : Nat :=
  match c.op with
  | .laneTest _ _ _ _ _ _ time => time.toNat
  | _ => 0

/-- The bits of a test of `us` µs at a lane rate. -/
def testBits (rate us : Nat) : Nat := us * 32000 / 2 ^ rate

/-- What this device's own generator adds to the checker's count (R349): the inverted bits of a near-end loopback; at the
far end they count in the far end's checker. -/
def testInjected (c : Cmd) (rate : Nat) : Nat :=
  match c.op with
  | .laneTest _ _ loop single burst len time =>
    if loop then injectedIn single burst (len.toNat + 1) (testBits rate time.toNat) else 0
  | _ => 0

/-- After its test a lane retrains (R348), but while zone 22 is stopped, which keeps every port at electrical idle (R417). -/
def testOver (s : State) (l : Nat) : State :=
  if 3 ≤ (zoneAt s 22).state then modLane s l fun x => { x with state := .off } else laneTrain s l 8

/-- LANE_TEST_END: the checker's count is reported, and the lane retrains. `errors` are the wrong bits that the way from
the generator to the checker has made (DESIGN CHOICE, log 99). -/
def execLaneTestEnd (l : Fin 48) (errors : BitVec 64) (locked : Bool) (s : State) :
    Host.Outcome State Fault Refusal :=
  .next (match testCmd s l with
  | some c =>
    completeOk (testOver (reach s (c.started + usTc (testTime c))) l) c
      [(16, 8, errors.toNat + testInjected c (laneAt s l).rate), (24, 1, b01 locked)]
  | none => if (laneAt s l).state = .test then testOver s l else s)

end Sys2Proof.Machine
end

