-- ==== Sys2Proof/Machine/Frames.lean ====
section
/-! DEFINITION. Chain frames and LINK blocks (R353 to R358, R360, R361, R421, R477): receipt, delivery,
replay and credits. -/

namespace Sys2Proof.Machine

/-! ### Replies and results of other devices (R63, R313) -/

/-- The command in flight that waits for device i under a tag. -/
def replyTarget (s : State) (tag : BitVec 16) (i : Nat) : Option Cmd :=
  s.inflight.find? fun c => !c.viaChain && c.hdr.tag = tag &&
    (c.missing.contains i ||
      (match c.work with
       | .upload _ waiting => waiting.contains i
       | _ => false))

/-- A reply reaches the pilot. -/
def replyArrive (s : State) (tag : BitVec 16) (i : Nat) (status : BitVec 16) (gen : Word) (stamp : Nat)
    (data : List Byte) : State :=
  match replyTarget s tag i with
  | none => s
  | some c =>
    match c.work with
    | .upload parts waiting =>
      if status = 0 ∨ !waiting.contains i then s
      else
        let c := { c with
          work := .upload parts (waiting.erase i), replies := insertReply c.replies i status data }
        uploadSettle (putCmd s c) c
    | _ =>
      if forwarded s c then finishForwarded s c status.toNat gen stamp data
      else alignSettle (refSelectResume (partReply s c i status data))

/-- Result bytes reach the pilot: a part of a result upload, or the result of a forwarded command. -/
def partArrive (s : State) (i : Nat) (bytes : List Byte) : State :=
  let upload := s.inflight.find? fun c => !c.viaChain &&
    (match c.work with
     | .upload _ waiting => waiting.contains i
     | _ => false)
  match upload with
  | some c =>
    match c.work with
    | .upload parts waiting =>
      let c := { c with work := .upload (parts ++ [(i, bytes)]) (waiting.erase i) }
      uploadSettle (putCmd (stagePart s bytes) c) c
    | _ => s
  | none =>
    match s.inflight.find? fun c => forwarded s c && c.missing = [i] && c.hdr.resDma && c.own.isNone with
    | some c => putCmd s { c with own := some (0, [], bytes) }
    | none => s

/-! ### Delivery -/

/-- The pilot's orderly PARK at device scope after a reference loss (R477). -/
def lossPark (s : State) : State :=
  let bs := (List.range 64).filter fun b => (berthAt s b).run ≠ .off
  parkAll (parkInterrupt s bs) 8 800

/-- A follower's TideAligned has become 0: R354 applies until the next TIDE_ALIGN (R362). -/
def deviceUnaligned (s : State) (i : Nat) : State :=
  { s with chain := { s.chain with
    devices := s.chain.devices.map fun d => if d.1 = i then (d.1, { d.2 with aligned := false }) else d } }

/-- A frame's content is delivered (R353 to R358). -/
def deliver (s : State) (p : Nat) (body : FrameBody) : State :=
  let up (s : State) : State := send s (.frame (some s.chain.upPort) body)
  let down (s : State) : State := send s (.frame none body)
  match body with
  | .enum topology x y leg => enumArrive s p topology.val x y leg
  | .enumReport x y leg booting east south _ _ _ => enumReported s body (x, y, leg, booting, east, south)
  | .chainCount n => if isFollower s then down { s with chain := { s.chain with count := n } } else s
  | .theta i th =>
    if !isFollower s then s
    else if i.val = s.chain.index && s.chain.enumerated then { s with chain := { s.chain with theta := th, track := th } }
    else down s
  | .unaligned i => if isFollower s then up s else deviceUnaligned s i.val
  | .assignIndex x y i excluded => indexAssigned s x y i.val excluded
  | .tideData exchange t1 t2 => exchangeDone s p exchange.toNat t1 t2
  | .correction i c at_ =>
    if !isFollower s then s
    else if i.val = s.chain.index && s.chain.enumerated then
      { s with chain := { s.chain with correction := some (c, at_), theta := -c, track := -c } }
    else down s
  | .residual i theta cross => alignSettle (noteTheta s i.val theta cross)
  | .lossPark => if isFollower s then lossPark (down s) else s
  | .thermalReport _ _ _ => if isFollower s then up s else followerThermal s
  | .aligned ok =>
    if isFollower s then down { s with chain := { s.chain with tideAligned := ok } } else s
  | .command h op =>
    if !isFollower s then s
    else if h.chain.toNat = s.chain.index && s.chain.enumerated then arrive s h op
    else down s
  | .reply tag i status gen stamp data =>
    if isFollower s then up s else replyArrive s tag i.val status gen stamp.toNat data
  | .result i bytes => if isFollower s then up s else partArrive s i.val bytes
  | .piece _ _ => s
  | .snapTide tag t => if isFollower s then snapArrive (down s) tag t.toNat else s
  | .resultPart i bytes => if isFollower s then up s else partArrive s i.val bytes
  | .broadcast a bytes last => if isFollower s then bcastArrive s a bytes last else s
  | .bcastCrc i crc wrote => bcastCrcArrive s i.val crc wrote

/-- A copy of a frame still waits on a port. -/
def copyWaits (s : State) (b : FrameBody) : Bool := (List.range 4).any fun p => (portAt s p).queue.contains b

/-- The credit of received frames goes back, but of those whose copies still wait (R356, R358). -/
def grantFree (s : State) : State :=
  let s' := { s with chain := { s.chain with grants := s.chain.grants.filter fun g => copyWaits s g.2.2.2 } }
  (s.chain.grants.filter fun g => !copyWaits s g.2.2.2).foldl (fun s g => sendRaw s (.credit g.1 g.2.1 g.2.2.1)) s'

/-- A frame is delivered, and its receive buffer is free again once it has been copied. -/
def receive (s : State) (p : Nat) (b : FrameBody) : State :=
  let s := deliver s p b
  grantFree { s with chain := { s.chain with grants := s.chain.grants ++ [(p, frameClass b, frameBytes b, b)] } }

/-- FRAME_RECEIVE (R356): a bad CRC is counted and answered with a negative acknowledgement; a good frame
in order is acknowledged and delivered; one that was delivered before is acknowledged again. -/
def execFrameReceive (p : Fin 4) (seq : BitVec 16) (crcOk : Bool) (body : FrameBody) (s : State) :
    Host.Outcome State Fault Refusal :=
  .next (if (portAt s p).state < 2 then s
    else if !crcOk then sendRaw (count s 6 0 0x83 (4 * p + 1)) (.nakFrame p.val seq.toNat)
    else if seq.toNat = (portAt s p).rxSeq then
      let s := modPort s p fun x => { x with rxSeq := (x.rxSeq + 1) % 65536 }
      receive (sendRaw s (.ackFrame p.val seq.toNat)) p.val body
    else if ((portAt s p).rxSeq + 65536 - seq.toNat) % 65536 < 32768 then sendRaw s (.ackFrame p.val seq.toNat)
    else s)

/-- ENUM_FRAME on port q (R353). -/
def execEnumFrame (q : Fin 4) (topology : Fin 4) (x y leg : Nat) (s : State) :
    Host.Outcome State Fault Refusal :=
  .next (if (portAt s q).state < 2 then s else enumArrive s q.val topology.val x y leg)

/-! ### LINK blocks (R356) -/

/-- The replay buffer from a frame on. -/
def replayFrom (r : List (Nat × FrameBody)) (seq : Nat) : List (Nat × FrameBody) :=
  r.dropWhile fun e => e.1 ≠ seq

/-- LINK_BLOCK: an acknowledgement frees the buffer up to its frame; a negative one replays from it, and one for a frame that
has been replayed 16 times takes the link down; a credit is added. Frames that waited for either leave. -/
def execLinkBlock (p : Fin 4) (use : LinkUse) (s : State) : Host.Outcome State Fault Refusal :=
  .next (if (portAt s p).state < 2 then s
    else match use with
    | .ack seq =>
      let r := replayFrom (portAt s p).replay seq.toNat
      if r = [] then s
      else grantFree (portSend (modPort s p fun x => { x with replay := r.drop 1, replays := 0 }) p)
    | .nak seq =>
      let r := replayFrom (portAt s p).replay seq.toNat
      if r = [] then s
      else
        let before := if (portAt s p).nakSeq = seq.toNat then (portAt s p).replays else 0
        if 16 ≤ before then linkFall s p
        else
          let s := count (modPort s p fun x => { x with replays := before + 1, nakSeq := seq.toNat }) 6 0 0x83 (4 * p + 2)
          r.foldl (fun s e => sendRaw s (.frame (some p.val) e.2)) s
    | .credit c n => grantFree (portSend (modPort s p fun x => { x with
        credits := tabSet x.credits c (Nat.min classBuffer (creditOf x c + n)) }) p))

end Sys2Proof.Machine
end

