-- ==== Sys2Proof/Machine/HostRows.lean ====
section
/-! DEFINITION. The rows of the host commands (R65): the slot at the head of the command's ring is read, with
this header and this operation; and the rows SLOT_FETCH_COMPLETE and FETCH_RESUME, which bring a slot as its
bytes. -/

namespace Sys2Proof.Machine

/-- NOP from a ring. -/
def execNop (h : Hdr) (s : State) : Host.Outcome State Fault Refusal :=
  .next (takeSlot s [] [] h .nop)

/-- IDENTIFY from a ring. -/
def execIdentify (h : Hdr) (s : State) : Host.Outcome State Fault Refusal :=
  .next (takeSlot s [] [] h .identify)

/-- GET_STATE from a ring. -/
def execGetState (h : Hdr) (s : State) : Host.Outcome State Fault Refusal :=
  .next (takeSlot s [] [] h .getState)

/-- PARK from a ring. -/
def execPark (h : Hdr) (mode : Byte) (s : State) : Host.Outcome State Fault Refusal :=
  .next (takeSlot s [] [] h (.park mode))

/-- UNPARK from a ring. -/
def execUnpark (h : Hdr) (instant : BitVec 64) (s : State) : Host.Outcome State Fault Refusal :=
  .next (takeSlot s [] [] h (.unpark instant))

/-- BERTH_POWER from a ring. -/
def execBerthPower (h : Hdr) (on : Byte) (s : State) : Host.Outcome State Fault Refusal :=
  .next (takeSlot s [] [] h (.berthPower on))

/-- CLEAR_FAULT from a ring. -/
def execClearFault (h : Hdr) (s : State) : Host.Outcome State Fault Refusal :=
  .next (takeSlot s [] [] h .clearFault)

/-- ABORT from a ring. -/
def execAbort (h : Hdr) (tag : BitVec 16) (s : State) : Host.Outcome State Fault Refusal :=
  .next (takeSlot s [] [] h (.abort tag))

/-- RESET_SCOPE from a ring. -/
def execResetScope (h : Hdr) (type : Byte) (engines : Option Byte) (s : State) : Host.Outcome State Fault
    Refusal :=
  .next (takeSlot s [] [] h (.resetScope type engines))

/-- STAGE from a ring. -/
def execStage (h : Hdr) (tray : Byte) (pairs : List Pair) (s : State) : Host.Outcome State Fault Refusal :=
  .next (takeSlot s [] [] h (.stage tray pairs))

/-- PROOF from a ring. -/
def execProof (h : Hdr) (tray : Byte) (s : State) : Host.Outcome State Fault Refusal :=
  .next (takeSlot s [] [] h (.proof tray))

/-- BAKE from a ring. -/
def execBake (h : Hdr) (instant : BitVec 64) (tray : BitVec 3) (check relative : Bool) (expected : Word)
    (s : State) : Host.Outcome State Fault Refusal :=
  .next (takeSlot s [] [] h (.bake instant tray check relative expected))

/-- READ from a ring. -/
def execRead (h : Hdr) (selector : Byte) (ids : List Word) (s : State) : Host.Outcome State Fault Refusal :=
  .next (takeSlot s [] [] h (.read selector ids))

/-- TRAY_CLEAR from a ring. -/
def execTrayClear (h : Hdr) (tray : Byte) (s : State) : Host.Outcome State Fault Refusal :=
  .next (takeSlot s [] [] h (.trayClear tray))

/-- TRAY_STATUS from a ring. -/
def execTrayStatus (h : Hdr) (tray : Byte) (s : State) : Host.Outcome State Fault Refusal :=
  .next (takeSlot s [] [] h (.trayStatus tray))

/-- ACK_WRITE from a ring. -/
def execAckWrite (h : Hdr) (pairs : List Pair) (s : State) : Host.Outcome State Fault Refusal :=
  .next (takeSlot s [] [] h (.ackWrite pairs))

/-- SEG_LOAD from a ring. -/
def execSegLoad (h : Hdr) (bank : Byte) (offset : BitVec 32) (source : BitVec 64) (length : BitVec 32)
    (s : State) : Host.Outcome State Fault Refusal :=
  .next (takeSlot s [] [] h (.segLoad bank offset source length))

/-- ARM from a ring. -/
def execArm (h : Hdr) (entry : BitVec 32) (mask : BitVec 4) (tset : BitVec 6) (s : State) : Host.Outcome
    State Fault Refusal :=
  .next (takeSlot s [] [] h (.arm entry mask tset))

/-- START from a ring. -/
def execStart (h : Hdr) (mode : Byte) (source : Byte) (instant : BitVec 64) (s : State) : Host.Outcome
    State Fault Refusal :=
  .next (takeSlot s [] [] h (.start mode source instant))

/-- HALT from a ring. -/
def execHalt (h : Hdr) (s : State) : Host.Outcome State Fault Refusal :=
  .next (takeSlot s [] [] h .halt)

/-- JUMP from a ring. -/
def execJump (h : Hdr) (target : BitVec 32) (s : State) : Host.Outcome State Fault Refusal :=
  .next (takeSlot s [] [] h (.jump target))

/-- DISARM from a ring. -/
def execDisarm (h : Hdr) (s : State) : Host.Outcome State Fault Refusal :=
  .next (takeSlot s [] [] h .disarm)

/-- CLEAR_HALT from a ring. -/
def execClearHalt (h : Hdr) (s : State) : Host.Outcome State Fault Refusal :=
  .next (takeSlot s [] [] h .clearHalt)

/-- SEQ_STATUS from a ring. -/
def execSeqStatus (h : Hdr) (s : State) : Host.Outcome State Fault Refusal :=
  .next (takeSlot s [] [] h .seqStatus)

/-- PPMU_MEASURE from a ring. -/
def execPpmuMeasure (h : Hdr) (current slow : Bool) (range : Byte) (samples : BitVec 32) (s : State) :
    Host.Outcome State Fault Refusal :=
  .next (takeSlot s [] [] h (.ppmuMeasure current slow range samples))

/-- ACQ_ARM from a ring. -/
def execAcqArm (h : Hdr) (setup : BitVec 2) (pre post : BitVec 32) (s : State) : Host.Outcome State Fault
    Refusal :=
  .next (takeSlot s [] [] h (.acqArm setup pre post))

/-- ACQ_READ from a ring. -/
def execAcqRead (h : Hdr) (record : BitVec 32) (s : State) : Host.Outcome State Fault Refusal :=
  .next (takeSlot s [] [] h (.acqRead record))

/-- TMU_ARM from a ring. -/
def execTmuArm (h : Hdr) (mode : BitVec 3) (source : BitVec 3) (gateSel : BitVec 2) (gateFall : Bool)
    (markSel : BitVec 4) (chainLine : BitVec 4) (s : State) : Host.Outcome State Fault Refusal :=
  .next (takeSlot s [] [] h (.tmuArm mode source gateSel gateFall markSel chainLine))

/-- TMU_READ from a ring. -/
def execTmuRead (h : Hdr) (s : State) : Host.Outcome State Fault Refusal :=
  .next (takeSlot s [] [] h .tmuRead)

/-- RESULT_UPLOAD from a ring. -/
def execResultUpload (h : Hdr) (content : Byte) (s : State) : Host.Outcome State Fault Refusal :=
  .next (takeSlot s [] [] h (.resultUpload content))

/-- FAIL_LOG_READ from a ring. -/
def execFailLogRead (h : Hdr) (first : BitVec 64) (count : BitVec 32) (s : State) : Host.Outcome State
    Fault Refusal :=
  .next (takeSlot s [] [] h (.failLogRead first count))

/-- SP_RAMP from a ring. -/
def execSpRamp (h : Hdr) (target slew : BitVec 32) (s : State) : Host.Outcome State Fault Refusal :=
  .next (takeSlot s [] [] h (.spRamp target slew))

/-- SP_SEQUENCE from a ring. -/
def execSpSequence (h : Hdr) (entries : List SeqEntry) (s : State) : Host.Outcome State Fault Refusal :=
  .next (takeSlot s [] [] h (.spSequence entries))

/-- SP_OFF from a ring. -/
def execSpOff (h : Hdr) (mode : Byte) (s : State) : Host.Outcome State Fault Refusal :=
  .next (takeSlot s [] [] h (.spOff mode))

/-- SP_STATUS from a ring. -/
def execSpStatus (h : Hdr) (s : State) : Host.Outcome State Fault Refusal :=
  .next (takeSlot s [] [] h .spStatus)

/-- CHAIN_ENUM from a ring. -/
def execChainEnum (h : Hdr) (s : State) : Host.Outcome State Fault Refusal :=
  .next (takeSlot s [] [] h .chainEnum)

/-- CHAIN_STATUS from a ring. -/
def execChainStatus (h : Hdr) (s : State) : Host.Outcome State Fault Refusal :=
  .next (takeSlot s [] [] h .chainStatus)

/-- LANE_TEST from a ring. -/
def execLaneTest (h : Hdr) (lane : Byte) (pattern : BitVec 2) (loopback single burst : Bool)
    (burstLen : BitVec 6) (time : BitVec 32) (s : State) : Host.Outcome State Fault Refusal :=
  .next (takeSlot s [] [] h (.laneTest lane pattern loopback single burst burstLen time))

/-- LANE_BITSLIP from a ring. -/
def execLaneBitslip (h : Hdr) (lane count : Byte) (s : State) : Host.Outcome State Fault Refusal :=
  .next (takeSlot s [] [] h (.laneBitslip lane count))

/-- BCAST_LOAD from a ring. -/
def execBcastLoad (h : Hdr) (source dest : BitVec 64) (length : BitVec 32) (s : State) : Host.Outcome
    State Fault Refusal :=
  .next (takeSlot s [] [] h (.bcastLoad source dest length))

/-- TIDE_ALIGN from a ring. -/
def execTideAlign (h : Hdr) (s : State) : Host.Outcome State Fault Refusal :=
  .next (takeSlot s [] [] h .tideAlign)

/-- CAL_RUN from a ring. -/
def execCalRun (h : Hdr) (items : BitVec 32) (positions : BitVec 16) (s : State) : Host.Outcome State
    Fault Refusal :=
  .next (takeSlot s [] [] h (.calRun items positions))

/-- CAL_SAVE from a ring. -/
def execCalSave (h : Hdr) (s : State) : Host.Outcome State Fault Refusal :=
  .next (takeSlot s [] [] h .calSave)

/-- CAL_RESTORE from a ring. -/
def execCalRestore (h : Hdr) (image : List Byte) (s : State) : Host.Outcome State Fault Refusal :=
  .next (takeSlot s [] [] h (.calRestore image))

/-- RELIEVE from a ring. -/
def execRelieve (h : Hdr) (s : State) : Host.Outcome State Fault Refusal :=
  .next (takeSlot s [] [] h .relieve)

/-- UNRELIEVE from a ring. -/
def execUnrelieve (h : Hdr) (s : State) : Host.Outcome State Fault Refusal :=
  .next (takeSlot s [] [] h .unrelieve)

/-- CAL_STATUS from a ring. -/
def execCalStatus (h : Hdr) (s : State) : Host.Outcome State Fault Refusal :=
  .next (takeSlot s [] [] h .calStatus)

/-- REF_SELECT from a ring. -/
def execRefSelect (h : Hdr) (ref : Byte) (s : State) : Host.Outcome State Fault Refusal :=
  .next (takeSlot s [] [] h (.refSelect ref))

/-- FREQ_MEASURE from a ring. -/
def execFreqMeasure (h : Hdr) (inst : Byte) (kind : BitVec 4) (gate : BitVec 32) (s : State) :
    Host.Outcome State Fault Refusal :=
  .next (takeSlot s [] [] h (.freqMeasure inst kind gate))

/-- THERM_READ from a ring. -/
def execThermRead (h : Hdr) (first count : Byte) (s : State) : Host.Outcome State Fault Refusal :=
  .next (takeSlot s [] [] h (.thermRead first count))

/-- THERM_CLEAR from a ring. -/
def execThermClear (h : Hdr) (zone : Byte) (s : State) : Host.Outcome State Fault Refusal :=
  .next (takeSlot s [] [] h (.thermClear zone))

/-- CLOCK_MODE from a ring. -/
def execClockMode (h : Hdr) (mask : BitVec 64) (run sleep deep : Bool) (kind : Byte) (s : State) :
    Host.Outcome State Fault Refusal :=
  .next (takeSlot s [] [] h (.clockMode mask run sleep deep kind))

/-- TP_XFER from a ring. -/
def execTpXfer (h : Hdr) (port : BitVec 3) (sel : BitVec 2) (bits lead : Byte) (units : List (BitVec 32))
    (s : State) : Host.Outcome State Fault Refusal :=
  .next (takeSlot s [] [] h (.tpXfer port sel bits lead units))

/-- TP_STATUS from a ring. -/
def execTpStatus (h : Hdr) (port : BitVec 3) (s : State) : Host.Outcome State Fault Refusal :=
  .next (takeSlot s [] [] h (.tpStatus port))

/-- MC_PATCH_LOAD from a ring. -/
def execMcPatchLoad (h : Hdr) (mask : BitVec 5) (image : List Byte) (s : State) : Host.Outcome State Fault
    Refusal :=
  .next (takeSlot s [] [] h (.mcPatchLoad mask image))

/-- MC_VERSION from a ring. -/
def execMcVersion (h : Hdr) (s : State) : Host.Outcome State Fault Refusal :=
  .next (takeSlot s [] [] h .mcVersion)

/-- FUSE_READ from a ring. -/
def execFuseRead (h : Hdr) (word : BitVec 8) (s : State) : Host.Outcome State Fault Refusal :=
  .next (takeSlot s [] [] h (.fuseRead word))

/-- SLOT_FETCH_COMPLETE (R38): a slot and its parameter block have been read. -/
def execSlotFetchComplete (n : Fin 16) (slot block : List Byte) (s : State) : Host.Outcome State Fault Refusal :=
  .next (if (sqAt s n.val).stalled then s else takeBytes s n slot block)

/-- FETCH_RESUME (R59, R60): a stalled ring reads the same slot afresh. -/
def execFetchResume (n : Fin 16) (slot block : List Byte) (s : State) : Host.Outcome State Fault Refusal :=
  .next (if (sqAt s n.val).stalled then takeBytes s n slot block else s)

end Sys2Proof.Machine
end

