-- ==== Sys2Proof/Machine/LinkRows.lean ====
section
/-! DEFINITION. The host link (R31 to R36, R62, R99, R322, R523 to R546, R552): the BAR windows, ring
descriptors and doorbells, the configuration space, held replies, link events, and the completions of the
device's own reads. -/

namespace Sys2Proof.Machine

/-! ### What a host access meets -/

/-- How a host access ended, in `Out.status`: 0 with data, 1 with poisoned data, 2 with Configuration
Request Retry Status, 3 as an Unsupported Request, 4 not answered. -/
def readOut (s : State) (bytes : List Byte) (status : Nat) : State :=
  { s with out := { s.out with bytes := bytes, status := status } }

/-- BAR accesses reach the device (R540): the link is up and the function in D0. -/
def barReach (s : State) : Bool := s.host.linkUp && s.host.dState = 0

/-- How a BAR access that does not reach the device ends (R540). -/
def barLost (s : State) : State := readOut s [] (if s.host.linkUp then 3 else 4)

def bar0Size : Nat := 0x1000000
def bar2Size : Nat := 0x1000000000

/-- What a discarded write counts in (R531): Bar0Reject, or the DoorbellErr of a ring. -/
inductive Discard where
  | none | bar0 | sq (n : Nat) | rq (m : Nat)
  deriving DecidableEq, Repr

def countDiscard (s : State) (d : Discard) : State :=
  match d with
  | .none => s
  | .bar0 => count s 6 0 0xD1 6
  | .sq n => setSq s n { sqAt s n with doorbellErr := ackBump (sqAt s n).doorbellErr }
  | .rq m => setRq s m { rqAt s m with doorbellErr := ackBump (rqAt s m).doorbellErr }

/-! ### Ring descriptors (R31 to R33) -/

/-- Submission ring n takes new descriptor fields, unless it is enabled and they would change Base,
Log2Entries or ReplyRing. -/
def sqDesc (s : State) (n base : Nat) (enable : Bool) (log2 reply : Nat) : State × Discard :=
  let x := sqAt s n
  let base := base / 64 * 64
  if x.enable && (x.base.toNat ≠ base || x.log2 ≠ log2 || x.replyRing ≠ reply) then (s, .sq n)
  else
    let y := { x with base := BitVec.ofNat 64 base, enable := enable, log2 := log2, replyRing := reply }
    (setSq s n (if enable then y else { y with stalled := false, stallOn := 0 }), .none)

/-- Reply ring m takes new descriptor fields, unless it is enabled and they would change Base or
Log2Entries. -/
def rqDesc (s : State) (m base : Nat) (enable : Bool) (log2 vector cnt time : Nat) : State × Discard :=
  let x := rqAt s m
  let base := base / 32 * 32
  if x.enable && (x.base.toNat ≠ base || x.log2 ≠ log2) then (s, .rq m)
  else (setRq s m { x with
    base := BitVec.ofNat 64 base, enable := enable, log2 := log2, vector := vector
    coalesceCount := cnt, coalesceTime := time }, .none)

/-- A host write of an ACK field of a ring descriptor (R100). -/
def ringAck (s : State) (x : Ack) (w : Word) (put : Ack → State) : State :=
  if ackAccepts x w then put { x with a := w } else count s 6 0 0x02 0

/-- A 4-byte write of word k of submission descriptor n. -/
def sqDescWord (s : State) (n k : Nat) (w : Word) : State × Discard :=
  let x := sqAt s n
  let b := x.base.toNat
  match k with
  | 0 => sqDesc s n (b / 2 ^ 32 * 2 ^ 32 + w.toNat) x.enable x.log2 x.replyRing
  | 1 => sqDesc s n (w.toNat * 2 ^ 32 + b % 2 ^ 32) x.enable x.log2 x.replyRing
  | 2 => sqDesc s n b (bit w 0) (fld w 1 4) (fld w 8 4)
  | 5 => (ringAck s x.stallCount w fun a => setSq s n { x with stallCount := a }, .none)
  | 6 => (ringAck s x.doorbellErr w fun a => setSq s n { x with doorbellErr := a }, .none)
  | _ => (s, .sq n)

/-- A 4-byte write of word k of reply descriptor m. -/
def rqDescWord (s : State) (m k : Nat) (w : Word) : State × Discard :=
  let x := rqAt s m
  let b := x.base.toNat
  match k with
  | 0 => rqDesc s m (b / 2 ^ 32 * 2 ^ 32 + w.toNat) x.enable x.log2 x.vector x.coalesceCount x.coalesceTime
  | 1 => rqDesc s m (w.toNat * 2 ^ 32 + b % 2 ^ 32) x.enable x.log2 x.vector x.coalesceCount x.coalesceTime
  | 2 => rqDesc s m b (bit w 0) (fld w 1 4) (fld w 8 6) (fld w 16 8) (x.coalesceTime / 256 * 256 + fld w 24 8)
  | 3 => rqDesc s m b x.enable x.log2 x.vector x.coalesceCount (fld w 0 8 * 256 + x.coalesceTime % 256)
  | 5 => (ringAck s x.fullStall w fun a => setRq s m { x with fullStall := a }, .none)
  | 7 => (ringAck s x.doorbellErr w fun a => setRq s m { x with doorbellErr := a }, .none)
  | _ => (s, .rq m)

/-- The words of the descriptors as a read returns them. -/
def sqWord (s : State) (n k : Nat) : Word :=
  let x := sqAt s n
  match k with
  | 0 => lowWord x.base.toNat
  | 1 => highWord x.base.toNat
  | 2 => packWord [(0, b01 x.enable), (1, x.log2), (8, x.replyRing)]
  | 4 => lowWord x.head
  | 5 => x.stallCount.c
  | 6 => x.doorbellErr.c
  | 7 => lowWord x.inFlight
  | _ => 0

def rqWord (s : State) (m k : Nat) : Word :=
  let x := rqAt s m
  match k with
  | 0 => lowWord x.base.toNat
  | 1 => highWord x.base.toNat
  | 2 => packWord [(0, b01 x.enable), (1, x.log2), (8, x.vector), (16, x.coalesceCount),
      (24, x.coalesceTime % 256)]
  | 3 => lowWord (x.coalesceTime / 256)
  | 4 => lowWord x.tail
  | 5 => x.fullStall.c
  | 6 => lowWord (b01 x.phase)
  | 7 => x.doorbellErr.c
  | _ => 0

/-! ### Doorbells (R34) -/

/-- A write of the tail doorbell of SQn. -/
def tailDoorbell (s : State) (n : Nat) (w : Word) : State × Discard :=
  let x := sqAt s n
  let i := fld w 0 12
  if x.enable && ringLegal x.log2 && i < 2 ^ x.log2 then (setSq s n { x with tail := i }, .none)
  else (s, .sq n)

/-- A write of the head doorbell of RQm: it may return only entries that the device has written. -/
def headDoorbell (s : State) (m : Nat) (w : Word) : State × Discard :=
  let x := rqAt s m
  let i := fld w 0 12
  let size := 2 ^ x.log2
  if x.enable && ringLegal x.log2 && i < size && (i + size - x.head) % size ≤ rqUsed x then
    (setRq s m { x with head := i }, .none)
  else (s, .rq m)

/-! ### The BAR0 map (R530 to R534) -/

/-- The fast-status block at an offset, and the offset within it. -/
def blockAt (off : Nat) : Option (FsBlock × Nat) :=
  let k := off / 0x1000
  if k = 0x100 then some (.device, off % 0x1000)
  else if 0x110 ≤ k ∧ k < 0x120 then some (.quay (Fin.ofNat 16 (k - 0x110)), off % 0x1000)
  else if 0x120 ≤ k ∧ k < 0x160 then some (.berth (Fin.ofNat 64 (k - 0x120)), off % 0x1000)
  else none

/-- The parameter whose mirror lies at an offset of BAR0. -/
def mirrorAt (off : Nat) : Option Word :=
  match blockAt off with
  | some (k, o) => fsParam k (o / 0x100) (o % 0x100 / 4)
  | none => none

/-- A write of a fast-status mirror: an ACK field is acknowledged (R534). -/
def mirrorWrite (s : State) (off : Nat) (w : Word) : State × Discard :=
  match mirrorAt off with
  | some id => if ackable id then ((ackOne s id w).1, .none) else (s, .bar0)
  | none => (s, .bar0)

/-- A 4-byte write to BAR0. -/
def bar0Word (s : State) (off : Nat) (w : Word) : State × Discard :=
  if 0x1000 ≤ off ∧ off < 0x1400 then sqDescWord s ((off - 0x1000) / 64) (off % 64 / 4) w
  else if 0x1400 ≤ off ∧ off < 0x1800 then rqDescWord s ((off - 0x1400) / 64) (off % 64 / 4) w
  else if 0x2000 ≤ off ∧ off < 0x2080 then
    (if off % 8 = 0 then tailDoorbell s ((off - 0x2000) / 8) w else (s, .sq ((off - 0x2000) / 8)))
  else if 0x2080 ≤ off ∧ off < 0x2100 then
    (if off % 8 = 0 then headDoorbell s ((off - 0x2080) / 8) w else (s, .rq ((off - 0x2080) / 8)))
  else mirrorWrite s off w

/-- Where a write that is discarded counts, by its offset (R531). -/
def discardAt (off : Nat) : Discard :=
  if 0x1000 ≤ off ∧ off < 0x1400 then .sq ((off - 0x1000) / 64)
  else if 0x1400 ≤ off ∧ off < 0x1800 then .rq ((off - 0x1400) / 64)
  else if 0x2000 ≤ off ∧ off < 0x2080 then .sq ((off - 0x2000) / 8)
  else if 0x2080 ≤ off ∧ off < 0x2100 then .rq ((off - 0x2080) / 8)
  else .bar0

/-- A write is counted once where a part of it is discarded. -/
def noteDiscard (r : State × Discard) : State := countDiscard r.1 r.2

/-- An 8-byte write of words k and k + 1 of reply descriptor m (R33): the fields that reach over both are judged as
one write. -/
def rqDescPair (s : State) (m k : Nat) (a b : Word) : State × Discard :=
  let x := rqAt s m
  if k = 0 then
    rqDesc s m (b.toNat * 2 ^ 32 + a.toNat) x.enable x.log2 x.vector x.coalesceCount x.coalesceTime
  else
    rqDesc s m x.base.toNat (bit a 0) (fld a 1 4) (fld a 8 6) (fld a 16 8) (fld b 0 8 * 256 + fld a 24 8)

/-- A write access to BAR0: aligned words, and pairs of words in order but for the paired words of a reply
descriptor. -/
def bar0Access (s : State) (off : Nat) (data : List Byte) : State :=
  if off % 4 = 0 && data.length = 4 then noteDiscard (bar0Word s off (BitVec.ofNat 32 (leNat data)))
  else if off % 8 = 0 && data.length = 8 && 0x1400 ≤ off && off < 0x1800 && off % 64 < 16 then
    noteDiscard (rqDescPair s ((off - 0x1400) / 64) (off % 64 / 4) (BitVec.ofNat 32 (leAt data 0 4))
      (BitVec.ofNat 32 (leAt data 4 4)))
  else if off % 8 = 0 && data.length = 8 then
    let a := bar0Word s off (BitVec.ofNat 32 (leAt data 0 4))
    let b := bar0Word a.1 (off + 4) (BitVec.ofNat 32 (leAt data 4 4))
    countDiscard b.1 (if a.2 = .none then b.2 else a.2)
  else countDiscard s (discardAt off)

/-- The present content of a 4-byte word of BAR0. -/
def bar0Value (s : State) (off : Nat) : Word :=
  if off = 0 then packWord [(0, 0x6410), (16, Config.deckRevision.toNat), (24, 1)]
  else if 0x1000 ≤ off ∧ off < 0x1400 then sqWord s ((off - 0x1000) / 64) (off % 64 / 4)
  else if 0x1400 ≤ off ∧ off < 0x1800 then rqWord s ((off - 0x1400) / 64) (off % 64 / 4)
  else match blockAt off with
    | some (k, o) => fsRead s k o
    | none => 0

/-- The low word of a 64-bit quantity: RewriteTide, or a mirrored member that continues in the next. -/
def isLow64 (off : Nat) : Bool :=
  match blockAt off with
  | none => false
  | some (_, o) =>
    if o = 0x10 then true
    else match mirrorAt off with
      | some id =>
        match idFam id with
        | 0x01 => idMem id = 1
        | 0x36 => idMem id = 2 || idMem id = 5 || idMem id = 7
        | 0x92 => idMem id = 2
        | 0xB1 => idMem id = 6
        | _ => false
      | none => false

/-- A 4-byte read of BAR0 (R99): the low word of a 64-bit quantity latches its high half, which a read of
the next word returns. -/
def bar0ReadWord (s : State) (off : Nat) : State :=
  if isLow64 off then
    let s := { s with host := { s.host with
      latch := tabSet s.host.latch (off + 4) (bar0Value s (off + 4)) } }
    readOut s (leBytes 4 (bar0Value s off).toNat) 0
  else if 4 ≤ off ∧ isLow64 (off - 4) then readOut s (leBytes 4 (tabGet 0 s.host.latch off).toNat) 0
  else readOut s (leBytes 4 (bar0Value s off).toNat) 0

/-! ### BAR0 rows -/

/-- A BAR access that reaches the device runs; any other changes no more than what the host sees. -/
def onBar (s : State) (f : State → State) : State := if barReach s then f (wakeLink s) else barLost s

/-- SQ_TAIL_DOORBELL. -/
def execSqTailDoorbell (n : Fin 16) (w : Word) (s : State) : Host.Outcome State Fault Refusal :=
  .next (onBar s fun s => noteDiscard (tailDoorbell s n.val w))

/-- RQ_HEAD_DOORBELL. -/
def execRqHeadDoorbell (m : Fin 16) (w : Word) (s : State) : Host.Outcome State Fault Refusal :=
  .next (onBar s fun s => noteDiscard (headDoorbell s m.val w))

/-- SQ_RING_ENABLE: the descriptor is written with these fields and Enable 1. -/
def execSqRingEnable (n : Fin 16) (base : BitVec 64) (log2 reply : BitVec 4) (s : State) :
    Host.Outcome State Fault Refusal :=
  .next (onBar s fun s => noteDiscard (sqDesc s n.val base.toNat true log2.toNat reply.toNat))

/-- SQ_RING_DISABLE: the descriptor is written with these fields and Enable 0. -/
def execSqRingDisable (n : Fin 16) (base : BitVec 64) (log2 reply : BitVec 4) (s : State) :
    Host.Outcome State Fault Refusal :=
  .next (onBar s fun s => noteDiscard (sqDesc s n.val base.toNat false log2.toNat reply.toNat))

/-- RQ_RING_ENABLE. -/
def execRqRingEnable (m : Fin 16) (base : BitVec 64) (log2 : BitVec 4) (vector : BitVec 6)
    (cnt : BitVec 8) (time : BitVec 16) (s : State) : Host.Outcome State Fault Refusal :=
  .next (onBar s fun s =>
    noteDiscard (rqDesc s m.val base.toNat true log2.toNat vector.toNat cnt.toNat time.toNat))

/-- RQ_RING_DISABLE (R33, R595): replies that fall due are dropped from now on. -/
def execRqRingDisable (m : Fin 16) (base : BitVec 64) (log2 : BitVec 4) (vector : BitVec 6)
    (cnt : BitVec 8) (time : BitVec 16) (s : State) : Host.Outcome State Fault Refusal :=
  .next (onBar s fun s =>
    noteDiscard (rqDesc s m.val base.toNat false log2.toNat vector.toNat cnt.toNat time.toNat))

/-- ACK_MIRROR_WRITE (R534): a 4-byte write to a fast-status block; no mirror lies outside the blocks. -/
def execAckMirrorWrite (off : Nat) (w : Word) (s : State) : Host.Outcome State Fault Refusal :=
  if bar0Size ≤ off then .fault .noSuchAddress
  else .next (onBar s fun s => noteDiscard (if off % 4 = 0 then bar0Word s off w else (s, discardAt off)))

/-- A read access of `len` bytes (R98, R99, R531): an aligned word; an aligned pair of words, both from one instant;
any other returns 0. -/
def bar0Read (s : State) (off len : Nat) : State :=
  if off % 4 = 0 && len = 4 then bar0ReadWord s off
  else if off % 8 = 0 && len = 8 then
    readOut s (leBytes 4 (bar0Value s off).toNat ++ leBytes 4 (bar0Value s (off + 4)).toNat) 0
  else readOut s (leBytes len 0) 0

/-- COUNTER_LOW_READ (R98, R99, R531): a read access to BAR0. -/
def execCounterLowRead (access : BarRead) (s : State) : Host.Outcome State Fault Refusal :=
  if bar0Size < access.off + access.len || bar0Size ≤ access.off then .fault .noSuchAddress
  else .next (onBar s fun s => bar0Read s access.off access.len)

/-- BAR0_WRITE (R531, R543): a poisoned write is discarded. -/
def execBar0Write (off : Nat) (data : List Byte) (poisoned : Bool) (s : State) :
    Host.Outcome State Fault Refusal :=
  if bar0Size < off + data.length then .fault .noSuchAddress
  else .next (onBar s fun s => if poisoned then countDiscard s .bar0 else bar0Access s off data)

/-! ### BAR2 (R318, R322) -/

/-- BAR2_WRITE: into a pattern area of the hold; a stack that is down takes no data. -/
def execBar2Write (off : Nat) (data : List Byte) (poisoned : Bool) (s : State) :
    Host.Outcome State Fault Refusal :=
  if bar2Size < off + data.length then .fault .noSuchAddress
  else .next (onBar s fun s =>
    if poisoned || !rangePattern off data.length then count s 6 0 0x78 3
    else if stackIsDown s 0 && touches off data.length 0 || stackIsDown s 1 && touches off data.length 1 then s
    else holdWrite s off data)

/-- `n` bytes that no rule states. -/
def freeRead (s : State) (n : Nat) : List Byte :=
  (List.range n).map fun i => (Config.freeWord (s.freeCtr + i)).truncate 8

/-- BAR2_READ: poisoned on an uncorrectable word, zeros past the end of the hold, and from a stack that is
down bytes that no rule states. -/
def execBar2Read (off len : Nat) (s : State) : Host.Outcome State Fault Refusal :=
  if bar2Size < off + len then .fault .noSuchAddress
  else .next (onBar s fun s =>
    if 0xC00000000 ≤ off then readOut s (List.replicate len 0) 0
    else if stackIsDown s 0 && touches off len 0 || stackIsDown s 1 && touches off len 1 then
      { readOut s (freeRead s len) 0 with freeCtr := s.freeCtr + len }
    else if len ≠ 0 && (badWord s off len).isSome then
      readOut (count (eccNote s (stackOf off)) 6 0 0xD1 5) [] 1
    else readOut (countN s 6 0 0x78 1 (singleErrors s off len)) (memReadBytes s.hold.mem off len) 0)

/-! ### MSI-X (R535) -/

/-- Messages that are pending and may leave are sent, in vector order. -/
def msixFlush (s : State) : State :=
  (List.range 64).foldl (fun s v =>
    if (msixAt s v).pending && msixCanSend s v then
      setMsix s v { msixAt s v with pending := false, sent := (msixAt s v).sent + 1 }
    else s) s

/-- MSIX_UNMASK: one vector, or the function (MSI-X Enable 1 and Function Mask 0). -/
def execMsixUnmask (vector : Option (Fin 64)) (s : State) : Host.Outcome State Fault Refusal :=
  .next (if barReach s then
    match vector with
    | some v => msixFlush (setMsix s v.val { msixAt s v.val with masked := false })
    | none => msixFlush { s with host := { s.host with msixEn := true, funcMask := false } }
  else s)

/-- REPLY_COALESCE_TIMEOUT (R62). -/
def execReplyCoalesceTimeout (m : Fin 16) (s : State) : Host.Outcome State Fault Refusal :=
  .next (let x := rqAt s m.val
    if x.unsignalled = 0 || x.coalesceTime = 0 then s
    else
      let s := reach s (x.oldest + usTc x.coalesceTime)
      msixRaise (setRq s m.val { rqAt s m.val with unsignalled := 0 }) x.vector)

/-! ### Bus Master Enable, power states, held replies (R540) -/

/-- ReplyHold in tide counts. -/
def replyHold (s : State) : Nat := usTc (1000 * liveF s 6 0 0xD0 0 0 16)

/-- The replies held are answered, by `f`, and held no more. -/
def heldOut (s : State) (p : HeldReply → Bool) (f : State → HeldReply → State) : State :=
  let hs := s.host.heldReplies.filter p
  hs.foldl f { s with host := { s.host with heldReplies := s.host.heldReplies.filter fun h => !p h } }

/-- Replies held too long are dropped. -/
def dropLate (s : State) : State :=
  let now := s.tide
  let hold := replyHold s
  heldOut s (fun h => decide (h.due + hold ≤ now)) dropHeld

/-- Memory requests may leave again: what is held is posted in order, and pending messages go out. -/
def flushHeld (s : State) : State :=
  if !canRequest s then s else msixFlush (heldOut (dropLate s) (fun _ => true) postHeld)

def setBusMaster (s : State) (on : Bool) : State :=
  let s := { s with host := { s.host with busMaster := on } }
  if on then flushHeld s else s

/-- BUS_MASTER_ENABLE_CLEAR. -/
def execBusMasterEnableClear (s : State) : Host.Outcome State Fault Refusal :=
  .next (if s.host.linkUp then setBusMaster s false else s)

/-- BUS_MASTER_ENABLE_SET. -/
def execBusMasterEnableSet (s : State) : Host.Outcome State Fault Refusal :=
  .next (if s.host.linkUp then setBusMaster s true else s)

/-- REPLY_HOLD_EXPIRY: the oldest held replies have waited ReplyHold ms. -/
def execReplyHoldExpiry (s : State) : Host.Outcome State Fault Refusal :=
  .next (match s.host.heldReplies.head? with
  | some h => dropLate (reach s (h.due + replyHold s))
  | none => s)

/-- D3HOT_ENTRY. -/
def execD3hotEntry (s : State) : Host.Outcome State Fault Refusal :=
  .next (if s.host.linkUp then { s with host := { s.host with dState := 3 } } else s)

/-- D0_RETURN. -/
def execD0Return (s : State) : Host.Outcome State Fault Refusal :=
  .next (if s.host.linkUp && s.host.dState = 3 then
    flushHeld { s with host := { s.host with dState := 0 } } else s)

/-- ASPM_L1_ENTRY (R542). -/
def execAspmL1Entry (s : State) : Host.Outcome State Fault Refusal :=
  .next (if s.host.linkUp then { s with host := { s.host with inL1 := true } } else s)

/-- ASPM_L1_EXIT (R542). -/
def execAspmL1Exit (s : State) : Host.Outcome State Fault Refusal := .next (wakeLink s)

/-! ### The link itself (R525, R540, R546, R552) -/

/-- HOST_LINK_DOWN: link down or Hot Reset. -/
def execHostLinkDown (s : State) : Host.Outcome State Fault Refusal := .next (hostLinkLost s)

/-- The widest width that LINK_WIDTH lets the endpoint advertise. -/
def maxWidth (s : State) : Nat := 16 / 2 ^ strap s fun x => x.linkWidth.toNat

/-- The endpoint may train (R544, R552). -/
def mayLinkUp (s : State) : Bool :=
  s.boot.straps.isSome && !s.host.perstHeld && natBit s.clk.refPresent 0 && !pcieOff s && !s.host.linkUp

/-- HOST_LINK_UP: training has ended at a rate and width that the endpoint supports. -/
def execHostLinkUp (speed : Fin 6) (width : Fin 17) (reversed : Bool) (s : State) :
    Host.Outcome State Fault Refusal :=
  .next (if mayLinkUp s && speed.val ≠ 0 && [1, 2, 4, 8, 16].contains width.val && width.val ≤ maxWidth s then
    { s with host := { s.host with
      linkUp := true, speed := speed.val, width := width.val, reversed := reversed } }
  else s)

/-- PERST_N_ASSERT. -/
def execPerstNAssert (s : State) : Host.Outcome State Fault Refusal :=
  .next (let s := hostLinkLost s
    { s with host := { s.host with perstHeld := true } })

/-- PERST_N_RELEASE: training may start; HOST_LINK_UP is its end. -/
def execPerstNRelease (s : State) : Host.Outcome State Fault Refusal :=
  .next { s with host := { s.host with perstHeld := false } }

/-- FATAL_LINK_ERROR (R543). -/
def execFatalLinkError (s : State) : Host.Outcome State Fault Refusal :=
  .next (if s.host.linkUp then count s 6 0 0xD1 4 else s)

/-- CORRECTABLE_LINK_ERROR (R543). -/
def execCorrectableLinkError (s : State) : Host.Outcome State Fault Refusal :=
  .next (if s.host.linkUp then count s 6 0 0xD1 3 else s)

/-! ### The configuration space (R528, R529, R540, R552) -/

def configStored (s : State) (reg : Nat) : Nat := (tabGet 0 s.host.config reg).toNat

/-- A configuration register, by its offset: the header as R528 gives its values, at the places of a PCI
type 0 header; the rest as the PCI Express specification gives it. -/
def cfgRead (s : State) (reg : Nat) : Word :=
  let free := Config.configWord reg (tabFind s.host.config reg)
  match reg with
  | 0x00 => packWord [(0, 0x1F6A), (16, 0x6410)]
  | 0x04 => (free &&& ~~~(4#32)) ||| BitVec.ofNat 32 (4 * b01 s.host.busMaster)
  | 0x08 => packWord [(0, Config.deckRevision.toNat), (8, 0x118000)]
  | 0x0C => free &&& 0xFF00FFFF#32
  | 0x10 => lowWord (configStored s reg / bar0Size * bar0Size + 4)
  | 0x14 => lowWord (configStored s reg)
  | 0x18 => lowWord 0xC
  | 0x1C => lowWord (configStored s reg / 16 * 16)
  | 0x20 => lowWord (configStored s reg / 0x4000 * 0x4000 + 4)
  | 0x24 => lowWord (configStored s reg)
  | 0x2C => packWord [(0, s.host.subsysVendor), (16, s.host.subsysId)]
  | 0x30 => 0
  | 0x3C => free &&& 0xFFFF00FF#32
  | _ => free

/-- A configuration write: bit 2 of the command register is Bus Master Enable. -/
def cfgWrite (s : State) (reg : Nat) (w : Word) : State :=
  let s := { s with host := { s.host with config := tabSet s.host.config reg w } }
  if reg = 4 ∧ bit w 2 ≠ s.host.busMaster then setBusMaster s (bit w 2) else s

/-- CONFIG_REQUEST: before CE4 has started it is completed with retry status. -/
def execConfigRequest (reg : Nat) (write : Option Word) (s : State) : Host.Outcome State Fault Refusal :=
  if 4096 ≤ reg ∨ reg % 4 ≠ 0 then .fault .noSuchAddress
  else .next (
    let s := if s.host.linkUp then wakeLink s else s
    if !s.host.linkUp then readOut s [] 4
    else if s.cold || !s.boot.fusesRead then readOut s [] 2
    else match write with
      | some w => readOut (cfgWrite s reg w) [] 0
      | none => readOut s (leBytes 4 (cfgRead s reg).toNat) 0)

/-! ### Completions of the device's reads (R537, R543) -/

/-- The running command of a tag whose data is still to come from host memory, or a SEG_LOAD's from the hold. -/
def readerOf (s : State) (tag : BitVec 16) : Option Cmd :=
  s.inflight.find? fun c => c.hdr.tag = tag && c.phase = .running &&
    (match c.work with
     | .segRead => true
     | .bcast 0 _ => true
     | _ => false)

/-- HOST_READ_COMPLETION: the source of a SEG_LOAD or BCAST_LOAD has been read. The table has no row for the end of a
read of the hold: this one ends a SEG_LOAD from there too, its data unused (DESIGN CHOICE, log 90). -/
def execHostReadCompletion (tag : BitVec 16) (data : List Byte) (s : State) :
    Host.Outcome State Fault Refusal :=
  .next (match readerOf s tag with
  | some c =>
    match c.op with
    | .bcastLoad _ _ len => bcastGo s c (padTo len.toNat data)
    | _ => segReadDone s c data
  | none => s)

/-- A read fails (R543): a slot fetch leaves the slot unaccepted and disables its ring; a command's read
ends the command. -/
def readFailed (s : State) (read : Fin 16 ⊕ BitVec 16) (src : Nat) : State :=
  match read with
  | .inl n =>
    if ringReady s n.val then
      countDiscard (setSq s n.val { sqAt s n.val with enable := false, stalled := false, stallOn := 0 }) (.sq n.val)
    else s
  | .inr tag =>
    match readerOf s tag with
    | some c => cancel s { c with missing := [] } (hwFault src 0)
    | none => s

/-- POISONED_COMPLETION. -/
def execPoisonedCompletion (read : Fin 16 ⊕ BitVec 16) (s : State) : Host.Outcome State Fault Refusal :=
  .next (readFailed s read 0xD0)

/-- COMPLETION_TIMEOUT: not retried. -/
def execCompletionTimeout (read : Fin 16 ⊕ BitVec 16) (s : State) : Host.Outcome State Fault Refusal :=
  .next (readFailed s read 0xD1)

/-- UR_CA_COMPLETION. -/
def execUrCaCompletion (read : Fin 16 ⊕ BitVec 16) (s : State) : Host.Outcome State Fault Refusal :=
  .next (readFailed s read 0xD2)

end Sys2Proof.Machine
end

