-- ==== Sys2Proof/Machine/PowerRows.lean ====
section
/-! DEFINITION. The site power rows: the start from OFF, the steps and ends of ramps (R276 to R280),
turning off (R282), sequences (R283), monitors and fault actions (R286 to R290), and the pulse
generators (R270, R273, R274). -/

namespace Sys2Proof.Machine

/-! ### Ramps (R276 to R279) -/

/-- The output as it is sensed now. -/
def sensed (s : State) (b : Nat) (vout : Int) : State := modSp s b fun x => { x with vout := vout, voutAt := some s.tide }

/-- The phases switch: the controller regulates or ramps, and has not gone to mid-level. -/
def switching (x : Sp) : Bool := (x.state = .on || ramping x) && x.enFallAt.isNone

/-- Vref has passed the sensed output: the forced light load ends (R278). -/
def lightEnd (x : Sp) : Sp := if x.vout < (vref x : Int) then { x with lightForced := false } else x

/-- StageReady has run out: Vref is set to the sensed output and the ramp begins (R278). -/
def stageSwitch (s : State) (b : Nat) (vout : Int) : State :=
  let v := vout.toNat / 25 * 25
  let s := modSp (sensed s b vout) b fun x => { x with
    state := .rampUp, readyAt := none, acc := accUnits * v, rampFrom := v
    lightForced := true, upward := decide (v ≤ x.rampTarget)
    ovHold := if v ≤ x.rampTarget then none else some v, stepAt := s.tide }
  modSp s b lightEnd

/-- STAGE_READY (R278). With the stage fault flag low no phase switches (R289). -/
def execStageReady (b : Fin 64) (vout : Int) (fltLow : Bool) (s : State) :
    Host.Outcome State Fault Refusal :=
  .next (match (spAt s b).state, (spAt s b).readyAt with
    | .starting, some t =>
      let s := sensed (reach s t) b vout
      if fltLow then action2 s b 0x33 else stageSwitch s b vout
    | _, _ => s)

/-- RAMP_STEP (R276): the accumulator steps on the next tide count divisible by 40. -/
def execRampStep (b : Fin 64) (s : State) : Host.Outcome State Fault Refusal :=
  .next (let x := spAt s b
    if ramping x && x.enFallAt.isNone && stepsLeft x ≠ 0 then
      modSp (reach s (tick40 x.stepAt)) b fun x =>
        lightEnd { x with acc := accStep x, stepAt := tick40 x.stepAt }
    else s)

/-- The tide count of the step that lands on the target. -/
def rampEnd (x : Sp) : Nat :=
  if stepsLeft x = 0 then x.stepAt else tick40 x.stepAt + 40 * (stepsLeft x - 1)

/-- RAMP_TARGET_REACHED (R279): `vout` is the output sensed at the end of the commit. -/
def execRampTargetReached (b : Fin 64) (vout : Int) (s : State) :
    Host.Outcome State Fault Refusal :=
  .next (let x := spAt s b
    if ramping x && x.enFallAt.isNone then
      let e := rampEnd x
      let s := sensed (modSp (reach s e) b fun x => lightEnd { x with acc := accUnits * x.rampTarget, stepAt := e }) b vout
      if x.rampTarget = 0 then rampZero s b else rampCommit s b
    else s)

/-- Sbb_EN falls (R279, R290, R291): a controller in HICCUP stays in it, any other is OFF, and what
waited for that completes. -/
def enFall (s : State) (b : Nat) (vout : Int) : State :=
  let x := spAt s b
  let s := sensed s b vout
  if x.state = .hiccup then modSp s b fun x => { x with enHigh := false, enFallAt := none }
  else
    let undo := if x.state = .undoing then x.abortTag else none
    settle (offAdvance (rampReply (enterOff (goodEnd s b) b) b undo))

/-- EN_FALL_DELAY (R279). -/
def execEnFallDelay (b : Fin 64) (vout : Int) (s : State) : Host.Outcome State Fault Refusal :=
  .next (match (spAt s b).enFallAt with
    | some t => enFall (reach s t) b vout
    | none => s)

/-! ### Off groups and sequences (R282, R283) -/

/-- The least instant of a list. -/
def leastOf (ts : List Nat) : Option Nat :=
  match ts with
  | [] => none
  | t :: rest => some (rest.foldl Nat.min t)

/-- The plans whose next group starts at the present tide: their first group begins to ramp. -/
def offGroupBegin (s : State) (plans : List OffPlan) : State :=
  match plans with
  | [] => s
  | p :: rest =>
    let s := offGroupBegin s rest
    match p.later with
    | g :: more =>
      let s := forAll s g offRamp
      { s with offPlans := { now := g, later := more } :: s.offPlans }
    | [] => s

/-- OFF_GROUP_START (R282): OffGap has run out since the previous group was off. -/
def execOffGroupStart (s : State) : Host.Outcome State Fault Refusal :=
  .next (match leastOf (s.offPlans.filterMap (·.nextAt)) with
    | none => s
    | some t =>
      let due := s.offPlans.filter fun p => p.nextAt = some t
      let s := { s with offPlans := s.offPlans.filter fun p => p.nextAt ≠ some t }
      settle (offAdvance (offGroupBegin (reach s t) due)))

/-- The instant at which a running SP_SEQUENCE starts its next entry. -/
def sequenceAt (c : Cmd) : Option Nat :=
  match c.phase, c.work with
  | .running, .sequence (_ :: _) _ at_ _ => at_
  | _, _ => none

/-- The next entry's controller moves, or others wait for it before the command (R281): the entry waits. A berth in OFF
is skipped (R49), and an entry of another device waits there. -/
def sequenceBlocked (s : State) (c : Cmd) : Bool :=
  match c.work with
  | .sequence (e :: _) _ _ _ =>
    entryOwn s c.hdr.scope.toNat e && (berthAt s e.berth.toNat).run ≠ .off &&
      (ctrlMoves s e.berth.toNat || controllerAhead s c e.berth.toNat)
  | _ => false

/-- The entry of a controller as it starts: what it began with (R284). -/
def seqRun (s : State) (e : SeqEntry) : SeqRun :=
  let x := spAt s e.berth.toNat
  { entry := e, home := vref x, slew := spSlew s e.berth.toNat 0, off := x.state = .off || x.state = .hiccup }

/-- An entry starts: its controller ramps at RampSlew; a berth in OFF is skipped (R49), and an entry of another device
starts there. -/
def sequenceStart (s : State) (c : Cmd) : State :=
  match c.work with
  | .sequence (e :: rest) started _ v =>
    let b := e.berth.toNat
    let sc := c.hdr.scope.toNat
    if !entryOwn s sc e then
      putCmd s { c with work := .sequence rest (started ++ [{ entry := e }]) (nextEntryAt s sc (some e) rest) v }
    else if (berthAt s b).run = .off then
      putCmd s { c with work := .sequence rest started (nextEntryAt s sc none rest) v }
    else
      let r := seqRun s e
      let s := rampCommand s b (spTarget e.target.toNat) r.slew
      putCmd s { c with work := .sequence rest (started ++ [r]) (nextEntryAt s sc (some e) rest) v }
  | _ => s

/-- SP_SEQ_ENTRY_START (R283): the earliest entry that is due and does not wait for its controller; of several due at one
instant that of the command accepted first. -/
def execSpSeqEntryStart (s : State) : Host.Outcome State Fault Refusal :=
  .next (
    let free (t : Nat) (c : Cmd) : Bool := sequenceAt c = some t && !sequenceBlocked (reach s t) c
    let ts := s.inflight.filterMap sequenceAt
    match leastOf (ts.filter fun t => s.inflight.any (free t)) with
    | none => s
    | some t =>
      match s.inflight.find? (free t) with
      | none => s
      | some c =>
        let s := sequenceStart (reach s t) c
        match s.inflight.find? fun x => x.ord = c.ord with
        | some c => sequenceSettle s c
        | none => s)

/-! ### Monitors (R286 to R289) -/

def filterTime (s : State) (b : Nat) (m : Mon) : Nat :=
  usTc (liveF s 3 b 0x6C 1 (match m with | .ov => 6 | .uv => 12 | .oc => 18) 6)

/-- The member of family 0x6F that counts a monitor's trips. -/
def tripMember (m : Mon) : Nat :=
  match m with
  | .ov => 4
  | .uv => 5
  | .oc => 6

/-- The monitor's filter runs while its level is 1 (R289): UV only once it is armed. -/
def filterRuns (x : Sp) (m : Mon) : Bool := m ≠ .uv || x.uvArmed

/-- A live monitor's level, from the end of its blanking or a change of it (R287, R288). -/
def monLive (s : State) (b : Nat) (m : Mon) (level trip : Bool) : State :=
  let s := if trip then countFront s 3 b 0x6F (tripMember m) else s
  let now := s.tide
  let s := modSp s b fun x => setMon x m { level := level, blankEnd := none
                                           filterFrom := if level && filterRuns x m then some now else none }
  sequenceGood (noteGood s b)

/-- The controller has a monitor that acts: it leads its gang, its domain has power, and the monitor
is enabled (R285, R286). -/
def monActs (s : State) (b : Nat) (m : Mon) : Bool :=
  leaderOf s b = b && (berthAt s b).powered && monEnabled s b m

/-- MONITOR_LEVEL_CHANGE (R288): the live level becomes `level`; 0 to 1 counts a trip. -/
def execMonitorLevelChange (b : Fin 64) (m : Mon) (level : Bool) (s : State) :
    Host.Outcome State Fault Refusal :=
  .next (let y := monOf (spAt s b) m
    if monActs s b m && y.blankEnd.isNone && y.level != level then monLive s b m level level else s)

/-- MONITOR_BLANKING_END (R287): the monitor goes live at `level`. -/
def execMonitorBlankingEnd (b : Fin 64) (m : Mon) (level : Bool) (s : State) :
    Host.Outcome State Fault Refusal :=
  .next (match (monOf (spAt s b) m).blankEnd with
    | some t =>
      if monActs s b m then monLive (reach s t) b m level (level && !(monOf (spAt s b) m).quiet)
      else modSp (reach s t) b fun x => setMon x m { monOf x m with blankEnd := none }
    | none => s)

/-- The end of a monitor's filter time, while the armed monitor's level stays 1. -/
def filterEnd (s : State) (b : Nat) (m : Mon) : Option Nat :=
  if monActs s b m && filterRuns (spAt s b) m then
    ((monOf (spAt s b) m).filterFrom).map (· + filterTime s b m)
  else none

/-- Of the monitors whose filter ends together, the one whose action is taken: the higher action number, and OV, OC, UV
among equals (R292). -/
def filterWins (s : State) (b : Nat) (ms : List Mon) (m : Mon) : Mon :=
  ms.foldl (fun best k => if monActionNo s b best < monActionNo s b k then k else best) ((ms.head?).getD m)

/-- The filters that end now have had their say. -/
def filtersDone (s : State) (b : Nat) (ms : List Mon) : State :=
  ms.foldl (fun s k => modSp s b fun x => setMon x k { monOf x k with filterFrom := none }) s

/-- The monitors whose filter ends at an instant. -/
def filtersDue (s : State) (b e : Nat) : List Mon := [Mon.ov, .oc, .uv].filter fun k => filterEnd s b k = some e

/-- A stage fault flag or an open remote sense acts at a controller with action 2 (R289): unless a monitor whose filter
ends on the same root edge has action 3, or a cause that goes before it has acted on that edge (R292). -/
def flagAct (s : State) (b src rank : Nat) : State :=
  let ms := filtersDue s b s.tide
  let w := filterWins s b ms .ov
  let s := filtersDone s b ms
  if ms.any (fun k => 2 < monActionNo s b k) then monAction s b w
  else if causeWins s b 2 rank then action2 (actTaken s b 2 rank src) b src
  else s

/-- MONITOR_FILTER_EXPIRY (R289, R292): the armed level has stayed 1 for its filter time. -/
def execMonitorFilterExpiry (b : Fin 64) (m : Mon) (s : State) :
    Host.Outcome State Fault Refusal :=
  .next (match filterEnd s b m with
    | some e =>
      let ms := filtersDue s b e
      let w := filterWins s b ms m
      monAction (filtersDone (reach s e) b ms) b w
    | none => s)

/-- STAGE_FAULT_FLAG (R289, R285): the flag counts at its own berth and acts on the gang. -/
def execStageFaultFlag (b : Fin 64) (s : State) : Host.Outcome State Fault Refusal :=
  .next (if (berthAt s b).powered then flagAct (countFront s 3 b 0x6F 8) (leaderOf s b) 0x33 0 else s)

/-- OPEN_SENSE_DETECT (R289, R285): only at the leader, and while the phases switch. -/
def execOpenSenseDetect (b : Fin 64) (s : State) : Host.Outcome State Fault Refusal :=
  .next (if leaderOf s b = b && switching (spAt s b) then flagAct (countFront s 3 b 0x6F 0x0A) b 0x34 1
    else s)

/-- HICCUP_RESTART (R290). -/
def execHiccupRestart (b : Fin 64) (s : State) : Host.Outcome State Fault Refusal :=
  .next (match (spAt s b).state, (spAt s b).hiccupAt with
    | .hiccup, some t => startFromOff (reach s t) b (spAt s b).lastTarget (spSlew s b 0)
    | _, _ => s)

/-! ### Pulse generators (R270, R273, R274); instants in root periods, 8 to a tide count -/

/-- The phase exists and its controller switches. -/
def phaseRuns (s : State) (b n : Nat) : Bool :=
  decide (n < phaseCount s b) && (berthAt s b).powered && switching (spAt s (leaderOf s b))

def setPhase (s : State) (b n : Nat) (f : Phase → Phase) : State :=
  modSp s b fun x => { x with phases := tabSet x.phases n (f (phaseAt x.phases n)) }

/-- The minimum off time, 40 ns. -/
def minOff : Nat := 256

/-- Leading-edge blanking: Leb × 5 ns. -/
def lebPeriods (s : State) (b : Nat) : Nat := 32 * liveF s 3 (leaderOf s b) 0x69 0 19 5

/-- The maximum-duty point after the cycle edge. -/
def maxDutyPeriods (s : State) (b : Nat) : Nat :=
  liveF s 3 (leaderOf s b) 0x68 0 5 14 * liveF s 3 (leaderOf s b) 0x68 0 19 7 / 100

/-- The pulse ends: the output goes low. -/
def pulseEnd (s : State) (b n off : Nat) : State :=
  let e := (phaseAt (spAt s b).phases n).setEdge + off
  setPhase (reach s (e / 8)) b n fun x => { x with pwm := .low, lastFall := e }

/-- PWM_CYCLE_EDGE (R273): the output goes high at the edge unless the last pulse ended less than the
minimum off time before it. -/
def execPwmCycleEdge (b : Fin 64) (n : Fin 4) (at_ : Nat) (s : State) :
    Host.Outcome State Fault Refusal :=
  .next (if phaseRuns s b n && isCycleEdge s b n at_ && s.tide ≤ at_ / 8 then
      let p := phaseAt (spAt s b).phases n
      let s := reach s (at_ / 8)
      if p.lastFall ≠ 0 && at_ < p.lastFall + minOff then s
      else setPhase s b n fun x => { x with pwm := .high, setEdge := at_ }
    else s)

/-- PEAK_COMPARATOR_TRIP (R273, R274), `sinceEdge` root periods after the cycle edge; a reset within
the blanking is ignored (R292). A cycle that ends on the VC clamp counts in PeakHits. -/
def execPeakComparatorTrip (b : Fin 64) (n : Fin 4) (sinceEdge : Nat) (onClamp : Bool) (s : State) :
    Host.Outcome State Fault Refusal :=
  .next (if phaseRuns s b n && (phaseAt (spAt s b).phases n).pwm = .high && lebPeriods s b ≤ sinceEdge &&
        sinceEdge ≤ maxDutyPeriods s b then
      let s := pulseEnd s b n sinceEdge
      if onClamp then
        modSp (countFront s 3 b 0x6F 7) b fun x => { x with limitUntil := s.tide + usTc 1 }
      else s
    else s)

/-- MAX_DUTY_TIMEOUT (R273): no reset has come by MaxDuty % of the period. -/
def execMaxDutyTimeout (b : Fin 64) (n : Fin 4) (s : State) : Host.Outcome State Fault Refusal :=
  .next (if phaseRuns s b n && (phaseAt (spAt s b).phases n).pwm = .high then
      pulseEnd s b n (maxDutyPeriods s b)
    else s)

/-- ZERO_CURRENT_DETECT (R273, R278): with LightLoad, or while it is forced, the output goes to
mid-level. -/
def execZeroCurrentDetect (b : Fin 64) (n : Fin 4) (s : State) : Host.Outcome State Fault Refusal :=
  .next (let l := leaderOf s b
    if phaseRuns s b n && (phaseAt (spAt s b).phases n).pwm = .low &&
        (liveF s 3 l 0x68 0 4 1 = 1 || (spAt s l).lightForced) then
      setPhase s b n fun x => { x with pwm := .mid }
    else s)

end Sys2Proof.Machine
end

