-- ==== Sys2Proof/Machine/SmbRows.lean ====
section
/-! DEFINITION. The SMBus target (R422, R584): the values that it serves, their update every 1 ms, and what
each command code returns. -/

namespace Sys2Proof.Machine

/-! ### Power domains (R576) -/

/-- The 109 power domains. -/
inductive PowerDomain where
  | berthAnalog (b : Fin 64) | quay (q : Fin 16) | wingFront (w : Fin 4) | wingLink (w : Fin 4) | hold (k : Fin 2)
  | chainPort (p : Fin 4) | pciExpress | engine (e : Fin 5) | siteCluster (c : Fin 8) | alwaysOn
  deriving DecidableEq, Repr

def anyOn (s : State) (bs : List Nat) : Bool := bs.any fun b => (berthAt s b).run ≠ .off

/-- A domain is on. No command switches one directly. -/
def domainOn (s : State) (d : PowerDomain) : Bool :=
  match d with
  | .berthAnalog b => anyOn s [b.val]
  | .quay q => anyOn s (berthsOfQuay q.val)
  | .wingFront _ | .wingLink _ | .hold _ | .engine _ => !s.cold
  | .chainPort p => bit (portCtl s p.val) 0 && (isPilot s || isFollower s)
  | .pciExpress => !s.cold && !pcieOff s
  | .siteCluster c => anyOn s ((List.range 8).map (8 * c.val + ·))
  | .alwaysOn => s.boot.aonOn

/-! ### The power estimate (the Typ column of R578, in nW) -/

/-- A powered circuit whose Mode is not OFF; its Rate counts while its quay plays a burst. -/
def typChan (s : State) (c : Nat) : Nat :=
  let q := quayOfChan c
  if (chanAt s c).mode = 0 || (berthAt s (berthOfChan c)).run = .off then 0
  else if !(quayAt s q).running then 12000000
  else
    let set := (quayAt s q).activeSet
    let de := formatIn s q c set = 4
    12000000 + Nat.min 30000000 ((if de then 2 else 1) * 30000000 * 625 * subUnits / effPeriod s q set)

/-- A quay with a burst, or with a berth powered. -/
def typQuay (s : State) (q : Nat) : Nat :=
  if (quayAt s q).running then 1125000000 else if domainOn s (.quay (Fin.ofNat 16 q)) then 225000000 else 0

def typHold (s : State) : Nat := 8000000000 + 14000000000 * totalDemand s / 1500000000000

def typLane (s : State) (l : Nat) : Nat := if (laneAt s l).state = .off then 0 else 250000000

def typLink (s : State) : Nat :=
  if pcieOff s then 0 else if 16 ≤ s.host.width then 4000000000
  else if 8 ≤ s.host.width then 2400000000 else 1500000000

/-- A controller whose phases switch. -/
def typSp (s : State) (b : Nat) : Nat :=
  match (spAt s b).state with
  | .rampUp | .on | .rampDown | .undoing => 60000000
  | _ => 0

/-- The device's estimated power out of COLD. -/
def typPower (s : State) : Nat :=
  ((List.range 1088).map (typChan s)).sum + ((List.range 16).map (typQuay s)).sum + typHold s +
    ((List.range 48).map (typLane s)).sum + typLink s + ((List.range 64).map (typSp s)).sum +
    4000000000 + 8000000000

/-- The estimate in 0.01 W, rounded half up. -/
def smbPower (s : State) : Nat := (typPower s + 5000000) / 10000000

/-! ### The values (R422) -/

/-- The values that the target serves, from the device's present state. -/
def smbNow (s : State) : Smb where
  zoneTemp := (List.range 24).map fun z => (z, temp16Code (zoneAt s z).temp)
  hottest := temp16Code ((hottest s).map (·.1))
  warn := zoneMask s 1
  throttle := zoneMask s 2
  stop := zoneMask s 3
  bad := bitWord 104 0 fun i => (sensorAt s i).badKind ≠ 0
  power := smbPower s
  address := s.therm.smb.address

/-- SMB_VALUE_UPDATE: each 1 ms. -/
def execSmbValueUpdate (s : State) : Host.Outcome State Fault Refusal :=
  .next (if s.boot.aonOn && !s.cold then
    { s with therm := { s.therm with smb := smbNow s } }
  else s)

/-- SMB_ALERT_N is low: a zone has stopped, or the device is in FAULT (R584). -/
def smbAlertLow (s : State) : Bool := zoneMask s 3 ≠ 0 || devRun s = 7

/-! ### The command codes -/

/-- The target answers `n` bytes; it is silent without VDD_AON. -/
def smbAnswer (s : State) (n v : Nat) : State :=
  if s.boot.aonOn then readOut s (leBytes n v) 0 else readOut s [] 4

/-- A thermal code answers from BOOTING on. -/
def smbThermal (s : State) (n v : Nat) : State := if s.cold then readOut s [] 4 else smbAnswer s n v

/-- SMB_ZONE_TEMP, codes 0x00 to 0x17. -/
def execSmbZoneTemp (z : Fin 24) (s : State) : Host.Outcome State Fault Refusal :=
  .next (smbThermal s 2 (tabGet 0x8000 s.therm.smb.zoneTemp z.val))

/-- SMB_HOTTEST, code 0x18. -/
def execSmbHottest (s : State) : Host.Outcome State Fault Refusal := .next (smbThermal s 2 s.therm.smb.hottest)

/-- SMB_WARN_MASK, code 0x19. -/
def execSmbWarnMask (s : State) : Host.Outcome State Fault Refusal := .next (smbThermal s 3 s.therm.smb.warn)

/-- SMB_THROTTLE_MASK, code 0x1A. -/
def execSmbThrottleMask (s : State) : Host.Outcome State Fault Refusal :=
  .next (smbThermal s 3 s.therm.smb.throttle)

/-- SMB_STOP_MASK, code 0x1B. -/
def execSmbStopMask (s : State) : Host.Outcome State Fault Refusal := .next (smbThermal s 3 s.therm.smb.stop)

/-- SMB_BAD_SENSORS, code 0x1C. -/
def execSmbBadSensors (s : State) : Host.Outcome State Fault Refusal := .next (smbThermal s 13 s.therm.smb.bad)

/-- SMB_RUN_STATE, code 0x20. -/
def execSmbRunState (s : State) : Host.Outcome State Fault Refusal := .next (smbAnswer s 1 (devRun s))

/-- SMB_POWER_ESTIMATE, code 0x21. -/
def execSmbPowerEstimate (s : State) : Host.Outcome State Fault Refusal :=
  .next (smbAnswer s 2 (if s.cold then 0 else s.therm.smb.power))

/-- SMB_RAIL_STATUS, code 0x22. -/
def execSmbRailStatus (s : State) : Host.Outcome State Fault Refusal := .next (smbAnswer s 1 s.boot.railsBad)

/-- SMB_RAIL_FAULTS, code 0x23. -/
def execSmbRailFaults (s : State) : Host.Outcome State Fault Refusal :=
  .next (smbAnswer s 2 ((ackOf s (pid 6 0 0xD9 5)).c.toNat % 65536))

/-- SMB_RST_EVENTS, code 0x24. -/
def execSmbRstEvents (s : State) : Host.Outcome State Fault Refusal :=
  .next (smbAnswer s 2 ((ackOf s (pid 6 0 0xD9 4)).c.toNat % 65536))

/-- SMB_LAST_FAULT, code 0x25. -/
def execSmbLastFault (s : State) : Host.Outcome State Fault Refusal :=
  .next (smbAnswer s 2 (if s.cold then 0 else s.lastFaultSource))

/-- SMB_ADDRESS_RESOLUTION: the target reports its UDID and takes the address assigned. -/
def execSmbAddressResolution (address : BitVec 7) (s : State) : Host.Outcome State Fault Refusal :=
  .next (if s.boot.aonOn then
    readOut { s with therm := { s.therm with smb := { s.therm.smb with address := address.toNat } } } Config.udid 0
  else readOut s [] 4)

end Sys2Proof.Machine
end

