-- ==== Sys2Proof/Machine/Dispatch.lean ====
section
/-! DEFINITION. What each command does: one arm for each constructor of `Instr`, one call of its meaning. -/

namespace Sys2Proof.Machine

/-- The effect of a command on everything but the queue of waiting commands. -/
def exec (i : Instr) (s : State) : Host.Outcome State Fault Refusal :=
  match i with
  | .nop h => Sys2Proof.Machine.execNop h s
  | .identify h => Sys2Proof.Machine.execIdentify h s
  | .getState h => Sys2Proof.Machine.execGetState h s
  | .park h mode => Sys2Proof.Machine.execPark h mode s
  | .unpark h instant => Sys2Proof.Machine.execUnpark h instant s
  | .berthPower h on => Sys2Proof.Machine.execBerthPower h on s
  | .clearFault h => Sys2Proof.Machine.execClearFault h s
  | .abort h tag => Sys2Proof.Machine.execAbort h tag s
  | .resetScope h type engines => Sys2Proof.Machine.execResetScope h type engines s
  | .stage h tray pairs => Sys2Proof.Machine.execStage h tray pairs s
  | .proof h tray => Sys2Proof.Machine.execProof h tray s
  | .bake h instant tray check relative expected => Sys2Proof.Machine.execBake h instant tray check relative expected s
  | .read h selector ids => Sys2Proof.Machine.execRead h selector ids s
  | .trayClear h tray => Sys2Proof.Machine.execTrayClear h tray s
  | .trayStatus h tray => Sys2Proof.Machine.execTrayStatus h tray s
  | .ackWrite h pairs => Sys2Proof.Machine.execAckWrite h pairs s
  | .segLoad h bank offset source length => Sys2Proof.Machine.execSegLoad h bank offset source length s
  | .arm h entry mask tset => Sys2Proof.Machine.execArm h entry mask tset s
  | .start h mode source instant => Sys2Proof.Machine.execStart h mode source instant s
  | .halt h => Sys2Proof.Machine.execHalt h s
  | .jump h target => Sys2Proof.Machine.execJump h target s
  | .disarm h => Sys2Proof.Machine.execDisarm h s
  | .clearHalt h => Sys2Proof.Machine.execClearHalt h s
  | .seqStatus h => Sys2Proof.Machine.execSeqStatus h s
  | .ppmuMeasure h current slow range samples => Sys2Proof.Machine.execPpmuMeasure h current slow range samples s
  | .acqArm h setup pre post => Sys2Proof.Machine.execAcqArm h setup pre post s
  | .acqRead h record => Sys2Proof.Machine.execAcqRead h record s
  | .tmuArm h mode source gateSel gateFall markSel chainLine => Sys2Proof.Machine.execTmuArm h mode source gateSel gateFall markSel chainLine s
  | .tmuRead h => Sys2Proof.Machine.execTmuRead h s
  | .resultUpload h content => Sys2Proof.Machine.execResultUpload h content s
  | .failLogRead h first count => Sys2Proof.Machine.execFailLogRead h first count s
  | .spRamp h target slew => Sys2Proof.Machine.execSpRamp h target slew s
  | .spSequence h entries => Sys2Proof.Machine.execSpSequence h entries s
  | .spOff h mode => Sys2Proof.Machine.execSpOff h mode s
  | .spStatus h => Sys2Proof.Machine.execSpStatus h s
  | .chainEnum h => Sys2Proof.Machine.execChainEnum h s
  | .chainStatus h => Sys2Proof.Machine.execChainStatus h s
  | .laneTest h lane pattern loopback single burst burstLen time => Sys2Proof.Machine.execLaneTest h lane pattern loopback single burst burstLen time s
  | .laneBitslip h lane count => Sys2Proof.Machine.execLaneBitslip h lane count s
  | .bcastLoad h source dest length => Sys2Proof.Machine.execBcastLoad h source dest length s
  | .tideAlign h => Sys2Proof.Machine.execTideAlign h s
  | .calRun h items positions => Sys2Proof.Machine.execCalRun h items positions s
  | .calSave h => Sys2Proof.Machine.execCalSave h s
  | .calRestore h image => Sys2Proof.Machine.execCalRestore h image s
  | .relieve h => Sys2Proof.Machine.execRelieve h s
  | .unrelieve h => Sys2Proof.Machine.execUnrelieve h s
  | .calStatus h => Sys2Proof.Machine.execCalStatus h s
  | .refSelect h ref => Sys2Proof.Machine.execRefSelect h ref s
  | .freqMeasure h inst kind gate => Sys2Proof.Machine.execFreqMeasure h inst kind gate s
  | .thermRead h first count => Sys2Proof.Machine.execThermRead h first count s
  | .thermClear h zone => Sys2Proof.Machine.execThermClear h zone s
  | .clockMode h mask run sleep deep kind => Sys2Proof.Machine.execClockMode h mask run sleep deep kind s
  | .tpXfer h port sel bits lead units => Sys2Proof.Machine.execTpXfer h port sel bits lead units s
  | .tpStatus h port => Sys2Proof.Machine.execTpStatus h port s
  | .mcPatchLoad h mask image => Sys2Proof.Machine.execMcPatchLoad h mask image s
  | .mcVersion h => Sys2Proof.Machine.execMcVersion h s
  | .fuseRead h word => Sys2Proof.Machine.execFuseRead h word s
  | .sqTailDoorbell n w => Sys2Proof.Machine.execSqTailDoorbell n w s
  | .rqHeadDoorbell m w => Sys2Proof.Machine.execRqHeadDoorbell m w s
  | .sqRingEnable n base log2 reply => Sys2Proof.Machine.execSqRingEnable n base log2 reply s
  | .sqRingDisable n base log2 reply => Sys2Proof.Machine.execSqRingDisable n base log2 reply s
  | .rqRingEnable m base log2 vector count time => Sys2Proof.Machine.execRqRingEnable m base log2 vector count time s
  | .rqRingDisable m base log2 vector count time => Sys2Proof.Machine.execRqRingDisable m base log2 vector count time s
  | .ackMirrorWrite off w => Sys2Proof.Machine.execAckMirrorWrite off w s
  | .counterLowRead access => Sys2Proof.Machine.execCounterLowRead access s
  | .bar0Write off data poisoned => Sys2Proof.Machine.execBar0Write off data poisoned s
  | .bar2Write off data poisoned => Sys2Proof.Machine.execBar2Write off data poisoned s
  | .bar2Read off len => Sys2Proof.Machine.execBar2Read off len s
  | .configRequest reg write => Sys2Proof.Machine.execConfigRequest reg write s
  | .slotFetchComplete n slot block => Sys2Proof.Machine.execSlotFetchComplete n slot block s
  | .fetchResume n slot block => Sys2Proof.Machine.execFetchResume n slot block s
  | .commandDispatch e => Sys2Proof.Machine.execCommandDispatch e s
  | .deferredCommandStart => Sys2Proof.Machine.execDeferredCommandStart s
  | .replyCoalesceTimeout m => Sys2Proof.Machine.execReplyCoalesceTimeout m s
  | .nopMicroword e c => Sys2Proof.Machine.execNopMicroword e c s
  | .mov e c a b => Sys2Proof.Machine.execMov e c a b s
  | .ldi e c a imm => Sys2Proof.Machine.execLdi e c a imm s
  | .ldh e c a imm => Sys2Proof.Machine.execLdh e c a imm s
  | .add e c a b => Sys2Proof.Machine.execAdd e c a b s
  | .addi e c a imm => Sys2Proof.Machine.execAddi e c a imm s
  | .sub e c a b => Sys2Proof.Machine.execSub e c a b s
  | .and e c a b => Sys2Proof.Machine.execAnd e c a b s
  | .or e c a b => Sys2Proof.Machine.execOr e c a b s
  | .xor e c a b => Sys2Proof.Machine.execXor e c a b s
  | .shl e c a n => Sys2Proof.Machine.execShl e c a n s
  | .shr e c a n => Sys2Proof.Machine.execShr e c a n s
  | .cmp e c a b => Sys2Proof.Machine.execCmp e c a b s
  | .cmpi e c a imm => Sys2Proof.Machine.execCmpi e c a imm s
  | .jmp e c imm => Sys2Proof.Machine.execJmp e c imm s
  | .br e c cond imm => Sys2Proof.Machine.execBr e c cond imm s
  | .call e c imm => Sys2Proof.Machine.execCall e c imm s
  | .ret e c => Sys2Proof.Machine.execRet e c s
  | .switch e c b imm => Sys2Proof.Machine.execSwitch e c b imm s
  | .frd e c a b imm => Sys2Proof.Machine.execFrd e c a b imm s
  | .fwr e c a b imm => Sys2Proof.Machine.execFwr e c a b imm s
  | .trd e c a b value => Sys2Proof.Machine.execTrd e c a b value s
  | .twr e c a b value => Sys2Proof.Machine.execTwr e c a b value s
  | .shw e c a b => Sys2Proof.Machine.execShw e c a b s
  | .hrd e c a imm => Sys2Proof.Machine.execHrd e c a imm s
  | .hwr e c a b imm => Sys2Proof.Machine.execHwr e c a b imm s
  | .pst e c => Sys2Proof.Machine.execPst e c s
  | .wait e c a b cond invert => Sys2Proof.Machine.execWait e c a b cond invert s
  | .waitWake e c => Sys2Proof.Machine.execWaitWake e c s
  | .waitTimeout e c => Sys2Proof.Machine.execWaitTimeout e c s
  | .poll e c => Sys2Proof.Machine.execPoll e c s
  | .commit e c => Sys2Proof.Machine.execCommit e c s
  | .endc e c => Sys2Proof.Machine.execEndc e c s
  | .prog e c imm => Sys2Proof.Machine.execProg e c imm s
  | .tide e c a high => Sys2Proof.Machine.execTide e c a high s
  | .tarm e c a b => Sys2Proof.Machine.execTarm e c a b s
  | .sig e c a code => Sys2Proof.Machine.execSig e c a code s
  | .fwd e c a => Sys2Proof.Machine.execFwd e c a s
  | .evt e c imm => Sys2Proof.Machine.execEvt e c imm s
  | .fault e c cause => Sys2Proof.Machine.execFault e c cause s
  | .engineRestart e => Sys2Proof.Machine.execEngineRestart e s
  | .bakeStrobe loaded => Sys2Proof.Machine.execBakeStrobe loaded s
  | .chainBakeDecision => Sys2Proof.Machine.execChainBakeDecision s
  | .bakeArm i36 tray => Sys2Proof.Machine.execBakeArm i36 tray s
  | .bakeReady p i36 => Sys2Proof.Machine.execBakeReady p i36 s
  | .bakeGo i36 => Sys2Proof.Machine.execBakeGo i36 s
  | .bakeCancel i36 => Sys2Proof.Machine.execBakeCancel i36 s
  | .token i36 => Sys2Proof.Machine.execToken i36 s
  | .tokenDeadline => Sys2Proof.Machine.execTokenDeadline s
  | .trigRaise line i36 => Sys2Proof.Machine.execTrigRaise line i36 s
  | .trigDeliver line i36 => Sys2Proof.Machine.execTrigDeliver line i36 s
  | .trigDeliveryInstant line => Sys2Proof.Machine.execTrigDeliveryInstant line s
  | .oven ok => Sys2Proof.Machine.execOven ok s
  | .ovenTimeout => Sys2Proof.Machine.execOvenTimeout s
  | .tidePing p exchange t1 t2 => Sys2Proof.Machine.execTidePing p exchange t1 t2 s
  | .tidePong p exchange t0 t3 => Sys2Proof.Machine.execTidePong p exchange t0 t3 s
  | .lost index => Sys2Proof.Machine.execLost index s
  | .tideCorrectionApply => Sys2Proof.Machine.execTideCorrectionApply s
  | .tideTrackMeasure theta => Sys2Proof.Machine.execTideTrackMeasure theta s
  | .tideTrackStep => Sys2Proof.Machine.execTideTrackStep s
  | .frameReceive p seq crcOk body => Sys2Proof.Machine.execFrameReceive p seq crcOk body s
  | .enumFrame q topology x y leg => Sys2Proof.Machine.execEnumFrame q topology x y leg s
  | .linkBlock p use => Sys2Proof.Machine.execLinkBlock p use s
  | .alignMarker l seq mismatches => Sys2Proof.Machine.execAlignMarker l seq mismatches s
  | .trainBlock l preReq postReq preStat postStat rxReady refGood ready => Sys2Proof.Machine.execTrainBlock l preReq postReq preStat postStat rxReady refGood ready s
  | .adaptWindowEnd l idle => Sys2Proof.Machine.execAdaptWindowEnd l idle s
  | .laneDetectAttempt l => Sys2Proof.Machine.execLaneDetectAttempt l s
  | .laneReceiverDetected l => Sys2Proof.Machine.execLaneReceiverDetected l s
  | .trainTimeout p => Sys2Proof.Machine.execTrainTimeout p s
  | .bitLockAchieved l => Sys2Proof.Machine.execBitLockAchieved l s
  | .bitLockTimeout l => Sys2Proof.Machine.execBitLockTimeout l s
  | .blockLockAchieved l => Sys2Proof.Machine.execBlockLockAchieved l s
  | .blockLockTimeout l => Sys2Proof.Machine.execBlockLockTimeout l s
  | .deskewMatch l skew => Sys2Proof.Machine.execDeskewMatch l skew s
  | .deskewTimeout l => Sys2Proof.Machine.execDeskewTimeout l s
  | .capabilityFrame p isPx6410 pilot laneMask rate => Sys2Proof.Machine.execCapabilityFrame p isPx6410 pilot laneMask rate s
  | .capabilityTimeout p => Sys2Proof.Machine.execCapabilityTimeout p s
  | .laneLost l => Sys2Proof.Machine.execLaneLost l s
  | .laneTestEnd l errors locked => Sys2Proof.Machine.execLaneTestEnd l errors locked s
  | .linkDown p => Sys2Proof.Machine.execLinkDown p s
  | .burstStart q => Sys2Proof.Machine.execBurstStart q s
  | .successorCommit q => Sys2Proof.Machine.execSuccessorCommit q s
  | .segmentPassEnd q => Sys2Proof.Machine.execSegmentPassEnd q s
  | .decisionPauseEnd q => Sys2Proof.Machine.execDecisionPauseEnd q s
  | .haltTaken q => Sys2Proof.Machine.execHaltTaken q s
  | .jumpTaken q => Sys2Proof.Machine.execJumpTaken q s
  | .starve q index why => Sys2Proof.Machine.execStarve q index why s
  | .starveHalt q => Sys2Proof.Machine.execStarveHalt q s
  | .streamPrefillDone q => Sys2Proof.Machine.execStreamPrefillDone q s
  | .streamReadComplete q bytes uncorrectable => Sys2Proof.Machine.execStreamReadComplete q bytes uncorrectable s
  | .compareResult b index seg pass matchWait results => Sys2Proof.Machine.execCompareResult b index seg pass matchWait results s
  | .resultDone q => Sys2Proof.Machine.execResultDone q s
  | .failLogSpill b => Sys2Proof.Machine.execFailLogSpill b s
  | .captureSpill b => Sys2Proof.Machine.execCaptureSpill b s
  | .resultSnapshot => Sys2Proof.Machine.execResultSnapshot s
  | .resultPartTimeout => Sys2Proof.Machine.execResultPartTimeout s
  | .shortLimitEvent c => Sys2Proof.Machine.execShortLimitEvent c s
  | .substOverlap b => Sys2Proof.Machine.execSubstOverlap b s
  | .substCompareMove b => Sys2Proof.Machine.execSubstCompareMove b s
  | .substSwitch b => Sys2Proof.Machine.execSubstSwitch b s
  | .lwSample q => Sys2Proof.Machine.execLwSample q s
  | .unparkInstant => Sys2Proof.Machine.execUnparkInstant s
  | .parkModeApply b => Sys2Proof.Machine.execParkModeApply b s
  | .orderlyParkDeadline b => Sys2Proof.Machine.execOrderlyParkDeadline b s
  | .rangeSwRegulationMove c => Sys2Proof.Machine.execRangeSwRegulationMove c s
  | .rangeSwOldDisconnect c => Sys2Proof.Machine.execRangeSwOldDisconnect c s
  | .rangeSwEnd c => Sys2Proof.Machine.execRangeSwEnd c s
  | .ppmuClampEntry c => Sys2Proof.Machine.execPpmuClampEntry c s
  | .ppmuSample c value => Sys2Proof.Machine.execPpmuSample c value s
  | .acqBaseSample b sa sb events clip marker => Sys2Proof.Machine.execAcqBaseSample b sa sb events clip marker s
  | .acqRecordClose b => Sys2Proof.Machine.execAcqRecordClose b s
  | .acqRearmEnd b => Sys2Proof.Machine.execAcqRearmEnd b s
  | .acqSpill b => Sys2Proof.Machine.execAcqSpill b s
  | .tmuEdge b input edge stamp => Sys2Proof.Machine.execTmuEdge b input edge stamp s
  | .tmuArmingEvent b source a => Sys2Proof.Machine.execTmuArmingEvent b source a s
  | .tmuWindowOpen b => Sys2Proof.Machine.execTmuWindowOpen b s
  | .tmuWindowClose b => Sys2Proof.Machine.execTmuWindowClose b s
  | .gateEdge g rising => Sys2Proof.Machine.execGateEdge g rising s
  | .ovenRdyRise => Sys2Proof.Machine.execOvenRdyRise s
  | .ovenRdyFall => Sys2Proof.Machine.execOvenRdyFall s
  | .ovenQualified => Sys2Proof.Machine.execOvenQualified s
  | .peakComparatorTrip b n sinceEdge onClamp => Sys2Proof.Machine.execPeakComparatorTrip b n sinceEdge onClamp s
  | .maxDutyTimeout b n => Sys2Proof.Machine.execMaxDutyTimeout b n s
  | .zeroCurrentDetect b n => Sys2Proof.Machine.execZeroCurrentDetect b n s
  | .stageReady b vout fltLow => Sys2Proof.Machine.execStageReady b vout fltLow s
  | .rampStep b => Sys2Proof.Machine.execRampStep b s
  | .rampTargetReached b vout => Sys2Proof.Machine.execRampTargetReached b vout s
  | .enFallDelay b vout => Sys2Proof.Machine.execEnFallDelay b vout s
  | .offGroupStart => Sys2Proof.Machine.execOffGroupStart s
  | .spSeqEntryStart => Sys2Proof.Machine.execSpSeqEntryStart s
  | .monitorLevelChange b m level => Sys2Proof.Machine.execMonitorLevelChange b m level s
  | .monitorBlankingEnd b m level => Sys2Proof.Machine.execMonitorBlankingEnd b m level s
  | .monitorFilterExpiry b m => Sys2Proof.Machine.execMonitorFilterExpiry b m s
  | .stageFaultFlag b => Sys2Proof.Machine.execStageFaultFlag b s
  | .openSenseDetect b => Sys2Proof.Machine.execOpenSenseDetect b s
  | .hiccupRestart b => Sys2Proof.Machine.execHiccupRestart b s
  | .holdStackDown k => Sys2Proof.Machine.execHoldStackDown k s
  | .calAutoTrigger b why => Sys2Proof.Machine.execCalAutoTrigger b why s
  | .calMeasureDone b failed => Sys2Proof.Machine.execCalMeasureDone b failed s
  | .calRideTimeout b => Sys2Proof.Machine.execCalRideTimeout b s
  | .calServiceRetry b => Sys2Proof.Machine.execCalServiceRetry b s
  | .thermalSample samples => Sys2Proof.Machine.execThermalSample samples s
  | .followerThermalReport index zone sensor => Sys2Proof.Machine.execFollowerThermalReport index zone sensor s
  | .refLossDeclared => Sys2Proof.Machine.execRefLossDeclared s
  | .coastMinExpiry => Sys2Proof.Machine.execCoastMinExpiry s
  | .coastLongTimeout => Sys2Proof.Machine.execCoastLongTimeout s
  | .fallbackLocked => Sys2Proof.Machine.execFallbackLocked s
  | .fallbackTimeout => Sys2Proof.Machine.execFallbackTimeout s
  | .refQualified => Sys2Proof.Machine.execRefQualified s
  | .relockDone => Sys2Proof.Machine.execRelockDone s
  | .pllLock => Sys2Proof.Machine.execPllLock s
  | .hkSettled => Sys2Proof.Machine.execHkSettled s
  | .trimMeasurement ppm => Sys2Proof.Machine.execTrimMeasurement ppm s
  | .domainSleep kind inst deep => Sys2Proof.Machine.execDomainSleep kind inst deep s
  | .domainWake kind inst => Sys2Proof.Machine.execDomainWake kind inst s
  | .d2dLinkLoss w writes reads => Sys2Proof.Machine.execD2dLinkLoss w writes reads s
  | .d2dLinkRetrained w => Sys2Proof.Machine.execD2dLinkRetrained w s
  | .d2dRetrainTimeout w => Sys2Proof.Machine.execD2dRetrainTimeout w s
  | .resetIndication w deck front reads device => Sys2Proof.Machine.execResetIndication w deck front reads device s
  | .resetAcknowledge => Sys2Proof.Machine.execResetAcknowledge s
  | .tpTransactionStart p => Sys2Proof.Machine.execTpTransactionStart p s
  | .tpReadyHigh p din => Sys2Proof.Machine.execTpReadyHigh p din s
  | .tpReadyTimeout p => Sys2Proof.Machine.execTpReadyTimeout p s
  | .tpSelBreak p => Sys2Proof.Machine.execTpSelBreak p s
  | .tpStatusByte p v => Sys2Proof.Machine.execTpStatusByte p v s
  | .tpTransactionEnd p edges => Sys2Proof.Machine.execTpTransactionEnd p edges s
  | .fastStatusRewrite k => Sys2Proof.Machine.execFastStatusRewrite k s
  | .busMasterEnableClear => Sys2Proof.Machine.execBusMasterEnableClear s
  | .busMasterEnableSet => Sys2Proof.Machine.execBusMasterEnableSet s
  | .replyHoldExpiry => Sys2Proof.Machine.execReplyHoldExpiry s
  | .d3hotEntry => Sys2Proof.Machine.execD3hotEntry s
  | .d0Return => Sys2Proof.Machine.execD0Return s
  | .hostLinkDown => Sys2Proof.Machine.execHostLinkDown s
  | .msixUnmask vector => Sys2Proof.Machine.execMsixUnmask vector s
  | .aspmL1Entry => Sys2Proof.Machine.execAspmL1Entry s
  | .aspmL1Exit => Sys2Proof.Machine.execAspmL1Exit s
  | .hostReadCompletion tag data => Sys2Proof.Machine.execHostReadCompletion tag data s
  | .poisonedCompletion read => Sys2Proof.Machine.execPoisonedCompletion read s
  | .completionTimeout read => Sys2Proof.Machine.execCompletionTimeout read s
  | .urCaCompletion read => Sys2Proof.Machine.execUrCaCompletion read s
  | .fatalLinkError => Sys2Proof.Machine.execFatalLinkError s
  | .correctableLinkError => Sys2Proof.Machine.execCorrectableLinkError s
  | .perstNAssert => Sys2Proof.Machine.execPerstNAssert s
  | .perstNRelease => Sys2Proof.Machine.execPerstNRelease s
  | .rstNFall => Sys2Proof.Machine.execRstNFall s
  | .strapCapture x => Sys2Proof.Machine.execStrapCapture x s
  | .aonPowerUp => Sys2Proof.Machine.execAonPowerUp s
  | .aonSupplyLoss => Sys2Proof.Machine.execAonSupplyLoss s
  | .railFault r => Sys2Proof.Machine.execRailFault r s
  | .trstNAssert => Sys2Proof.Machine.execTrstNAssert s
  | .flashContentRead content => Sys2Proof.Machine.execFlashContentRead content s
  | .holdTrainingDone failed => Sys2Proof.Machine.execHoldTrainingDone failed s
  | .quayPowerUpDone q => Sys2Proof.Machine.execQuayPowerUpDone q s
  | .parkLoad => Sys2Proof.Machine.execParkLoad s
  | .bootComplete => Sys2Proof.Machine.execBootComplete s
  | .smbZoneTemp z => Sys2Proof.Machine.execSmbZoneTemp z s
  | .smbHottest => Sys2Proof.Machine.execSmbHottest s
  | .smbWarnMask => Sys2Proof.Machine.execSmbWarnMask s
  | .smbThrottleMask => Sys2Proof.Machine.execSmbThrottleMask s
  | .smbStopMask => Sys2Proof.Machine.execSmbStopMask s
  | .smbBadSensors => Sys2Proof.Machine.execSmbBadSensors s
  | .smbRunState => Sys2Proof.Machine.execSmbRunState s
  | .smbPowerEstimate => Sys2Proof.Machine.execSmbPowerEstimate s
  | .smbRailStatus => Sys2Proof.Machine.execSmbRailStatus s
  | .smbRailFaults => Sys2Proof.Machine.execSmbRailFaults s
  | .smbRstEvents => Sys2Proof.Machine.execSmbRstEvents s
  | .smbLastFault => Sys2Proof.Machine.execSmbLastFault s
  | .smbAddressResolution address => Sys2Proof.Machine.execSmbAddressResolution address s
  | .smbValueUpdate => Sys2Proof.Machine.execSmbValueUpdate s
  | .pwmCycleEdge b n at_ => Sys2Proof.Machine.execPwmCycleEdge b n at_ s
  | .redirectPauseEnd q => Sys2Proof.Machine.execRedirectPauseEnd q s
  | .hostLinkUp speed width reversed => Sys2Proof.Machine.execHostLinkUp speed width reversed s
  | .refPresentChange ref present => Sys2Proof.Machine.execRefPresentChange ref present s
  | .bootReferenceQualified => Sys2Proof.Machine.execBootReferenceQualified s
  | .railValid r => Sys2Proof.Machine.execRailValid r s
  | .fusesReadDone => Sys2Proof.Machine.execFusesReadDone s
  | .signalBad l => Sys2Proof.Machine.execSignalBad l s
  | .blockErr l => Sys2Proof.Machine.execBlockErr l s

end Sys2Proof.Machine
end

