-- ==== Sys2Proof/Machine/Idle.lean ====
section
/-! DEFINITION. What happens while no command waits: the tide counts (R9). DESIGN CHOICE (log 1): the table
has no row for a tick, so a step on an empty queue is one. A gate of FREQ_MEASURE ends at its tide (log 32). -/

namespace Sys2Proof.Machine

/-- One tide count passes, and the gates that end at it do. -/
def idle (s : State) : State := if s.tideOn then freqEnd { s with tide := tideSum s.tide 1 } else s

/-- Put a command in front of those that wait. -/
def putFront (s : State) (i : Instr) : State := { s with pending := i :: s.pending }

end Sys2Proof.Machine
end

