-- ==== Sys2Proof/WellFormed.lean ====
section
/-! DEFINITION. Well-formed commands: what an operand must be for the spec to know such a command or
event at all. Values that the device itself checks and rejects are well formed. -/

namespace Sys2Proof

/-- A tide count fits its 63 bits (R9). -/
def tideFits (t : Nat) : Bool := decide (t < 2 ^ 63)

/-- The lists of a host command fit a parameter block, whose length has 16 bits (R37, R591). -/
def listsFit (bytes : Nat) : Bool := decide (bytes < 2 ^ 16)

/-- No two elements of a list have the same number. -/
def distinctNats (xs : List Nat) : Bool :=
  match xs with
  | [] => true
  | x :: rest => !rest.contains x && distinctNats rest

/-- The content of a chain frame fits its fields. -/
def FrameBody.wf (b : FrameBody) : Bool :=
  match b with
  | .tideData _ t1 t2 => tideFits t1 && tideFits t2
  | .correction _ _ t => tideFits t
  | .reply _ _ _ _ _ data => data.length = 16
  | .broadcast a bytes _ => decide (a + bytes.length ≤ 0xC00000000)
  | _ => true

/-- A command is well formed. -/
def Instr.wf (i : Instr) : Bool :=
  match i with
  | .stage _ _ ps => listsFit (8 + 8 * ps.length)
  | .ackWrite _ ps => listsFit (8 * ps.length)
  | .read _ _ ids => listsFit (8 + 4 * ids.length)
  | .spSequence _ es => listsFit (4 + 8 * es.length)
  | .calRestore _ image => listsFit image.length
  | .mcPatchLoad _ _ image => listsFit (8 + image.length)
  | .tpXfer _ _ _ _ _ units => listsFit (4 + 4 * units.length)
  | .slotFetchComplete _ slot block => slot.length = 64 && listsFit block.length
  | .fetchResume _ slot block => slot.length = 64 && listsFit block.length
  | .ackMirrorWrite off _ => decide (off < 0x1000000)
  | .counterLowRead r => decide (r.off < 0x1000000 ∧ r.off + r.len ≤ 0x1000000)
  | .bar0Write off data _ => decide (off + data.length ≤ 0x1000000)
  | .bar2Write off data _ => decide (off + data.length ≤ 0x1000000000)
  | .bar2Read off len => decide (off + len ≤ 0x1000000000)
  | .configRequest reg _ => decide (reg < 4096) && decide (reg % 4 = 0)
  | .tidePing _ _ t1 t2 => tideFits t1 && tideFits t2
  | .tidePong _ _ t0 t3 => tideFits t0 && tideFits t3
  | .frameReceive _ _ _ body => body.wf
  | .compareResult _ _ _ _ _ rs => distinctNats (rs.map fun r => r.pos.val)
  | .thermalSample ss => distinctNats (ss.map fun x => x.sensor.val)
  | .hostLinkUp speed width _ => speed.val ≠ 0 && [1, 2, 4, 8, 16].contains width.val
  | _ => true

end Sys2Proof
end

