-- ==== Sys2Proof/Safety.lean ====
section
/-! DEFINITION. What claims mean by a command that completes, by memory in canonical form, and by a host
command that nothing holds up. -/

namespace Sys2Proof

open Sys2Proof.Machine

/-- A command completes: it answers a next state. -/
def Completes (i : Instr) (s : State) : Prop := ∃ t, exec i s = .next t

/-- Every memory of the device is in canonical form: the hold, the segment store of each quay, and what the
device has written into host memory. -/
def memoriesWf (s : State) : Prop :=
  memWf s.hold.mem = true ∧ memWf s.host.hostMem = true ∧ ∀ q, memWf (quayAt s q).seg = true

/-- Every command that waits is well formed. -/
def queueWf (s : State) : Bool := s.pending.all Instr.wf

/-! ### Host commands -/

/-- The row of an operation from a ring (R65). -/
def hostInstr (h : Hdr) (op : HostOp) : Instr :=
  match op with
  | .nop => .nop h
  | .identify => .identify h
  | .getState => .getState h
  | .park mode => .park h mode
  | .unpark instant => .unpark h instant
  | .berthPower on => .berthPower h on
  | .clearFault => .clearFault h
  | .abort tag => .abort h tag
  | .resetScope type engines => .resetScope h type engines
  | .stage tray pairs => .stage h tray pairs
  | .proof tray => .proof h tray
  | .bake instant tray check relative expected => .bake h instant tray check relative expected
  | .read selector ids => .read h selector ids
  | .trayClear tray => .trayClear h tray
  | .trayStatus tray => .trayStatus h tray
  | .ackWrite pairs => .ackWrite h pairs
  | .segLoad bank offset source length => .segLoad h bank offset source length
  | .arm entry mask tset => .arm h entry mask tset
  | .start mode source instant => .start h mode source instant
  | .halt => .halt h
  | .jump target => .jump h target
  | .disarm => .disarm h
  | .clearHalt => .clearHalt h
  | .seqStatus => .seqStatus h
  | .ppmuMeasure current slow range samples => .ppmuMeasure h current slow range samples
  | .acqArm setup pre post => .acqArm h setup pre post
  | .acqRead record => .acqRead h record
  | .tmuArm mode source gateSel gateFall markSel chainLine => .tmuArm h mode source gateSel gateFall markSel chainLine
  | .tmuRead => .tmuRead h
  | .resultUpload content => .resultUpload h content
  | .failLogRead first count => .failLogRead h first count
  | .spRamp target slew => .spRamp h target slew
  | .spSequence entries => .spSequence h entries
  | .spOff mode => .spOff h mode
  | .spStatus => .spStatus h
  | .chainEnum => .chainEnum h
  | .chainStatus => .chainStatus h
  | .laneTest lane pattern loopback single burst burstLen time => .laneTest h lane pattern loopback single burst burstLen time
  | .laneBitslip lane count => .laneBitslip h lane count
  | .bcastLoad source dest length => .bcastLoad h source dest length
  | .tideAlign => .tideAlign h
  | .calRun items positions => .calRun h items positions
  | .calSave => .calSave h
  | .calRestore image => .calRestore h image
  | .relieve => .relieve h
  | .unrelieve => .unrelieve h
  | .calStatus => .calStatus h
  | .refSelect ref => .refSelect h ref
  | .freqMeasure inst kind gate => .freqMeasure h inst kind gate
  | .thermRead first count => .thermRead h first count
  | .thermClear zone => .thermClear h zone
  | .clockMode mask run sleep deep kind => .clockMode h mask run sleep deep kind
  | .tpXfer port sel bits lead units => .tpXfer h port sel bits lead units
  | .tpStatus port => .tpStatus h port
  | .mcPatchLoad mask image => .mcPatchLoad h mask image
  | .mcVersion => .mcVersion h
  | .fuseRead word => .fuseRead h word

/-- The state right after acceptance (R32, R58, R59): Head has passed the slot, one entry of the reply ring is
reserved, the ring has one command more in flight, and the command is in flight. -/
def accepted (s : State) (h : Hdr) (op : HostOp) : State × Cmd :=
  let n := h.ring.val
  let s := reserveReply (headPast s n) (sqAt s n).replyRing
  enter (setSq s n { sqAt s n with inFlight := (sqAt s n).inFlight + 1 }) h op false

/-- The engine that a command of this device runs on (R18). -/
def engineFor (h : Hdr) : Nat := engineOf h.scope.toNat h.inst.toNat

/-- The contexts of its parts on the other engines that do its work (R18). -/
def startedParts (s : State) (h : Hdr) (op : HostOp) : List (Nat × Nat) :=
  let r := accepted s h op
  ((enginesFor r.1 r.2).filter (· ≠ engineFor h)).map fun e => (e, (freeContext r.1 e).getD 0)

/-- The command as it runs in context k of its engine, with its parts (R18, R430). -/
def startedCmd (s : State) (h : Hdr) (op : HostOp) (k : Nat) : Cmd :=
  { (accepted s h op).2 with phase := .running, context := k, started := s.tide, parts := startedParts s h op }

/-- The context that runs it, or a part of it (R430, R432): the dispatch entry, the tag and opcode in E24, the target word in
E25, the generation in E27. -/
def startedCtx (s : State) (h : Hdr) (op : HostOp) : Ctx :=
  { busy := true, cmd := s.nextOrd, pc := dispatchEntry (opcode op), safeAt := s.tide
    startCode := stateCode (accepted s h op).1 h.scope.toNat h.inst.toNat
    regs := [(24, BitVec.ofNat 32 (h.tag.toNat * 65536 + opcode op)),
      (25, BitVec.ofNat 32 (targetWord h.chain.toNat h.scope.toNat h.inst.toNat)), (27, s.par.generation)] }

/-- The state in which the command runs: accepted, its contexts taken. -/
def startedState (s : State) (h : Hdr) (op : HostOp) (k : Nat) : State :=
  putCmd (((engineFor h, k) :: startedParts s h op).foldl (fun u p =>
    setEng u p.1 { engAt u p.1 with lastCtx := p.2, ctxs := tabSet (engAt u p.1).ctxs p.2 (startedCtx s h op) })
      (accepted s h op).1) (startedCmd s h op k)

/-- Nothing keeps the command at the head of its ring from running at once (R32, R38, R54, R58, R59): the
device fetches from the ring, the reply ring has an entry, checks 2 to 8 pass, no bound is met, nothing is in
flight, no reply waits, or is held where the command has Order, the engines that it needs run and have contexts free,
k on its own; the command is for this device, is not deferred, is not divided over a chain, and finds what it acts on. -/
structure Unhindered (s : State) (h : Hdr) (op : HostOp) (k : Nat) : Prop where
  ready : ringReady s h.ring.val = true
  notLater : resumesLater s h.ring.val = false
  entry : rqFree (rqAt s (sqAt s h.ring.val).replyRing) ≠ 0
  passes : slotVerdict s [] [] h op = none
  unbounded : boundMet s h op = 0
  alone : s.inflight = []
  answered : s.unposted = []
  delivered : h.order = true → s.host.heldReplies = []
  own : h.chain.toNat = s.chain.index
  undivided : h.scope.toNat = 7 → divides op = false
  notDeferred : h.defer = false
  engines : ∀ e ∈ enginesFor (accepted s h op).1 (accepted s h op).2, (engAt s e).state = 0
  context : freeContext s (engineFor h) = some k
  parts : contextsFree (accepted s h op).1 (accepted s h op).2 = true
  controllers : controllersBusy (accepted s h op).1 (accepted s h op).2 = false
  waits : mustWait (accepted s h op).1 (accepted s h op).2 = false
  acts : actsOnNothing (startedState s h op k) (startedCmd s h op k) = false
  quays : noQuayLeft (startedState s h op k) (startedCmd s h op k) = true → op = .halt ∧ h.scope ≠ 7#4

/-! ### Streaming -/

/-- The quay can play `n` more vectors without starving: it is in a pause, its segment does not stream, or the FIFO
holds them (R175). -/
def dataThere (s : State) (q n : Nat) : Bool :=
  (quayAt s q).pause.isSome || segKind s q (quayAt s q).curSeg ≠ 2 || decide (n ≤ fifoVectors (quayAt s q))

/-! ### Microwords -/

/-- The fetch of a context delivers the word of this microword: patch RAM holds it at the pc, or the pc is in ROM
(R431, R448; log 105). -/
def fetches (i : Instr) (s : State) (e c : Nat) : Prop :=
  ∃ w, microEncode i = some w ∧ delivers s e (ctxAt s e c) w = true

/-- The context executes its next microword: its engine runs, it runs a command and does not wait, and the
fetch and the bounds of R440 and R446 hold. -/
def canExecute (s : State) (e c : Nat) : Prop := ctxReady s e c = true ∧ ctxFault s (ctxAt s e c) = none

/-- The same for a microword that is a safe point: the gap before it does not count it. -/
def canExecuteSafe (s : State) (e c : Nat) : Prop :=
  ctxReady s e c = true ∧
    ctxFault s { (ctxAt s e c) with sinceSafe := (ctxAt s e c).sinceSafe - 1 } = none

/-- From s to t context c of engine e becomes x, and nothing else of the device changes but the round robin of its
engine (R430). -/
def ctxOnly (s t : State) (e c : Nat) (x : Ctx) : Prop :=
  ctxAt t e c = x ∧ t = { s with eng := t.eng } ∧
    ∀ f d, ¬(f = e ∧ d = c) → ctxAt t f d = ctxAt s f d

/-- A microword that the context fetches completes, and changes only its context, to x. -/
def Yields (i : Instr) (s : State) (e c : Nat) (x : Ctx) : Prop :=
  fetches i s e c → ∃ t, exec i s = .next t ∧ ctxOnly s t e c x

end Sys2Proof
end

