-- ==== Sys2Proof/Certificates/Slice0/Obligations.lean ====
section
/-! DEFINITION. The statements for the provers: the queue and the step, encodings, host commands, and what each
event does where it applies. -/

open Sys2Proof Sys2Proof.Machine

/-! ### The step -/

/-- A step takes the command at the front of the queue and runs it with the rest of the queue. With no command
waiting a step is one tide count once the tide runs, at which the gates of FREQ_MEASURE that are over end, and nothing
before: the model's choice (log 1, 32). -/
def Obligations.StepRunsFront : Prop :=
  (∀ (c : Instr) (rest : List Instr) (s : State), s.pending = c :: rest →
    step s = exec c { s with pending := rest }) ∧
  (∀ s : State, s.pending = [] →
    (s.tideOn = true → step s = .next (freqEnd { s with tide := (s.tide + 1) % 2 ^ 64 }) ∧
      (s.inflight = [] → step s = .next { s with tide := (s.tide + 1) % 2 ^ 64 })) ∧
    (s.tideOn = false → step s = .next s))

/-- Every well-formed command completes in every state, and the only stop of the block is an access beyond a
BAR or the configuration space (log 40). -/
def Obligations.WellFormedCompletes : Prop :=
  (∀ (i : Instr) (s : State), i.wf = true → ∃ t, exec i s = .next t) ∧
  (∀ (i : Instr) (s : State) (f : Fault), exec i s = .fault f → i.wf = false) ∧
  (∀ (i : Instr) (s : State) (r : Refusal), exec i s ≠ .refused r)

/-- No command touches the queue of waiting commands. -/
def Obligations.ExecLeavesQueue : Prop :=
  ∀ (i : Instr) (s t : State), exec i s = .next t → t.pending = s.pending

/-- Every step keeps every memory in canonical form. -/
def Obligations.StepKeepsMemories : Prop :=
  ∀ s t : State, memoriesWf s → step s = .next t → memoriesWf t

/-- Right after power-up the memories are in canonical form, the queue is empty, the device is COLD with
generation 0, the tide stands, and no command is in flight. -/
def Obligations.ResetState : Prop :=
  memoriesWf State.reset ∧ State.reset.pending = [] ∧ stateCode State.reset 6 0 = 0 ∧
  State.reset.par.generation = 0 ∧ State.reset.tideOn = false ∧ State.reset.inflight = [] ∧
  (∀ b, stateCode State.reset 3 b = 0x10) ∧ ∀ id, ackPending (ackOf State.reset id) = 0

/-! ### Encodings -/

/-- A slot written for a header and an operation is read back as that header and that operation, whatever
address it names for its parameters (R37, R65, R591). -/
def Obligations.SlotRoundTrip : Prop :=
  ∀ (h : Hdr) (op : HostOp) (ptr : BitVec 64), (paramBytes op).length < 65536 →
    (buildSlot h op ptr).length = 64 ∧ parseHdr h.ring (buildSlot h op ptr) = h ∧
    parseOp (slotOpcode (buildSlot h op ptr)) (slotBlock (buildSlot h op ptr) (paramBytes op)) = some op

/-- A slot that arrives as bytes does what the row of its operation does: a well-built slot has no reserved
field set. -/
def Obligations.SlotBytesAreTheCommand : Prop :=
  ∀ (h : Hdr) (op : HostOp) (ptr : BitVec 64) (s : State),
    (paramBytes op).length < 65536 → ptr.toNat % 8 = 0 →
    paramLenOk (opcode op) (paramBytes op).length (paramBytes op) = true → (sqAt s h.ring.val).stalled = false →
    exec (.slotFetchComplete h.ring (buildSlot h op ptr) (paramBytes op)) s = exec (hostInstr h op) s

/-- Every microword is read back from its word (R431, R433). -/
def Obligations.MicrowordRoundTrip : Prop :=
  ∀ (i : Instr) (e : Fin 5) (c : Fin 16) (w : BitVec 32),
    microEncode i = some w → microCtxOf i = some (e, c) → microDecode e c w = some i

/-- A word of the control store is one microword at most, and writing that microword gives the word back: no
two operations share a word (R433). -/
def Obligations.MicrowordUnique : Prop :=
  ∀ (e : Fin 5) (c : Fin 16) (w : BitVec 32) (i : Instr),
    microDecode e c w = some i → microEncode i = some w ∧ microCtxOf i = some (e, c)

/-- Words written out from the microword table, and words whose operation is not in the table, whose condition
is reserved or whose reserved field is not 0 (R433, R434). -/
def Obligations.MicrowordWords : Prop :=
  microDecode 2 5 0x00000000#32 = some (.nopMicroword 2 5) ∧
  microDecode 2 5 0b000100_00011_00111_0000000000000000#32 = some (.add 2 5 3 7) ∧
  microDecode 2 5 0b000010_11101_00000_0000000100000000#32 = some (.ldi 2 5 29 0x0100#16) ∧
  microDecode 2 5 0b010001_01101_00000_1000000000000001#32 = some (.br 2 5 13 0x8001#16) ∧
  microDecode 2 5 0b100000_00010_00011_0000000100000010#32 = some (.wait 2 5 2 3 0x02#8 true) ∧
  microDecode 2 5 0b110000_00000_00000_0000000000010010#32 = some (.fault 2 5 (.microword 0x12#16)) ∧
  microDecode 2 5 0b001110_00000_00000_0000000000000000#32 = none ∧
  microDecode 2 5 0b010001_01110_00000_0000000000000000#32 = none ∧
  microDecode 2 5 0b000000_00000_00000_0000000000000001#32 = none

/-! ### Host commands -/

/-- A host command that nothing holds up runs at once, in a context of its engine: Head passes its slot, a reply
entry is reserved, and its operation acts on that state (R18, R32, R54, R58, R59, R430). One clause covers the
rows of all operations of R65. -/
def Obligations.HostCommandRuns : Prop :=
  ∀ (s : State) (h : Hdr) (op : HostOp) (k : Nat), Unhindered s h op k →
    exec (hostInstr h op) s = .next (perform (startedState s h op k) (startedCmd s h op k))

/-- What enters with a host command (R32, R58, R59): Head, InFlight and the reserved reply entry, for a BAKE its
pending bake (R86), and nothing else of the parameters, the berths, the quays, the hold or the chain. -/
def Obligations.AcceptanceFrame : Prop :=
  ∀ (s : State) (h : Hdr) (op : HostOp) (k : Nat),
    let t := startedState s h op k
    let x := sqAt s h.ring.val
    sqAt t h.ring.val = { x with
      head := (x.head + 1) % 2 ^ x.log2, inFlight := x.inFlight + 1, stalled := false, stallOn := 0 } ∧
    (∀ n, n ≠ h.ring.val → sqAt t n = sqAt s n) ∧
    rqAt t x.replyRing = { rqAt s x.replyRing with reserved := (rqAt s x.replyRing).reserved + 1 } ∧
    (∀ m, m ≠ x.replyRing → rqAt t m = rqAt s m) ∧
    t.par = { s.par with pendBake := t.par.pendBake } ∧
    ((∀ i tray chk rel want, op ≠ .bake i tray chk rel want) → t.par = s.par) ∧
    t.berth = s.berth ∧ t.quay = s.quay ∧ t.chan = s.chan ∧ t.hold = s.hold ∧
    t.chain = s.chain ∧ t.clk = s.clk ∧ t.acks = s.acks ∧ t.tide = s.tide ∧ t.host.hostMem = s.host.hostMem

/-- A host command that fails a check while no earlier command is left is rejected: Head passes the slot, the reply
carries the check's status, and nothing but the rings, the reply and its signal changes (R38). -/
def Obligations.RejectionHasNoEffect : Prop :=
  ∀ (s : State) (h : Hdr) (op : HostOp) (v : Verdict),
    ringReady s h.ring.val = true → resumesLater s h.ring.val = false →
    rqFree (rqAt s (sqAt s h.ring.val).replyRing) ≠ 0 → slotVerdict s [] [] h op = some v →
    s.inflight = [] → s.unposted = [] →
    ∃ t, exec (hostInstr h op) s = .next t ∧
      t.par = s.par ∧ t.berth = s.berth ∧ t.quay = s.quay ∧ t.chan = s.chan ∧ t.hold = s.hold ∧
      t.chain = s.chain ∧ t.inflight = s.inflight ∧ t.tide = s.tide ∧ t.acks = s.acks ∧
      (sqAt t h.ring.val).head = ((sqAt s h.ring.val).head + 1) % 2 ^ (sqAt s h.ring.val).log2 ∧
      tabFind t.host.rqMem (rqKey (sqAt s h.ring.val).replyRing (rqAt s (sqAt s h.ring.val).replyRing).tail) =
        some { replyOf s h v.1 v.2 [] with phase := (rqAt s (sqAt s h.ring.val).replyRing).phase }

/-- A bound that is met (R59): before a slot is accepted one entry of the reply ring is reserved; where none is free, or
a bound is met, the ring stalls: the slot stays unaccepted and Head stays, no error is raised and no reply written, the
episode counts once, in FullStall where the reply ring is the cause and else in StallCount, and no other ring changes.
A stalled ring takes its slot again only through a fresh read. -/
def Obligations.BoundStallsRing : Prop :=
  ∀ (s : State) (h : Hdr) (op : HostOp), ringReady s h.ring.val = true → resumesLater s h.ring.val = false →
    let x := sqAt s h.ring.val
    let y := rqAt s x.replyRing
    (rqFree y = 0 → ∃ t, exec (hostInstr h op) s = .next t ∧ (sqAt t h.ring.val).stalled = true ∧
      (sqAt t h.ring.val).head = x.head ∧ (sqAt t h.ring.val).stallCount = x.stallCount ∧
      (rqAt t x.replyRing).fullStall = (if x.stalled then y.fullStall else ackBump y.fullStall) ∧
      t.inflight = s.inflight ∧ t.acks = s.acks ∧ t.host.rqMem = s.host.rqMem ∧
      ∀ n, n ≠ h.ring.val → sqAt t n = sqAt s n) ∧
    (rqFree y ≠ 0 → slotVerdict s [] [] h op = none → boundMet s h op ≠ 0 →
      ∃ t, exec (hostInstr h op) s = .next t ∧ (sqAt t h.ring.val).stalled = true ∧
        (sqAt t h.ring.val).head = x.head ∧ t.host.rq = s.host.rq ∧
        (sqAt t h.ring.val).stallCount = (if x.stalled then x.stallCount else ackBump x.stallCount) ∧
        t.inflight = s.inflight ∧ t.acks = s.acks ∧ t.host.rqMem = s.host.rqMem ∧
        ∀ n, n ≠ h.ring.val → sqAt t n = sqAt s n) ∧
    (rqAt (accepted s h op).1 x.replyRing).reserved = y.reserved + 1 ∧
    (x.stalled = true → ∀ slot block,
      exec (.fetchResume h.ring slot block) s = .next (takeBytes s h.ring slot block) ∧
      exec (.slotFetchComplete h.ring slot block) s = .next s)

/-- Queries answer OK with the data that their rules give: NOP, GET_STATE (R594), TRAY_STATUS (R83), SEQ_STATUS
(R178), MC_VERSION and TP_STATUS (R518). -/
def Obligations.QueryReplies : Prop :=
  ∀ (s : State) (h : Hdr) (k : Nat),
    let st := fun op => startedState s h op k
    let cm := fun op => startedCmd s h op k
    let i := h.inst.toNat
    (Unhindered s h .nop k → exec (.nop h) s = .next (completeOk (st .nop) (cm .nop) [])) ∧
    (Unhindered s h .getState k → exec (.getState h) s = .next (completeOk (st .getState) (cm .getState)
      [(16, 2, stateCode (st .getState) h.scope.toNat i), (18, 2, lastCause (st .getState) h.scope.toNat i),
        (20, 4, s.par.generation.toNat)])) ∧
    (∀ t : Byte, Unhindered s h (.trayStatus t) k → exec (.trayStatus h t) s =
      .next (completeOk (st (.trayStatus t)) (cm (.trayStatus t))
        [(16, 4, (trayAt s t.toNat).entries.length), (20, 1, b01 (trayAt s t.toNat).proven),
          (24, 4, (trayAt s t.toNat).provenGen.toNat)])) ∧
    (Unhindered s h .seqStatus k → exec (.seqStatus h) s = .next (completeOk (st .seqStatus) (cm .seqStatus)
      [(16, 2, quayRun (st .seqStatus) i), (18, 2, (quayAt s i).curSeg), (24, 8, vectorNow (st .seqStatus) i)])) ∧
    (∀ port : BitVec 3, Unhindered s h (.tpStatus port) k →
      let n := fun m => (ackOf (st (.tpStatus port)) (pid 6 0 0xCA (8 * port.toNat + m))).c.toNat
      exec (.tpStatus h port) s = .next (completeOk (st (.tpStatus port)) (cm (.tpStatus port))
        [(16, 4, n 2), (20, 4, n 3), (24, 4, n 4), (28, 4, n 5)])) ∧
    (Unhindered s h .mcVersion k → exec (.mcVersion h) s =
      .next (completeOk (st .mcVersion) (cm .mcVersion) [(16, 8, mcver (st .mcVersion))])) ∧
    (∀ w, Unhindered s h (.fuseRead w) k → exec (.fuseRead h w) s =
      .next (completeOk (st (.fuseRead w)) (cm (.fuseRead w)) [(16, 4, (Config.fuseWord w).toNat)]))

/-- A reply that falls due on an enabled ring of legal size while requests may leave (R36, R39, R40): its result
bytes are written, and then its 32 bytes at Base + 32 × Tail with the ring's phase, which is 1 at reset; Tail advances,
the phase turns where Tail wraps, the reserved entry is released, no other reply ring changes, and the command is in
flight no more, in the count of its ring too (R32). A command whose reply waits for an earlier one leaves the commands in
flight, and its reply takes its place among those that wait (R61; log 15). -/
def Obligations.ReplyIsPosted : Prop :=
  (∀ (s : State) (c : Cmd) (r : Reply) (result : List Byte),
    (replyWaits s c = true → postOrdered s c r result = { s with
      inflight := s.inflight.filter (fun x => x.ord ≠ c.ord)
      unposted := insertUnposted s.unposted ⟨c, true, r, result⟩ }) ∧
    (replyWaits s c = false → s.unposted = [] → c.viaChain = false →
      postOrdered s c r result = postReply s c true r result)) ∧
  ∀ (s : State) (c : Cmd) (counted : Bool) (r : Reply) (result : List Byte),
    let n := c.hdr.ring.val
    let m := (sqAt s n).replyRing
    let x := rqAt s m
    x.enable = true → ringLegal x.log2 = true → canRequest s = true → c.viaChain = false →
    let t := postReply s c counted r result
    tabFind t.host.rqMem (rqKey m x.tail) = some { r with phase := x.phase } ∧
    t.host.hostMem = memWriteBytes (memWriteBytes s.host.hostMem c.hdr.resultPtr.toNat result)
      (x.base.toNat + 32 * x.tail) (leBytes 2 r.status.toNat ++ leBytes 2 r.tag.toNat ++ leBytes 4 r.gen.toNat ++
        leBytes 8 (r.stamp % 2 ^ 63 + (if x.phase then 2 ^ 63 else 0)) ++ padTo 16 r.data) ∧
    (rqAt t m).tail = (x.tail + 1) % 2 ^ x.log2 ∧
    (rqAt t m).phase = (if (x.tail + 1) % 2 ^ x.log2 = 0 then !x.phase else x.phase) ∧
    (rqAt t m).reserved = x.reserved - 1 ∧ (∀ k, k ≠ m → rqAt t k = rqAt s k) ∧
    (sqAt t n).inFlight = (sqAt s n).inFlight - (if counted then 1 else 0) ∧ (∀ k, k ≠ n → sqAt t k = sqAt s k) ∧
    t.inflight = (if counted then s.inflight.filter (fun y => y.ord ≠ c.ord) else s.inflight) ∧
    t.acks = s.acks ∧ t.par = s.par ∧ (rqAt State.reset m).phase = true

/-- STAGE adds its pairs and takes the proven mark; TRAY_CLEAR empties the tray; neither touches a baked value,
the generation or another tray (R78, R79, R81). -/
def Obligations.StageAndClear : Prop :=
  ∀ (s : State) (h : Hdr) (k : Nat) (t : Byte),
    (∀ ps, Unhindered s h (.stage t ps) k → ∃ u, exec (.stage h t ps) s = .next u ∧
      (trayAt u t.toNat).entries = stageEntries (trayAt s t.toNat).entries ps ∧
      (trayAt u t.toNat).proven = false ∧ (∀ n, n ≠ t.toNat → trayAt u n = trayAt s n) ∧
      u.par.baked = s.par.baked ∧ u.par.generation = s.par.generation) ∧
    (Unhindered s h (.trayClear t) k → ∃ u, exec (.trayClear h t) s = .next u ∧ trayAt u t.toNat = {} ∧
      (∀ n, n ≠ t.toNat → trayAt u n = trayAt s n) ∧ u.par.baked = s.par.baked)

/-- A PROOF that finds no violation marks its tray proven against the present generation; one that finds a
violation completes with PROOF_FAILED and leaves every tray as it was (R83, R84). -/
def Obligations.ProofMarksTray : Prop :=
  ∀ (s : State) (h : Hdr) (k : Nat) (t : Byte), Unhindered s h (.proof t) k →
    let st := startedState s h (.proof t) k
    (proofFail st (trayAt s t.toNat).entries = none → ∃ u, exec (.proof h t) s = .next u ∧
      (trayAt u t.toNat).proven = true ∧ (trayAt u t.toNat).provenGen = s.par.generation ∧
      (trayAt u t.toNat).entries = (trayAt s t.toNat).entries) ∧
    (∀ v, proofFail st (trayAt s t.toNat).entries = some v →
      exec (.proof h t) s = .next (completeV st (startedCmd s h (.proof t) k) (proofFailed v)) ∧
      st.par = s.par)

/-- A BAKE of one device arms its instant and its tray; a relative instant counts from the tide of acceptance: no value
becomes live and the generation stays until the strobe (R9, R19, R66, R86). -/
def Obligations.BakeArms : Prop :=
  ∀ (s : State) (h : Hdr) (k : Nat) (i : BitVec 64) (tray : BitVec 3) (chk rel : Bool) (want : Word),
    Unhindered s h (.bake i tray chk rel want) k → h.scope = 6#4 →
    ∃ u, exec (.bake h i tray chk rel want) s = .next u ∧
      u.par.pendBake = some {
        instant := if rel then (s.tide + i.toNat) % 2 ^ 64 else i.toNat, tray := tray.toNat
        tag := some s.nextOrd } ∧
      u.par.baked = s.par.baked ∧ u.par.held = s.par.held ∧ u.par.generation = s.par.generation ∧
      u.par.trays = s.par.trays

/-- BAKE_STROBE (R20, R76, R89, R92): a bake that is armed, and on a chain has its GO, and whose shadow registers are
loaded strobes at its instant and raises the generation by one; one that is not loaded leaves every baked value and the
generation as they were, and no bake of a tray stays pending: only a calibration that waited for its own bake may take the
free place; a chain bake without GO is dropped on a follower. The zones whose Mode the strobe has changed are then
evaluated afresh (R407); with no such zone only gates are lifted, and nothing in COLD. -/
def Obligations.BakeStrobeLoads : Prop :=
  (∀ (s : State) (p : PendBake), s.par.pendBake = some p → p.chain = false ∨ p.go = true →
    (p.armed = true → p.instant < 2 ^ 64 → ∃ u, exec (.bakeStrobe true) s = .next (zonesAfresh u) ∧
      p.instant ≤ u.tide ∧ u.par.generation = s.par.generation + 1) ∧
    (∃ u, exec (.bakeStrobe false) s = .next (zonesAfresh u) ∧
      (∀ b, u.par.pendBake = some b → b.cal.isSome = true) ∧ u.par.baked = s.par.baked ∧
      u.par.generation = s.par.generation ∧ u.tide = Nat.max s.tide (p.instant % 2 ^ 64))) ∧
  (∀ (s : State) (p : PendBake) (loaded : Bool), s.par.pendBake = some p → p.chain = true → p.go = false → p.tag = none →
    exec (.bakeStrobe loaded) s = .next (zonesAfresh (bakeDrop (reach s p.instant)))) ∧
  (∀ s : State, (∀ z, z < 24 → (zoneAt s z).fresh = false) → zonesAfresh s = if s.cold then s else gatesLift s)

/-- A write of w to an ACK field sets the acknowledged count where it acknowledges no more than is pending; any other
value is ignored and counted in AckReject, and in the DoorbellErr of no ring. A read gives the count; an event raises
it until 0xFFFF_FFFF are pending (R100). A gang member's counts are its leader's (R285). -/
def Obligations.AcknowledgeByCount : Prop :=
  (∀ (s : State) (id w : Word),
    let i := ackHome s id
    let v := edgesSeen s i
    let x := ackOf v i
    ackPending x = x.c - x.a ∧ (idOne id = some .ack → readParam s id = x.c) ∧
    ((w - x.a).toNat ≤ (x.c - x.a).toNat → (ackOne s id w).2 = true ∧
      (ackOne s id w).1 = ackAfter (setAck v i { x with a := w }) i ∧
      (idFam i ≠ 0x14 ∨ (quayAt s (quayOfBerth (berthOfChan (idInst i)))).running = false →
        ackOf (ackOne s id w).1 i = { x with a := w })) ∧
    ((x.c - x.a).toNat < (w - x.a).toNat → (ackOne s id w).1 = count v 6 0 0x02 0 ∧
      (ackOne s id w).1.host = s.host ∧ (i ≠ pid 6 0 0x02 0 → ackOf (ackOne s id w).1 i = x) ∧
      (ackOne s id w).2 = false)) ∧
  (∀ x : Ack, (x.c - x.a ≠ 0xFFFFFFFF#32 → ackBump x = { x with c := x.c + 1 }) ∧
    (x.c - x.a = 0xFFFFFFFF#32 → ackBump x = x))

/-- A slot brought as bytes with an undefined opcode is rejected with BAD_OPCODE; a stalled ring takes a slot
only through FETCH_RESUME, another only through SLOT_FETCH_COMPLETE; COMMAND_DISPATCH starts the next command of an engine
in a free context; DEFERRED_COMMAND_START gives the command that is due its place as if accepted now and starts it, or
ends it with the check that it fails (R38, R54, R56, R59, R61, R430). -/
def Obligations.FetchAndDispatch : Prop :=
  (∀ (n : Fin 16) (slot block : List Byte) (s : State), (sqAt s n.val).stalled = false →
    exec (.slotFetchComplete n slot block) s = .next (takeBytes s n slot block) ∧
    exec (.fetchResume n slot block) s = .next s) ∧
  (∀ (n : Fin 16) (slot block : List Byte) (s : State), (sqAt s n.val).stalled = true →
    exec (.fetchResume n slot block) s = .next (takeBytes s n slot block) ∧
    exec (.slotFetchComplete n slot block) s = .next s) ∧
  (∀ (n : Fin 16) (slot block : List Byte) (s : State), ringReady s n.val = true → resumesLater s n.val = false →
    rqFree (rqAt s (sqAt s n.val).replyRing) ≠ 0 → parseOp (slotOpcode slot) (slotBlock slot block) = none →
    takeBytes s n slot block = reject s (parseHdr n slot) .nop (stBadOpcode, dataOf [(16, 2, slotOpcode slot)])) ∧
  (∀ (e : Fin 5) (s : State), exec (.commandDispatch e) s =
    .next (match firstStart s e.val with | some c => tryStart s c | none => s)) ∧
  (∀ (e : Fin 5) (s : State) (c : Cmd) (k : Nat), firstStart s e.val = some c → forwarded s c = false →
    disabledEngine s c = none → freeContext s c.engine = some k →
    exec (.commandDispatch e) s = .next (startIn s c k)) ∧
  (∀ (s : State) (c : Cmd), deferFirst s = some c →
    let d := { c with ord := s.nextOrd, accepted := s.tide, phase := CmdPhase.waiting }
    let t := { s with nextOrd := s.nextOrd + 1,
                      inflight := s.inflight.filter (fun x => x.ord ≠ c.ord) ++ [d] }
    (startChecks s c.viaChain c.hdr c.op = none → exec .deferredCommandStart s = .next (tryStart t d)) ∧
    ∀ v, startChecks s c.viaChain c.hdr c.op = some v → exec .deferredCommandStart s = .next (completeV t d v))

/-! ### The host link -/

/-- Doorbells (R34), at BAR0 0x2000 + 8n and 0x2080 + 8m: bits [11:0] carry the index; an index at or above the ring's size, a ring that is disabled or
of no legal size, and a head that would return an entry not yet written are ignored and counted in the ring's
DoorbellErr; any other write is taken, also while the ring is stalled. -/
def Obligations.Doorbells : Prop :=
  ∀ (s : State) (n : Fin 16) (w : Word), barReach s = true →
    let i := w.toNat % 4096
    let x := sqAt s n.val
    let y := rqAt s n.val
    let on := y.enable = true ∧ ringLegal y.log2 = true
    exec (.bar0Write (0x2000 + 8 * n.val) (leBytes 4 w.toNat) false) s = exec (.sqTailDoorbell n w) s ∧
    exec (.bar0Write (0x2080 + 8 * n.val) (leBytes 4 w.toNat) false) s = exec (.rqHeadDoorbell n w) s ∧
    (x.enable = true ∧ ringLegal x.log2 = true ∧ i < 2 ^ x.log2 →
      exec (.sqTailDoorbell n w) s = .next (setSq (wakeLink s) n.val { x with tail := i })) ∧
    (¬(x.enable = true ∧ ringLegal x.log2 = true ∧ i < 2 ^ x.log2) →
      exec (.sqTailDoorbell n w) s =
        .next (setSq (wakeLink s) n.val { x with doorbellErr := ackBump x.doorbellErr })) ∧
    (on ∧ i < 2 ^ y.log2 ∧
        (i + 2 ^ y.log2 - y.head) % 2 ^ y.log2 ≤ (y.tail + 2 ^ y.log2 - y.head) % 2 ^ y.log2 →
      exec (.rqHeadDoorbell n w) s = .next (setRq (wakeLink s) n.val { y with head := i })) ∧
    (¬(on ∧ i < 2 ^ y.log2 ∧
        (i + 2 ^ y.log2 - y.head) % 2 ^ y.log2 ≤ (y.tail + 2 ^ y.log2 - y.head) % 2 ^ y.log2) →
      exec (.rqHeadDoorbell n w) s =
        .next (setRq (wakeLink s) n.val { y with doorbellErr := ackBump y.doorbellErr }))

/-- Submission ring descriptors (R32): while Enable is 1 a write that would change Base, Log2Entries or ReplyRing
is ignored in whole, its Enable bit with it, and counted in DoorbellErr; any other write takes effect, and Head and
Tail stay. -/
def Obligations.SubmissionDescriptor : Prop :=
  ∀ (s : State) (n : Fin 16) (base : BitVec 64) (log2 reply : BitVec 4), barReach s = true →
    let x := sqAt s n.val
    let b : BitVec 64 := BitVec.ofNat 64 (base.toNat / 64 * 64)
    let same := x.base = b ∧ x.log2 = log2.toNat ∧ x.replyRing = reply.toNat
    (x.enable = false ∨ same →
      exec (.sqRingEnable n base log2 reply) s = .next (setSq (wakeLink s) n.val { x with
        base := b, enable := true, log2 := log2.toNat, replyRing := reply.toNat }) ∧
      exec (.sqRingDisable n base log2 reply) s = .next (setSq (wakeLink s) n.val { x with
        base := b, enable := false, log2 := log2.toNat, replyRing := reply.toNat, stalled := false, stallOn := 0 })) ∧
    (x.enable = true → ¬same →
      exec (.sqRingEnable n base log2 reply) s =
        .next (setSq (wakeLink s) n.val { x with doorbellErr := ackBump x.doorbellErr }) ∧
      exec (.sqRingDisable n base log2 reply) s =
        .next (setSq (wakeLink s) n.val { x with doorbellErr := ackBump x.doorbellErr }))

/-- Reply ring descriptors (R33): while Enable is 1 a write that would change Base or Log2Entries is ignored in
whole and counted in the reply ring's DoorbellErr; Vector, CoalesceCount and CoalesceTime may be written at any
time. -/
def Obligations.ReplyDescriptor : Prop :=
  ∀ (s : State) (m : Fin 16) (base : BitVec 64) (log2 : BitVec 4) (v : BitVec 6) (cnt : BitVec 8)
      (time : BitVec 16), barReach s = true →
    let x := rqAt s m.val
    let b : BitVec 64 := BitVec.ofNat 64 (base.toNat / 32 * 32)
    let same := x.base = b ∧ x.log2 = log2.toNat
    let y := { x with
      base := b, log2 := log2.toNat, vector := v.toNat, coalesceCount := cnt.toNat, coalesceTime := time.toNat }
    (x.enable = false ∨ same →
      exec (.rqRingEnable m base log2 v cnt time) s = .next (setRq (wakeLink s) m.val { y with enable := true }) ∧
      exec (.rqRingDisable m base log2 v cnt time) s = .next (setRq (wakeLink s) m.val { y with enable := false })) ∧
    (x.enable = true → ¬same →
      exec (.rqRingEnable m base log2 v cnt time) s =
        .next (setRq (wakeLink s) m.val { x with doorbellErr := ackBump x.doorbellErr }) ∧
      exec (.rqRingDisable m base log2 v cnt time) s =
        .next (setRq (wakeLink s) m.val { x with doorbellErr := ackBump x.doorbellErr }))

/-- BAR0 (R98, R99, R530, R531, R534, R543). ACK_MIRROR_WRITE and COUNTER_LOW_READ complete at every offset inside
the window that the device is reached at: a write to the mirror of an ACK field acknowledges it; one to any other word
of a block or to a reserved word is discarded and counts in Bar0Reject, and one inside a ring's words in its
DoorbellErr, as does one that is no aligned word or pair; a poisoned one counts in Bar0Reject. An aligned 4-byte read
of the low word of a 64-bit quantity latches the high word, and a read of the next word returns it; an aligned 8-byte
read returns both from one instant, any other read 0. An access past the window stops. -/
def Obligations.ControlWindow : Prop :=
  ∀ (s : State) (off : Nat) (w : Word), barReach s = true → off < 0x1000000 →
    (∃ t, exec (.ackMirrorWrite off w) s = .next t ∧
      t = noteDiscard (if off % 4 = 0 then bar0Word (wakeLink s) off w else (wakeLink s, discardAt off))) ∧
    (∀ id, 0x100000 ≤ off → off % 4 = 0 → mirrorAt off = some id → ackable id = true →
      exec (.ackMirrorWrite off w) s = .next (ackOne (wakeLink s) id w).1) ∧
    (0x2100 ≤ off → off % 4 = 0 → (∀ id, mirrorAt off = some id → ackable id = false) →
      exec (.ackMirrorWrite off w) s = .next (count (wakeLink s) 6 0 0xD1 6) ∧
      exec (.bar0Write off (leBytes 4 w.toNat) false) s = .next (count (wakeLink s) 6 0 0xD1 6)) ∧
    (off % 4 ≠ 0 → exec (.ackMirrorWrite off w) s = .next (countDiscard (wakeLink s) (discardAt off))) ∧
    (∀ data, off + data.length ≤ 0x1000000 →
      exec (.bar0Write off data true) s = .next (count (wakeLink s) 6 0 0xD1 6) ∧
      (¬(off % 4 = 0 ∧ data.length = 4) → ¬(off % 8 = 0 ∧ data.length = 8) →
        exec (.bar0Write off data false) s = .next (countDiscard (wakeLink s) (discardAt off)))) ∧
    (off % 4 = 0 → ∃ t, exec (.counterLowRead ⟨off, 4⟩) s = .next t ∧ t.out.status = 0 ∧
      (isLow64 off = true → t.out.bytes = leBytes 4 (bar0Value s off).toNat ∧
        tabGet 0 t.host.latch (off + 4) = bar0Value s (off + 4)) ∧
      (isLow64 off = false → 4 ≤ off → isLow64 (off - 4) = true →
        t.out.bytes = leBytes 4 (tabGet 0 s.host.latch off).toNat) ∧
      (isLow64 off = false → (4 ≤ off → isLow64 (off - 4) = false) →
        t.out.bytes = leBytes 4 (bar0Value s off).toNat)) ∧
    (off % 8 = 0 → exec (.counterLowRead ⟨off, 8⟩) s = .next (readOut (wakeLink s)
      (leBytes 4 (bar0Value s off).toNat ++ leBytes 4 (bar0Value s (off + 4)).toNat) 0)) ∧
    (∀ len, off + len ≤ 0x1000000 → ¬(off % 4 = 0 ∧ len = 4) → ¬(off % 8 = 0 ∧ len = 8) →
      exec (.counterLowRead ⟨off, len⟩) s = .next (readOut (wakeLink s) (leBytes len 0) 0)) ∧
    (∀ o len, 0x1000000 ≤ o → exec (.counterLowRead ⟨o, len⟩) s = .fault .noSuchAddress ∧
      exec (.ackMirrorWrite o w) s = .fault .noSuchAddress)

/-- BAR2 (R318, R322, R543): a write whose bytes lie in a pattern area reaches them and no other byte of the hold;
a write outside, or poisoned, is discarded and counts in Bar2Reject; a read gives the bytes, zeros past the hold,
and poisoned data with EccUncorrected and PoisonSent counted where a word is uncorrectable; each word with a
single-bit error counts in EccCorrected. -/
def Obligations.HoldAperture : Prop :=
  ∀ (s : State) (off : Nat) (data : List Byte), barReach s = true → memWf s.hold.mem = true →
    off + data.length ≤ 0x1000000000 →
    (rangePattern off data.length = true → stackIsDown s 0 = false → stackIsDown s 1 = false →
      ∃ t, exec (.bar2Write off data false) s = .next t ∧
        memReadBytes t.hold.mem off data.length = data ∧
        (∀ a, a < off ∨ off + data.length ≤ a → memRead t.hold.mem a = memRead s.hold.mem a) ∧
        t.acks = s.acks ∧ t.par = s.par ∧ t.berth = s.berth ∧ t.quay = s.quay ∧ t.chan = s.chan) ∧
    (rangePattern off data.length = false →
      exec (.bar2Write off data false) s = .next (count (wakeLink s) 6 0 0x78 3)) ∧
    exec (.bar2Write off data true) s = .next (count (wakeLink s) 6 0 0x78 3) ∧
    (∀ len, off + len ≤ 0x1000000000 → 0xC00000000 ≤ off →
      exec (.bar2Read off len) s = .next (readOut (wakeLink s) (List.replicate len 0) 0)) ∧
    (∀ len, 0 < len → off + len ≤ 0xC00000000 → stackIsDown s 0 = false → stackIsDown s 1 = false →
      ((badWord s off len) = none →
        exec (.bar2Read off len) s = .next (readOut (countN (wakeLink s) 6 0 0x78 1 (singleErrors s off len))
          (memReadBytes s.hold.mem off len) 0)) ∧
      ((badWord s off len).isSome = true → exec (.bar2Read off len) s =
        .next (readOut (count (eccNote (wakeLink s) (stackOf off)) 6 0 0xD1 5) [] 1)))

/-- Configuration requests (R528, R552): retry status before CE4 has started; then the vendor and device IDs, and a
write of the command register sets or clears Bus Master Enable. The register places are the model's (log 41). -/
def Obligations.Configuration : Prop :=
  ∀ (s : State) (w : Option Word), s.host.linkUp = true →
    (s.boot.fusesRead = false → ∀ reg, reg < 4096 → reg % 4 = 0 →
      exec (.configRequest reg w) s = .next (readOut (wakeLink s) [] 2)) ∧
    (s.cold = false → s.boot.fusesRead = true →
      exec (.configRequest 0 none) s = .next (readOut (wakeLink s) [0x6A#8, 0x1F#8, 0x10#8, 0x64#8] 0) ∧
      (∀ v : Word, ∃ t, exec (.configRequest 4 (some v)) s = .next t ∧ t.host.busMaster = v.getLsbD 2 ∧
        t.out.status = 0))

/-- Bus Master Enable, D3hot and D0, the held replies, ASPM L1 (R540, R542): with Bus Master Enable 0 or in D3hot a reply
on an enabled ring is held, its command in flight no more but in the count of its ring; the return posts the replies held in
order, and drops those held for ReplyHold ms or longer, as REPLY_HOLD_EXPIRY does; none of these events changes a berth, a
parameter, the hold or the chain. -/
def Obligations.PowerStates : Prop :=
  (∀ s : State, s.host.linkUp = true →
    exec .busMasterEnableClear s = .next { s with host := { s.host with busMaster := false } } ∧
    exec .busMasterEnableSet s = .next (flushHeld { s with host := { s.host with busMaster := true } }) ∧
    exec .d3hotEntry s = .next { s with host := { s.host with dState := 3 } } ∧
    (s.host.dState = 3 → exec .d0Return s = .next (flushHeld { s with host := { s.host with dState := 0 } })) ∧
    exec .aspmL1Entry s = .next { s with host := { s.host with inL1 := true } } ∧
    exec .aspmL1Exit s = .next { s with host := { s.host with inL1 := false } } ∧
    (∀ h rest, s.host.heldReplies = h :: rest →
      exec .replyHoldExpiry s = .next (dropLate (reach s (h.due + replyHold s)))) ∧
    (∀ u, exec .busMasterEnableSet s = .next u → u.par = s.par ∧ u.berth = s.berth ∧ u.chan = s.chan ∧
      u.hold = s.hold ∧ u.chain = s.chain ∧ u.tide = s.tide)) ∧
  (∀ s : State, canRequest s = false → flushHeld s = s) ∧
  (∀ s : State, canRequest s = true → ∃ u, flushHeld s = msixFlush u ∧ u.host.heldReplies = [] ∧
    ∀ h, s.host.heldReplies = [h] →
      (h.due + replyHold s ≤ s.tide → u = dropHeld { s with host := { s.host with heldReplies := [] } } h) ∧
      (s.tide < h.due + replyHold s → u = postHeld { s with host := { s.host with heldReplies := [] } } h)) ∧
  (∀ (s : State) (c : Cmd) (counted : Bool) (r : Reply) (result : List Byte),
    let m := (sqAt s c.hdr.ring.val).replyRing
    (rqAt s m).enable = true → ringLegal (rqAt s m).log2 = true → canRequest s = false →
    liveF s 6 0 0xD0 0 0 16 ≠ 0 →
    let t := postReply s c counted r result
    t.host = { s.host with heldReplies := s.host.heldReplies ++ [⟨c, counted, m, r, s.tide, result⟩] } ∧
    t.inflight = s.inflight.filter (fun y => y.ord ≠ c.ord) ∧ t.par = s.par ∧ t.acks = s.acks)

/-- Link down or Hot Reset, PERST_N and the end of training (R525, R540, R544, R552): every ring's Enable falls and its
other fields stay, the replies that are held are dropped, the configuration space takes its reset values, MSI-X entries are
masked, LinkDowns counts; parameters, berths, channels, the hold and the chain stay. -/
def Obligations.LinkLossAndTraining : Prop :=
  (∀ s : State, s.host.linkUp = true →
    let v := s.host.heldReplies.foldl dropHeld (count s 6 0 0xD1 2)
    ∃ t, exec .hostLinkDown s = .next t ∧ exec .perstNAssert s =
        .next { t with host := { t.host with perstHeld := true } } ∧
      t.host.linkUp = false ∧ t.host.busMaster = false ∧ t.host.config = [] ∧ t.host.heldReplies = [] ∧
      t.host.sq = v.host.sq.map (fun e => (e.1, { e.2 with enable := false, stalled := false, stallOn := 0 })) ∧
      t.host.rq = v.host.rq.map (fun e => (e.1, { e.2 with enable := false })) ∧
      (∀ e ∈ t.host.msix, e.2.masked = true ∧ e.2.pending = false) ∧
      ackOf t (pid 6 0 0xD1 2) = ackBump (ackOf s (pid 6 0 0xD1 2)) ∧
      t.inflight = v.inflight ∧ t.quay = v.quay ∧ (s.host.heldReplies = [] → t.inflight = s.inflight ∧ t.quay = s.quay) ∧
      t.par = s.par ∧ t.berth = s.berth ∧ t.chan = s.chan ∧ t.chain = s.chain ∧ t.hold = s.hold ∧ t.tide = s.tide) ∧
  (∀ s : State, exec .perstNRelease s = .next { s with host := { s.host with perstHeld := false } }) ∧
  (∀ (s : State) (speed : Fin 6) (width : Fin 17) (rev : Bool), mayLinkUp s = true → speed.val ≠ 0 →
    (width.val = 1 ∨ width.val = 2 ∨ width.val = 4 ∨ width.val = 8 ∨ width.val = 16) → width.val ≤ maxWidth s →
    exec (.hostLinkUp speed width rev) s = .next { s with host := { s.host with
      linkUp := true, speed := speed.val, width := width.val, reversed := rev } }) ∧
  (∀ s : State, s.host.linkUp = true →
    exec .fatalLinkError s = .next (count s 6 0 0xD1 4) ∧ exec .correctableLinkError s = .next (count s 6 0 0xD1 3))

/-- The device's own reads (R145, R537, R543): data completes the SEG_LOAD or BCAST_LOAD that waits for it, and the end of
the read a SEG_LOAD from the hold (log 90), which an uncorrectable word fails; a failed read of
a command ends it with HW_FAULT and the source of the failure; a slot fetch that fails leaves Head, disables the ring
and counts in its DoorbellErr. -/
def Obligations.ReadCompletions : Prop :=
  (∀ (s : State) (tag : BitVec 16) (data : List Byte) (c : Cmd), readerOf s tag = some c →
    (∀ bank off src len, c.op = .segLoad bank off src len →
      let fill := fun u d => completeOk
        (segFillAll u (quaysIn c.hdr.scope.toNat c.hdr.inst.toNat) bank.toNat off.toNat d) c [(16, 4, len.toNat)]
      (segFromHold src.toNat = false →
        exec (.hostReadCompletion tag data) s = .next (fill s (padTo len.toNat data))) ∧
      (segFromHold src.toNat = true → ∀ u, holdRead s (segHoldAddr src.toNat) len.toNat = (u, none) →
        exec (.hostReadCompletion tag data) s =
          .next (fill u (memReadBytes s.hold.mem (segHoldAddr src.toNat) len.toNat))) ∧
      (segFromHold src.toNat = true → ∀ u v, holdRead s (segHoldAddr src.toNat) len.toNat = (u, some v) →
        exec (.hostReadCompletion tag data) s = .next (completeV u c v))) ∧
    (∀ src dest len, c.op = .bcastLoad src dest len →
      exec (.hostReadCompletion tag data) s = .next (bcastGo s c (padTo len.toNat data))) ∧
    exec (.poisonedCompletion (.inr tag)) s = .next (cancel s { c with missing := [] } (hwFault 0xD0 0)) ∧
    exec (.completionTimeout (.inr tag)) s = .next (cancel s { c with missing := [] } (hwFault 0xD1 0)) ∧
    exec (.urCaCompletion (.inr tag)) s = .next (cancel s { c with missing := [] } (hwFault 0xD2 0))) ∧
  (∀ (s : State) (n : Fin 16), ringReady s n.val = true →
    let x := sqAt s n.val
    let t := setSq s n.val { x with
      enable := false, stalled := false, stallOn := 0, doorbellErr := ackBump x.doorbellErr }
    ∃ u, exec (.poisonedCompletion (.inl n)) s = .next u ∧ exec (.completionTimeout (.inl n)) s = .next u ∧
      exec (.urCaCompletion (.inl n)) s = .next u ∧ sqAt u n.val = sqAt t n.val ∧ u.acks = s.acks ∧
      u.inflight = s.inflight ∧ u.par = s.par)

/-- Signals (R62, R535). A reply signals its ring's vector when it carries Irq, when its status is 0x0100 or above, or
when CoalesceCount replies have accumulated, 0 read as 1; otherwise it is left unsignalled, until the oldest is
CoalesceTime µs old. Unmasking a vector, or the function, sends what is pending and may leave. -/
def Obligations.ReplySignals : Prop :=
  (∀ (s : State) (m : Nat) (irq : Bool) (r : Reply),
      let x := rqAt s m
      let t := writeReply s m irq r
      (irq = true ∨ 0x100 ≤ r.status.toNat ∨ Nat.max 1 x.coalesceCount ≤ x.unsignalled + 1 →
        (rqAt t m).unsignalled = 0 ∧
        (msixCanSend s x.vector = true → (msixAt t x.vector).sent = (msixAt s x.vector).sent + 1) ∧
        (msixCanSend s x.vector = false → (msixAt t x.vector).pending = true)) ∧
      (irq = false → r.status.toNat < 0x100 → x.unsignalled + 1 < Nat.max 1 x.coalesceCount →
        (rqAt t m).unsignalled = x.unsignalled + 1 ∧ t.host.msix = s.host.msix)) ∧
  (∀ (s : State) (v : Fin 64) (m : Fin 16),
      (barReach s = true →
        exec (.msixUnmask (some v)) s = .next (msixFlush (setMsix s v.val { msixAt s v.val with masked := false })) ∧
        exec (.msixUnmask none) s =
          .next (msixFlush { s with host := { s.host with msixEn := true, funcMask := false } })) ∧
      ((rqAt s m.val).unsignalled ≠ 0 → (rqAt s m.val).coalesceTime ≠ 0 →
        ∃ t, exec (.replyCoalesceTimeout m) s = .next t ∧ (rqAt t m.val).unsignalled = 0 ∧
          t.tide = Nat.max s.tide (((rqAt s m.val).oldest + 800 * (rqAt s m.val).coalesceTime) % 2 ^ 64) ∧
          (msixCanSend s (rqAt s m.val).vector = true →
            (msixAt t (rqAt s m.val).vector).sent = (msixAt s (rqAt s m.val).vector).sent + 1)) ∧
      (∀ k, k < 64 → msixCanSend s k = true → (msixAt s k).pending = true →
        (msixAt (msixFlush s) k).pending = false ∧ (msixAt (msixFlush s) k).sent = (msixAt s k).sent + 1))

/-- Fast status (R96, R97, R532): a block whose contents have changed is rewritten once 8 µs have passed since the
last rewrite started; its Seq rises by one and it shows the contents and the generation of this instant. -/
def Obligations.FastStatus : Prop :=
  ∀ (s : State) (k : FsBlock), (fsAt s k).notBefore ≤ s.tide → (fsAt s k).words ≠ fsContents s k →
    ∃ t, exec (.fastStatusRewrite k) s = .next t ∧ (fsAt t k).seq = (fsAt s k).seq + 1 ∧
      (fsAt t k).notBefore = s.tide + 6400 ∧ (fsAt t k).words = fsContents s k ∧
      fsRead t k 8 = s.par.generation ∧ t.acks = s.acks ∧ t.par = s.par ∧ t.tide = s.tide

/-- The SMBus target (R422, R584): thermal codes answer out of COLD from the values of the last update; the power and
fault codes answer whenever VDD_AON is up, the run state, the power and the last fault as 0 in COLD; every answer
changes nothing but what the host reads. -/
def Obligations.SmbusCodes : Prop :=
  ∀ (s : State), s.boot.aonOn = true →
    (s.cold = false → ∀ z : Fin 24,
      exec (.smbZoneTemp z) s = .next (readOut s (leBytes 2 (tabGet 0x8000 s.therm.smb.zoneTemp z.val)) 0) ∧
      exec .smbHottest s = .next (readOut s (leBytes 2 s.therm.smb.hottest) 0) ∧
      exec .smbWarnMask s = .next (readOut s (leBytes 3 s.therm.smb.warn) 0) ∧
      exec .smbThrottleMask s = .next (readOut s (leBytes 3 s.therm.smb.throttle) 0) ∧
      exec .smbStopMask s = .next (readOut s (leBytes 3 s.therm.smb.stop) 0) ∧
      exec .smbBadSensors s = .next (readOut s (leBytes 13 s.therm.smb.bad) 0) ∧
      exec .smbPowerEstimate s = .next (readOut s (leBytes 2 s.therm.smb.power) 0) ∧
      exec .smbLastFault s = .next (readOut s (leBytes 2 s.lastFaultSource) 0) ∧
      exec .smbRunState s = .next (readOut s (leBytes 1 (stateCode s 6 0)) 0) ∧
      exec .smbValueUpdate s = .next { s with therm := { s.therm with smb := smbNow s } }) ∧
    (s.cold = true →
      exec .smbRunState s = .next (readOut s [0] 0) ∧ exec .smbPowerEstimate s = .next (readOut s [0, 0] 0) ∧
      exec .smbLastFault s = .next (readOut s [0, 0] 0) ∧ exec .smbHottest s = .next (readOut s [] 4)) ∧
    exec .smbRailStatus s = .next (readOut s (leBytes 1 s.boot.railsBad) 0) ∧
    exec .smbRailFaults s = .next (readOut s (leBytes 2 ((ackOf s (pid 6 0 0xD9 5)).c.toNat % 65536)) 0) ∧
    exec .smbRstEvents s = .next (readOut s (leBytes 2 ((ackOf s (pid 6 0 0xD9 4)).c.toNat % 65536)) 0) ∧
    (∀ a : BitVec 7, exec (.smbAddressResolution a) s =
      .next (readOut { s with therm := { s.therm with smb := { s.therm.smb with address := a.toNat } } }
        Config.udid 0))

/-! ### The chain -/

/-- Chain bakes (R92, R93, R363, R384): at a follower BAKE_ARM copies down, withdraws a calibration's own bake and, where
the follower can prepare, arms the tray without GO; BAKE_READY is held once for each port, and one that reaches the pilot after I − 1,600 tc counts for
nothing; BAKE_GO and BAKE_CANCEL copy down, release the bake or drop it (only a calibration's own bake may then be
pending); the pilot decides GO by I − 1,600 tc with every READY held, and CANCEL otherwise; none of them loads a value
or changes the generation. -/
def Obligations.ChainBakeSignals : Prop :=
  (∀ (s : State) (i36 : BitVec 36) (tray : Fin 8), isFollower s = true →
    (canPrepare s (expand36 s i36.toNat) tray.val = true → ∃ t, exec (.bakeArm i36 tray) s = .next t ∧
      t.par.pendBake = some { instant := expand36 s i36.toNat, tray := tray.val, chain := true, go := false,
                              wanted := downPorts s } ∧
      Sent.signal none (.bakeArm i36.toNat tray.val) ∈ t.out.sent ∧ t.par.generation = s.par.generation ∧
      t.par.baked = s.par.baked) ∧
    (canPrepare s (expand36 s i36.toNat) tray.val = false → calBakePend s = false →
      exec (.bakeArm i36 tray) s = .next (copyDown s (.bakeArm i36.toNat tray.val))) ∧
    (canPrepare s (expand36 s i36.toNat) tray.val = false → calBakePend s = true →
      let u := copyDown s (.bakeArm i36.toNat tray.val)
      exec (.bakeArm i36 tray) s = .next (calReadyAgain { u with par := { u.par with pendBake := none } }))) ∧
  (∀ (s : State) (p : Fin 4) (b : PendBake) (i36 : BitVec 36), s.par.pendBake = some b → bakeNamed b i36.toNat = true →
    isFollower s = false →
    (s.tide + 1600 ≤ b.instant → exec (.bakeReady p i36) s = .next { s with par := { s.par with
      pendBake := some { b with ready := b.ready ++ portDevices s p.val } } }) ∧
    (b.instant < s.tide + 1600 → exec (.bakeReady p i36) s = .next s)) ∧
  (∀ (s : State) (p : Fin 4) (b : PendBake) (i36 : BitVec 36), s.par.pendBake = some b → bakeNamed b i36.toNat = true →
    isFollower s = true →
    (b.ready.contains p.val = true → exec (.bakeReady p i36) s = .next s) ∧
    (b.ready.contains p.val = false → ∃ t, exec (.bakeReady p i36) s = .next t ∧
      t.par.pendBake = some { b with ready := b.ready ++ [p.val] } ∧
      (b.tag = none → b.wanted.all (fun q => (b.ready ++ [p.val]).contains q) = true →
        Sent.signal (some s.chain.upPort) (.bakeReady (i36Of b.instant)) ∈ t.out.sent))) ∧
  (∀ (s : State) (b : PendBake) (i36 : BitVec 36), s.par.pendBake = some b → bakeNamed b i36.toNat = true →
    isFollower s = true →
    (∃ t, exec (.bakeGo i36) s = .next t ∧ t.par.pendBake = some { b with go := true } ∧
      Sent.signal none (.bakeGo i36.toNat) ∈ t.out.sent ∧ t.par.generation = s.par.generation) ∧
    (∃ t, exec (.bakeCancel i36) s = .next t ∧ (∀ b, t.par.pendBake = some b → b.cal.isSome = true) ∧
      t.par.baked = s.par.baked ∧ t.par.generation = s.par.generation)) ∧
  (∀ (s : State) (p : PendBake), s.par.pendBake = some p → p.chain = true → p.go = false → p.tag.isSome = true →
    let go := p.armed = true ∧ s.tide + 1600 ≤ p.instant ∧ p.wanted.all (fun i => p.ready.contains i) = true
    (go → ∃ t, exec .chainBakeDecision s = .next t ∧
      t.par.pendBake = some { p with go := true } ∧ Sent.signal none (.bakeGo (i36Of p.instant)) ∈ t.out.sent) ∧
    (¬go → p.instant < 2 ^ 64 → ∃ t, exec .chainBakeDecision s = .next t ∧
      (∀ b, t.par.pendBake = some b → b.cal.isSome = true) ∧ p.instant - 1600 ≤ t.tide ∧ t.par.generation = s.par.generation ∧
      Sent.signal none (.bakeCancel (i36Of p.instant)) ∈ t.out.sent))

/-- The start token and the trigger lines (R176, R177, R222, R246, R364, R365): a token that comes by I − 192 starts
every quay in token wait that no instant has yet at I, a later one or the deadline leaves them ARMED and late; TRIG_RAISE travels up,
TRIG_DELIVER down, and a line is delivered when the tide reaches the earliest of its instants. -/
def Obligations.TokensAndTriggers : Prop :=
  (∀ (s : State) (i36 : BitVec 36), isFollower s = true → s.tide + 192 ≤ expand36 s i36.toNat →
    ∃ t, exec (.token i36) s = .next t ∧
      ∀ q, q < 16 → lacksToken s q = true → (quayAt t q).startAt = some (expand36 s i36.toNat)) ∧
  (∀ (s : State) (i36 : BitVec 36), isFollower s = true → expand36 s i36.toNat < s.tide + 192 →
    ∃ t, exec (.token i36) s = .next t ∧ ∀ q, q < 16 → lacksToken s q = true →
      (quayAt t q).tokenWait = false ∧ (quayAt t q).startAt = none ∧ (quayAt t q).armed = (quayAt s q).armed) ∧
  (∀ s : State, isFollower s = true →
    ∃ t, exec .tokenDeadline s = .next t ∧ ∀ q, q < 16 → lacksToken s q = true →
      (quayAt t q).tokenWait = false ∧ (quayAt t q).armed = (quayAt s q).armed) ∧
  (∀ (s : State) (l : Fin 16) (i36 : BitVec 36), isFollower s = true →
    exec (.trigRaise l i36) s = .next (upSignal s (.trigRaise l.val i36.toNat)) ∧
    exec (.trigDeliver l i36) s =
      .next (lineHold (copyDown s (.trigDeliver l.val i36.toNat)) l.val (expand36 s i36.toNat))) ∧
  (∀ (s : State) (l : Fin 16) (i36 : BitVec 36), isFollower s = false → isPilot s = true →
    exec (.trigRaise l i36) s = .next (lineRaised s l.val (expand36 s i36.toNat))) ∧
  (∀ (s : State) (l : Fin 16) (d : Nat), (l.val, d) ∈ s.chain.pendTrig →
    (∀ e ∈ s.chain.pendTrig, e.1 = l.val → d ≤ e.2) → exec (.trigDeliveryInstant l) s = .next (lineDeliver
      { reach s d with chain := { s.chain with pendTrig := s.chain.pendTrig.erase (l.val, d) } } l.val d))

/-- The oven over the chain, and LOST (R256, R366, R367): a follower locked to REFC takes OVEN 1, any follower OVEN 0
or the lack of OVEN for three marker intervals; LOST goes up to the pilot, which loses the subtree. -/
def Obligations.OvenAndLost : Prop :=
  (∀ s : State, isFollower s = true →
    (s.clk.refState = .locked → ∃ t, exec (.oven true) s = .next t ∧ t.clk.ovenOk = true ∧
      t.chain.ovenAt = s.tide) ∧
    (∃ t, exec (.oven false) s = .next t ∧ t.clk.ovenOk = false ∧ t.chain.ovenAt = s.tide) ∧
    (∃ t, exec .ovenTimeout s = .next t ∧ t.clk.ovenOk = false ∧
      (s.chain.ovenAt + threeMarkers (portAt s s.chain.upPort).rate) % 2 ^ 64 ≤ t.tide) ∧
    (∀ i : Fin 128, exec (.lost i) s = .next (upSignal s (.lost i.val)))) ∧
  (∀ (s : State) (i : Fin 128), isFollower s = false → isPilot s = true →
    exec (.lost i) s = .next (chainLost s i.val) ∧
    ∀ zone sensor, exec (.followerThermalReport i zone sensor) s = .next (causeEvent s 5))

/-- Tide exchange, correction and tracking (R360 to R362): a ping is answered with a pong and the stamps; a pong of the
exchange in hand leaves its stamps; a correction of c units is applied as k tide counts and f units of root phase
with 0 ≤ f < 5,000, and on a device with a quay ARMED or RUNNING it lapses (R17; log 97), after which the pilot measures
again; a tracking step moves the root phase by one unit while no quay is ARMED or RUNNING. -/
def Obligations.TideAlignment : Prop :=
  (∀ (s : State) (p : Fin 4) (x : BitVec 16) (t1 t2 : Nat), 2 ≤ (portAt s p.val).state →
    ∃ t, exec (.tidePing p x t1 t2) s = .next t ∧
      Sent.signal (some p.val) (.tidePong x.toNat) ∈ t.out.sent ∧ t.tide = s.tide ∧
      ((portAt s p.val).queue = [] → frameMost ≤ creditOf (portAt s p.val) 0 → (portAt s p.val).replay.length < 128 →
        Sent.frame (some p.val) (.tideData x t1 t2) ∈ t.out.sent)) ∧
  (∀ (s : State) (p : Fin 4) (x : BitVec 16) (t0 t3 : Nat), (measAt s p.val).exchange = x.toNat →
    (measAt s p.val).done < exchanges →
    exec (.tidePong p x t0 t3) s = .next (setMeas s p.val { measAt s p.val with stamps := some (t0, t3) })) ∧
  (∀ (s : State) (c : Int) (at_ : Nat), s.chain.correction = some (c, at_) → isFollower s = true →
    let now : Int := Nat.max s.tide (at_ % 2 ^ 64)
    ∃ t, exec .tideCorrectionApply s = .next t ∧ t.chain.correction = none ∧
      ((∀ q, q < 16 → (quayAt s q).armed = false ∧ (quayAt s q).running = false) →
        (t.tide : Int) = (now + c / 5000) % 2 ^ 64 ∧ t.chain.rootPhase = s.chain.rootPhase + c % 5000) ∧
      ((∃ q, q < 16 ∧ ((quayAt s q).armed = true ∨ (quayAt s q).running = true)) →
        (t.tide : Int) = now ∧ t.chain.rootPhase = s.chain.rootPhase)) ∧
  (∀ (s : State) (c : Int) (at_ : Nat), s.chain.correction = some (c, at_) → isFollower s = false →
    ∃ u, exec .tideCorrectionApply s = .next (alignAgain u) ∧ u.chain.correction = none ∧ u.inflight = s.inflight) ∧
  (∀ (s : State) (theta : Int), isFollower s = true → s.chain.enumerated = true → trackEn s = true →
    ∃ t, exec (.tideTrackMeasure theta) s = .next t ∧ t.chain.drift = theta ∧
      t.chain.theta = s.chain.track + theta - s.chain.drift ∧ t.chain.track = t.chain.theta ∧ t.tide = s.tide ∧
      (5000 < t.chain.theta.natAbs → t.chain.tideAligned = false)) ∧
  (∀ s : State, isFollower s = true → trackEn s = true → s.chain.drift ≠ 0 →
    (∀ q, q < 16 → (quayAt s q).armed = false ∧ (quayAt s q).running = false) →
    ∃ t, exec .tideTrackStep s = .next t ∧ (t.chain.drift - s.chain.drift).natAbs = 1 ∧
      t.chain.drift.natAbs < s.chain.drift.natAbs ∧
      t.chain.rootPhase - s.chain.rootPhase = t.chain.drift - s.chain.drift ∧
      t.chain.track - s.chain.track = t.chain.drift - s.chain.drift ∧ t.chain.theta = s.chain.theta ∧
      s.chain.stepAt % 2 ^ 64 ≤ t.tide)

/-- Frames and LINK blocks (R353, R355, R356): a frame with a bad CRC is counted and answered with a negative
acknowledgement; the next frame in order is acknowledged and delivered, one delivered before is acknowledged again; an
acknowledgement frees the replay buffer up to its frame, a negative one repeats the frames from it on and counts, and one
for a frame that has been repeated 16 times takes the link down; credit is added to its class, up to its 16 KiB buffer; then
frames that waited for either leave. A port that is not up takes none of them. -/
def Obligations.FramesAndLinkBlocks : Prop :=
  (∀ (s : State) (p : Fin 4) (seq : BitVec 16) (crc : Bool) (body : FrameBody) (use : LinkUse) (topology : Fin 4)
      (x y leg : Nat), (portAt s p.val).state < 2 → exec (.frameReceive p seq crc body) s = .next s ∧
    exec (.linkBlock p use) s = .next s ∧ exec (.enumFrame p topology x y leg) s = .next s) ∧
  ∀ (s : State) (p : Fin 4) (seq : BitVec 16) (body : FrameBody), 2 ≤ (portAt s p.val).state →
    exec (.frameReceive p seq false body) s =
      .next (sendRaw (count s 6 0 0x83 (4 * p.val + 1)) (.nakFrame p.val seq.toNat)) ∧
    (seq.toNat = (portAt s p.val).rxSeq → exec (.frameReceive p seq true body) s =
      .next (receive (sendRaw (setPort s p.val { portAt s p.val with rxSeq := ((portAt s p.val).rxSeq + 1) % 65536 })
        (.ackFrame p.val seq.toNat)) p.val body)) ∧
    (seq.toNat ≠ (portAt s p.val).rxSeq → ((portAt s p.val).rxSeq + 65536 - seq.toNat) % 65536 < 32768 →
      exec (.frameReceive p seq true body) s = .next (sendRaw s (.ackFrame p.val seq.toNat))) ∧
    (∀ (topology : Fin 4) (x y leg : Nat), exec (.enumFrame p topology x y leg) s =
      .next (enumArrive s p.val topology.val x y leg)) ∧
    (∀ f rest, replayFrom (portAt s p.val).replay seq.toNat = f :: rest →
      exec (.linkBlock p (.ack seq)) s =
        .next (grantFree (portSend (setPort s p.val { portAt s p.val with replay := rest, replays := 0 }) p.val)) ∧
      let x := portAt s p.val
      let n := if x.nakSeq = seq.toNat then x.replays else 0
      (n < 16 → exec (.linkBlock p (.nak seq)) s = .next ((f :: rest).foldl
        (fun u e => sendRaw u (.frame (some p.val) e.2))
        (count (setPort s p.val { x with replays := n + 1, nakSeq := seq.toNat }) 6 0 0x83 (4 * p.val + 2)))) ∧
      (16 ≤ n → exec (.linkBlock p (.nak seq)) s = .next (linkFall s p.val))) ∧
    (replayFrom (portAt s p.val).replay seq.toNat = [] →
      exec (.linkBlock p (.ack seq)) s = .next s ∧ exec (.linkBlock p (.nak seq)) s = .next s) ∧
    (∀ (c : Fin 4) (n : Nat), ∃ t, exec (.linkBlock p (.credit c n)) s = .next (grantFree (portSend t p.val)) ∧
      creditOf (portAt t p.val) c.val = Nat.min 16384 (creditOf (portAt s p.val) c.val + n) ∧
      ((portAt s p.val).queue = [] →
        creditOf (portAt (grantFree (portSend t p.val)) p.val) c.val = creditOf (portAt t p.val) c.val))

/-- Lane bring-up (R342, R343, R345 to R347, R370): the first lane of a port to enter DETECT latches the port's control word;
each stage of a lane leads to the next, and its timeout to the state that R342 and R343 name: a port that has MinLanes lanes
past TRAIN goes on without those still in it, another starts again a rate lower; a lane in SLIP answers its LANE_BITSLIP. A
capability frame is acted on where the port may move on from TRAIN. -/
def Obligations.LaneBringUp : Prop :=
  ∀ (s : State) (l : Fin 48),
    let x := laneAt s l.val
    let p := portOfLane l.val
    let s' := if (lanesOfPort p).all fun k => (laneAt s k).state = .off then portEnter s p else s
    (laneEnabled s' l.val = true → laneClocked s l.val = true → mayTrain s p = true →
      (x.state = .off → ∃ t, exec (.laneDetectAttempt l) s = .next t ∧ (laneAt t l.val).state = .detect ∧
        (laneAt t l.val).cause = 0 ∧ (laneAt t l.val).rate = (portAt s' p).rate ∧ portAt t p = portAt s' p) ∧
      (x.state = .detect → exec (.laneDetectAttempt l) s = .next (setLane s l.val { x with cause := 0 }))) ∧
    (x.state = .detect → ∃ t, exec (.laneReceiverDetected l) s = .next t ∧ (laneAt t l.val).state = .train ∧
      (laneAt t l.val).preCode = txPre s l.val ∧ (laneAt t l.val).postCode = txPost s l.val ∧
      (portAt t p).state = (if 2 ≤ (portAt s p).state then (portAt s p).state else 1)) ∧
    (x.state = .bitLock →
      exec (.bitLockAchieved l) s = .next (setLane s l.val { x with state := .blockLock }) ∧
      exec (.bitLockTimeout l) s = .next (laneTrain s l.val 2)) ∧
    (x.state = .blockLock →
      exec (.blockLockAchieved l) s = .next (setLane s l.val { x with state := .deskew, retried := false }) ∧
      (x.retried = true → exec (.blockLockTimeout l) s = .next (laneTrain s l.val 3)) ∧
      (x.retried = false → exec (.blockLockTimeout l) s =
        .next (setLane s l.val { x with state := .bitLock, cause := 3, retried := true }))) ∧
    (x.state = .slip →
      exec (.blockLockAchieved l) s =
        .next (slipReply (setLane s l.val { x with state := .deskew, slipMode := false }) l.val true) ∧
      exec (.blockLockTimeout l) s = .next (slipReply s l.val false)) ∧
    (x.state = .deskew →
      (∃ t, exec (.deskewTimeout l) s = .next t ∧ laneAt t l.val = { x with state := .failed, cause := 4 }) ∧
      (∀ skew : Fin 65, ∃ t, exec (.deskewMatch l skew) s = .next t ∧ (laneAt t l.val).skew = skew.val ∧
        (laneAt t l.val).markerSeen = true ∧
        (laneAt t l.val).state = (if 2 ≤ (portAt s p).state then .active else .capability))) ∧
    (∀ cause, (laneAt (laneTrain s l.val cause) l.val).state = .train ∧
      (laneAt (laneTrain s l.val cause) l.val).cause = cause ∧
      (laneAt (laneTrain s l.val cause) l.val).rate = (portAt s p).rate) ∧
    (∀ p : Fin 4, (lanesOfPort p.val).any (fun k => (laneAt s k).state = .train) = true →
      (portMoves s p.val = true → ∃ t, exec (.trainTimeout p) s = .next t ∧ t.quay = s.quay ∧ t.berth = s.berth ∧
        ∀ k ∈ lanesOfPort p.val, (laneAt s k).state = .train → (laneAt t k).state = .failed ∧ (laneAt t k).cause = 1) ∧
      (portMoves s p.val = false →
        exec (.trainTimeout p) s = .next (portRestart s p.val ((portAt s p.val).rate + 1) 1))) ∧
    (∀ p : Fin 4, capLanes s p.val ≠ [] →
      (portMoves s p.val = true →
        (∀ pilot mask rate, exec (.capabilityFrame p false pilot mask rate) s =
          .next (setPort s p.val { portAt s p.val with capCause := 2 })) ∧
        (isPilot s = true → ∀ mask rate, exec (.capabilityFrame p true true mask rate) s =
          .next (setPort s p.val { portAt s p.val with capCause := 1 })) ∧
        (∀ pilot mask rate, (pilot = false ∨ isPilot s = false) →
          (mask.toNat = trainedMask s p.val ∨ rate.val = (portAt s p.val).rate →
            ∃ t, exec (.capabilityFrame p true pilot mask rate) s = .next t ∧
              ∀ k ∈ capLanes s p.val, (laneAt t k).state = .active) ∧
          (mask.toNat ≠ trainedMask s p.val → rate.val ≠ (portAt s p.val).rate →
            exec (.capabilityFrame p true pilot mask rate) s =
              .next (portRestart s p.val (portAt s p.val).rate 0)))) ∧
      ((portAt s p.val).capCause = 0 → exec (.capabilityTimeout p) s =
        .next (portRestart s p.val (portAt s p.val).rate 5)))

/-- A lane in TRAIN, in ACTIVE and after a test (R335, R336, R338, R340, R341, R344, R346, R348, R349). TRAIN_BLOCK: once the
root has locked this end answers with a TRAIN block, and both receivers ready lead to BIT_LOCK; before, the lane only learns
of the other end's reference. ADAPT_WINDOW_END: more than 3,686 IDLE blocks freeze the equaliser and count, at most 2,048
end the freeze. ALIGN_MARKER: its mismatches join those of the last three, and 16 or more lose the lane. LANE_LOST: the only
active lane of its port takes the link down, another retrains. LINK_DOWN, SIGNAL_BAD and BLOCK_ERR take the link down or
count. LANE_TEST_END reports what the way and the device's own inversions (log 99) have made wrong, and the lane retrains. -/
def Obligations.LaneEvents : Prop :=
  ∀ (s : State) (l : Fin 48),
    let x := laneAt s l.val
    (x.state = .train → ∀ (a b c d : Fin 4) (rx g ready : Bool),
      (rootLocked s = true → ∃ t w, exec (.trainBlock l a b c d rx g ready) s = .next t ∧
        (laneAt t l.val).state = (if rx && ready then .bitLock else .train) ∧ (laneAt t l.val).rxReady = rx ∧
        (laneAt t l.val).refGood = g ∧ t.out.sent = s.out.sent ++ [.train l.val w]) ∧
      (rootLocked s = false → exec (.trainBlock l a b c d rx g ready) s =
        .next (setLane s l.val { x with refGood := g }))) ∧
    (laneActive s l.val = true →
      (∀ idle, 3686 < idle → x.frozen = false → exec (.adaptWindowEnd l idle) s =
        .next (count (setLane s l.val { x with frozen := true }) 6 0 0x82 (4 * l.val + 3))) ∧
      (∀ idle, idle ≤ 2048 → x.frozen = true →
        exec (.adaptWindowEnd l idle) s = .next (setLane s l.val { x with frozen := false })) ∧
      (∀ idle, (idle ≤ 3686 ∨ x.frozen = true) → (2048 < idle ∨ x.frozen = false) →
        exec (.adaptWindowEnd l idle) s = .next s) ∧
      exec (.laneLost l) s = .next (laneLoss s l.val) ∧
      (∀ (seq : BitVec 16) (m : Fin 17),
        let n := ((m.val :: x.bips).take 4).sum
        ∃ u, (laneAt u l.val).bips = (m.val :: x.bips).take 4 ∧ (laneAt u l.val).markerSeen = true ∧
          (portAt u (portOfLane l.val)).markerSeq = seq.toNat ∧ (laneAt u l.val).state = .active ∧ u.acks = s.acks ∧
          (n < 16 → exec (.alignMarker l seq m) s = .next u) ∧
          (16 ≤ n → exec (.alignMarker l seq m) s = .next (laneLoss u l.val)))) ∧
    (activeLanes s (portOfLane l.val) = [l.val] → laneLoss s l.val = linkFall s (portOfLane l.val)) ∧
    (activeLanes s (portOfLane l.val) ≠ [l.val] → (laneAt (laneLoss s l.val) l.val).state = .train ∧
      (laneAt (laneLoss s l.val) l.val).cause = 7) ∧
    (∀ p : Fin 4, 2 ≤ (portAt s p.val).state ∨ (portAt s p.val).downPend = true →
      exec (.linkDown p) s = .next (linkFall s p.val)) ∧
    exec (.signalBad l) s = .next (count s 6 0 0x82 (4 * l.val + 2)) ∧
    exec (.blockErr l) s = .next (count s 6 0 0x82 (4 * l.val + 1)) ∧
    (∀ (errors : BitVec 64) (locked : Bool),
      (∀ c : Cmd, testCmd s l.val = some c → exec (.laneTestEnd l errors locked) s =
        .next (completeOk (testOver (reach s (c.started + 800 * testTime c)) l.val) c
          [(16, 8, errors.toNat + testInjected c x.rate), (24, 1, if locked then 1 else 0)])) ∧
      (testCmd s l.val = none → x.state = .test → exec (.laneTestEnd l errors locked) s = .next (testOver s l.val))) ∧
    (laneAt (testOver s l.val) l.val).state = (if 3 ≤ (zoneAt s 22).state then .off else .train)

/-! ### The sequencers, results and channels -/

/-- A burst begins, commits, plays and halts (R145, R153, R157, R160 to R162, R172, R175, R412): BURST_START at the
start instant unless the gate keeps it; a commit names the next segment, 160 tc before its last granule; a halt or a
JUMP is taken at the first boundary it can reach, where the data up to it is there; a burst that ends leaves the quay
neither running nor armed, HALTED unless its cause is 0, with the index at which it ended, and its berths out of RUNNING. -/
def Obligations.BurstEvents : Prop :=
  (∀ (s : State) (q : Fin 16) (i : Nat), (quayAt s q).armed = true → (quayAt s q).running = false →
    (quayAt s q).startAt = some i →
    (gateOf (reach s i) q ≤ i → exec (.burstStart q) s = .next (startDone (burstBegin (reach s i) q i) q false)) ∧
    (i < gateOf (reach s i) q → exec (.burstStart q) s = .next (startDone
      (setQuay (count (reach s i) 6 0 0xA1 (8 * gateZone (reach s i) q + 5)) q
        { quayAt s q with startAt := none, tokenWait := false }) q true))) ∧
  (∀ (s : State) (q : Fin 16) (g : Nat), (quayAt s q).running = true → (quayAt s q).starving = false →
    nextSegment s q = some g →
    let u := reach s (posTide (posAfter s q (64 * (granulesLeft s q - 1) - (quayAt s q).played)) - 160)
    exec (.successorCommit q) s = .next (setQuay u q { quayAt s q with
      committed := some g, commitBusy := bankFilling u q (segBank g) })) ∧
  (∀ (s : State) (q : Fin 16) (a cause g : Nat), (quayAt s q).haltReq = some (a, cause) →
    (quayAt s q).running = true → (quayAt s q).starving = false →
    boundaryFor s q a (granulesLeft s q) = some g → dataThere s q (64 * g - (quayAt s q).played) = true →
    ∃ u, exec (.haltTaken q) s = .next (burstEnd u q cause) ∧
      (quayAt u q).vectorIndex = (quayAt s q).vectorIndex + (64 * g - (quayAt s q).played)) ∧
  (∀ (s : State) (q : Fin 16) (j : Nat × Nat × Nat) (rest : List (Nat × Nat × Nat)) (g : Nat), (quayAt s q).jumps = j :: rest →
    (quayAt s q).running = true → (quayAt s q).starving = false → (quayAt s q).haltReq = none →
    boundaryFor s q j.1 (granulesLeft s q) = some g → dataThere s q (64 * g - (quayAt s q).played) = true → ∃ t u, exec (.jumpTaken q) s = .next t ∧
      t = jumpTake u q (if (quayAt s q).pause.isSome && (quayAt s q).redirect.isNone then g else 0) ∧
      (quayAt u q).vectorIndex = (quayAt s q).vectorIndex + (64 * g - (quayAt s q).played) ∧ s.tide ≤ u.tide) ∧
  (∀ (s : State) (q : Fin 16), (quayAt s q).running = true → (quayAt s q).starving = true →
    exec (.starveHalt q) s =
      .next (burstEnd (advanceQ s q ((64 - (quayAt s q).vectorIndex % 64) % 64)) q 2)) ∧
  (∀ (s : State) (q cause : Nat), (quayAt (burstEnd s q cause) q).running = false ∧
    (quayAt (burstEnd s q cause) q).armed = false ∧
    (quayAt (burstEnd s q cause) q).halted = decide (cause ≠ 0) ∧
    (quayAt (burstEnd s q cause) q).haltCause = cause ∧
    (quayAt (burstEnd s q cause) q).haltIndex = (quayAt s q).vectorIndex ∧
    (∀ b ∈ armedBerths s q, (berthAt (burstEnd s q cause) b).run ≠ .running) ∧
    s.tide ≤ (burstEnd s q cause).tide)

/-- Passes, pauses, starving and streaming (R23, R156 to R158, R164, R165, R171 to R175, R189): a pass whose data is
there plays its granules and counts; a decision pause ends in the decision, a redirect pause in the target; STARVE comes
at the first vector whose data is not in the FIFO and names why (a segment that starves with BANK_BUSY or STALE does so
where it is entered, and this row then changes nothing); the last FIFO of an ARM that fills arms the quay; a stream read
fills the FIFO as far as the predicted path asks, unless the stack is down, and the place of a bad word is marked, one
that no FIFO asks for is counted; LW_SAMPLE comes no earlier than the instant of the next sample. -/
def Obligations.SegmentEvents : Prop :=
  ∀ (s : State) (q : Fin 16),
    (playing s q = true →
      dataThere s q (64 * segLenG s q (quayAt s q).curSeg - (quayAt s q).played) = true →
      ∃ t u, exec (.segmentPassEnd q) s = .next t ∧ t = passEnd u q ∧
      (quayAt u q).passes = (quayAt s q).passes + 1 ∧
      (quayAt u q).vectorIndex = (quayAt s q).vectorIndex +
        (64 * segLenG s q (quayAt s q).curSeg - (quayAt s q).played) ∧ (quayAt u q).played = 0) ∧
    (∀ g, (quayAt s q).pause = some g → (quayAt s q).running = true → (quayAt s q).haltReq = none →
      (quayAt s q).jumps = [] →
      ((quayAt s q).redirect = none → ∃ u, exec (.decisionPauseEnd q) s = .next (decide_ u q g) ∧
        (quayAt u q).vectorIndex = (quayAt s q).vectorIndex + (64 * g - (quayAt s q).played) ∧
        (quayAt u q).pause = none) ∧
      (∀ t, (quayAt s q).redirect = some t → ∃ u, exec (.redirectPauseEnd q) s = .next (enterNow u q t) ∧
        (quayAt u q).vectorIndex = (quayAt s q).vectorIndex + (64 * g - (quayAt s q).played) ∧
        (quayAt u q).redirect = none)) ∧
    (∀ (index : Nat) (why : StarveWhy), starveDue s q = some (index, starveCode why) →
      ∃ t u, exec (.starve q index why) s = .next t ∧ t = starveAt u q (starveCode why) index ∧
        (quayAt u q).vectorIndex = index ∧
        (index % 64 ≠ 0 → (quayAt t q).starving = true ∧ (quayAt t q).starveIndex = index ∧
          (quayAt t q).starveCause = starveCode why)) ∧
    (∀ (index : Nat) (why : StarveWhy), starveDue s q ≠ some (index, starveCode why) →
      exec (.starve q index why) s = .next s) ∧
    (∀ (bytes : Nat),
      let u := catchUp s q
      let n := Nat.min (fifoRoom u q) ((quayAt u q).fifo + bytes)
      let v := fifoHolds u q (Nat.max (quayAt u q).fifo n)
      (stackStarves u q = true → ∀ bad, exec (.streamReadComplete q bytes bad) s = .next u) ∧
      (stackStarves u q = false →
        exec (.streamReadComplete q bytes false) s = .next v ∧
        (n < fifoRoom u q → ∃ t, exec (.streamReadComplete q bytes true) s = .next t ∧
          (quayAt t q).fifo = Nat.min (fifoRoom u q) (n + 32) ∧
          (quayAt t q).fifoBad = some (((quayAt u q).fifoBad).getD n)) ∧
        (n = fifoRoom u q → exec (.streamReadComplete q bytes true) s = .next (count v 6 0 0x78 2)))) ∧
    (∀ (c : Cmd) (entry : BitVec 32) (mask : BitVec 4) (tset : BitVec 6) (h : Hdr), s.inflight = [c] → c.hdr = h →
      c.op = .arm entry mask tset → c.phase = .running → prefilled s q = true →
      (c.work = .prefill [q.val] [q.val] → quayFits s c.op q = true →
        let v := armQuay (setQuay s q { quayAt s q with prefill := none }) q entry.toNat (armMask s q mask.toNat) tset.toNat
        exec (.streamPrefillDone q) s = .next (completeOk v c
          [(16, 2, stateCode v h.scope.toNat h.inst.toNat)])) ∧
      (∀ qs all, c.work = .prefill qs all → q.val ∈ qs → qs.filter (· ≠ q.val) ≠ [] →
        exec (.streamPrefillDone q) s = .next (putCmd s { c with work := .prefill (qs.filter (· ≠ q.val)) all }))) ∧
    ((quayAt s q).lwPlaying = true → ∃ t, exec (.lwSample q) s = .next t ∧
      (quayAt t q).lwNext = (quayAt s q).lwNext + 1 ∧
      ((quayAt s q).lwStart + 4 * (lwInterval (lwEntry s q (quayAt s q).lwBank (quayAt s q).lwCur) + 1) *
        (quayAt s q).lwNext) % 2 ^ 64 ≤ t.tide)

/-- Results and the fail log (R124, R302 to R313): a failing compare outside a match-wait, whose window has closed, of a
vector that has been played by the segment that the row names, counts in its position and its vector once; RESULT_DONE
comes 96 tc after the last window's close or at the burst end and raises the burst number of every berth of the burst; a
spill takes the oldest entries off the die, and on a stack that is down they leave the total (log 109); RESULT_SNAPSHOT
comes at SnapTide, and an upload whose parts are missing ends with HW_FAULT 0x42 naming the lowest, their headers written. -/
def Obligations.ResultEvents : Prop :=
  (∀ (s : State) (b : Fin 64) (index : Nat) (seg : Byte) (pass : BitVec 16) (r : PosResult),
    (quayAt s (quayOfBerth b)).resultsOpen = true →
    natBit (quayAt s (quayOfBerth b)).resultMask (b.val % 4) = true → vectorPlayed s (quayOfBerth b) index = true →
    (playedEntry s (quayOfBerth b) index).map (·.2) = some seg.toNat → inDigital s b r = true → fails r = true →
    windowClosed s b index r = true →
    ∃ t, exec (.compareResult b index seg pass false [r]) s = .next t ∧
      (chanAt t (chanOfPos b r.pos.val)).failCount = bumpSat (chanAt s (chanOfPos b r.pos.val)).failCount ∧
      (berthAt t b).fc.failVectors = bumpSat (berthAt s b).fc.failVectors ∧
      (∀ k : Fin 16, k ≠ r.pos → chanAt t (chanOfPos b k.val) = chanAt s (chanOfPos b k.val)) ∧
      t.par = s.par ∧ t.host = s.host) ∧
  (∀ (s : State) (q : Fin 16), (quayAt s q).resultsOpen = true → (quayAt s q).running = false →
    ∃ t, exec (.resultDone q) s = .next t ∧ (quayAt t q).resultsOpen = false ∧
      resultInstant (quayAt s q) % 2 ^ 64 ≤ t.tide ∧
      (∀ b ∈ berthsOfQuay q, natBit (quayAt s q).resultMask (b % 4) = true →
        (berthAt t b).fc.burstNo = bumpSat (berthAt s b).fc.burstNo) ∧ t.chan = s.chan ∧ t.par = s.par) ∧
  (∀ (s : State) (b : Fin 64),
    (256 ≤ (berthAt s b).fc.log.length ∨ (quayAt s (quayOfBerth b)).resultsOpen = false →
      ∃ t, exec (.failLogSpill b) s = .next t ∧ (berthAt t b).fc.log = (berthAt s b).fc.log.drop 256 ∧
      (berthAt t b).fc.logTotal = (berthAt s b).fc.logTotal -
        (if stackIsDown s (stackOf (regionBase b)) then ((berthAt s b).fc.log.take 256).length else 0)) ∧
    ((berthAt s b).fc.log.length < 256 → (quayAt s (quayOfBerth b)).resultsOpen = true →
      exec (.failLogSpill b) s = .next s) ∧
    (∃ t, exec (.captureSpill b) s = .next t ∧
      (berthAt t b).fc.capture = (berthAt s b).fc.capture.drop captureDieEntries ∧
      (berthAt t b).fc.captureTotal = (berthAt s b).fc.captureTotal - (if stackIsDown s (stackOf (regionBase b)) then
        ((berthAt s b).fc.capture.take captureDieEntries).length else 0))) ∧
  (∀ (s : State) (c : Cmd) (content : Byte), s.inflight = [c] → c.op = .resultUpload content →
    (c.work = .upload [] [] → c.viaChain = false →
      exec .resultSnapshot s = .next (uploadTake (reach s (snapTide c)) c content)) ∧
    (∀ (parts : List (Nat × List Byte)) (waiting : List Nat), c.work = .upload parts waiting → waiting ≠ [] →
      partTaken s parts = true → ∃ u, exec .resultPartTimeout s =
          .next (completeV u c (hwFault 0x42 ((waiting.min?).getD 0))) ∧
        u.tide = Nat.max s.tide ((snapTide c + 8000000) % 2 ^ 64) ∧
        (canRequest s = true → u.host.hostMem = memWriteBytes s.host.hostMem c.hdr.resultPtr.toNat
          ((uploadBytes (parts ++ waiting.map fun i => (i, missingPart s content i (snapTide c)))).take
            c.hdr.resultLen.toNat))))

/-- Short-circuit limits, the spare's handover and release, UNPARK and parking (R44, R51, R109, R134 to R137, R194 to
R196): an event on a driver that is on notes the instant and acts as ShortLimit says, and is counted while its wing's link
is up and the action is not FAULT; one on a driver that is off does nothing; a handover and a release overlap, move and
switch no earlier than their instants; an UNPARK takes effect at its instant; ParkMode is applied at the instant of the
park, and the berth is then PARKED or in FAULT; an orderly park that waited starts at its deadline. SHORT_LIMIT_EVENT,
SUBST_OVERLAP and SUBST_COMPARE_MOVE complete in every state. -/
def Obligations.ChannelEvents : Prop :=
  ∀ (s : State),
    (∀ c : Fin 1088,
      let u := catchUp s (quayOfBerth (berthOfChan c))
      let act := liveF u 2 (paramInst u c) 0x10 0 5 2
      ((chanAt u c).driver = .hiz → exec (.shortLimitEvent c) s = .next u) ∧
      ((chanAt u c).driver ≠ .hiz → ∃ t, exec (.shortLimitEvent c) s = .next t ∧
        (act ≠ 2 → (chanAt t c).limitAt = some u.tide ∧ (chanAt t c).driver = (chanAt u c).driver ∧ t.berth = u.berth ∧
          (chanAt t c).holdNext = (if act = 0 then (chanAt u c).holdNext else some true)) ∧
        ((wingAt u (wingOfBerth (berthOfChan c))).linkDown = false → act ≠ 2 →
          ackOf t (pid 2 c 0x14 0) = ackBump (ackOf u (pid 2 c 0x14 0))) ∧
        (act = 2 → (berthAt u (berthOfChan c)).run ≠ .off → (berthAt t (berthOfChan c)).run = .fault))) ∧
    (∀ b : Fin 64,
      let u := catchUp (reach s ((berthAt s b).seqStart + 256)) (quayOfBerth b)
      ((berthAt s b).seqPhase = 1 ∨ (berthAt s b).seqPhase = 4 → ∃ t, exec (.substOverlap b) s = .next t ∧
        (berthAt t b).seqPhase = (berthAt s b).seqPhase + 1 ∧
        (chanAt t (incoming u b)).connect = decide ((chanAt u (incoming u b)).mode ≠ 0) ∧
        (chanAt t (incoming u b)).mode = (chanAt u (incoming u b)).mode ∧
        (chanAt t (incoming u b)).overlap = true ∧ (chanAt t (outgoing u b)).overlap = true) ∧
      ((berthAt s b).seqPhase ≠ 1 → (berthAt s b).seqPhase ≠ 4 → exec (.substOverlap b) s = .next s)) ∧
    (∀ b : Fin 64,
      let from_ := vectorStartFrom s (quayOfBerth b) ((berthAt s b).seqStart + 320)
      let due := ((berthAt s b).seqPhase = 2 ∨ (berthAt s b).seqPhase = 5) ∧ (berthAt s b).movedAt = none
      (due → ∀ p, from_ = some p →
        ∃ t, exec (.substCompareMove b) s = .next t ∧ posTide p % 2 ^ 64 ≤ t.tide ∧
          (berthAt t b).movedAt = some (ceilDiv p (5000 * subUnits)) ∧ t.chan = s.chan) ∧
      (¬due ∨ from_ = none → exec (.substCompareMove b) s = .next s) ∧
      ((quayAt s (quayOfBerth b)).running = false →
        from_ = some (5000 * ((berthAt s b).seqStart + 320) * subUnits))) ∧
    (∀ (b : Fin 64) (m : Nat), (berthAt s b).movedAt = some m → (berthAt s b).seqPhase = 2 →
      (berthAt s b).target < 16 → (berthAt s b).seqStart + 384 < 2 ^ 64 → m + 8 < 2 ^ 64 →
      ∃ t, exec (.substSwitch b) s = .next t ∧ (berthAt t b).seqPhase = 3 ∧
        (berthAt t b).subst = (if (berthAt s b).cal.purpose = 1 then 2 else 1) ∧
        ((berthAt s b).cal.step ≠ 4 ∨ (berthAt s b).cal.purpose = 1 →
          (chanAt t (16 * b.val + (berthAt s b).target)).connect = false ∧
          (chanAt t (16 * b.val + (berthAt s b).target)).driver = .hiz) ∧
        (berthAt s b).seqStart + 384 ≤ t.tide ∧ m + 8 ≤ t.tide) ∧
    (∀ (b : Fin 64) (m : Nat), (berthAt s b).movedAt = some m → (berthAt s b).seqPhase = 5 →
      (berthAt s b).target < 16 → (berthAt s b).cal.purpose = 0 → (berthAt s b).cal.step = 0 →
      (berthAt s b).cal.runState = 0 → ∃ t, exec (.substSwitch b) s = .next t ∧ (berthAt t b).seqPhase = 0 ∧
        (berthAt t b).subst = 0 ∧ (berthAt t b).target = 31 ∧ (chanAt t (1024 + b.val)).overlap = false ∧
        (chanAt t (16 * b.val + (berthAt s b).target)).overlap = false) ∧
    (∀ (c : Cmd) (i : Nat), firstUnpark s = some (c, i) →
      let t := forAll (reach s i) (berthsIn c.hdr.scope.toNat c.hdr.inst.toNat) unparkBerth
      exec .unparkInstant s = .next (completeOk
        (if 6 ≤ c.hdr.scope.toNat then { t with unparked := true } else t) c [(16, 8, i)])) ∧
    (∀ (b : Fin 64) (p : ParkReq) (i : Nat), (berthAt s b).park = some p →
      (p.applyAt = some i → exec (.parkModeApply b) s = .next (parkFinish (reach s i) b) ∧
        ∃ u, parkFinish (reach s i) b = settle (offAdvance u) ∧ (berthAt u b).park = none ∧
        (berthAt u b).run = (if (berthAt s b).run = .fault ∨ p.toFault = true then .fault else .parked)) ∧
      (p.applyAt = none → p.deadline = some i →
        exec (.orderlyParkDeadline b) s = .next (parkBerth (reach s i) b p.toFault p.groups)))

/-- Range changes and samples of the PPMU (R197, R207, R214 to R217): the regulation moves at 0.5 µs, the old range
disconnects at 1 µs, the new range is in use at 2 µs; a clamp entry counts in FV and FI alone; a sample enters the
measurement in hand, the first one not while the range changes or the position moves. -/
def Obligations.PpmuEvents : Prop :=
  ∀ (s : State) (c : Fin 1088),
    (∀ w : RangeSwitch, (chanAt s c).rangeSw = some w →
      (w.step = 0 → exec (.rangeSwRegulationMove c) s = .next (setChan (reach s (w.start + 400)) c
        { chanAt s c with rangeSw := some { w with step := 1 } })) ∧
      (w.step = 1 → exec (.rangeSwOldDisconnect c) s = .next (setChan (reach s (w.start + 800)) c
        { chanAt s c with rangeSw := some { w with step := 2 } })) ∧
      (w.step = 2 → ∃ t, exec (.rangeSwEnd c) s = .next t ∧ (chanAt t c).range = w.target ∧
        (w.start + 1600) % 2 ^ 64 ≤ t.tide ∧ (w.queued = none → (chanAt t c).rangeSw = none) ∧
        (∀ r, w.queued = some r → r ≠ w.target →
          (chanAt t c).rangeSw = some { target := r, start := t.tide }))) ∧
    ((chanAt s c).mode = 3 → funcNow s c < 2 → exec (.ppmuClampEntry c) s =
      .next (countFront (setChan s c { chanAt s c with inClamp := true }) 2 c 0x51 1)) ∧
    ((chanAt s c).mode ≠ 3 ∨ 2 ≤ funcNow s c → exec (.ppmuClampEntry c) s = .next s) ∧
    (∀ (r : PpmuRun) (v : Int), (chanAt s c).ppmu = some r → r.taken = 0 → ppmuDelayed s c = true →
      exec (.ppmuSample c v) s = .next s) ∧
    (∀ (r : PpmuRun) (v : Int), (chanAt s c).ppmu = some r →
      (chanAt s (carrier s (berthOfChan c) (posOfChan c))).mode = 3 →
      (r.taken = 0 → ppmuDelayed s c = false) → 1 < r.left → ∃ t, exec (.ppmuSample c v) s = .next t ∧
        (chanAt t c).ppmu = some { r with
          taken := r.taken + 1, left := r.left - 1, sum := r.sum + v
          least := if r.taken = 0 then v else min r.least v
          most := if r.taken = 0 then v else max r.most v } ∧ t.par = s.par ∧ t.host = s.host)

/-! ### Measurement, site power, calibration, thermal supervision -/

/-- The acquisition engines (R219, R221, R225, R233): a base sample is taken at its instant and counts; with the last
sample that a record stores the re-arm interval begins, in which it is closed and counted; the re-arm takes the next
record or ends; a spill moves the oldest closed record into the hold, unless its stack is down. -/
def Obligations.AcquisitionEvents : Prop :=
  ∀ (s : State) (b : Fin 64),
    ((acqAt s b).state ≠ 0 → ∀ (sa sb : Int) (ev : Byte) (clip : Bool) (mk : Option (BitVec 64)),
      ∃ t, exec (.acqBaseSample b sa sb ev clip mk) s = .next t ∧ sampleInstant (acqAt s b) % 2 ^ 64 ≤ t.tide ∧
        (acqAt t b).samples = (acqAt s b).samples + 1 ∧ t.par = s.par ∧ t.chan = s.chan ∧ t.quay = s.quay) ∧
    (recordWhole (acqAt s b) = true →
      (acqAt (recordEnd s b) b).state = 3 ∧ (acqAt (recordEnd s b) b).closing = true) ∧
    ((acqAt s b).closing = true → ∃ t, exec (.acqRecordClose b) s = .next t ∧ (acqAt t b).state = (acqAt s b).state ∧
      (acqAt t b).closing = false ∧ (acqAt t b).nextRecord = (acqAt s b).nextRecord + 1 ∧ (acqAt t b).left = (acqAt s b).left - 1 ∧
      (acqAt t b).unspilled.length = (acqAt s b).unspilled.length + 1) ∧
    ((acqAt s b).state = 3 → (acqAt s b).closing = false → ∃ t, exec (.acqRearmEnd b) s = .next t ∧ (acqAt t b).ring = [] ∧
      (acqAt t b).state = (if (acqAt s b).continuous = true ∨ (acqAt s b).left ≠ 0 then 1 else 0)) ∧
    (∀ (no : Nat) (img : List Byte) (rest : List (Nat × List Byte)), (acqAt s b).unspilled = (no, img) :: rest →
      (stackIsDown s (stackOf (regionBase b)) = true → exec (.acqSpill b) s = .next s) ∧
      (stackIsDown s (stackOf (regionBase b)) = false → ∃ t, exec (.acqSpill b) s = .next t ∧
        (acqAt t b).unspilled = rest ∧ (0x2000000 < img.length → (acqAt t b).held = []) ∧
        (img.length ≤ 0x2000000 → (acqAt t b).held.getLast? = some (no, (if 0x2000000 < (acqAt s b).writeAt + img.length then 0
          else (acqAt s b).writeAt), img.length))))

/-- The time-measurement units and the GATE inputs (R222, R244 to R247, R250): an arming instant schedules a window or
is counted as ignored; windows open and close no earlier than their instants, and the last one ends the measurement; an
edge takes its place among those that wait, in ascending order of stamp and input, and those more than 64 tc before it are
evaluated (log 13), one on a channel in Mode OFF does nothing; of the edges that the mode uses in an open window one within
160 units of the last accepted one of its input is counted, any other accepted, and no other edge does anything; a selected
GATE edge arms. -/
def Obligations.TimeMeasurementEvents : Prop :=
  ∀ (s : State) (b : Fin 64),
    (∀ (source : Fin 5) (a : Nat), (tmuAt s b).source = source.val →
      ((tmuAt s b).state = 1 → (tmuAt s b).pendOpen = none → ∃ t, exec (.tmuArmingEvent b source a) s = .next t ∧
        (tmuAt t b).pendOpen = some (a + winDelay (tmuAt s b)) ∧ t.acks = s.acks) ∧
      ((tmuAt s b).state = 2 → exec (.tmuArmingEvent b source a) s = .next (count s 3 b 0x63 10))) ∧
    (∀ a, (tmuAt s b).state = 1 → (tmuAt s b).pendOpen = some a → ∃ t, exec (.tmuWindowOpen b) s = .next t ∧
      (tmuAt t b).state = 2 ∧ (tmuAt t b).windows = (tmuAt s b).windows + 1 ∧ (tmuAt t b).openAt = some a ∧
      a / 5000 % 2 ^ 64 ≤ t.tide) ∧
    (∀ a, (tmuAt s b).state = 2 → (tmuAt s b).closeAt = some a → ∃ t, exec (.tmuWindowClose b) s = .next t ∧
      (tmuAt t b).state = (if winCount (tmuAt s b) ≠ 0 ∧ winCount (tmuAt s b) ≤ (tmuAt s b).windows then 3 else 1) ∧
      (tmuAt t b).openAt = none ∧ a / 5000 % 2 ^ 64 ≤ t.tide) ∧
    (∀ (input : Fin 19) (edge : Fin 4) (i : Nat),
      let es := edgeInsert ⟨i, input, edge, !s.clk.ovenOk, fromSpare s b input⟩ (tmuAt s b).pendEdges
      (edgeComes s b input i = false → exec (.tmuEdge b input edge i) s = .next s) ∧
      (edgeComes s b input i = true → ∃ t u, exec (.tmuEdge b input edge i) s = .next t ∧
        t = (es.filter fun e => e.t / 5000 < i / 5000 - 64).foldl (fun v e => tmuTake v b e) u ∧
        tmuAt u b = { tmuAt s b with pendEdges := es.filter fun e => decide (i / 5000 - 64 ≤ e.t / 5000) } ∧
        (i / 5000 + 1) % 2 ^ 64 ≤ u.tide)) ∧
    (∀ e : TmuEdge,
      let used := (tmuAt s b).state = 2 ∧ inOpenWindow (tmuAt s b) e.t = true ∧ edgeUsed (tmuAt s b) e.input e.edge = true
      (¬used → tmuTake s b e = s) ∧
      (used → (∀ p, tabFind (tmuAt s b).lastAccepted e.input = some p → e.t < p + 160 → tmuTake s b e = tmuCount s b 3) ∧
        ((∀ p, tabFind (tmuAt s b).lastAccepted e.input = some p → p + 160 ≤ e.t) →
          tmuTake s b e = edgeAccepted s b e))) ∧
    (∀ (g : Fin 4) (rising : Bool), (tmuAt s b).source = 1 → (tmuAt s b).gateSel = g.val →
      (tmuAt s b).gateFall = !rising → (tmuAt s b).state = 1 → (tmuAt s b).pendOpen = none →
      ∃ t, exec (.gateEdge g rising) s = .next t ∧
        (tmuAt t b).pendOpen = some (5000 * s.tide + winDelay (tmuAt s b)) ∧ t.par = s.par ∧ t.tide = s.tide)

/-- Starts and ramps of a site power controller (R276 to R279, R282, R283, R290): after StageReady the reference takes
the sensed output and the ramp begins, unless the stage reports a fault; a step moves the accumulator; at the target the
controller is ON, or its enable falls 1 µs later; then it is OFF, or stays in HICCUP; a hiccup restarts toward its last
target; the next off groups and the next entry of a sequence start no earlier than their instants. -/
def Obligations.SitePowerRamps : Prop :=
  ∀ (s : State) (b : Fin 64),
    (∀ (i : Nat) (vout : Int), (spAt s b).state = .starting → (spAt s b).readyAt = some i →
      (exec (.stageReady b vout true) s =
          .next (action2 (sensed (reach s i) b vout) b 0x33)) ∧
        ∃ t, exec (.stageReady b vout false) s = .next t ∧ (spAt t b).state = .rampUp ∧ i % 2 ^ 64 ≤ t.tide ∧
        (spAt t b).rampFrom = vout.toNat / 25 * 25 ∧ (spAt t b).acc = 20 * (vout.toNat / 25 * 25) ∧
        (spAt t b).readyAt = none) ∧
    (ramping (spAt s b) = true → (spAt s b).enFallAt = none → stepsLeft (spAt s b) ≠ 0 →
      ∃ t, exec (.rampStep b) s = .next t ∧ (spAt t b).acc = accStep (spAt s b) ∧
        (spAt t b).stepAt = tick40 (spAt s b).stepAt ∧ tick40 (spAt s b).stepAt % 2 ^ 64 ≤ t.tide) ∧
    (∀ vout : Int, ramping (spAt s b) = true → (spAt s b).enFallAt = none →
      ((spAt s b).rampTarget = 0 → ∃ t, exec (.rampTargetReached b vout) s = .next t ∧ (spAt t b).acc = 0 ∧
        (spAt t b).enFallAt = some (t.tide + 800)) ∧
      ((spAt s b).rampTarget ≠ 0 → (spAt s b).state ≠ .undoing → (spAt s b).offAfter = false →
        ∃ t, exec (.rampTargetReached b vout) s = .next t ∧ (spAt t b).state = .on ∧ (spAt t b).vout = vout ∧
          (spAt t b).acc = 20 * (spAt s b).rampTarget)) ∧
    (∀ (i : Nat) (vout : Int), (spAt s b).enFallAt = some i → (spAt s b).state ≠ .undoing →
      ∃ t, exec (.enFallDelay b vout) s = .next t ∧ (spAt t b).enHigh = false ∧ i % 2 ^ 64 ≤ t.tide ∧
        (spAt t b).state = (if (spAt s b).state = .hiccup then .hiccup else .off)) ∧
    (∀ i, (spAt s b).state = .hiccup → (spAt s b).hiccupAt = some i → ∃ t, exec (.hiccupRestart b) s = .next t ∧
      (spAt t b).state = .starting ∧ (spAt t b).rampTarget = (spAt s b).lastTarget ∧
      (spAt t b).enHigh = true ∧ i % 2 ^ 64 ≤ t.tide) ∧
    (∀ i, leastOf (s.offPlans.filterMap (·.nextAt)) = some i → exec .offGroupStart s = .next (settle (offAdvance
      (offGroupBegin { reach s i with offPlans := s.offPlans.filter fun p => p.nextAt ≠ some i }
        (s.offPlans.filter fun p => p.nextAt = some i))))) ∧
    (∀ (c : Cmd) (e : SeqEntry) (left : List SeqEntry) (started : List SeqRun) (ending : Option Verdict) (i : Nat),
      s.inflight = [c] → c.phase = .running → c.work = .sequence (e :: left) started (some i) ending →
      e.berth.toNat = b.val → entryOwn s c.hdr.scope.toNat e = true → (berthAt s b).run ≠ .off → ctrlMoves s b = false →
      ∃ t, exec .spSeqEntryStart s = .next t ∧ i % 2 ^ 64 ≤ t.tide ∧
        (spAt t b).rampTarget = spTarget e.target.toNat ∧ (spAt t b).lastTarget = spTarget e.target.toNat)

/-- Monitors and fault actions of a controller (R286 to R289, R292): a level is taken outside its blanking, and a trip
counted; of the filters that run out together the winner acts as its action field says; what the front-end die counts
crosses while the wing's link is up (R493); the stage fault flag and an open sense line, where no filter ends on the same
edge, act as action 2 unless a cause that goes before has acted on that edge; action 2 puts every berth of the gang that is
not OFF into FAULT. -/
def Obligations.SitePowerFaults : Prop :=
  ∀ (s : State) (b : Fin 64),
    (∀ (m : Mon) (level : Bool), monActs s b m = true →
      ((monOf (spAt s b) m).blankEnd = none → (monOf (spAt s b) m).level ≠ level →
        ∃ t, exec (.monitorLevelChange b m level) s = .next t ∧ (monOf (spAt t b) m).level = level ∧
          (level = true → (wingAt s (wingOfBerth b)).linkDown = false →
            ackOf t (pid 3 b 0x6F (tripMember m)) = ackBump (ackOf s (pid 3 b 0x6F (tripMember m)))) ∧
          (level = false → t.acks = s.acks)) ∧
      (∀ i, (monOf (spAt s b) m).blankEnd = some i → ∃ t, exec (.monitorBlankingEnd b m level) s = .next t ∧
        (monOf (spAt t b) m).level = level ∧ (monOf (spAt t b) m).blankEnd = none ∧ i % 2 ^ 64 ≤ t.tide) ∧
      (∀ i, (monOf (spAt s b) m).filterFrom = some i → filterRuns (spAt s b) m = true →
        let e := i + filterTime s b m
        let ms := [Mon.ov, .oc, .uv].filter fun k => filterEnd s b k = some e
        ∃ u, exec (.monitorFilterExpiry b m) s = .next (monAction u b (filterWins s b ms m)) ∧ e % 2 ^ 64 ≤ u.tide ∧
          u.par = s.par ∧ (∀ k ∈ ms, (monOf (spAt u b) k).filterFrom = none) ∧
          ((∀ k, filterEnd s b k = some e → k = m) → filterWins s b ms m = m))) ∧
    (let l := leaderOf s b
     let u := countFront s 3 b 0x6F 8
     ((berthAt s b).powered = false → exec (.stageFaultFlag b) s = .next s) ∧
     ((berthAt s b).powered = true → filtersDue u l u.tide = [] →
       (causeWins u l 2 0 = true → exec (.stageFaultFlag b) s = .next (action2 (actTaken u l 2 0 0x33) l 0x33)) ∧
       (causeWins u l 2 0 = false → exec (.stageFaultFlag b) s = .next u))) ∧
    (let u := countFront s 3 b 0x6F 0x0A
     (leaderOf s b ≠ b ∨ switching (spAt s b) = false → exec (.openSenseDetect b) s = .next s) ∧
     (leaderOf s b = b → switching (spAt s b) = true → filtersDue u b u.tide = [] →
       (causeWins u b 2 1 = true → exec (.openSenseDetect b) s = .next (action2 (actTaken u b 2 1 0x34) b 0x34)) ∧
       (causeWins u b 2 1 = false → exec (.openSenseDetect b) s = .next u))) ∧
    (∀ (src : Nat), ∀ m ∈ gangOf s b, (berthAt s m).run ≠ .off → (berthAt (action2 s b src) m).run = .fault)

/-- The pulses of a controller's phases (R270, R273, R274): a cycle edge raises the output unless it comes within the
minimum off time; the comparator ends the pulse between the blanking and the maximum duty, MAX_DUTY at the latter;
with LightLoad, or while it is forced, the output goes to mid-level at zero current. -/
def Obligations.PwmEvents : Prop :=
  ∀ (s : State) (b : Fin 64) (n : Fin 4), phaseRuns s b n = true →
    let x := phaseAt (spAt s b).phases n
    (∀ i : Nat, isCycleEdge s b n i = true → s.tide ≤ i / 8 →
      (x.lastFall + 256 ≤ i → ∃ t, exec (.pwmCycleEdge b n i) s = .next t ∧
        (phaseAt (spAt t b).phases n).pwm = .high ∧ (phaseAt (spAt t b).phases n).setEdge = i) ∧
      (i < x.lastFall + 256 → x.lastFall ≠ 0 → exec (.pwmCycleEdge b n i) s = .next (reach s (i / 8)))) ∧
    (x.pwm = .high →
      (∀ (d : Nat) (clamp : Bool), lebPeriods s b ≤ d → d ≤ maxDutyPeriods s b →
        ∃ t, exec (.peakComparatorTrip b n d clamp) s = .next t ∧ (phaseAt (spAt t b).phases n).pwm = .low ∧
          (phaseAt (spAt t b).phases n).lastFall = x.setEdge + d ∧
          (clamp = true → (wingAt s (wingOfBerth b)).linkDown = false →
            (spAt t b).limitUntil = t.tide + 800 ∧ ackOf t (pid 3 b 0x6F 7) = ackBump (ackOf s (pid 3 b 0x6F 7)))) ∧
      (∃ t, exec (.maxDutyTimeout b n) s = .next t ∧ (phaseAt (spAt t b).phases n).pwm = .low ∧
        (phaseAt (spAt t b).phases n).lastFall = x.setEdge + maxDutyPeriods s b)) ∧
    (x.pwm = .low → liveF s 3 (leaderOf s b) 0x68 0 4 1 = 1 ∨ (spAt s (leaderOf s b)).lightForced = true → ∃ t, exec (.zeroCurrentDetect b n) s = .next t ∧
      (phaseAt (spAt t b).phases n).pwm = .mid ∧ t.tide = s.tide)

/-- Calibration events (R382 to R387, R390): an automatic trigger that is due starts a run and counts; the
measurements of a step lead to the end of that step; with RIDE and no pending bake the calibration bake comes 1,600 tc
after RideMax; a service is tried again, with an outcome that is free (log 3). -/
def Obligations.CalibrationEvents : Prop :=
  ∀ (s : State) (b : Fin 64),
    (∀ (why : CalTrigger),
      let items := if autoSuspended s b then Nat.land (liveF s 3 b 0x90 0 1 11) 0x700 else liveF s 3 b 0x90 0 1 11
      liveF s 3 b 0x90 0 0 1 = 1 → (berthAt s b).run ≠ .off → (berthAt s b).run ≠ .fault →
      calBusy s b = false → items ≠ 0 → s.clk.refState = .locked → autoDue s b why = true →
      patchHolds s s.nextOrd (wingOfBerth b) = false →
      exec (.calAutoTrigger b why) s = .next (calStart (count s 3 b 0x92 7) b items
        (match why with | .temperature => 2 | .period => 3) (List.range 16))) ∧
    (∀ failed : BitVec 11, (calAt s b).step = 1 →
      let u := measureServices s b failed.toNat
      ((calAt s b).runState = 1 → exec (.calMeasureDone b failed) s = .next (calSpareDone u b failed.toNat)) ∧
      ((calAt s b).runState = 3 → exec (.calMeasureDone b failed) s = .next (calNext u b)) ∧
      ((calAt s b).runState = 2 → inPath s b = true → exec (.calMeasureDone b failed) s =
        .next (if (berthAt s b).run = .parked then calPathDone u b failed.toNat else pathLeave u b)) ∧
      ((calAt s b).runState = 2 → inPath s b = false → (calAt s b).curPos < 16 →
        ((calAt s b).inPlace = true ∨ (berthAt s b).seqPhase = 3) →
        exec (.calMeasureDone b failed) s = .next (calPosDone u b failed.toNat))) ∧
    (∀ r, (calAt s b).readyAt = some r → s.par.pendBake = none → liveF s 3 b 0x90 0 12 2 = 1 →
      ∃ t, exec (.calRideTimeout b) s = .next t ∧ t.tide = Nat.max s.tide ((r + 800 * liveF s 3 b 0x90 2 0 16) % 2 ^ 64) ∧
        t.par.pendBake = some { instant := t.tide + 1600, tray := 0, cal := some b.val } ∧
        t.par.baked = s.par.baked) ∧
    (calBusy s b = true → (calAt s b).services ≠ 0 → ∃ t, exec (.calServiceRetry b) s = .next t ∧
      t.freeCtr = s.freeCtr + 1 ∧ t.par = s.par ∧ t.tide = s.tide)

/-- Thermal supervision and the hold stacks (R319, R403 to R417): a sample of any sensors is their readings; a sensor that
shows open or short is marked bad unless it is ignored; a zone below STOPPING with a stop condition begins to stop,
without one it takes the state of its levels; a stack that goes down is recorded, both put the device in FAULT. -/
def Obligations.ThermalEvents : Prop :=
  (∀ (s : State) (is : List SensorIn), (is.map (·.sensor)).Nodup → ∃ t, exec (.thermalSample is) s = .next t ∧
    (∀ i ∈ is, (sensorAt t i.sensor).reading = some i.reading) ∧
    (∀ j, j ∉ is.map (·.sensor.val) → (sensorAt t j).reading = (sensorAt s j).reading) ∧
    (s.cold = true → t.therm.zones = s.therm.zones ∧ t.berth = s.berth ∧ t.acks = s.acks) ∧
    (∀ i ∈ is, (sensorAt s i.sensor).badKind = 0 → ignored s i.sensor = false → i.diag = .opened →
      (sensorAt t i.sensor).badKind = 1)) ∧
  (∀ (s : State) (z : Nat), z < 24 → (zoneAt s z).state < 3 →
    zoneTemp s z ≠ none ∨ (sensorsOf z).any (badHolds s) = true →
    let levels := levelsOf s z (zoneAt s z).fresh (zoneAt s z).levels (zoneTemp s z) (zoneRate s z)
    (stopCauses s z levels (zoneTemp s z) ≠ 0 → 3 ≤ (zoneAt (zoneSample s z) z).state ∧
      (zoneAt (zoneSample s z) z).stopCause = stopCauses s z levels (zoneTemp s z)) ∧
    (stopCauses s z levels (zoneTemp s z) = 0 → (zoneAt (zoneSample s z) z).state = levelState levels ∧
      (zoneSample s z).berth = s.berth ∧ (zoneSample s z).quay = s.quay)) ∧
  (∀ (s : State) (k : Fin 2), natBit s.hold.stackDown k = false → ∃ t, exec (.holdStackDown k) s = .next t ∧
    t.hold.stackDown = Nat.lor s.hold.stackDown (2 ^ k.val) ∧
    (t.hold.stackDown = 3 → s.devFault = none → t.devFault = some 0x41))

/-- The oven and the references (R256, R464 to R484): each event's change of the reference state, the PLL and the
tide, where it applies. -/
def Obligations.ReferenceEvents : Prop :=
  ∀ (s : State),
    (s.clk.ovenLevel = false → ∃ t, exec .ovenRdyRise s = .next t ∧ t.clk.ovenLevel = true ∧
      t.clk.ovenRise = s.tide) ∧
    (s.clk.ovenLevel = true → ∃ t, exec .ovenRdyFall s = .next t ∧ t.clk.ovenLevel = false ∧
      ackOf t (pid 6 0 0x64 1) = ackBump (ackOf s (pid 6 0 0x64 1)) ∧
      (isFollower s = false → t.clk.ovenOk = false)) ∧
    (s.clk.ovenLevel = true → ovenReference s = true → isFollower s = false → ∃ t, exec .ovenQualified s = .next t ∧
      t.clk.ovenOk = true ∧ ovenDue s % 2 ^ 64 ≤ t.tide) ∧
    (s.clk.refState = .locked ∨ s.clk.refState = .relock ∨ (s.clk.refState = .coast ∧ s.clk.unsettled = true) → exec .refLossDeclared s = .next (refLoss s) ∧
      (refLoss s).clk.refState = .coast ∧ (refLoss s).clk.pllLock = false ∧ (refLoss s).unparked = false) ∧
    (∀ i, s.clk.coastEnd = some i → s.clk.refState = .coast → s.clk.coastDone = false → s.clk.fallbackBy = none →
      ∃ t, exec .coastMinExpiry s = .next t ∧ i % 2 ^ 64 ≤ t.tide ∧ t.clk.coastDone = true ∧
        (s.clk.hkSettled = true → s.clk.trimLock = true → t.clk.fallbackBy = some (t.tide + 1600000)) ∧
        (s.clk.hkSettled = false ∨ s.clk.trimLock = false → t.clk.unsettled = true)) ∧
    (∀ i, s.clk.coastLong = some i → s.clk.refState = .coast → ∃ t, exec .coastLongTimeout s = .next t ∧
      i % 2 ^ 64 ≤ t.tide ∧ t.hold.selfRefresh = 3 ∧ ∀ l, l < 48 → (laneAt t l).state = .off) ∧
    (s.clk.refState = .coast → s.clk.fallbackBy ≠ none → ∃ t, exec .fallbackLocked s = .next t ∧
      t.clk.refState = .fallback ∧ t.clk.pllLock = true ∧ t.hold.selfRefresh = 0 ∧
      ackOf t (pid 6 0 0xB1 8) = ackBump (ackOf s (pid 6 0 0xB1 8))) ∧
    (∀ i, s.clk.refState = .coast → s.clk.fallbackBy = some i → s.devFault = none →
      ∃ t, exec .fallbackTimeout s = .next t ∧ t.devFault = some 0x92 ∧ i % 2 ^ 64 ≤ t.tide) ∧
    (s.clk.refState = .coast ∨ s.clk.refState = .fallback →
      (liveF s 6 0 0xB0 0 1 1 = 1 → ∃ t, exec .refQualified s = .next t ∧ t.clk.refState = .relock ∧
        t.clk.pllLock = false ∧ t.clk.refBack = true) ∧
      (liveF s 6 0 0xB0 0 1 1 = 0 → ∃ t, exec .refQualified s = .next t ∧ t.clk.refState = s.clk.refState ∧
        t.clk.refBack = true)) ∧
    (s.clk.refState = .relock → s.inflight = [] → ∃ t, exec .relockDone s = .next t ∧ t.clk.refState = .locked ∧
      ackOf t (pid 6 0 0xB1 4) = ackBump (ackOf s (pid 6 0 0xB1 4))) ∧
    (∀ (c : Cmd) (r : Byte), s.clk.refState = .relock → s.inflight = [c] → c.phase = .running →
      c.work = .refSelect → c.op = .refSelect r → ∃ t, exec .relockDone s = .next t ∧ t.clk.refState = .locked ∧
        t.clk.refSel = (if s.tide ≤ c.started + 1200000 then r.toNat else s.clk.refSel)) ∧
    (s.boot.refQualified = true → s.clk.refState = .none → refcGood s = true → ∃ t, exec .pllLock s = .next t ∧ t.tideOn = true ∧
      t.clk.refState = .locked ∧ t.clk.pllLock = true ∧ t.tide = s.tide)

/-- Trim, presence and gated domains (R463, R465, R466, R469, R470, R474): the trim code follows the error within its
range, and lock is lost beyond 1,000 ppm; presence is what the ball shows; without REFA the host link falls; a domain
sleeps while its condition holds and its enables let it, and wakes when either ends. -/
def Obligations.ClockDomainEvents : Prop :=
  ∀ (s : State),
    (s.boot.aonOn = true → ∃ t, exec .hkSettled s = .next t ∧ t.clk.hkSettled = true) ∧
    (∀ ppm : Int, trimRuns s = true → ∃ t, exec (.trimMeasurement ppm) s = .next t ∧
      t.clk.trimError = ppm ∧ -2000 ≤ t.clk.trimCode ∧ t.clk.trimCode ≤ 2000 ∧
      (1000 < ppm.natAbs → t.clk.trimLock = false) ∧
      (1000 < ppm.natAbs → s.clk.trimLock = true →
        ackOf t (pid 6 0 0xB1 5) = ackBump (ackOf s (pid 6 0 0xB1 5)))) ∧
    (∀ (r : Fin 3) (on : Bool), ∃ t, exec (.refPresentChange r on) s = .next t ∧ natBit t.clk.refPresent r = on ∧
      (r = 0 → on = false → t.host.linkUp = false) ∧ (r ≠ 0 → t.host = s.host) ∧
      (r.val = s.clk.refSel → on = false → s.clk.refState = .none → t.boot.refQualified = false)) ∧
    (∀ (k : Fin 9) (i : Fin 64), mayGate s k i = true →
      (sleepCond s k i = true → sleepState s k i = 0 →
        exec (.domainSleep k i false) s = .next (setAsleep s k i 1)) ∧
      (deepEn s k i = true → deepCond s k i = true →
        exec (.domainSleep k i true) s = .next (setAsleep s k i 2))) ∧
    (∀ (k : Fin 9) (i : Fin 64), i.val < domainCount k → mayGate s k i = false ∨ sleepCond s k i = false →
      exec (.domainWake k i) s = .next (setAsleep s k i 0))

/-! ### Crossings, tender ports, start-up -/

/-- Die-to-die links, resets and tender ports (R15, R471, R496 to R503, R510 to R519): a lost link freezes its crossing
and faults the berths of the wing; the flushes of a reset count, those that a loss has frozen with a WING_LINK reset;
the acknowledgement ends a reset or starts the training;
a transaction starts, reads its units, and ends with its counters and the command's reply. -/
def Obligations.CrossingAndTenderEvents : Prop :=
  (∀ (s : State) (w : Fin 4) (wr rd : Nat), s.cold = false → (wingAt s w).linkDown = false →
    ∃ t, exec (.d2dLinkLoss w wr rd) s = .next t ∧ (wingAt t w).linkDown = true ∧ (wingAt t w).frozen = true ∧
      (wingAt t w).held = wr ∧ (wingAt t w).heldReads = rd ∧
      ∀ b ∈ berthsOfWing w, (berthAt s b).run ≠ .off → (berthAt t b).run = .fault) ∧
  (∀ (s : State) (w : Fin 4) (k f r v : Nat),
    (∀ (c : Cmd) (ws : List Nat) (n : Nat) (type : Byte) (e : Option Byte), awaiting s w = some (c, ws, n) →
      c.op = .resetScope type e →
      let f' := if type = 1#8 then f + (wingAt s w).held else f
      let r' := if type = 1#8 then r + (wingAt s w).heldReads else r
      ∃ u, exec (.resetIndication w k f r v) s =
          .next (putCmd u { c with work := .reset (ws.erase w) (n + k + f' + r' + v) }) ∧
        u.acks = (flushCount s w k f' r' v).acks ∧ u.inflight = s.inflight ∧ u.par = s.par ∧ u.berth = s.berth ∧
        (type = 1#8 → (wingAt u w).frozen = false ∧ (wingAt u w).held = 0 ∧ (wingAt u w).heldReads = 0)) ∧
    (awaiting s w = none → s.booted = true → (berthsOfWing w).any (fun b => (berthAt s b).run = .off) = true →
      exec (.resetIndication w k f r v) s = .next (flushCount s w k f r 0))) ∧
  (∀ (s : State) (c : Cmd) (n : Nat) (t : Byte) (e : Option Byte), acknowledged s = some (c, n) →
    c.op = .resetScope t e →
    (t ≠ 1#8 → exec .resetAcknowledge s = .next (resetDone s c n)) ∧
    (t = 1#8 → ∃ u, exec .resetAcknowledge s = .next u ∧
      (wingAt u c.hdr.inst.toNat).retrainBy = some (s.tide + 80000))) ∧
  (∀ (s : State) (w : Fin 4) (c : Cmd) (n i : Nat), linkReset s w = some (c, n) →
    (wingAt s w).retrainBy = some i →
    (∃ t, exec (.d2dLinkRetrained w) s = .next t ∧ (wingAt t w).linkDown = false ∧ (wingAt t w).frozen = false) ∧
    (∃ t, exec (.d2dRetrainTimeout w) s = .next t ∧ (wingAt t w).linkDown = true ∧ (wingAt t w).frozen = true ∧
      i % 2 ^ 64 ≤ t.tide)) ∧
  (∀ (s : State) (p : Fin 8) (c : Cmd) (rest : List Nat) (port : BitVec 3) (sel : BitVec 2) (bits lead : Byte)
    (units : List (BitVec 32)), runEn s 8 p = true → (tpAt s p).run = none → (tpAt s p).queue = c.ord :: rest → s.inflight = [c] →
    c.op = .tpXfer port sel bits lead units → ∃ t, exec (.tpTransactionStart p) s = .next t ∧
      (tpAt t p).queue = rest ∧ (tpAt t p).run = some { cmd := c.ord
                                                        settings := baked s (pid 6 0 0xC9 (4 * p.val + sel.toNat))
                                                        ctrl := baked s (pid 6 0 0xC8 p) }) ∧
  (∀ (s : State) (p : Fin 8) (r : TpRun) (c : Cmd), tpRun s p = some (r, c) →
    (∀ v : Byte, r.status = none → r.failed = 0 → ∃ t, exec (.tpStatusByte p v) s = .next t ∧
      (tpAt t p).lastStatus = v.toNat) ∧
    (∀ din : BitVec 32, r.status ≠ none → r.failed = 0 → r.unit < (tpUnits c).2.length →
      ∃ t, exec (.tpReadyHigh p din) s = .next t ∧ (tpAt t p).run = some { r with
        unit := r.unit + 1, read := r.read ++ [din.toNat % 2 ^ (tpUnits c).1] }) ∧
    (bit r.settings 3 = true → r.failed = 0 → r.status = none ∨ r.unit < (tpUnits c).2.length →
      ∃ t, exec (.tpReadyTimeout p) s = .next t ∧
      (tpAt t p).run = some { r with failed := 4 }) ∧
    (∃ t, exec (.tpSelBreak p) s = .next t ∧ (tpAt t p).run = none ∧ (tpAt t p).lastError = 1) ∧
    (∀ e : BitVec 32, r.status ≠ none → r.failed = 0 → r.unit = (tpUnits c).2.length →
      ∃ t, exec (.tpTransactionEnd p e) s = .next t ∧ (tpAt t p).run = none ∧
        (tpAt t p).lastEdgeCount = e.toNat ∧ (tpAt t p).lastError =
          (if e.toNat = tpEdges r.settings c.op then (tpAt s p).lastError else 2)) ∧
    (∀ e : BitVec 32, r.failed = 3 ∨ r.failed = 4 → ∃ t, exec (.tpTransactionEnd p e) s = .next t ∧
      (tpAt t p).run = none ∧ (tpAt t p).lastError = r.failed) ∧
    (∀ port sel bits lead units, c.op = .tpXfer port sel bits lead units →
      tpEdges r.settings c.op = 8 + units.length * bits.toNat))

/-- Start-up (R548 to R568): the supplies and reset balls, the strap capture, and each boot step where its turn has
come; at its end the device is PARKED, or in FAULT with both hold stacks down. -/
def Obligations.StartUp : Prop :=
  ∀ (s : State),
    (s.boot.rst = false → s.boot.aonOn = true → ∃ t, exec .rstNFall s = .next t ∧ t.cold = true ∧
      t.boot.rst = true ∧ t.boot.straps = none ∧
      ackOf t (pid 6 0 0xD9 4) = ackBump (ackOf s (pid 6 0 0xD9 4)) ∧
      (s.cold = false → t.par = {} ∧ t.inflight = [] ∧ t.tideOn = false)) ∧
    (∀ x : Straps, s.cold = true → s.boot.aonOn = true → s.clk.hkSettled = true →
      (s.boot.railsBad = 0 ∨ s.boot.rst = true) → ∃ t, exec (.strapCapture x) s = .next t ∧ t.cold = false ∧ t.booted = false ∧ t.boot.straps = some x ∧
        t.boot.strapConflicts = conflictsOf x ∧ t.clk.refSel = strapRef x) ∧
    (s.boot.aonOn = false → exec .aonPowerUp s = .next { s with boot := { s.boot with aonOn := true } }) ∧
    (∃ t, exec .aonSupplyLoss s = .next t ∧ t.cold = true ∧ t.boot.aonOn = false ∧ t.acks = [] ∧ t.par = {} ∧
      t.host.hostMem = s.host.hostMem ∧ t.mc.raisedLevel = s.mc.raisedLevel) ∧
    (∀ r : Rail, s.boot.aonOn = true → ∃ t, exec (.railFault r) s = .next t ∧ t.cold = true ∧
      t.boot.straps = none ∧ natBit t.boot.railsBad (railNo r) = true ∧
      ackOf t (pid 6 0 0xD9 5) = ackBump (ackOf s (pid 6 0 0xD9 5))) ∧
    (∃ t, exec (.railValid .vddIo) s = .next t ∧ t.boot.railVdd = true ∧ t.boot.railsBad = s.boot.railsBad) ∧
    (∃ t, exec (.railValid .vddaFe) s = .next t ∧ t.boot.railVdda = true ∧ natBit t.boot.railsBad 1 = false) ∧
    (exec .trstNAssert s = .next { s with boot := { s.boot with testReset := true } }) ∧
    (booting s = true →
      (s.clk.refState = .none → s.boot.refQualified = false → refcGood s = true → ∃ t, exec .bootReferenceQualified s = .next t ∧
        t.boot.refQualified = true) ∧
      (s.boot.fusesRead = false → ∃ t, exec .fusesReadDone s = .next t ∧ t.boot.fusesRead = true) ∧
      (∀ (sfdp : Bool) (a b : List Byte), flashWants s 0 = true →
        ∃ t, exec (.flashContentRead (.directories sfdp a b)) s = .next t ∧
          natBit t.boot.flashRead 0 = true ∧ t.boot.flashFound = sfdp ∧
          (sfdp = true → t.boot.dirUsed = (dirPick a b).1 ∧ t.boot.dir = dirEntries (dirPick a b).2)) ∧
      (∀ bytes : List Byte,
        (flashWants s 1 = true → ∃ t, exec (.flashContentRead (.patch bytes)) s = .next t ∧
          natBit t.boot.flashRead 1 = true) ∧
        (flashWants s 2 = true → ∃ t, exec (.flashContentRead (.configuration bytes)) s = .next t ∧
          natBit t.boot.flashRead 2 = true ∧ t.boot.configResult = (match entryOf s 2 bytes with
            | none => 0
            | some (false, _) => 2
            | some (true, c) => if configOk c then 1 else 3)) ∧
        (flashWants s 3 = true → ∃ t, exec (.flashContentRead (.parkTable bytes)) s = .next t ∧
          natBit t.boot.flashRead 3 = true ∧ (t.boot.parkSrcUsed = true ↔ t.boot.parkResult = 1)) ∧
        (flashWants s 4 = true → ∃ t, exec (.flashContentRead (.correction bytes)) s = .next t ∧
          natBit t.boot.flashRead 4 = true ∧ t.boot.corrResult = (match entryOf s 4 bytes with
            | none => 0
            | some (false, _) => 2
            | some (true, c) =>
              if imageOk 6 0 c then 1 else if leAt c 8 8 ≠ Config.serial.toNat then 4 else 3))) ∧
      (∀ f : BitVec 2, step3Done s = true → s.hold.trained = false →
        ∃ t, exec (.holdTrainingDone f) s = .next t ∧ t.hold.trained = true ∧
          t.hold.stackDown = Nat.lor s.hold.stackDown f.toNat) ∧
      (∀ q : Fin 16, s.boot.reload = false → step3Done s = true → step6Done s = true → flashSkipped s = false →
        s.boot.quaysUp ≤ q.val →
        (∀ b, b < 64 → s.boot.quaysUp ≤ quayOfBerth b → quayOfBerth b < q.val → bootMask s b = false) → ∃ t, exec (.quayPowerUpDone q) s = .next t ∧ t.boot.quaysUp = q.val + 1 ∧
          ∀ b ∈ berthsOfQuay q, bootMask s b = true → (berthAt t b).powered = true) ∧
      (step3Done s = true → s.boot.parkLoaded = false → s.boot.fusesRead = true →
        (if s.boot.reload = true then step6Done s = true else step7Done s = true ∧ flashGot s 4 = true) → ∃ t, exec .parkLoad s = .next t ∧ t.boot.parkLoaded = true ∧
          ∀ b, b < 64 → (berthAt s b).powered = true → (berthAt t b).run = .parked) ∧
      (s.boot.parkLoaded = true → s.hold.trained = true → s.clk.hkSettled = true → s.clk.refState = .locked →
        s.devFault = none → ∃ t, exec .bootComplete s = .next t ∧ t.booted = true ∧ t.unparked = false ∧
          t.devFault = (if s.hold.stackDown = 3 then some 0x41 else none)))

/-! ### The microwords -/

/-- Registers, moves, arithmetic, logic and control flow (R432 to R434): each of these microwords, fetched, changes its own
context and nothing else of the device. E00 reads 0 and keeps it, E30 is the tide; ADD, ADDI, SUB, CMP and CMPI set
all four flags, AND, OR and XOR Z and N. A ninth CALL frame, or RET on an empty stack, is engine fault 3. -/
def Obligations.MicrowordArithmetic : Prop :=
  ∀ (s : State) (e : Fin 5) (c : Fin 16), canExecute s e c → ∀ (a b : Fin 32) (imm : BitVec 16) (n : Fin 32),
    let x := advancePc (ctxAt s e c)
    let A := readReg s x a
    let B := readReg s x b
    let I := signExt imm
    let flags := fun (y : Ctx) (v : Word) (cf vf : Bool) =>
      { y with zf := decide (v = 0), nf := bit v 31, cf := cf, vf := vf }
    let sub := fun (y : Ctx) (p q : Word) => flags y (p - q) (Config.carryIsBorrow == decide (p.toNat < q.toNat))
      (decide ((p - q).toInt ≠ p.toInt - q.toInt))
    let add := fun (y : Ctx) (p q : Word) => flags y (p + q) (decide (2 ^ 32 ≤ p.toNat + q.toNat))
      (decide ((p + q).toInt ≠ p.toInt + q.toInt))
    readReg s x 0 = 0 ∧ readReg s x 30 = BitVec.ofNat 32 s.tide ∧ (∀ v, writeReg x 0 v = x ∧ writeReg x 30 v = x) ∧
    (∀ v r, r < 30 → r ≠ 0 → readReg s (writeReg x r v) r = v) ∧
    Yields (.nopMicroword e c) s e c x ∧
    Yields (.mov e c a b) s e c (writeReg x a B) ∧
    Yields (.ldi e c a imm) s e c (writeReg x a (imm.setWidth 32)) ∧
    Yields (.ldh e c a imm) s e c (writeReg x a (BitVec.ofNat 32 (imm.toNat * 65536 + A.toNat % 65536))) ∧
    Yields (.add e c a b) s e c (add (writeReg x a (A + B)) A B) ∧
    Yields (.addi e c a imm) s e c (add (writeReg x a (A + I)) A I) ∧
    Yields (.sub e c a b) s e c (sub (writeReg x a (A - B)) A B) ∧
    Yields (.cmp e c a b) s e c (sub x A B) ∧
    Yields (.cmpi e c a imm) s e c (sub x A I) ∧
    Yields (.and e c a b) s e c (setZN (writeReg x a (A &&& B)) (A &&& B)) ∧
    Yields (.or e c a b) s e c (setZN (writeReg x a (A ||| B)) (A ||| B)) ∧
    Yields (.xor e c a b) s e c (setZN (writeReg x a (A ^^^ B)) (A ^^^ B)) ∧
    Yields (.shl e c a n) s e c (writeReg x a (A <<< n.val)) ∧
    Yields (.shr e c a n) s e c (writeReg x a (A >>> n.val)) ∧
    Yields (.jmp e c imm) s e c { x with pc := imm.toNat } ∧
    (∀ k : Fin 14, Yields (.br e c k imm) s e c (if branchHolds s e c x k then { x with pc := imm.toNat } else x)) ∧
    Yields (.switch e c b imm) s e c { x with pc := (imm.toNat + B.toNat % 256) % 65536 } ∧
    (x.stack.length < 8 → Yields (.call e c imm) s e c { x with stack := x.pc :: x.stack, pc := imm.toNat }) ∧
    (8 ≤ x.stack.length → fetches (.call e c imm) s e c → ∃ t, exec (.call e c imm) s = .next t ∧ (engAt t e).lastFaultCode = 3) ∧
    (∀ p rest, x.stack = p :: rest → p < 65536 → Yields (.ret e c) s e c { x with stack := rest, pc := p }) ∧
    (x.stack = [] → fetches (.ret e c) s e c → ∃ t, exec (.ret e c) s = .next t ∧ (engAt t e).lastFaultCode = 3)

/-- The microwords that reach beyond their context (R39, R433): fabric words, tray entries, shadow registers, host
words, the reply of a routine that no handler ends, the tide, comparators, SIGNALs, forwarded commands and events. Where a
clause names what a word reads or where it goes, it holds for those operands; TRD of an entry and HRD of a word that are not
there bring a free value (log 3). -/
def Obligations.MicrowordData : Prop :=
  ∀ (s : State) (e : Fin 5) (c : Fin 16), canExecute s e c →
    ∀ (a b : Fin 32) (imm : BitVec 16) (high : Bool) (code : Byte),
    let x := advancePc (ctxAt s e c)
    let A := readReg s x a
    let B := readReg s x b
    (∀ v, tabFind s.mc.fabric (B + imm.setWidth 32).toNat = some v →
      Yields (.frd e c a b imm) s e c (writeReg x a v)) ∧
    (fetches (.fwr e c a b imm) s e c → ∃ t, exec (.fwr e c a b imm) s = .next t ∧ tabFind t.mc.fabric (B + imm.setWidth 32).toNat = some A ∧
      ctxAt t e c = x ∧ t.par = s.par ∧ t.berth = s.berth) ∧
    (∀ (tray : Nat) (k : Cmd), ctxCmd s e c = some k → trayOf k.op = some tray →
      (∀ p, (trayAt s tray).entries[B.toNat]? = some p →
        Yields (.trd e c a b high) s e c (writeReg x a (if high then p.2 else p.1))) ∧
      (fetches (.twr e c a b high) s e c → ∃ t, exec (.twr e c a b high) s = .next t ∧
        (trayAt t tray).entries = trayWrite (trayAt s tray).entries B.toNat high A ∧ t.par.baked = s.par.baked ∧
        ∀ m, m ≠ tray → trayAt t m = trayAt s m)) ∧
    (fetches (.shw e c a b) s e c → ∃ t, exec (.shw e c a b) s = .next t ∧ tabFind t.par.shadow B.toNat = some A ∧ t.par.baked = s.par.baked ∧
      t.par.trays = s.par.trays ∧ ctxAt t e c = x) ∧
    (∀ v, paramWord s e c (readReg s x 26 + imm.setWidth 32).toNat = some v →
      Yields (.hrd e c a imm) s e c (writeReg (writeReg x 26 (readReg s x 26 + 4)) a v)) ∧
    Yields (.hwr e c a b imm) s e c { x with dma := tabSet x.dma (B + imm.setWidth 32).toNat A } ∧
    (∀ k : Cmd, ctxCmd s e c = some k → k.viaChain = false → replyWaits s k = false → s.unposted = [] →
      x.ending = none → fetches (.pst e c) s e c → ∃ u r result, exec (.pst e c) s = .next (postReply u k true r result) ∧
      r.status = (readReg s x 29).setWidth 16 ∧ r.tag = k.hdr.tag ∧ r.gen = s.par.generation ∧
      r.data = word4 (readReg s x 1) ++ word4 (readReg s x 2) ++ word4 (readReg s x 3) ++ word4 (readReg s x 4) ∧
      (k.hdr.resDma = false → result = []) ∧ u.inflight = s.inflight ∧ u.host = s.host) ∧
    Yields (.tide e c a high) s e c (if high then writeReg x a x.tideHigh
      else { writeReg x a (BitVec.ofNat 32 s.tide) with tideHigh := BitVec.ofNat 32 (s.tide / 2 ^ 32) }) ∧
    (fetches (.tarm e c a b) s e c → ∃ t, exec (.tarm e c a b) s = .next t ∧
      tabFind t.par.comparators B.toNat = some (A.toNat + 2 ^ 32 * (readReg s x 1).toNat) ∧ ctxAt t e c = x ∧
      t.par.baked = s.par.baked) ∧
    (fetches (.sig e c a code) s e c → ∃ t, exec (.sig e c a code) s = .next t ∧ ctxAt t e c = x ∧ t.chain = s.chain ∧
      t.out.sent = s.out.sent ++ [.signal (if signalUp code.toNat then some s.chain.upPort else none)
        (signalOf code.toNat A)]) ∧
    (∀ (k : Cmd) (p : Nat), ctxCmd s e c = some k → treePort s (A.toNat % 128) = [p] →
      k.missing.contains (A.toNat % 128) = false → fetches (.fwd e c a) s e c →
      ∃ u, exec (.fwd e c a) s = .next
          (putFrame u p (.command { k.hdr with chain := BitVec.ofNat 7 (A.toNat % 128) } k.op)) ∧
        u.chain = s.chain ∧ u.out = s.out ∧ ctxAt u e c = x ∧ u.inflight = s.inflight.map (fun y =>
          if y.ord = k.ord then { k with missing := k.missing ++ [A.toNat % 128] } else y)) ∧
    (let g := readReg s x 25
     let id := pid (fld g 28 4) (fld g 16 12) (imm.toNat / 256) (imm.toNat % 256)
     idOne id = some .ack → fetches (.evt e c imm) s e c → ∃ t, exec (.evt e c imm) s = .next t ∧ ackOf t id = ackBump (ackOf s id) ∧
       ctxAt t e c = x ∧ t.par = s.par)

/-- Safe points, waits, phases and engine faults (R435 to R447): POLL and COMMIT with nothing pending restart the gap; at
a POLL a pending interrupt, or else a pending ABORT, makes the routine of a command that has nothing in the data plane enter
its handler, in the phase that it has reached; a WAIT ends by its condition or its timeout, a reserved one is engine fault
1; a fault is recorded and counted, CE4's puts the device in FAULT, and a restart clears the contexts. -/
def Obligations.MicrowordPhases : Prop :=
  ∀ (s : State) (e : Fin 5) (c : Fin 16) (a b : Fin 32) (imm : BitVec 16) (cond : Byte) (inv : Bool),
    let x := advancePc (ctxAt s e c)
    (canExecute s e c →
      Yields (.endc e c) s e c { x with inCommit := false } ∧
      Yields (.prog e c imm) s e c { writeReg x 28 (imm.setWidth 32) with
        phase := if x.phase = .prepare then .progress
          else if x.phase = .progress ∧ x.handled = true ∧ x.abort = true then .undo else x.phase }) ∧
    (canExecuteSafe s e c → x.interrupt = false → x.abort = false →
      (fetches (.poll e c) s e c → ∃ t, exec (.poll e c) s = .next t ∧ ctxAt t e c = { x with sinceSafe := 0, safeAt := s.tide } ∧
        (engAt t e).maxSafeGap = Nat.max (engAt s e).maxSafeGap ((s.tide - x.safeAt) * 5 / 4) ∧
        t.inflight = s.inflight) ∧
      (fetches (.commit e c) s e c → ∃ t, exec (.commit e c) s = .next t ∧ ctxAt t e c = { x with
        sinceSafe := 0, safeAt := s.tide, phase := .commit, inCommit := true, commitAt := s.tide }) ∧
      (waitDefined cond.toNat (readReg s x b) = true → fetches (.wait e c a b cond inv) s e c → ∃ t, exec (.wait e c a b cond inv) s = .next t ∧
        (ctxAt t e c).wait = some ⟨cond.toNat, inv, readReg s x a,
          some (s.tide + ceilDiv (4 * (readReg s x b).toNat) 5), false⟩ ∧ (ctxAt t e c).timedOut = false) ∧
      (waitDefined cond.toNat (readReg s x b) = false → fetches (.wait e c a b cond inv) s e c → ∃ t, exec (.wait e c a b cond inv) s = .next t ∧
        (engAt t e).lastFaultCode = 1)) ∧
    (∀ k : Cmd, canExecuteSafe s e c → x.handled = false → ctxCmd s e c = some k → k.work = .none →
      fetches (.poll e c) s e c →
      (x.interrupt = true → ∃ t, exec (.poll e c) s = .next t ∧ (ctxAt t e c).handled = true ∧
        (ctxAt t e c).pc < 0x4000 ∧ (ctxAt t e c).phase = x.phase ∧ (ctxAt t e c).ending =
          (if x.phase = .prepare then some ((x.held).getD abortedByEvent) else none) ∧
        t.inflight = s.inflight ∧ t.par = s.par) ∧
      (x.interrupt = false → x.abort = true → ∃ t, exec (.poll e c) s = .next t ∧ (ctxAt t e c).handled = true ∧
        (ctxAt t e c).pc < 0x4000 ∧ (ctxAt t e c).phase = x.phase ∧
        (ctxAt t e c).ending = some (abortedBy x.abortTag) ∧ t.inflight = s.inflight ∧ t.par = s.par)) ∧
    (∀ w : WaitFor, (ctxAt s e c).wait = some w → (engAt s e).state = 0 →
      (waitShown s w ≠ w.invert → ∃ t, exec (.waitWake e c) s = .next t ∧
        (ctxAt t e c).wait = none ∧ (ctxAt t e c).timedOut = false ∧ t.tide = s.tide) ∧
      (waitShown s w = w.invert → w.cond = 2 → w.invert = false → ∃ t, exec (.waitWake e c) s = .next t ∧
        (ctxAt t e c).wait = none ∧ (ctxAt t e c).timedOut = false ∧ waitTide s w % 2 ^ 64 ≤ t.tide) ∧
      (waitShown s w = w.invert → w.cond ≠ 2 ∨ w.invert = true → exec (.waitWake e c) s = .next s) ∧
      (∃ t, exec (.waitTimeout e c) s = .next t ∧ (ctxAt t e c).wait = none ∧ (ctxAt t e c).timedOut = true ∧
        (∀ i, w.until_ = some i → i % 2 ^ 64 ≤ t.tide) ∧
        ackOf t (pid 6 0 0xA8 (8 * e.val + 4)) = ackBump (ackOf s (pid 6 0 0xA8 (8 * e.val + 4))))) ∧
    (∀ cause : EngCause, ctxReady s e c = true → deliversFault s e (ctxAt s e c) cause = true → ∃ t, exec (.fault e c cause) s = .next t ∧
      (engAt t e).lastFaultCode = (match cause with | .undefinedOp => 1 | .parity => 2 | .microword _ => 7) ∧
      (engAt t e).lastFaultAddr = (ctxAt s e c).pc ∧ (engAt t e).ctxs = [] ∧
      (e = 4 → s.devFault = none → t.devFault = some (0x80 + (engAt t e).lastFaultCode) ∧ (engAt t e).state = 1) ∧
      ackOf t (pid 6 0 0xA8 (8 * e.val + 5)) = ackBump (ackOf s (pid 6 0 0xA8 (8 * e.val + 5)))) ∧
    ((engAt s e).state = 1 → ∃ t, exec (.engineRestart e) s = .next t ∧ (engAt t e).state = 0 ∧
      (engAt t e).ctxs = [] ∧ (engAt t e).patchRam = (engAt s e).patchRam ∧ t.tide = s.tide)
end

