-- ==== Sys2Proof/Laws/State.lean ====
section
/-! SUPPORT. What each update of the state leaves alone and what it writes: one lemma for each field and update,
by `rfl`, and the accessors of instances after an update. -/

namespace Sys2Proof.Machine

/-! ### Updates of one instance -/

@[simp] theorem setChan_pending (s : State) (c : Nat) (x : Chan) : (setChan s c x).pending = s.pending := rfl
@[simp] theorem setChan_tide (s : State) (c : Nat) (x : Chan) : (setChan s c x).tide = s.tide := rfl
@[simp] theorem setChan_tideOn (s : State) (c : Nat) (x : Chan) : (setChan s c x).tideOn = s.tideOn := rfl
@[simp] theorem setChan_cold (s : State) (c : Nat) (x : Chan) : (setChan s c x).cold = s.cold := rfl
@[simp] theorem setChan_booted (s : State) (c : Nat) (x : Chan) : (setChan s c x).booted = s.booted := rfl
@[simp] theorem setChan_unparked (s : State) (c : Nat) (x : Chan) : (setChan s c x).unparked = s.unparked := rfl
@[simp] theorem setChan_devFault (s : State) (c : Nat) (x : Chan) : (setChan s c x).devFault = s.devFault := rfl
@[simp] theorem setChan_lastDevFault (s : State) (c : Nat) (x : Chan) :
    (setChan s c x).lastDevFault = s.lastDevFault := rfl
@[simp] theorem setChan_lastFaultSource (s : State) (c : Nat) (x : Chan) :
    (setChan s c x).lastFaultSource = s.lastFaultSource := rfl
@[simp] theorem setChan_lastFaultInst (s : State) (c : Nat) (x : Chan) :
    (setChan s c x).lastFaultInst = s.lastFaultInst := rfl
@[simp] theorem setChan_acks (s : State) (c : Nat) (x : Chan) : (setChan s c x).acks = s.acks := rfl
@[simp] theorem setChan_freeCtr (s : State) (c : Nat) (x : Chan) : (setChan s c x).freeCtr = s.freeCtr := rfl
@[simp] theorem setChan_nextOrd (s : State) (c : Nat) (x : Chan) : (setChan s c x).nextOrd = s.nextOrd := rfl
@[simp] theorem setChan_out (s : State) (c : Nat) (x : Chan) : (setChan s c x).out = s.out := rfl
@[simp] theorem setChan_host (s : State) (c : Nat) (x : Chan) : (setChan s c x).host = s.host := rfl
@[simp] theorem setChan_fast (s : State) (c : Nat) (x : Chan) : (setChan s c x).fast = s.fast := rfl
@[simp] theorem setChan_inflight (s : State) (c : Nat) (x : Chan) : (setChan s c x).inflight = s.inflight := rfl
@[simp] theorem setChan_unposted (s : State) (c : Nat) (x : Chan) : (setChan s c x).unposted = s.unposted := rfl
@[simp] theorem setChan_par (s : State) (c : Nat) (x : Chan) : (setChan s c x).par = s.par := rfl
@[simp] theorem setChan_chan (s : State) (c : Nat) (x : Chan) : (setChan s c x).chan = tabSet s.chan c x := rfl
@[simp] theorem setChan_berth (s : State) (c : Nat) (x : Chan) : (setChan s c x).berth = s.berth := rfl
@[simp] theorem setChan_quay (s : State) (c : Nat) (x : Chan) : (setChan s c x).quay = s.quay := rfl
@[simp] theorem setChan_wing (s : State) (c : Nat) (x : Chan) : (setChan s c x).wing = s.wing := rfl
@[simp] theorem setChan_offPlans (s : State) (c : Nat) (x : Chan) : (setChan s c x).offPlans = s.offPlans := rfl
@[simp] theorem setChan_hold (s : State) (c : Nat) (x : Chan) : (setChan s c x).hold = s.hold := rfl
@[simp] theorem setChan_chain (s : State) (c : Nat) (x : Chan) : (setChan s c x).chain = s.chain := rfl
@[simp] theorem setChan_clk (s : State) (c : Nat) (x : Chan) : (setChan s c x).clk = s.clk := rfl
@[simp] theorem setChan_therm (s : State) (c : Nat) (x : Chan) : (setChan s c x).therm = s.therm := rfl
@[simp] theorem setChan_eng (s : State) (c : Nat) (x : Chan) : (setChan s c x).eng = s.eng := rfl
@[simp] theorem setChan_mc (s : State) (c : Nat) (x : Chan) : (setChan s c x).mc = s.mc := rfl
@[simp] theorem setChan_tp (s : State) (c : Nat) (x : Chan) : (setChan s c x).tp = s.tp := rfl
@[simp] theorem setChan_boot (s : State) (c : Nat) (x : Chan) : (setChan s c x).boot = s.boot := rfl

@[simp] theorem setBerth_pending (s : State) (b : Nat) (x : Berth) : (setBerth s b x).pending = s.pending := rfl
@[simp] theorem setBerth_tide (s : State) (b : Nat) (x : Berth) : (setBerth s b x).tide = s.tide := rfl
@[simp] theorem setBerth_tideOn (s : State) (b : Nat) (x : Berth) : (setBerth s b x).tideOn = s.tideOn := rfl
@[simp] theorem setBerth_cold (s : State) (b : Nat) (x : Berth) : (setBerth s b x).cold = s.cold := rfl
@[simp] theorem setBerth_booted (s : State) (b : Nat) (x : Berth) : (setBerth s b x).booted = s.booted := rfl
@[simp] theorem setBerth_unparked (s : State) (b : Nat) (x : Berth) : (setBerth s b x).unparked = s.unparked := rfl
@[simp] theorem setBerth_devFault (s : State) (b : Nat) (x : Berth) : (setBerth s b x).devFault = s.devFault := rfl
@[simp] theorem setBerth_lastDevFault (s : State) (b : Nat) (x : Berth) :
    (setBerth s b x).lastDevFault = s.lastDevFault := rfl
@[simp] theorem setBerth_lastFaultSource (s : State) (b : Nat) (x : Berth) :
    (setBerth s b x).lastFaultSource = s.lastFaultSource := rfl
@[simp] theorem setBerth_lastFaultInst (s : State) (b : Nat) (x : Berth) :
    (setBerth s b x).lastFaultInst = s.lastFaultInst := rfl
@[simp] theorem setBerth_acks (s : State) (b : Nat) (x : Berth) : (setBerth s b x).acks = s.acks := rfl
@[simp] theorem setBerth_freeCtr (s : State) (b : Nat) (x : Berth) : (setBerth s b x).freeCtr = s.freeCtr := rfl
@[simp] theorem setBerth_nextOrd (s : State) (b : Nat) (x : Berth) : (setBerth s b x).nextOrd = s.nextOrd := rfl
@[simp] theorem setBerth_out (s : State) (b : Nat) (x : Berth) : (setBerth s b x).out = s.out := rfl
@[simp] theorem setBerth_host (s : State) (b : Nat) (x : Berth) : (setBerth s b x).host = s.host := rfl
@[simp] theorem setBerth_fast (s : State) (b : Nat) (x : Berth) : (setBerth s b x).fast = s.fast := rfl
@[simp] theorem setBerth_inflight (s : State) (b : Nat) (x : Berth) : (setBerth s b x).inflight = s.inflight := rfl
@[simp] theorem setBerth_unposted (s : State) (b : Nat) (x : Berth) : (setBerth s b x).unposted = s.unposted := rfl
@[simp] theorem setBerth_par (s : State) (b : Nat) (x : Berth) : (setBerth s b x).par = s.par := rfl
@[simp] theorem setBerth_chan (s : State) (b : Nat) (x : Berth) : (setBerth s b x).chan = s.chan := rfl
@[simp] theorem setBerth_berth (s : State) (b : Nat) (x : Berth) : (setBerth s b x).berth = tabSet s.berth b x := rfl
@[simp] theorem setBerth_quay (s : State) (b : Nat) (x : Berth) : (setBerth s b x).quay = s.quay := rfl
@[simp] theorem setBerth_wing (s : State) (b : Nat) (x : Berth) : (setBerth s b x).wing = s.wing := rfl
@[simp] theorem setBerth_offPlans (s : State) (b : Nat) (x : Berth) : (setBerth s b x).offPlans = s.offPlans := rfl
@[simp] theorem setBerth_hold (s : State) (b : Nat) (x : Berth) : (setBerth s b x).hold = s.hold := rfl
@[simp] theorem setBerth_chain (s : State) (b : Nat) (x : Berth) : (setBerth s b x).chain = s.chain := rfl
@[simp] theorem setBerth_clk (s : State) (b : Nat) (x : Berth) : (setBerth s b x).clk = s.clk := rfl
@[simp] theorem setBerth_therm (s : State) (b : Nat) (x : Berth) : (setBerth s b x).therm = s.therm := rfl
@[simp] theorem setBerth_eng (s : State) (b : Nat) (x : Berth) : (setBerth s b x).eng = s.eng := rfl
@[simp] theorem setBerth_mc (s : State) (b : Nat) (x : Berth) : (setBerth s b x).mc = s.mc := rfl
@[simp] theorem setBerth_tp (s : State) (b : Nat) (x : Berth) : (setBerth s b x).tp = s.tp := rfl
@[simp] theorem setBerth_boot (s : State) (b : Nat) (x : Berth) : (setBerth s b x).boot = s.boot := rfl

@[simp] theorem setQuay_pending (s : State) (q : Nat) (x : Quay) : (setQuay s q x).pending = s.pending := rfl
@[simp] theorem setQuay_tide (s : State) (q : Nat) (x : Quay) : (setQuay s q x).tide = s.tide := rfl
@[simp] theorem setQuay_tideOn (s : State) (q : Nat) (x : Quay) : (setQuay s q x).tideOn = s.tideOn := rfl
@[simp] theorem setQuay_cold (s : State) (q : Nat) (x : Quay) : (setQuay s q x).cold = s.cold := rfl
@[simp] theorem setQuay_booted (s : State) (q : Nat) (x : Quay) : (setQuay s q x).booted = s.booted := rfl
@[simp] theorem setQuay_unparked (s : State) (q : Nat) (x : Quay) : (setQuay s q x).unparked = s.unparked := rfl
@[simp] theorem setQuay_devFault (s : State) (q : Nat) (x : Quay) : (setQuay s q x).devFault = s.devFault := rfl
@[simp] theorem setQuay_lastDevFault (s : State) (q : Nat) (x : Quay) :
    (setQuay s q x).lastDevFault = s.lastDevFault := rfl
@[simp] theorem setQuay_lastFaultSource (s : State) (q : Nat) (x : Quay) :
    (setQuay s q x).lastFaultSource = s.lastFaultSource := rfl
@[simp] theorem setQuay_lastFaultInst (s : State) (q : Nat) (x : Quay) :
    (setQuay s q x).lastFaultInst = s.lastFaultInst := rfl
@[simp] theorem setQuay_acks (s : State) (q : Nat) (x : Quay) : (setQuay s q x).acks = s.acks := rfl
@[simp] theorem setQuay_freeCtr (s : State) (q : Nat) (x : Quay) : (setQuay s q x).freeCtr = s.freeCtr := rfl
@[simp] theorem setQuay_nextOrd (s : State) (q : Nat) (x : Quay) : (setQuay s q x).nextOrd = s.nextOrd := rfl
@[simp] theorem setQuay_out (s : State) (q : Nat) (x : Quay) : (setQuay s q x).out = s.out := rfl
@[simp] theorem setQuay_host (s : State) (q : Nat) (x : Quay) : (setQuay s q x).host = s.host := rfl
@[simp] theorem setQuay_fast (s : State) (q : Nat) (x : Quay) : (setQuay s q x).fast = s.fast := rfl
@[simp] theorem setQuay_inflight (s : State) (q : Nat) (x : Quay) : (setQuay s q x).inflight = s.inflight := rfl
@[simp] theorem setQuay_unposted (s : State) (q : Nat) (x : Quay) : (setQuay s q x).unposted = s.unposted := rfl
@[simp] theorem setQuay_par (s : State) (q : Nat) (x : Quay) : (setQuay s q x).par = s.par := rfl
@[simp] theorem setQuay_chan (s : State) (q : Nat) (x : Quay) : (setQuay s q x).chan = s.chan := rfl
@[simp] theorem setQuay_berth (s : State) (q : Nat) (x : Quay) : (setQuay s q x).berth = s.berth := rfl
@[simp] theorem setQuay_quay (s : State) (q : Nat) (x : Quay) : (setQuay s q x).quay = tabSet s.quay q x := rfl
@[simp] theorem setQuay_wing (s : State) (q : Nat) (x : Quay) : (setQuay s q x).wing = s.wing := rfl
@[simp] theorem setQuay_offPlans (s : State) (q : Nat) (x : Quay) : (setQuay s q x).offPlans = s.offPlans := rfl
@[simp] theorem setQuay_hold (s : State) (q : Nat) (x : Quay) : (setQuay s q x).hold = s.hold := rfl
@[simp] theorem setQuay_chain (s : State) (q : Nat) (x : Quay) : (setQuay s q x).chain = s.chain := rfl
@[simp] theorem setQuay_clk (s : State) (q : Nat) (x : Quay) : (setQuay s q x).clk = s.clk := rfl
@[simp] theorem setQuay_therm (s : State) (q : Nat) (x : Quay) : (setQuay s q x).therm = s.therm := rfl
@[simp] theorem setQuay_eng (s : State) (q : Nat) (x : Quay) : (setQuay s q x).eng = s.eng := rfl
@[simp] theorem setQuay_mc (s : State) (q : Nat) (x : Quay) : (setQuay s q x).mc = s.mc := rfl
@[simp] theorem setQuay_tp (s : State) (q : Nat) (x : Quay) : (setQuay s q x).tp = s.tp := rfl
@[simp] theorem setQuay_boot (s : State) (q : Nat) (x : Quay) : (setQuay s q x).boot = s.boot := rfl

@[simp] theorem setWing_pending (s : State) (w : Nat) (x : Wing) : (setWing s w x).pending = s.pending := rfl
@[simp] theorem setWing_tide (s : State) (w : Nat) (x : Wing) : (setWing s w x).tide = s.tide := rfl
@[simp] theorem setWing_tideOn (s : State) (w : Nat) (x : Wing) : (setWing s w x).tideOn = s.tideOn := rfl
@[simp] theorem setWing_cold (s : State) (w : Nat) (x : Wing) : (setWing s w x).cold = s.cold := rfl
@[simp] theorem setWing_booted (s : State) (w : Nat) (x : Wing) : (setWing s w x).booted = s.booted := rfl
@[simp] theorem setWing_unparked (s : State) (w : Nat) (x : Wing) : (setWing s w x).unparked = s.unparked := rfl
@[simp] theorem setWing_devFault (s : State) (w : Nat) (x : Wing) : (setWing s w x).devFault = s.devFault := rfl
@[simp] theorem setWing_lastDevFault (s : State) (w : Nat) (x : Wing) :
    (setWing s w x).lastDevFault = s.lastDevFault := rfl
@[simp] theorem setWing_lastFaultSource (s : State) (w : Nat) (x : Wing) :
    (setWing s w x).lastFaultSource = s.lastFaultSource := rfl
@[simp] theorem setWing_lastFaultInst (s : State) (w : Nat) (x : Wing) :
    (setWing s w x).lastFaultInst = s.lastFaultInst := rfl
@[simp] theorem setWing_acks (s : State) (w : Nat) (x : Wing) : (setWing s w x).acks = s.acks := rfl
@[simp] theorem setWing_freeCtr (s : State) (w : Nat) (x : Wing) : (setWing s w x).freeCtr = s.freeCtr := rfl
@[simp] theorem setWing_nextOrd (s : State) (w : Nat) (x : Wing) : (setWing s w x).nextOrd = s.nextOrd := rfl
@[simp] theorem setWing_out (s : State) (w : Nat) (x : Wing) : (setWing s w x).out = s.out := rfl
@[simp] theorem setWing_host (s : State) (w : Nat) (x : Wing) : (setWing s w x).host = s.host := rfl
@[simp] theorem setWing_fast (s : State) (w : Nat) (x : Wing) : (setWing s w x).fast = s.fast := rfl
@[simp] theorem setWing_inflight (s : State) (w : Nat) (x : Wing) : (setWing s w x).inflight = s.inflight := rfl
@[simp] theorem setWing_unposted (s : State) (w : Nat) (x : Wing) : (setWing s w x).unposted = s.unposted := rfl
@[simp] theorem setWing_par (s : State) (w : Nat) (x : Wing) : (setWing s w x).par = s.par := rfl
@[simp] theorem setWing_chan (s : State) (w : Nat) (x : Wing) : (setWing s w x).chan = s.chan := rfl
@[simp] theorem setWing_berth (s : State) (w : Nat) (x : Wing) : (setWing s w x).berth = s.berth := rfl
@[simp] theorem setWing_quay (s : State) (w : Nat) (x : Wing) : (setWing s w x).quay = s.quay := rfl
@[simp] theorem setWing_wing (s : State) (w : Nat) (x : Wing) : (setWing s w x).wing = tabSet s.wing w x := rfl
@[simp] theorem setWing_offPlans (s : State) (w : Nat) (x : Wing) : (setWing s w x).offPlans = s.offPlans := rfl
@[simp] theorem setWing_hold (s : State) (w : Nat) (x : Wing) : (setWing s w x).hold = s.hold := rfl
@[simp] theorem setWing_chain (s : State) (w : Nat) (x : Wing) : (setWing s w x).chain = s.chain := rfl
@[simp] theorem setWing_clk (s : State) (w : Nat) (x : Wing) : (setWing s w x).clk = s.clk := rfl
@[simp] theorem setWing_therm (s : State) (w : Nat) (x : Wing) : (setWing s w x).therm = s.therm := rfl
@[simp] theorem setWing_eng (s : State) (w : Nat) (x : Wing) : (setWing s w x).eng = s.eng := rfl
@[simp] theorem setWing_mc (s : State) (w : Nat) (x : Wing) : (setWing s w x).mc = s.mc := rfl
@[simp] theorem setWing_tp (s : State) (w : Nat) (x : Wing) : (setWing s w x).tp = s.tp := rfl
@[simp] theorem setWing_boot (s : State) (w : Nat) (x : Wing) : (setWing s w x).boot = s.boot := rfl

@[simp] theorem setEng_pending (s : State) (e : Nat) (x : Eng) : (setEng s e x).pending = s.pending := rfl
@[simp] theorem setEng_tide (s : State) (e : Nat) (x : Eng) : (setEng s e x).tide = s.tide := rfl
@[simp] theorem setEng_tideOn (s : State) (e : Nat) (x : Eng) : (setEng s e x).tideOn = s.tideOn := rfl
@[simp] theorem setEng_cold (s : State) (e : Nat) (x : Eng) : (setEng s e x).cold = s.cold := rfl
@[simp] theorem setEng_booted (s : State) (e : Nat) (x : Eng) : (setEng s e x).booted = s.booted := rfl
@[simp] theorem setEng_unparked (s : State) (e : Nat) (x : Eng) : (setEng s e x).unparked = s.unparked := rfl
@[simp] theorem setEng_devFault (s : State) (e : Nat) (x : Eng) : (setEng s e x).devFault = s.devFault := rfl
@[simp] theorem setEng_lastDevFault (s : State) (e : Nat) (x : Eng) :
    (setEng s e x).lastDevFault = s.lastDevFault := rfl
@[simp] theorem setEng_lastFaultSource (s : State) (e : Nat) (x : Eng) :
    (setEng s e x).lastFaultSource = s.lastFaultSource := rfl
@[simp] theorem setEng_lastFaultInst (s : State) (e : Nat) (x : Eng) :
    (setEng s e x).lastFaultInst = s.lastFaultInst := rfl
@[simp] theorem setEng_acks (s : State) (e : Nat) (x : Eng) : (setEng s e x).acks = s.acks := rfl
@[simp] theorem setEng_freeCtr (s : State) (e : Nat) (x : Eng) : (setEng s e x).freeCtr = s.freeCtr := rfl
@[simp] theorem setEng_nextOrd (s : State) (e : Nat) (x : Eng) : (setEng s e x).nextOrd = s.nextOrd := rfl
@[simp] theorem setEng_out (s : State) (e : Nat) (x : Eng) : (setEng s e x).out = s.out := rfl
@[simp] theorem setEng_host (s : State) (e : Nat) (x : Eng) : (setEng s e x).host = s.host := rfl
@[simp] theorem setEng_fast (s : State) (e : Nat) (x : Eng) : (setEng s e x).fast = s.fast := rfl
@[simp] theorem setEng_inflight (s : State) (e : Nat) (x : Eng) : (setEng s e x).inflight = s.inflight := rfl
@[simp] theorem setEng_unposted (s : State) (e : Nat) (x : Eng) : (setEng s e x).unposted = s.unposted := rfl
@[simp] theorem setEng_par (s : State) (e : Nat) (x : Eng) : (setEng s e x).par = s.par := rfl
@[simp] theorem setEng_chan (s : State) (e : Nat) (x : Eng) : (setEng s e x).chan = s.chan := rfl
@[simp] theorem setEng_berth (s : State) (e : Nat) (x : Eng) : (setEng s e x).berth = s.berth := rfl
@[simp] theorem setEng_quay (s : State) (e : Nat) (x : Eng) : (setEng s e x).quay = s.quay := rfl
@[simp] theorem setEng_wing (s : State) (e : Nat) (x : Eng) : (setEng s e x).wing = s.wing := rfl
@[simp] theorem setEng_offPlans (s : State) (e : Nat) (x : Eng) : (setEng s e x).offPlans = s.offPlans := rfl
@[simp] theorem setEng_hold (s : State) (e : Nat) (x : Eng) : (setEng s e x).hold = s.hold := rfl
@[simp] theorem setEng_chain (s : State) (e : Nat) (x : Eng) : (setEng s e x).chain = s.chain := rfl
@[simp] theorem setEng_clk (s : State) (e : Nat) (x : Eng) : (setEng s e x).clk = s.clk := rfl
@[simp] theorem setEng_therm (s : State) (e : Nat) (x : Eng) : (setEng s e x).therm = s.therm := rfl
@[simp] theorem setEng_eng (s : State) (e : Nat) (x : Eng) : (setEng s e x).eng = tabSet s.eng e x := rfl
@[simp] theorem setEng_mc (s : State) (e : Nat) (x : Eng) : (setEng s e x).mc = s.mc := rfl
@[simp] theorem setEng_tp (s : State) (e : Nat) (x : Eng) : (setEng s e x).tp = s.tp := rfl
@[simp] theorem setEng_boot (s : State) (e : Nat) (x : Eng) : (setEng s e x).boot = s.boot := rfl

@[simp] theorem setTp_pending (s : State) (p : Nat) (x : Tp) : (setTp s p x).pending = s.pending := rfl
@[simp] theorem setTp_tide (s : State) (p : Nat) (x : Tp) : (setTp s p x).tide = s.tide := rfl
@[simp] theorem setTp_tideOn (s : State) (p : Nat) (x : Tp) : (setTp s p x).tideOn = s.tideOn := rfl
@[simp] theorem setTp_cold (s : State) (p : Nat) (x : Tp) : (setTp s p x).cold = s.cold := rfl
@[simp] theorem setTp_booted (s : State) (p : Nat) (x : Tp) : (setTp s p x).booted = s.booted := rfl
@[simp] theorem setTp_unparked (s : State) (p : Nat) (x : Tp) : (setTp s p x).unparked = s.unparked := rfl
@[simp] theorem setTp_devFault (s : State) (p : Nat) (x : Tp) : (setTp s p x).devFault = s.devFault := rfl
@[simp] theorem setTp_lastDevFault (s : State) (p : Nat) (x : Tp) : (setTp s p x).lastDevFault = s.lastDevFault := rfl
@[simp] theorem setTp_lastFaultSource (s : State) (p : Nat) (x : Tp) :
    (setTp s p x).lastFaultSource = s.lastFaultSource := rfl
@[simp] theorem setTp_lastFaultInst (s : State) (p : Nat) (x : Tp) :
    (setTp s p x).lastFaultInst = s.lastFaultInst := rfl
@[simp] theorem setTp_acks (s : State) (p : Nat) (x : Tp) : (setTp s p x).acks = s.acks := rfl
@[simp] theorem setTp_freeCtr (s : State) (p : Nat) (x : Tp) : (setTp s p x).freeCtr = s.freeCtr := rfl
@[simp] theorem setTp_nextOrd (s : State) (p : Nat) (x : Tp) : (setTp s p x).nextOrd = s.nextOrd := rfl
@[simp] theorem setTp_out (s : State) (p : Nat) (x : Tp) : (setTp s p x).out = s.out := rfl
@[simp] theorem setTp_host (s : State) (p : Nat) (x : Tp) : (setTp s p x).host = s.host := rfl
@[simp] theorem setTp_fast (s : State) (p : Nat) (x : Tp) : (setTp s p x).fast = s.fast := rfl
@[simp] theorem setTp_inflight (s : State) (p : Nat) (x : Tp) : (setTp s p x).inflight = s.inflight := rfl
@[simp] theorem setTp_unposted (s : State) (p : Nat) (x : Tp) : (setTp s p x).unposted = s.unposted := rfl
@[simp] theorem setTp_par (s : State) (p : Nat) (x : Tp) : (setTp s p x).par = s.par := rfl
@[simp] theorem setTp_chan (s : State) (p : Nat) (x : Tp) : (setTp s p x).chan = s.chan := rfl
@[simp] theorem setTp_berth (s : State) (p : Nat) (x : Tp) : (setTp s p x).berth = s.berth := rfl
@[simp] theorem setTp_quay (s : State) (p : Nat) (x : Tp) : (setTp s p x).quay = s.quay := rfl
@[simp] theorem setTp_wing (s : State) (p : Nat) (x : Tp) : (setTp s p x).wing = s.wing := rfl
@[simp] theorem setTp_offPlans (s : State) (p : Nat) (x : Tp) : (setTp s p x).offPlans = s.offPlans := rfl
@[simp] theorem setTp_hold (s : State) (p : Nat) (x : Tp) : (setTp s p x).hold = s.hold := rfl
@[simp] theorem setTp_chain (s : State) (p : Nat) (x : Tp) : (setTp s p x).chain = s.chain := rfl
@[simp] theorem setTp_clk (s : State) (p : Nat) (x : Tp) : (setTp s p x).clk = s.clk := rfl
@[simp] theorem setTp_therm (s : State) (p : Nat) (x : Tp) : (setTp s p x).therm = s.therm := rfl
@[simp] theorem setTp_eng (s : State) (p : Nat) (x : Tp) : (setTp s p x).eng = s.eng := rfl
@[simp] theorem setTp_mc (s : State) (p : Nat) (x : Tp) : (setTp s p x).mc = s.mc := rfl
@[simp] theorem setTp_tp (s : State) (p : Nat) (x : Tp) : (setTp s p x).tp = tabSet s.tp p x := rfl
@[simp] theorem setTp_boot (s : State) (p : Nat) (x : Tp) : (setTp s p x).boot = s.boot := rfl

@[simp] theorem setLane_pending (s : State) (l : Nat) (x : Lane) : (setLane s l x).pending = s.pending := rfl
@[simp] theorem setLane_tide (s : State) (l : Nat) (x : Lane) : (setLane s l x).tide = s.tide := rfl
@[simp] theorem setLane_tideOn (s : State) (l : Nat) (x : Lane) : (setLane s l x).tideOn = s.tideOn := rfl
@[simp] theorem setLane_cold (s : State) (l : Nat) (x : Lane) : (setLane s l x).cold = s.cold := rfl
@[simp] theorem setLane_booted (s : State) (l : Nat) (x : Lane) : (setLane s l x).booted = s.booted := rfl
@[simp] theorem setLane_unparked (s : State) (l : Nat) (x : Lane) : (setLane s l x).unparked = s.unparked := rfl
@[simp] theorem setLane_devFault (s : State) (l : Nat) (x : Lane) : (setLane s l x).devFault = s.devFault := rfl
@[simp] theorem setLane_lastDevFault (s : State) (l : Nat) (x : Lane) :
    (setLane s l x).lastDevFault = s.lastDevFault := rfl
@[simp] theorem setLane_lastFaultSource (s : State) (l : Nat) (x : Lane) :
    (setLane s l x).lastFaultSource = s.lastFaultSource := rfl
@[simp] theorem setLane_lastFaultInst (s : State) (l : Nat) (x : Lane) :
    (setLane s l x).lastFaultInst = s.lastFaultInst := rfl
@[simp] theorem setLane_acks (s : State) (l : Nat) (x : Lane) : (setLane s l x).acks = s.acks := rfl
@[simp] theorem setLane_freeCtr (s : State) (l : Nat) (x : Lane) : (setLane s l x).freeCtr = s.freeCtr := rfl
@[simp] theorem setLane_nextOrd (s : State) (l : Nat) (x : Lane) : (setLane s l x).nextOrd = s.nextOrd := rfl
@[simp] theorem setLane_out (s : State) (l : Nat) (x : Lane) : (setLane s l x).out = s.out := rfl
@[simp] theorem setLane_host (s : State) (l : Nat) (x : Lane) : (setLane s l x).host = s.host := rfl
@[simp] theorem setLane_fast (s : State) (l : Nat) (x : Lane) : (setLane s l x).fast = s.fast := rfl
@[simp] theorem setLane_inflight (s : State) (l : Nat) (x : Lane) : (setLane s l x).inflight = s.inflight := rfl
@[simp] theorem setLane_unposted (s : State) (l : Nat) (x : Lane) : (setLane s l x).unposted = s.unposted := rfl
@[simp] theorem setLane_par (s : State) (l : Nat) (x : Lane) : (setLane s l x).par = s.par := rfl
@[simp] theorem setLane_chan (s : State) (l : Nat) (x : Lane) : (setLane s l x).chan = s.chan := rfl
@[simp] theorem setLane_berth (s : State) (l : Nat) (x : Lane) : (setLane s l x).berth = s.berth := rfl
@[simp] theorem setLane_quay (s : State) (l : Nat) (x : Lane) : (setLane s l x).quay = s.quay := rfl
@[simp] theorem setLane_wing (s : State) (l : Nat) (x : Lane) : (setLane s l x).wing = s.wing := rfl
@[simp] theorem setLane_offPlans (s : State) (l : Nat) (x : Lane) : (setLane s l x).offPlans = s.offPlans := rfl
@[simp] theorem setLane_hold (s : State) (l : Nat) (x : Lane) : (setLane s l x).hold = s.hold := rfl
@[simp] theorem setLane_clk (s : State) (l : Nat) (x : Lane) : (setLane s l x).clk = s.clk := rfl
@[simp] theorem setLane_therm (s : State) (l : Nat) (x : Lane) : (setLane s l x).therm = s.therm := rfl
@[simp] theorem setLane_eng (s : State) (l : Nat) (x : Lane) : (setLane s l x).eng = s.eng := rfl
@[simp] theorem setLane_mc (s : State) (l : Nat) (x : Lane) : (setLane s l x).mc = s.mc := rfl
@[simp] theorem setLane_tp (s : State) (l : Nat) (x : Lane) : (setLane s l x).tp = s.tp := rfl
@[simp] theorem setLane_boot (s : State) (l : Nat) (x : Lane) : (setLane s l x).boot = s.boot := rfl
@[simp] theorem setLane_chain_index (s : State) (l : Nat) (x : Lane) :
    (setLane s l x).chain.index = s.chain.index := rfl
@[simp] theorem setLane_chain_enumerated (s : State) (l : Nat) (x : Lane) :
    (setLane s l x).chain.enumerated = s.chain.enumerated := rfl
@[simp] theorem setLane_chain_x (s : State) (l : Nat) (x : Lane) : (setLane s l x).chain.x = s.chain.x := rfl
@[simp] theorem setLane_chain_y (s : State) (l : Nat) (x : Lane) : (setLane s l x).chain.y = s.chain.y := rfl
@[simp] theorem setLane_chain_upPort (s : State) (l : Nat) (x : Lane) :
    (setLane s l x).chain.upPort = s.chain.upPort := rfl
@[simp] theorem setLane_chain_topology (s : State) (l : Nat) (x : Lane) :
    (setLane s l x).chain.topology = s.chain.topology := rfl
@[simp] theorem setLane_chain_tideAligned (s : State) (l : Nat) (x : Lane) :
    (setLane s l x).chain.tideAligned = s.chain.tideAligned := rfl
@[simp] theorem setLane_chain_legBound (s : State) (l : Nat) (x : Lane) :
    (setLane s l x).chain.legBound = s.chain.legBound := rfl
@[simp] theorem setLane_chain_theta (s : State) (l : Nat) (x : Lane) :
    (setLane s l x).chain.theta = s.chain.theta := rfl
@[simp] theorem setLane_chain_devices (s : State) (l : Nat) (x : Lane) :
    (setLane s l x).chain.devices = s.chain.devices := rfl
@[simp] theorem setLane_chain_ports (s : State) (l : Nat) (x : Lane) :
    (setLane s l x).chain.ports = s.chain.ports := rfl
@[simp] theorem setLane_chain_lanes (s : State) (l : Nat) (x : Lane) :
    (setLane s l x).chain.lanes = tabSet s.chain.lanes l x := rfl
@[simp] theorem setLane_chain_lastTrig (s : State) (l : Nat) (x : Lane) :
    (setLane s l x).chain.lastTrig = s.chain.lastTrig := rfl
@[simp] theorem setLane_chain_pendTrig (s : State) (l : Nat) (x : Lane) :
    (setLane s l x).chain.pendTrig = s.chain.pendTrig := rfl
@[simp] theorem setLane_chain_meas (s : State) (l : Nat) (x : Lane) : (setLane s l x).chain.meas = s.chain.meas := rfl
@[simp] theorem setLane_chain_correction (s : State) (l : Nat) (x : Lane) :
    (setLane s l x).chain.correction = s.chain.correction := rfl
@[simp] theorem setLane_chain_drift (s : State) (l : Nat) (x : Lane) :
    (setLane s l x).chain.drift = s.chain.drift := rfl
@[simp] theorem setLane_chain_rootPhase (s : State) (l : Nat) (x : Lane) :
    (setLane s l x).chain.rootPhase = s.chain.rootPhase := rfl
@[simp] theorem setLane_chain_stepAt (s : State) (l : Nat) (x : Lane) :
    (setLane s l x).chain.stepAt = s.chain.stepAt := rfl
@[simp] theorem setLane_chain_ovenAt (s : State) (l : Nat) (x : Lane) :
    (setLane s l x).chain.ovenAt = s.chain.ovenAt := rfl
@[simp] theorem setLane_chain_lost (s : State) (l : Nat) (x : Lane) : (setLane s l x).chain.lost = s.chain.lost := rfl
@[simp] theorem setLane_chain_grants (s : State) (l : Nat) (x : Lane) :
    (setLane s l x).chain.grants = s.chain.grants := rfl
@[simp] theorem setLane_chain_track (s : State) (l : Nat) (x : Lane) :
    (setLane s l x).chain.track = s.chain.track := rfl
@[simp] theorem setLane_chain_count (s : State) (l : Nat) (x : Lane) :
    (setLane s l x).chain.count = s.chain.count := rfl

@[simp] theorem setPort_pending (s : State) (p : Nat) (x : Port) : (setPort s p x).pending = s.pending := rfl
@[simp] theorem setPort_tide (s : State) (p : Nat) (x : Port) : (setPort s p x).tide = s.tide := rfl
@[simp] theorem setPort_tideOn (s : State) (p : Nat) (x : Port) : (setPort s p x).tideOn = s.tideOn := rfl
@[simp] theorem setPort_cold (s : State) (p : Nat) (x : Port) : (setPort s p x).cold = s.cold := rfl
@[simp] theorem setPort_booted (s : State) (p : Nat) (x : Port) : (setPort s p x).booted = s.booted := rfl
@[simp] theorem setPort_unparked (s : State) (p : Nat) (x : Port) : (setPort s p x).unparked = s.unparked := rfl
@[simp] theorem setPort_devFault (s : State) (p : Nat) (x : Port) : (setPort s p x).devFault = s.devFault := rfl
@[simp] theorem setPort_lastDevFault (s : State) (p : Nat) (x : Port) :
    (setPort s p x).lastDevFault = s.lastDevFault := rfl
@[simp] theorem setPort_lastFaultSource (s : State) (p : Nat) (x : Port) :
    (setPort s p x).lastFaultSource = s.lastFaultSource := rfl
@[simp] theorem setPort_lastFaultInst (s : State) (p : Nat) (x : Port) :
    (setPort s p x).lastFaultInst = s.lastFaultInst := rfl
@[simp] theorem setPort_acks (s : State) (p : Nat) (x : Port) : (setPort s p x).acks = s.acks := rfl
@[simp] theorem setPort_freeCtr (s : State) (p : Nat) (x : Port) : (setPort s p x).freeCtr = s.freeCtr := rfl
@[simp] theorem setPort_nextOrd (s : State) (p : Nat) (x : Port) : (setPort s p x).nextOrd = s.nextOrd := rfl
@[simp] theorem setPort_out (s : State) (p : Nat) (x : Port) : (setPort s p x).out = s.out := rfl
@[simp] theorem setPort_host (s : State) (p : Nat) (x : Port) : (setPort s p x).host = s.host := rfl
@[simp] theorem setPort_fast (s : State) (p : Nat) (x : Port) : (setPort s p x).fast = s.fast := rfl
@[simp] theorem setPort_inflight (s : State) (p : Nat) (x : Port) : (setPort s p x).inflight = s.inflight := rfl
@[simp] theorem setPort_unposted (s : State) (p : Nat) (x : Port) : (setPort s p x).unposted = s.unposted := rfl
@[simp] theorem setPort_par (s : State) (p : Nat) (x : Port) : (setPort s p x).par = s.par := rfl
@[simp] theorem setPort_chan (s : State) (p : Nat) (x : Port) : (setPort s p x).chan = s.chan := rfl
@[simp] theorem setPort_berth (s : State) (p : Nat) (x : Port) : (setPort s p x).berth = s.berth := rfl
@[simp] theorem setPort_quay (s : State) (p : Nat) (x : Port) : (setPort s p x).quay = s.quay := rfl
@[simp] theorem setPort_wing (s : State) (p : Nat) (x : Port) : (setPort s p x).wing = s.wing := rfl
@[simp] theorem setPort_offPlans (s : State) (p : Nat) (x : Port) : (setPort s p x).offPlans = s.offPlans := rfl
@[simp] theorem setPort_hold (s : State) (p : Nat) (x : Port) : (setPort s p x).hold = s.hold := rfl
@[simp] theorem setPort_clk (s : State) (p : Nat) (x : Port) : (setPort s p x).clk = s.clk := rfl
@[simp] theorem setPort_therm (s : State) (p : Nat) (x : Port) : (setPort s p x).therm = s.therm := rfl
@[simp] theorem setPort_eng (s : State) (p : Nat) (x : Port) : (setPort s p x).eng = s.eng := rfl
@[simp] theorem setPort_mc (s : State) (p : Nat) (x : Port) : (setPort s p x).mc = s.mc := rfl
@[simp] theorem setPort_tp (s : State) (p : Nat) (x : Port) : (setPort s p x).tp = s.tp := rfl
@[simp] theorem setPort_boot (s : State) (p : Nat) (x : Port) : (setPort s p x).boot = s.boot := rfl
@[simp] theorem setPort_chain_index (s : State) (p : Nat) (x : Port) :
    (setPort s p x).chain.index = s.chain.index := rfl
@[simp] theorem setPort_chain_enumerated (s : State) (p : Nat) (x : Port) :
    (setPort s p x).chain.enumerated = s.chain.enumerated := rfl
@[simp] theorem setPort_chain_x (s : State) (p : Nat) (x : Port) : (setPort s p x).chain.x = s.chain.x := rfl
@[simp] theorem setPort_chain_y (s : State) (p : Nat) (x : Port) : (setPort s p x).chain.y = s.chain.y := rfl
@[simp] theorem setPort_chain_upPort (s : State) (p : Nat) (x : Port) :
    (setPort s p x).chain.upPort = s.chain.upPort := rfl
@[simp] theorem setPort_chain_topology (s : State) (p : Nat) (x : Port) :
    (setPort s p x).chain.topology = s.chain.topology := rfl
@[simp] theorem setPort_chain_tideAligned (s : State) (p : Nat) (x : Port) :
    (setPort s p x).chain.tideAligned = s.chain.tideAligned := rfl
@[simp] theorem setPort_chain_legBound (s : State) (p : Nat) (x : Port) :
    (setPort s p x).chain.legBound = s.chain.legBound := rfl
@[simp] theorem setPort_chain_theta (s : State) (p : Nat) (x : Port) :
    (setPort s p x).chain.theta = s.chain.theta := rfl
@[simp] theorem setPort_chain_devices (s : State) (p : Nat) (x : Port) :
    (setPort s p x).chain.devices = s.chain.devices := rfl
@[simp] theorem setPort_chain_ports (s : State) (p : Nat) (x : Port) :
    (setPort s p x).chain.ports = tabSet s.chain.ports p x := rfl
@[simp] theorem setPort_chain_lanes (s : State) (p : Nat) (x : Port) :
    (setPort s p x).chain.lanes = s.chain.lanes := rfl
@[simp] theorem setPort_chain_lastTrig (s : State) (p : Nat) (x : Port) :
    (setPort s p x).chain.lastTrig = s.chain.lastTrig := rfl
@[simp] theorem setPort_chain_pendTrig (s : State) (p : Nat) (x : Port) :
    (setPort s p x).chain.pendTrig = s.chain.pendTrig := rfl
@[simp] theorem setPort_chain_meas (s : State) (p : Nat) (x : Port) : (setPort s p x).chain.meas = s.chain.meas := rfl
@[simp] theorem setPort_chain_correction (s : State) (p : Nat) (x : Port) :
    (setPort s p x).chain.correction = s.chain.correction := rfl
@[simp] theorem setPort_chain_drift (s : State) (p : Nat) (x : Port) :
    (setPort s p x).chain.drift = s.chain.drift := rfl
@[simp] theorem setPort_chain_rootPhase (s : State) (p : Nat) (x : Port) :
    (setPort s p x).chain.rootPhase = s.chain.rootPhase := rfl
@[simp] theorem setPort_chain_stepAt (s : State) (p : Nat) (x : Port) :
    (setPort s p x).chain.stepAt = s.chain.stepAt := rfl
@[simp] theorem setPort_chain_ovenAt (s : State) (p : Nat) (x : Port) :
    (setPort s p x).chain.ovenAt = s.chain.ovenAt := rfl
@[simp] theorem setPort_chain_lost (s : State) (p : Nat) (x : Port) : (setPort s p x).chain.lost = s.chain.lost := rfl
@[simp] theorem setPort_chain_grants (s : State) (p : Nat) (x : Port) :
    (setPort s p x).chain.grants = s.chain.grants := rfl
@[simp] theorem setPort_chain_track (s : State) (p : Nat) (x : Port) :
    (setPort s p x).chain.track = s.chain.track := rfl
@[simp] theorem setPort_chain_count (s : State) (p : Nat) (x : Port) :
    (setPort s p x).chain.count = s.chain.count := rfl

@[simp] theorem setZone_pending (s : State) (z : Nat) (x : Zone) : (setZone s z x).pending = s.pending := rfl
@[simp] theorem setZone_tide (s : State) (z : Nat) (x : Zone) : (setZone s z x).tide = s.tide := rfl
@[simp] theorem setZone_tideOn (s : State) (z : Nat) (x : Zone) : (setZone s z x).tideOn = s.tideOn := rfl
@[simp] theorem setZone_cold (s : State) (z : Nat) (x : Zone) : (setZone s z x).cold = s.cold := rfl
@[simp] theorem setZone_booted (s : State) (z : Nat) (x : Zone) : (setZone s z x).booted = s.booted := rfl
@[simp] theorem setZone_unparked (s : State) (z : Nat) (x : Zone) : (setZone s z x).unparked = s.unparked := rfl
@[simp] theorem setZone_devFault (s : State) (z : Nat) (x : Zone) : (setZone s z x).devFault = s.devFault := rfl
@[simp] theorem setZone_lastDevFault (s : State) (z : Nat) (x : Zone) :
    (setZone s z x).lastDevFault = s.lastDevFault := rfl
@[simp] theorem setZone_lastFaultSource (s : State) (z : Nat) (x : Zone) :
    (setZone s z x).lastFaultSource = s.lastFaultSource := rfl
@[simp] theorem setZone_lastFaultInst (s : State) (z : Nat) (x : Zone) :
    (setZone s z x).lastFaultInst = s.lastFaultInst := rfl
@[simp] theorem setZone_acks (s : State) (z : Nat) (x : Zone) : (setZone s z x).acks = s.acks := rfl
@[simp] theorem setZone_freeCtr (s : State) (z : Nat) (x : Zone) : (setZone s z x).freeCtr = s.freeCtr := rfl
@[simp] theorem setZone_nextOrd (s : State) (z : Nat) (x : Zone) : (setZone s z x).nextOrd = s.nextOrd := rfl
@[simp] theorem setZone_out (s : State) (z : Nat) (x : Zone) : (setZone s z x).out = s.out := rfl
@[simp] theorem setZone_host (s : State) (z : Nat) (x : Zone) : (setZone s z x).host = s.host := rfl
@[simp] theorem setZone_fast (s : State) (z : Nat) (x : Zone) : (setZone s z x).fast = s.fast := rfl
@[simp] theorem setZone_inflight (s : State) (z : Nat) (x : Zone) : (setZone s z x).inflight = s.inflight := rfl
@[simp] theorem setZone_unposted (s : State) (z : Nat) (x : Zone) : (setZone s z x).unposted = s.unposted := rfl
@[simp] theorem setZone_par (s : State) (z : Nat) (x : Zone) : (setZone s z x).par = s.par := rfl
@[simp] theorem setZone_chan (s : State) (z : Nat) (x : Zone) : (setZone s z x).chan = s.chan := rfl
@[simp] theorem setZone_berth (s : State) (z : Nat) (x : Zone) : (setZone s z x).berth = s.berth := rfl
@[simp] theorem setZone_quay (s : State) (z : Nat) (x : Zone) : (setZone s z x).quay = s.quay := rfl
@[simp] theorem setZone_wing (s : State) (z : Nat) (x : Zone) : (setZone s z x).wing = s.wing := rfl
@[simp] theorem setZone_offPlans (s : State) (z : Nat) (x : Zone) : (setZone s z x).offPlans = s.offPlans := rfl
@[simp] theorem setZone_hold (s : State) (z : Nat) (x : Zone) : (setZone s z x).hold = s.hold := rfl
@[simp] theorem setZone_chain (s : State) (z : Nat) (x : Zone) : (setZone s z x).chain = s.chain := rfl
@[simp] theorem setZone_clk (s : State) (z : Nat) (x : Zone) : (setZone s z x).clk = s.clk := rfl
@[simp] theorem setZone_eng (s : State) (z : Nat) (x : Zone) : (setZone s z x).eng = s.eng := rfl
@[simp] theorem setZone_mc (s : State) (z : Nat) (x : Zone) : (setZone s z x).mc = s.mc := rfl
@[simp] theorem setZone_tp (s : State) (z : Nat) (x : Zone) : (setZone s z x).tp = s.tp := rfl
@[simp] theorem setZone_boot (s : State) (z : Nat) (x : Zone) : (setZone s z x).boot = s.boot := rfl
@[simp] theorem setZone_therm_sensors (s : State) (z : Nat) (x : Zone) :
    (setZone s z x).therm.sensors = s.therm.sensors := rfl
@[simp] theorem setZone_therm_zones (s : State) (z : Nat) (x : Zone) :
    (setZone s z x).therm.zones = tabSet s.therm.zones z x := rfl
@[simp] theorem setZone_therm_smb (s : State) (z : Nat) (x : Zone) : (setZone s z x).therm.smb = s.therm.smb := rfl

@[simp] theorem setSensor_pending (s : State) (i : Nat) (x : Sensor) : (setSensor s i x).pending = s.pending := rfl
@[simp] theorem setSensor_tide (s : State) (i : Nat) (x : Sensor) : (setSensor s i x).tide = s.tide := rfl
@[simp] theorem setSensor_tideOn (s : State) (i : Nat) (x : Sensor) : (setSensor s i x).tideOn = s.tideOn := rfl
@[simp] theorem setSensor_cold (s : State) (i : Nat) (x : Sensor) : (setSensor s i x).cold = s.cold := rfl
@[simp] theorem setSensor_booted (s : State) (i : Nat) (x : Sensor) : (setSensor s i x).booted = s.booted := rfl
@[simp] theorem setSensor_unparked (s : State) (i : Nat) (x : Sensor) : (setSensor s i x).unparked = s.unparked := rfl
@[simp] theorem setSensor_devFault (s : State) (i : Nat) (x : Sensor) : (setSensor s i x).devFault = s.devFault := rfl
@[simp] theorem setSensor_lastDevFault (s : State) (i : Nat) (x : Sensor) :
    (setSensor s i x).lastDevFault = s.lastDevFault := rfl
@[simp] theorem setSensor_lastFaultSource (s : State) (i : Nat) (x : Sensor) :
    (setSensor s i x).lastFaultSource = s.lastFaultSource := rfl
@[simp] theorem setSensor_lastFaultInst (s : State) (i : Nat) (x : Sensor) :
    (setSensor s i x).lastFaultInst = s.lastFaultInst := rfl
@[simp] theorem setSensor_acks (s : State) (i : Nat) (x : Sensor) : (setSensor s i x).acks = s.acks := rfl
@[simp] theorem setSensor_freeCtr (s : State) (i : Nat) (x : Sensor) : (setSensor s i x).freeCtr = s.freeCtr := rfl
@[simp] theorem setSensor_nextOrd (s : State) (i : Nat) (x : Sensor) : (setSensor s i x).nextOrd = s.nextOrd := rfl
@[simp] theorem setSensor_out (s : State) (i : Nat) (x : Sensor) : (setSensor s i x).out = s.out := rfl
@[simp] theorem setSensor_host (s : State) (i : Nat) (x : Sensor) : (setSensor s i x).host = s.host := rfl
@[simp] theorem setSensor_fast (s : State) (i : Nat) (x : Sensor) : (setSensor s i x).fast = s.fast := rfl
@[simp] theorem setSensor_inflight (s : State) (i : Nat) (x : Sensor) : (setSensor s i x).inflight = s.inflight := rfl
@[simp] theorem setSensor_unposted (s : State) (i : Nat) (x : Sensor) : (setSensor s i x).unposted = s.unposted := rfl
@[simp] theorem setSensor_par (s : State) (i : Nat) (x : Sensor) : (setSensor s i x).par = s.par := rfl
@[simp] theorem setSensor_chan (s : State) (i : Nat) (x : Sensor) : (setSensor s i x).chan = s.chan := rfl
@[simp] theorem setSensor_berth (s : State) (i : Nat) (x : Sensor) : (setSensor s i x).berth = s.berth := rfl
@[simp] theorem setSensor_quay (s : State) (i : Nat) (x : Sensor) : (setSensor s i x).quay = s.quay := rfl
@[simp] theorem setSensor_wing (s : State) (i : Nat) (x : Sensor) : (setSensor s i x).wing = s.wing := rfl
@[simp] theorem setSensor_offPlans (s : State) (i : Nat) (x : Sensor) : (setSensor s i x).offPlans = s.offPlans := rfl
@[simp] theorem setSensor_hold (s : State) (i : Nat) (x : Sensor) : (setSensor s i x).hold = s.hold := rfl
@[simp] theorem setSensor_chain (s : State) (i : Nat) (x : Sensor) : (setSensor s i x).chain = s.chain := rfl
@[simp] theorem setSensor_clk (s : State) (i : Nat) (x : Sensor) : (setSensor s i x).clk = s.clk := rfl
@[simp] theorem setSensor_eng (s : State) (i : Nat) (x : Sensor) : (setSensor s i x).eng = s.eng := rfl
@[simp] theorem setSensor_mc (s : State) (i : Nat) (x : Sensor) : (setSensor s i x).mc = s.mc := rfl
@[simp] theorem setSensor_tp (s : State) (i : Nat) (x : Sensor) : (setSensor s i x).tp = s.tp := rfl
@[simp] theorem setSensor_boot (s : State) (i : Nat) (x : Sensor) : (setSensor s i x).boot = s.boot := rfl
@[simp] theorem setSensor_therm_sensors (s : State) (i : Nat) (x : Sensor) :
    (setSensor s i x).therm.sensors = tabSet s.therm.sensors i x := rfl
@[simp] theorem setSensor_therm_zones (s : State) (i : Nat) (x : Sensor) :
    (setSensor s i x).therm.zones = s.therm.zones := rfl
@[simp] theorem setSensor_therm_smb (s : State) (i : Nat) (x : Sensor) :
    (setSensor s i x).therm.smb = s.therm.smb := rfl

@[simp] theorem setSq_pending (s : State) (n : Nat) (x : Sq) : (setSq s n x).pending = s.pending := rfl
@[simp] theorem setSq_tide (s : State) (n : Nat) (x : Sq) : (setSq s n x).tide = s.tide := rfl
@[simp] theorem setSq_tideOn (s : State) (n : Nat) (x : Sq) : (setSq s n x).tideOn = s.tideOn := rfl
@[simp] theorem setSq_cold (s : State) (n : Nat) (x : Sq) : (setSq s n x).cold = s.cold := rfl
@[simp] theorem setSq_booted (s : State) (n : Nat) (x : Sq) : (setSq s n x).booted = s.booted := rfl
@[simp] theorem setSq_unparked (s : State) (n : Nat) (x : Sq) : (setSq s n x).unparked = s.unparked := rfl
@[simp] theorem setSq_devFault (s : State) (n : Nat) (x : Sq) : (setSq s n x).devFault = s.devFault := rfl
@[simp] theorem setSq_lastDevFault (s : State) (n : Nat) (x : Sq) : (setSq s n x).lastDevFault = s.lastDevFault := rfl
@[simp] theorem setSq_lastFaultSource (s : State) (n : Nat) (x : Sq) :
    (setSq s n x).lastFaultSource = s.lastFaultSource := rfl
@[simp] theorem setSq_lastFaultInst (s : State) (n : Nat) (x : Sq) :
    (setSq s n x).lastFaultInst = s.lastFaultInst := rfl
@[simp] theorem setSq_acks (s : State) (n : Nat) (x : Sq) : (setSq s n x).acks = s.acks := rfl
@[simp] theorem setSq_freeCtr (s : State) (n : Nat) (x : Sq) : (setSq s n x).freeCtr = s.freeCtr := rfl
@[simp] theorem setSq_nextOrd (s : State) (n : Nat) (x : Sq) : (setSq s n x).nextOrd = s.nextOrd := rfl
@[simp] theorem setSq_out (s : State) (n : Nat) (x : Sq) : (setSq s n x).out = s.out := rfl
@[simp] theorem setSq_fast (s : State) (n : Nat) (x : Sq) : (setSq s n x).fast = s.fast := rfl
@[simp] theorem setSq_inflight (s : State) (n : Nat) (x : Sq) : (setSq s n x).inflight = s.inflight := rfl
@[simp] theorem setSq_unposted (s : State) (n : Nat) (x : Sq) : (setSq s n x).unposted = s.unposted := rfl
@[simp] theorem setSq_par (s : State) (n : Nat) (x : Sq) : (setSq s n x).par = s.par := rfl
@[simp] theorem setSq_chan (s : State) (n : Nat) (x : Sq) : (setSq s n x).chan = s.chan := rfl
@[simp] theorem setSq_berth (s : State) (n : Nat) (x : Sq) : (setSq s n x).berth = s.berth := rfl
@[simp] theorem setSq_quay (s : State) (n : Nat) (x : Sq) : (setSq s n x).quay = s.quay := rfl
@[simp] theorem setSq_wing (s : State) (n : Nat) (x : Sq) : (setSq s n x).wing = s.wing := rfl
@[simp] theorem setSq_offPlans (s : State) (n : Nat) (x : Sq) : (setSq s n x).offPlans = s.offPlans := rfl
@[simp] theorem setSq_hold (s : State) (n : Nat) (x : Sq) : (setSq s n x).hold = s.hold := rfl
@[simp] theorem setSq_chain (s : State) (n : Nat) (x : Sq) : (setSq s n x).chain = s.chain := rfl
@[simp] theorem setSq_clk (s : State) (n : Nat) (x : Sq) : (setSq s n x).clk = s.clk := rfl
@[simp] theorem setSq_therm (s : State) (n : Nat) (x : Sq) : (setSq s n x).therm = s.therm := rfl
@[simp] theorem setSq_eng (s : State) (n : Nat) (x : Sq) : (setSq s n x).eng = s.eng := rfl
@[simp] theorem setSq_mc (s : State) (n : Nat) (x : Sq) : (setSq s n x).mc = s.mc := rfl
@[simp] theorem setSq_tp (s : State) (n : Nat) (x : Sq) : (setSq s n x).tp = s.tp := rfl
@[simp] theorem setSq_boot (s : State) (n : Nat) (x : Sq) : (setSq s n x).boot = s.boot := rfl
@[simp] theorem setSq_host_sq (s : State) (n : Nat) (x : Sq) : (setSq s n x).host.sq = tabSet s.host.sq n x := rfl
@[simp] theorem setSq_host_rq (s : State) (n : Nat) (x : Sq) : (setSq s n x).host.rq = s.host.rq := rfl
@[simp] theorem setSq_host_rqMem (s : State) (n : Nat) (x : Sq) : (setSq s n x).host.rqMem = s.host.rqMem := rfl
@[simp] theorem setSq_host_hostMem (s : State) (n : Nat) (x : Sq) : (setSq s n x).host.hostMem = s.host.hostMem := rfl
@[simp] theorem setSq_host_heldReplies (s : State) (n : Nat) (x : Sq) :
    (setSq s n x).host.heldReplies = s.host.heldReplies := rfl
@[simp] theorem setSq_host_msix (s : State) (n : Nat) (x : Sq) : (setSq s n x).host.msix = s.host.msix := rfl
@[simp] theorem setSq_host_msixEn (s : State) (n : Nat) (x : Sq) : (setSq s n x).host.msixEn = s.host.msixEn := rfl
@[simp] theorem setSq_host_funcMask (s : State) (n : Nat) (x : Sq) :
    (setSq s n x).host.funcMask = s.host.funcMask := rfl
@[simp] theorem setSq_host_linkUp (s : State) (n : Nat) (x : Sq) : (setSq s n x).host.linkUp = s.host.linkUp := rfl
@[simp] theorem setSq_host_speed (s : State) (n : Nat) (x : Sq) : (setSq s n x).host.speed = s.host.speed := rfl
@[simp] theorem setSq_host_width (s : State) (n : Nat) (x : Sq) : (setSq s n x).host.width = s.host.width := rfl
@[simp] theorem setSq_host_reversed (s : State) (n : Nat) (x : Sq) :
    (setSq s n x).host.reversed = s.host.reversed := rfl
@[simp] theorem setSq_host_busMaster (s : State) (n : Nat) (x : Sq) :
    (setSq s n x).host.busMaster = s.host.busMaster := rfl
@[simp] theorem setSq_host_dState (s : State) (n : Nat) (x : Sq) : (setSq s n x).host.dState = s.host.dState := rfl
@[simp] theorem setSq_host_inL1 (s : State) (n : Nat) (x : Sq) : (setSq s n x).host.inL1 = s.host.inL1 := rfl
@[simp] theorem setSq_host_perstHeld (s : State) (n : Nat) (x : Sq) :
    (setSq s n x).host.perstHeld = s.host.perstHeld := rfl
@[simp] theorem setSq_host_subsysVendor (s : State) (n : Nat) (x : Sq) :
    (setSq s n x).host.subsysVendor = s.host.subsysVendor := rfl
@[simp] theorem setSq_host_subsysId (s : State) (n : Nat) (x : Sq) :
    (setSq s n x).host.subsysId = s.host.subsysId := rfl
@[simp] theorem setSq_host_config (s : State) (n : Nat) (x : Sq) : (setSq s n x).host.config = s.host.config := rfl
@[simp] theorem setSq_host_latch (s : State) (n : Nat) (x : Sq) : (setSq s n x).host.latch = s.host.latch := rfl
@[simp] theorem setSq_host_lastType (s : State) (n : Nat) (x : Sq) :
    (setSq s n x).host.lastType = s.host.lastType := rfl
@[simp] theorem setSq_host_lastScope (s : State) (n : Nat) (x : Sq) :
    (setSq s n x).host.lastScope = s.host.lastScope := rfl
@[simp] theorem setSq_host_lastInst (s : State) (n : Nat) (x : Sq) :
    (setSq s n x).host.lastInst = s.host.lastInst := rfl
@[simp] theorem setSq_host_inReset (s : State) (n : Nat) (x : Sq) : (setSq s n x).host.inReset = s.host.inReset := rfl
@[simp] theorem setSq_host_lastFlush (s : State) (n : Nat) (x : Sq) :
    (setSq s n x).host.lastFlush = s.host.lastFlush := rfl

@[simp] theorem setRq_pending (s : State) (m : Nat) (x : Rq) : (setRq s m x).pending = s.pending := rfl
@[simp] theorem setRq_tide (s : State) (m : Nat) (x : Rq) : (setRq s m x).tide = s.tide := rfl
@[simp] theorem setRq_tideOn (s : State) (m : Nat) (x : Rq) : (setRq s m x).tideOn = s.tideOn := rfl
@[simp] theorem setRq_cold (s : State) (m : Nat) (x : Rq) : (setRq s m x).cold = s.cold := rfl
@[simp] theorem setRq_booted (s : State) (m : Nat) (x : Rq) : (setRq s m x).booted = s.booted := rfl
@[simp] theorem setRq_unparked (s : State) (m : Nat) (x : Rq) : (setRq s m x).unparked = s.unparked := rfl
@[simp] theorem setRq_devFault (s : State) (m : Nat) (x : Rq) : (setRq s m x).devFault = s.devFault := rfl
@[simp] theorem setRq_lastDevFault (s : State) (m : Nat) (x : Rq) : (setRq s m x).lastDevFault = s.lastDevFault := rfl
@[simp] theorem setRq_lastFaultSource (s : State) (m : Nat) (x : Rq) :
    (setRq s m x).lastFaultSource = s.lastFaultSource := rfl
@[simp] theorem setRq_lastFaultInst (s : State) (m : Nat) (x : Rq) :
    (setRq s m x).lastFaultInst = s.lastFaultInst := rfl
@[simp] theorem setRq_acks (s : State) (m : Nat) (x : Rq) : (setRq s m x).acks = s.acks := rfl
@[simp] theorem setRq_freeCtr (s : State) (m : Nat) (x : Rq) : (setRq s m x).freeCtr = s.freeCtr := rfl
@[simp] theorem setRq_nextOrd (s : State) (m : Nat) (x : Rq) : (setRq s m x).nextOrd = s.nextOrd := rfl
@[simp] theorem setRq_out (s : State) (m : Nat) (x : Rq) : (setRq s m x).out = s.out := rfl
@[simp] theorem setRq_fast (s : State) (m : Nat) (x : Rq) : (setRq s m x).fast = s.fast := rfl
@[simp] theorem setRq_inflight (s : State) (m : Nat) (x : Rq) : (setRq s m x).inflight = s.inflight := rfl
@[simp] theorem setRq_unposted (s : State) (m : Nat) (x : Rq) : (setRq s m x).unposted = s.unposted := rfl
@[simp] theorem setRq_par (s : State) (m : Nat) (x : Rq) : (setRq s m x).par = s.par := rfl
@[simp] theorem setRq_chan (s : State) (m : Nat) (x : Rq) : (setRq s m x).chan = s.chan := rfl
@[simp] theorem setRq_berth (s : State) (m : Nat) (x : Rq) : (setRq s m x).berth = s.berth := rfl
@[simp] theorem setRq_quay (s : State) (m : Nat) (x : Rq) : (setRq s m x).quay = s.quay := rfl
@[simp] theorem setRq_wing (s : State) (m : Nat) (x : Rq) : (setRq s m x).wing = s.wing := rfl
@[simp] theorem setRq_offPlans (s : State) (m : Nat) (x : Rq) : (setRq s m x).offPlans = s.offPlans := rfl
@[simp] theorem setRq_hold (s : State) (m : Nat) (x : Rq) : (setRq s m x).hold = s.hold := rfl
@[simp] theorem setRq_chain (s : State) (m : Nat) (x : Rq) : (setRq s m x).chain = s.chain := rfl
@[simp] theorem setRq_clk (s : State) (m : Nat) (x : Rq) : (setRq s m x).clk = s.clk := rfl
@[simp] theorem setRq_therm (s : State) (m : Nat) (x : Rq) : (setRq s m x).therm = s.therm := rfl
@[simp] theorem setRq_eng (s : State) (m : Nat) (x : Rq) : (setRq s m x).eng = s.eng := rfl
@[simp] theorem setRq_mc (s : State) (m : Nat) (x : Rq) : (setRq s m x).mc = s.mc := rfl
@[simp] theorem setRq_tp (s : State) (m : Nat) (x : Rq) : (setRq s m x).tp = s.tp := rfl
@[simp] theorem setRq_boot (s : State) (m : Nat) (x : Rq) : (setRq s m x).boot = s.boot := rfl
@[simp] theorem setRq_host_sq (s : State) (m : Nat) (x : Rq) : (setRq s m x).host.sq = s.host.sq := rfl
@[simp] theorem setRq_host_rq (s : State) (m : Nat) (x : Rq) : (setRq s m x).host.rq = tabSet s.host.rq m x := rfl
@[simp] theorem setRq_host_rqMem (s : State) (m : Nat) (x : Rq) : (setRq s m x).host.rqMem = s.host.rqMem := rfl
@[simp] theorem setRq_host_hostMem (s : State) (m : Nat) (x : Rq) : (setRq s m x).host.hostMem = s.host.hostMem := rfl
@[simp] theorem setRq_host_heldReplies (s : State) (m : Nat) (x : Rq) :
    (setRq s m x).host.heldReplies = s.host.heldReplies := rfl
@[simp] theorem setRq_host_msix (s : State) (m : Nat) (x : Rq) : (setRq s m x).host.msix = s.host.msix := rfl
@[simp] theorem setRq_host_msixEn (s : State) (m : Nat) (x : Rq) : (setRq s m x).host.msixEn = s.host.msixEn := rfl
@[simp] theorem setRq_host_funcMask (s : State) (m : Nat) (x : Rq) :
    (setRq s m x).host.funcMask = s.host.funcMask := rfl
@[simp] theorem setRq_host_linkUp (s : State) (m : Nat) (x : Rq) : (setRq s m x).host.linkUp = s.host.linkUp := rfl
@[simp] theorem setRq_host_speed (s : State) (m : Nat) (x : Rq) : (setRq s m x).host.speed = s.host.speed := rfl
@[simp] theorem setRq_host_width (s : State) (m : Nat) (x : Rq) : (setRq s m x).host.width = s.host.width := rfl
@[simp] theorem setRq_host_reversed (s : State) (m : Nat) (x : Rq) :
    (setRq s m x).host.reversed = s.host.reversed := rfl
@[simp] theorem setRq_host_busMaster (s : State) (m : Nat) (x : Rq) :
    (setRq s m x).host.busMaster = s.host.busMaster := rfl
@[simp] theorem setRq_host_dState (s : State) (m : Nat) (x : Rq) : (setRq s m x).host.dState = s.host.dState := rfl
@[simp] theorem setRq_host_inL1 (s : State) (m : Nat) (x : Rq) : (setRq s m x).host.inL1 = s.host.inL1 := rfl
@[simp] theorem setRq_host_perstHeld (s : State) (m : Nat) (x : Rq) :
    (setRq s m x).host.perstHeld = s.host.perstHeld := rfl
@[simp] theorem setRq_host_subsysVendor (s : State) (m : Nat) (x : Rq) :
    (setRq s m x).host.subsysVendor = s.host.subsysVendor := rfl
@[simp] theorem setRq_host_subsysId (s : State) (m : Nat) (x : Rq) :
    (setRq s m x).host.subsysId = s.host.subsysId := rfl
@[simp] theorem setRq_host_config (s : State) (m : Nat) (x : Rq) : (setRq s m x).host.config = s.host.config := rfl
@[simp] theorem setRq_host_latch (s : State) (m : Nat) (x : Rq) : (setRq s m x).host.latch = s.host.latch := rfl
@[simp] theorem setRq_host_lastType (s : State) (m : Nat) (x : Rq) :
    (setRq s m x).host.lastType = s.host.lastType := rfl
@[simp] theorem setRq_host_lastScope (s : State) (m : Nat) (x : Rq) :
    (setRq s m x).host.lastScope = s.host.lastScope := rfl
@[simp] theorem setRq_host_lastInst (s : State) (m : Nat) (x : Rq) :
    (setRq s m x).host.lastInst = s.host.lastInst := rfl
@[simp] theorem setRq_host_inReset (s : State) (m : Nat) (x : Rq) : (setRq s m x).host.inReset = s.host.inReset := rfl
@[simp] theorem setRq_host_lastFlush (s : State) (m : Nat) (x : Rq) :
    (setRq s m x).host.lastFlush = s.host.lastFlush := rfl

@[simp] theorem setMsix_pending (s : State) (v : Nat) (x : MsixVec) : (setMsix s v x).pending = s.pending := rfl
@[simp] theorem setMsix_tide (s : State) (v : Nat) (x : MsixVec) : (setMsix s v x).tide = s.tide := rfl
@[simp] theorem setMsix_tideOn (s : State) (v : Nat) (x : MsixVec) : (setMsix s v x).tideOn = s.tideOn := rfl
@[simp] theorem setMsix_cold (s : State) (v : Nat) (x : MsixVec) : (setMsix s v x).cold = s.cold := rfl
@[simp] theorem setMsix_booted (s : State) (v : Nat) (x : MsixVec) : (setMsix s v x).booted = s.booted := rfl
@[simp] theorem setMsix_unparked (s : State) (v : Nat) (x : MsixVec) : (setMsix s v x).unparked = s.unparked := rfl
@[simp] theorem setMsix_devFault (s : State) (v : Nat) (x : MsixVec) : (setMsix s v x).devFault = s.devFault := rfl
@[simp] theorem setMsix_lastDevFault (s : State) (v : Nat) (x : MsixVec) :
    (setMsix s v x).lastDevFault = s.lastDevFault := rfl
@[simp] theorem setMsix_lastFaultSource (s : State) (v : Nat) (x : MsixVec) :
    (setMsix s v x).lastFaultSource = s.lastFaultSource := rfl
@[simp] theorem setMsix_lastFaultInst (s : State) (v : Nat) (x : MsixVec) :
    (setMsix s v x).lastFaultInst = s.lastFaultInst := rfl
@[simp] theorem setMsix_acks (s : State) (v : Nat) (x : MsixVec) : (setMsix s v x).acks = s.acks := rfl
@[simp] theorem setMsix_freeCtr (s : State) (v : Nat) (x : MsixVec) : (setMsix s v x).freeCtr = s.freeCtr := rfl
@[simp] theorem setMsix_nextOrd (s : State) (v : Nat) (x : MsixVec) : (setMsix s v x).nextOrd = s.nextOrd := rfl
@[simp] theorem setMsix_out (s : State) (v : Nat) (x : MsixVec) : (setMsix s v x).out = s.out := rfl
@[simp] theorem setMsix_fast (s : State) (v : Nat) (x : MsixVec) : (setMsix s v x).fast = s.fast := rfl
@[simp] theorem setMsix_inflight (s : State) (v : Nat) (x : MsixVec) : (setMsix s v x).inflight = s.inflight := rfl
@[simp] theorem setMsix_unposted (s : State) (v : Nat) (x : MsixVec) : (setMsix s v x).unposted = s.unposted := rfl
@[simp] theorem setMsix_par (s : State) (v : Nat) (x : MsixVec) : (setMsix s v x).par = s.par := rfl
@[simp] theorem setMsix_chan (s : State) (v : Nat) (x : MsixVec) : (setMsix s v x).chan = s.chan := rfl
@[simp] theorem setMsix_berth (s : State) (v : Nat) (x : MsixVec) : (setMsix s v x).berth = s.berth := rfl
@[simp] theorem setMsix_quay (s : State) (v : Nat) (x : MsixVec) : (setMsix s v x).quay = s.quay := rfl
@[simp] theorem setMsix_wing (s : State) (v : Nat) (x : MsixVec) : (setMsix s v x).wing = s.wing := rfl
@[simp] theorem setMsix_offPlans (s : State) (v : Nat) (x : MsixVec) : (setMsix s v x).offPlans = s.offPlans := rfl
@[simp] theorem setMsix_hold (s : State) (v : Nat) (x : MsixVec) : (setMsix s v x).hold = s.hold := rfl
@[simp] theorem setMsix_chain (s : State) (v : Nat) (x : MsixVec) : (setMsix s v x).chain = s.chain := rfl
@[simp] theorem setMsix_clk (s : State) (v : Nat) (x : MsixVec) : (setMsix s v x).clk = s.clk := rfl
@[simp] theorem setMsix_therm (s : State) (v : Nat) (x : MsixVec) : (setMsix s v x).therm = s.therm := rfl
@[simp] theorem setMsix_eng (s : State) (v : Nat) (x : MsixVec) : (setMsix s v x).eng = s.eng := rfl
@[simp] theorem setMsix_mc (s : State) (v : Nat) (x : MsixVec) : (setMsix s v x).mc = s.mc := rfl
@[simp] theorem setMsix_tp (s : State) (v : Nat) (x : MsixVec) : (setMsix s v x).tp = s.tp := rfl
@[simp] theorem setMsix_boot (s : State) (v : Nat) (x : MsixVec) : (setMsix s v x).boot = s.boot := rfl
@[simp] theorem setMsix_host_sq (s : State) (v : Nat) (x : MsixVec) : (setMsix s v x).host.sq = s.host.sq := rfl
@[simp] theorem setMsix_host_rq (s : State) (v : Nat) (x : MsixVec) : (setMsix s v x).host.rq = s.host.rq := rfl
@[simp] theorem setMsix_host_rqMem (s : State) (v : Nat) (x : MsixVec) :
    (setMsix s v x).host.rqMem = s.host.rqMem := rfl
@[simp] theorem setMsix_host_hostMem (s : State) (v : Nat) (x : MsixVec) :
    (setMsix s v x).host.hostMem = s.host.hostMem := rfl
@[simp] theorem setMsix_host_heldReplies (s : State) (v : Nat) (x : MsixVec) :
    (setMsix s v x).host.heldReplies = s.host.heldReplies := rfl
@[simp] theorem setMsix_host_msix (s : State) (v : Nat) (x : MsixVec) :
    (setMsix s v x).host.msix = tabSet s.host.msix v x := rfl
@[simp] theorem setMsix_host_msixEn (s : State) (v : Nat) (x : MsixVec) :
    (setMsix s v x).host.msixEn = s.host.msixEn := rfl
@[simp] theorem setMsix_host_funcMask (s : State) (v : Nat) (x : MsixVec) :
    (setMsix s v x).host.funcMask = s.host.funcMask := rfl
@[simp] theorem setMsix_host_linkUp (s : State) (v : Nat) (x : MsixVec) :
    (setMsix s v x).host.linkUp = s.host.linkUp := rfl
@[simp] theorem setMsix_host_speed (s : State) (v : Nat) (x : MsixVec) :
    (setMsix s v x).host.speed = s.host.speed := rfl
@[simp] theorem setMsix_host_width (s : State) (v : Nat) (x : MsixVec) :
    (setMsix s v x).host.width = s.host.width := rfl
@[simp] theorem setMsix_host_reversed (s : State) (v : Nat) (x : MsixVec) :
    (setMsix s v x).host.reversed = s.host.reversed := rfl
@[simp] theorem setMsix_host_busMaster (s : State) (v : Nat) (x : MsixVec) :
    (setMsix s v x).host.busMaster = s.host.busMaster := rfl
@[simp] theorem setMsix_host_dState (s : State) (v : Nat) (x : MsixVec) :
    (setMsix s v x).host.dState = s.host.dState := rfl
@[simp] theorem setMsix_host_inL1 (s : State) (v : Nat) (x : MsixVec) : (setMsix s v x).host.inL1 = s.host.inL1 := rfl
@[simp] theorem setMsix_host_perstHeld (s : State) (v : Nat) (x : MsixVec) :
    (setMsix s v x).host.perstHeld = s.host.perstHeld := rfl
@[simp] theorem setMsix_host_subsysVendor (s : State) (v : Nat) (x : MsixVec) :
    (setMsix s v x).host.subsysVendor = s.host.subsysVendor := rfl
@[simp] theorem setMsix_host_subsysId (s : State) (v : Nat) (x : MsixVec) :
    (setMsix s v x).host.subsysId = s.host.subsysId := rfl
@[simp] theorem setMsix_host_config (s : State) (v : Nat) (x : MsixVec) :
    (setMsix s v x).host.config = s.host.config := rfl
@[simp] theorem setMsix_host_latch (s : State) (v : Nat) (x : MsixVec) :
    (setMsix s v x).host.latch = s.host.latch := rfl
@[simp] theorem setMsix_host_lastType (s : State) (v : Nat) (x : MsixVec) :
    (setMsix s v x).host.lastType = s.host.lastType := rfl
@[simp] theorem setMsix_host_lastScope (s : State) (v : Nat) (x : MsixVec) :
    (setMsix s v x).host.lastScope = s.host.lastScope := rfl
@[simp] theorem setMsix_host_lastInst (s : State) (v : Nat) (x : MsixVec) :
    (setMsix s v x).host.lastInst = s.host.lastInst := rfl
@[simp] theorem setMsix_host_inReset (s : State) (v : Nat) (x : MsixVec) :
    (setMsix s v x).host.inReset = s.host.inReset := rfl
@[simp] theorem setMsix_host_lastFlush (s : State) (v : Nat) (x : MsixVec) :
    (setMsix s v x).host.lastFlush = s.host.lastFlush := rfl

@[simp] theorem setAck_pending (s : State) (id : Word) (x : Ack) : (setAck s id x).pending = s.pending := rfl
@[simp] theorem setAck_tide (s : State) (id : Word) (x : Ack) : (setAck s id x).tide = s.tide := rfl
@[simp] theorem setAck_tideOn (s : State) (id : Word) (x : Ack) : (setAck s id x).tideOn = s.tideOn := rfl
@[simp] theorem setAck_cold (s : State) (id : Word) (x : Ack) : (setAck s id x).cold = s.cold := rfl
@[simp] theorem setAck_booted (s : State) (id : Word) (x : Ack) : (setAck s id x).booted = s.booted := rfl
@[simp] theorem setAck_unparked (s : State) (id : Word) (x : Ack) : (setAck s id x).unparked = s.unparked := rfl
@[simp] theorem setAck_devFault (s : State) (id : Word) (x : Ack) : (setAck s id x).devFault = s.devFault := rfl
@[simp] theorem setAck_lastDevFault (s : State) (id : Word) (x : Ack) :
    (setAck s id x).lastDevFault = s.lastDevFault := rfl
@[simp] theorem setAck_lastFaultSource (s : State) (id : Word) (x : Ack) :
    (setAck s id x).lastFaultSource = s.lastFaultSource := rfl
@[simp] theorem setAck_lastFaultInst (s : State) (id : Word) (x : Ack) :
    (setAck s id x).lastFaultInst = s.lastFaultInst := rfl
@[simp] theorem setAck_acks (s : State) (id : Word) (x : Ack) : (setAck s id x).acks = tabSet s.acks id.toNat x := rfl
@[simp] theorem setAck_freeCtr (s : State) (id : Word) (x : Ack) : (setAck s id x).freeCtr = s.freeCtr := rfl
@[simp] theorem setAck_nextOrd (s : State) (id : Word) (x : Ack) : (setAck s id x).nextOrd = s.nextOrd := rfl
@[simp] theorem setAck_out (s : State) (id : Word) (x : Ack) : (setAck s id x).out = s.out := rfl
@[simp] theorem setAck_host (s : State) (id : Word) (x : Ack) : (setAck s id x).host = s.host := rfl
@[simp] theorem setAck_fast (s : State) (id : Word) (x : Ack) : (setAck s id x).fast = s.fast := rfl
@[simp] theorem setAck_inflight (s : State) (id : Word) (x : Ack) : (setAck s id x).inflight = s.inflight := rfl
@[simp] theorem setAck_unposted (s : State) (id : Word) (x : Ack) : (setAck s id x).unposted = s.unposted := rfl
@[simp] theorem setAck_par (s : State) (id : Word) (x : Ack) : (setAck s id x).par = s.par := rfl
@[simp] theorem setAck_chan (s : State) (id : Word) (x : Ack) : (setAck s id x).chan = s.chan := rfl
@[simp] theorem setAck_berth (s : State) (id : Word) (x : Ack) : (setAck s id x).berth = s.berth := rfl
@[simp] theorem setAck_quay (s : State) (id : Word) (x : Ack) : (setAck s id x).quay = s.quay := rfl
@[simp] theorem setAck_wing (s : State) (id : Word) (x : Ack) : (setAck s id x).wing = s.wing := rfl
@[simp] theorem setAck_offPlans (s : State) (id : Word) (x : Ack) : (setAck s id x).offPlans = s.offPlans := rfl
@[simp] theorem setAck_hold (s : State) (id : Word) (x : Ack) : (setAck s id x).hold = s.hold := rfl
@[simp] theorem setAck_chain (s : State) (id : Word) (x : Ack) : (setAck s id x).chain = s.chain := rfl
@[simp] theorem setAck_clk (s : State) (id : Word) (x : Ack) : (setAck s id x).clk = s.clk := rfl
@[simp] theorem setAck_therm (s : State) (id : Word) (x : Ack) : (setAck s id x).therm = s.therm := rfl
@[simp] theorem setAck_eng (s : State) (id : Word) (x : Ack) : (setAck s id x).eng = s.eng := rfl
@[simp] theorem setAck_mc (s : State) (id : Word) (x : Ack) : (setAck s id x).mc = s.mc := rfl
@[simp] theorem setAck_tp (s : State) (id : Word) (x : Ack) : (setAck s id x).tp = s.tp := rfl
@[simp] theorem setAck_boot (s : State) (id : Word) (x : Ack) : (setAck s id x).boot = s.boot := rfl

@[simp] theorem reach_pending (s : State) (i : Nat) : (reach s i).pending = s.pending := rfl
@[simp] theorem reach_tide (s : State) (i : Nat) : (reach s i).tide = Nat.max s.tide (i % 2 ^ 64) := rfl
@[simp] theorem reach_tideOn (s : State) (i : Nat) : (reach s i).tideOn = s.tideOn := rfl
@[simp] theorem reach_cold (s : State) (i : Nat) : (reach s i).cold = s.cold := rfl
@[simp] theorem reach_booted (s : State) (i : Nat) : (reach s i).booted = s.booted := rfl
@[simp] theorem reach_unparked (s : State) (i : Nat) : (reach s i).unparked = s.unparked := rfl
@[simp] theorem reach_devFault (s : State) (i : Nat) : (reach s i).devFault = s.devFault := rfl
@[simp] theorem reach_lastDevFault (s : State) (i : Nat) : (reach s i).lastDevFault = s.lastDevFault := rfl
@[simp] theorem reach_lastFaultSource (s : State) (i : Nat) : (reach s i).lastFaultSource = s.lastFaultSource := rfl
@[simp] theorem reach_lastFaultInst (s : State) (i : Nat) : (reach s i).lastFaultInst = s.lastFaultInst := rfl
@[simp] theorem reach_acks (s : State) (i : Nat) : (reach s i).acks = s.acks := rfl
@[simp] theorem reach_freeCtr (s : State) (i : Nat) : (reach s i).freeCtr = s.freeCtr := rfl
@[simp] theorem reach_nextOrd (s : State) (i : Nat) : (reach s i).nextOrd = s.nextOrd := rfl
@[simp] theorem reach_out (s : State) (i : Nat) : (reach s i).out = s.out := rfl
@[simp] theorem reach_host (s : State) (i : Nat) : (reach s i).host = s.host := rfl
@[simp] theorem reach_fast (s : State) (i : Nat) : (reach s i).fast = s.fast := rfl
@[simp] theorem reach_inflight (s : State) (i : Nat) : (reach s i).inflight = s.inflight := rfl
@[simp] theorem reach_unposted (s : State) (i : Nat) : (reach s i).unposted = s.unposted := rfl
@[simp] theorem reach_par (s : State) (i : Nat) : (reach s i).par = s.par := rfl
@[simp] theorem reach_chan (s : State) (i : Nat) : (reach s i).chan = s.chan := rfl
@[simp] theorem reach_berth (s : State) (i : Nat) : (reach s i).berth = s.berth := rfl
@[simp] theorem reach_quay (s : State) (i : Nat) : (reach s i).quay = s.quay := rfl
@[simp] theorem reach_wing (s : State) (i : Nat) : (reach s i).wing = s.wing := rfl
@[simp] theorem reach_offPlans (s : State) (i : Nat) : (reach s i).offPlans = s.offPlans := rfl
@[simp] theorem reach_hold (s : State) (i : Nat) : (reach s i).hold = s.hold := rfl
@[simp] theorem reach_chain (s : State) (i : Nat) : (reach s i).chain = s.chain := rfl
@[simp] theorem reach_clk (s : State) (i : Nat) : (reach s i).clk = s.clk := rfl
@[simp] theorem reach_therm (s : State) (i : Nat) : (reach s i).therm = s.therm := rfl
@[simp] theorem reach_eng (s : State) (i : Nat) : (reach s i).eng = s.eng := rfl
@[simp] theorem reach_mc (s : State) (i : Nat) : (reach s i).mc = s.mc := rfl
@[simp] theorem reach_tp (s : State) (i : Nat) : (reach s i).tp = s.tp := rfl
@[simp] theorem reach_boot (s : State) (i : Nat) : (reach s i).boot = s.boot := rfl

@[simp] theorem putCmd_pending (s : State) (c : Cmd) : (putCmd s c).pending = s.pending := rfl
@[simp] theorem putCmd_tide (s : State) (c : Cmd) : (putCmd s c).tide = s.tide := rfl
@[simp] theorem putCmd_tideOn (s : State) (c : Cmd) : (putCmd s c).tideOn = s.tideOn := rfl
@[simp] theorem putCmd_cold (s : State) (c : Cmd) : (putCmd s c).cold = s.cold := rfl
@[simp] theorem putCmd_booted (s : State) (c : Cmd) : (putCmd s c).booted = s.booted := rfl
@[simp] theorem putCmd_unparked (s : State) (c : Cmd) : (putCmd s c).unparked = s.unparked := rfl
@[simp] theorem putCmd_devFault (s : State) (c : Cmd) : (putCmd s c).devFault = s.devFault := rfl
@[simp] theorem putCmd_lastDevFault (s : State) (c : Cmd) : (putCmd s c).lastDevFault = s.lastDevFault := rfl
@[simp] theorem putCmd_lastFaultSource (s : State) (c : Cmd) : (putCmd s c).lastFaultSource = s.lastFaultSource := rfl
@[simp] theorem putCmd_lastFaultInst (s : State) (c : Cmd) : (putCmd s c).lastFaultInst = s.lastFaultInst := rfl
@[simp] theorem putCmd_acks (s : State) (c : Cmd) : (putCmd s c).acks = s.acks := rfl
@[simp] theorem putCmd_freeCtr (s : State) (c : Cmd) : (putCmd s c).freeCtr = s.freeCtr := rfl
@[simp] theorem putCmd_nextOrd (s : State) (c : Cmd) : (putCmd s c).nextOrd = s.nextOrd := rfl
@[simp] theorem putCmd_out (s : State) (c : Cmd) : (putCmd s c).out = s.out := rfl
@[simp] theorem putCmd_host (s : State) (c : Cmd) : (putCmd s c).host = s.host := rfl
@[simp] theorem putCmd_fast (s : State) (c : Cmd) : (putCmd s c).fast = s.fast := rfl
@[simp] theorem putCmd_inflight (s : State) (c : Cmd) :
    (putCmd s c).inflight = s.inflight.map fun x => if x.ord = c.ord then c else x := rfl
@[simp] theorem putCmd_unposted (s : State) (c : Cmd) : (putCmd s c).unposted = s.unposted := rfl
@[simp] theorem putCmd_par (s : State) (c : Cmd) : (putCmd s c).par = s.par := rfl
@[simp] theorem putCmd_chan (s : State) (c : Cmd) : (putCmd s c).chan = s.chan := rfl
@[simp] theorem putCmd_berth (s : State) (c : Cmd) : (putCmd s c).berth = s.berth := rfl
@[simp] theorem putCmd_quay (s : State) (c : Cmd) : (putCmd s c).quay = s.quay := rfl
@[simp] theorem putCmd_wing (s : State) (c : Cmd) : (putCmd s c).wing = s.wing := rfl
@[simp] theorem putCmd_offPlans (s : State) (c : Cmd) : (putCmd s c).offPlans = s.offPlans := rfl
@[simp] theorem putCmd_hold (s : State) (c : Cmd) : (putCmd s c).hold = s.hold := rfl
@[simp] theorem putCmd_chain (s : State) (c : Cmd) : (putCmd s c).chain = s.chain := rfl
@[simp] theorem putCmd_clk (s : State) (c : Cmd) : (putCmd s c).clk = s.clk := rfl
@[simp] theorem putCmd_therm (s : State) (c : Cmd) : (putCmd s c).therm = s.therm := rfl
@[simp] theorem putCmd_eng (s : State) (c : Cmd) : (putCmd s c).eng = s.eng := rfl
@[simp] theorem putCmd_mc (s : State) (c : Cmd) : (putCmd s c).mc = s.mc := rfl
@[simp] theorem putCmd_tp (s : State) (c : Cmd) : (putCmd s c).tp = s.tp := rfl
@[simp] theorem putCmd_boot (s : State) (c : Cmd) : (putCmd s c).boot = s.boot := rfl

@[simp] theorem dropCmd_pending (s : State) (n : Nat) : (dropCmd s n).pending = s.pending := rfl
@[simp] theorem dropCmd_tide (s : State) (n : Nat) : (dropCmd s n).tide = s.tide := rfl
@[simp] theorem dropCmd_tideOn (s : State) (n : Nat) : (dropCmd s n).tideOn = s.tideOn := rfl
@[simp] theorem dropCmd_cold (s : State) (n : Nat) : (dropCmd s n).cold = s.cold := rfl
@[simp] theorem dropCmd_booted (s : State) (n : Nat) : (dropCmd s n).booted = s.booted := rfl
@[simp] theorem dropCmd_unparked (s : State) (n : Nat) : (dropCmd s n).unparked = s.unparked := rfl
@[simp] theorem dropCmd_devFault (s : State) (n : Nat) : (dropCmd s n).devFault = s.devFault := rfl
@[simp] theorem dropCmd_lastDevFault (s : State) (n : Nat) : (dropCmd s n).lastDevFault = s.lastDevFault := rfl
@[simp] theorem dropCmd_lastFaultSource (s : State) (n : Nat) :
    (dropCmd s n).lastFaultSource = s.lastFaultSource := rfl
@[simp] theorem dropCmd_lastFaultInst (s : State) (n : Nat) : (dropCmd s n).lastFaultInst = s.lastFaultInst := rfl
@[simp] theorem dropCmd_acks (s : State) (n : Nat) : (dropCmd s n).acks = s.acks := rfl
@[simp] theorem dropCmd_freeCtr (s : State) (n : Nat) : (dropCmd s n).freeCtr = s.freeCtr := rfl
@[simp] theorem dropCmd_nextOrd (s : State) (n : Nat) : (dropCmd s n).nextOrd = s.nextOrd := rfl
@[simp] theorem dropCmd_out (s : State) (n : Nat) : (dropCmd s n).out = s.out := rfl
@[simp] theorem dropCmd_host (s : State) (n : Nat) : (dropCmd s n).host = s.host := rfl
@[simp] theorem dropCmd_fast (s : State) (n : Nat) : (dropCmd s n).fast = s.fast := rfl
@[simp] theorem dropCmd_inflight (s : State) (n : Nat) :
    (dropCmd s n).inflight = s.inflight.filter fun c => c.ord ≠ n := rfl
@[simp] theorem dropCmd_unposted (s : State) (n : Nat) : (dropCmd s n).unposted = s.unposted := rfl
@[simp] theorem dropCmd_par (s : State) (n : Nat) : (dropCmd s n).par = s.par := rfl
@[simp] theorem dropCmd_chan (s : State) (n : Nat) : (dropCmd s n).chan = s.chan := rfl
@[simp] theorem dropCmd_berth (s : State) (n : Nat) : (dropCmd s n).berth = s.berth := rfl
@[simp] theorem dropCmd_quay (s : State) (n : Nat) : (dropCmd s n).quay = s.quay := rfl
@[simp] theorem dropCmd_wing (s : State) (n : Nat) : (dropCmd s n).wing = s.wing := rfl
@[simp] theorem dropCmd_offPlans (s : State) (n : Nat) : (dropCmd s n).offPlans = s.offPlans := rfl
@[simp] theorem dropCmd_hold (s : State) (n : Nat) : (dropCmd s n).hold = s.hold := rfl
@[simp] theorem dropCmd_chain (s : State) (n : Nat) : (dropCmd s n).chain = s.chain := rfl
@[simp] theorem dropCmd_clk (s : State) (n : Nat) : (dropCmd s n).clk = s.clk := rfl
@[simp] theorem dropCmd_therm (s : State) (n : Nat) : (dropCmd s n).therm = s.therm := rfl
@[simp] theorem dropCmd_eng (s : State) (n : Nat) : (dropCmd s n).eng = s.eng := rfl
@[simp] theorem dropCmd_mc (s : State) (n : Nat) : (dropCmd s n).mc = s.mc := rfl
@[simp] theorem dropCmd_tp (s : State) (n : Nat) : (dropCmd s n).tp = s.tp := rfl
@[simp] theorem dropCmd_boot (s : State) (n : Nat) : (dropCmd s n).boot = s.boot := rfl

/-! ### Counting in an ACK field (R100) touches the ACK fields alone -/

@[simp] theorem count_pending (s : State) (sc i f m : Nat) : (count s sc i f m).pending = s.pending := rfl
@[simp] theorem count_tide (s : State) (sc i f m : Nat) : (count s sc i f m).tide = s.tide := rfl
@[simp] theorem count_tideOn (s : State) (sc i f m : Nat) : (count s sc i f m).tideOn = s.tideOn := rfl
@[simp] theorem count_cold (s : State) (sc i f m : Nat) : (count s sc i f m).cold = s.cold := rfl
@[simp] theorem count_booted (s : State) (sc i f m : Nat) : (count s sc i f m).booted = s.booted := rfl
@[simp] theorem count_unparked (s : State) (sc i f m : Nat) : (count s sc i f m).unparked = s.unparked := rfl
@[simp] theorem count_devFault (s : State) (sc i f m : Nat) : (count s sc i f m).devFault = s.devFault := rfl
@[simp] theorem count_lastDevFault (s : State) (sc i f m : Nat) :
    (count s sc i f m).lastDevFault = s.lastDevFault := rfl
@[simp] theorem count_lastFaultSource (s : State) (sc i f m : Nat) :
    (count s sc i f m).lastFaultSource = s.lastFaultSource := rfl
@[simp] theorem count_lastFaultInst (s : State) (sc i f m : Nat) :
    (count s sc i f m).lastFaultInst = s.lastFaultInst := rfl
@[simp] theorem count_freeCtr (s : State) (sc i f m : Nat) : (count s sc i f m).freeCtr = s.freeCtr := rfl
@[simp] theorem count_nextOrd (s : State) (sc i f m : Nat) : (count s sc i f m).nextOrd = s.nextOrd := rfl
@[simp] theorem count_out (s : State) (sc i f m : Nat) : (count s sc i f m).out = s.out := rfl
@[simp] theorem count_host (s : State) (sc i f m : Nat) : (count s sc i f m).host = s.host := rfl
@[simp] theorem count_fast (s : State) (sc i f m : Nat) : (count s sc i f m).fast = s.fast := rfl
@[simp] theorem count_inflight (s : State) (sc i f m : Nat) : (count s sc i f m).inflight = s.inflight := rfl
@[simp] theorem count_unposted (s : State) (sc i f m : Nat) : (count s sc i f m).unposted = s.unposted := rfl
@[simp] theorem count_par (s : State) (sc i f m : Nat) : (count s sc i f m).par = s.par := rfl
@[simp] theorem count_chan (s : State) (sc i f m : Nat) : (count s sc i f m).chan = s.chan := rfl
@[simp] theorem count_berth (s : State) (sc i f m : Nat) : (count s sc i f m).berth = s.berth := rfl
@[simp] theorem count_quay (s : State) (sc i f m : Nat) : (count s sc i f m).quay = s.quay := rfl
@[simp] theorem count_wing (s : State) (sc i f m : Nat) : (count s sc i f m).wing = s.wing := rfl
@[simp] theorem count_offPlans (s : State) (sc i f m : Nat) : (count s sc i f m).offPlans = s.offPlans := rfl
@[simp] theorem count_hold (s : State) (sc i f m : Nat) : (count s sc i f m).hold = s.hold := rfl
@[simp] theorem count_chain (s : State) (sc i f m : Nat) : (count s sc i f m).chain = s.chain := rfl
@[simp] theorem count_clk (s : State) (sc i f m : Nat) : (count s sc i f m).clk = s.clk := rfl
@[simp] theorem count_therm (s : State) (sc i f m : Nat) : (count s sc i f m).therm = s.therm := rfl
@[simp] theorem count_eng (s : State) (sc i f m : Nat) : (count s sc i f m).eng = s.eng := rfl
@[simp] theorem count_mc (s : State) (sc i f m : Nat) : (count s sc i f m).mc = s.mc := rfl
@[simp] theorem count_tp (s : State) (sc i f m : Nat) : (count s sc i f m).tp = s.tp := rfl
@[simp] theorem count_boot (s : State) (sc i f m : Nat) : (count s sc i f m).boot = s.boot := rfl

/-! ### Tables -/

theorem tabFind_tabSet_same {α : Type} (t : Tab α) (k : Nat) (v : α) : tabFind (tabSet t k v) k = some v := by
  induction t with
  | nil => simp [tabSet, tabFind]
  | cons e t ih =>
    obtain ⟨j, w⟩ := e
    simp only [tabSet]
    split
    · simp [tabFind]
    · split
      · simp [tabFind]
      · have h1 : ¬ j = k := fun h => ‹¬ k = j› h.symm
        simp only [tabFind, if_neg h1]
        rw [if_neg (by omega)]
        exact ih

theorem tabFind_tabSet_other {α : Type} (t : Tab α) (k k' : Nat) (v : α) (h : k' ≠ k) :
    tabFind (tabSet t k v) k' = tabFind t k' := by
  induction t with
  | nil =>
    have h1 : ¬ k = k' := fun e => h e.symm
    simp only [tabSet, tabFind, if_neg h1]
    split <;> rfl
  | cons e t ih =>
    obtain ⟨j, w⟩ := e
    have h1 : ¬ k = k' := fun e => h e.symm
    simp only [tabSet]
    split
    · have h2 : ¬ j = k' := by omega
      subst_vars
      simp only [tabFind, if_neg h1]
    · split
      · simp only [tabFind, if_neg h1]
        by_cases h3 : k' < k
        · rw [if_pos h3]
          have : ¬ j = k' := by omega
          rw [if_neg this, if_pos (by omega)]
        · rw [if_neg h3]
      · simp only [tabFind]
        split
        · rfl
        · split
          · rfl
          · exact ih

@[simp] theorem tabGet_tabSet_same {α : Type} (d : α) (t : Tab α) (k : Nat) (v : α) :
    tabGet d (tabSet t k v) k = v := by
  simp [tabGet, tabFind_tabSet_same]

theorem tabGet_tabSet_other {α : Type} (d : α) (t : Tab α) (k k' : Nat) (v : α) (h : k' ≠ k) :
    tabGet d (tabSet t k v) k' = tabGet d t k' := by
  simp [tabGet, tabFind_tabSet_other t k k' v h]

/-! ### Accessors after updates -/

@[simp] theorem chanAt_setChan (s : State) (c : Nat) (x : Chan) : chanAt (setChan s c x) c = x := tabGet_tabSet_same _ _ _ _
theorem chanAt_setChan_other (s : State) (k k' : Nat) (x : Chan) (h : k' ≠ k) :
    chanAt (setChan s k x) k' = chanAt s k' := tabGet_tabSet_other _ _ _ _ _ h
@[simp] theorem berthAt_setChan (s : State) (k i : Nat) (x : Chan) : berthAt (setChan s k x) i = berthAt s i := rfl
@[simp] theorem quayAt_setChan (s : State) (k i : Nat) (x : Chan) : quayAt (setChan s k x) i = quayAt s i := rfl
@[simp] theorem wingAt_setChan (s : State) (k i : Nat) (x : Chan) : wingAt (setChan s k x) i = wingAt s i := rfl
@[simp] theorem engAt_setChan (s : State) (k i : Nat) (x : Chan) : engAt (setChan s k x) i = engAt s i := rfl
@[simp] theorem tpAt_setChan (s : State) (k i : Nat) (x : Chan) : tpAt (setChan s k x) i = tpAt s i := rfl
@[simp] theorem laneAt_setChan (s : State) (k i : Nat) (x : Chan) : laneAt (setChan s k x) i = laneAt s i := rfl
@[simp] theorem portAt_setChan (s : State) (k i : Nat) (x : Chan) : portAt (setChan s k x) i = portAt s i := rfl
@[simp] theorem zoneAt_setChan (s : State) (k i : Nat) (x : Chan) : zoneAt (setChan s k x) i = zoneAt s i := rfl
@[simp] theorem sensorAt_setChan (s : State) (k i : Nat) (x : Chan) : sensorAt (setChan s k x) i = sensorAt s i := rfl
@[simp] theorem sqAt_setChan (s : State) (k i : Nat) (x : Chan) : sqAt (setChan s k x) i = sqAt s i := rfl
@[simp] theorem rqAt_setChan (s : State) (k i : Nat) (x : Chan) : rqAt (setChan s k x) i = rqAt s i := rfl
@[simp] theorem msixAt_setChan (s : State) (k i : Nat) (x : Chan) : msixAt (setChan s k x) i = msixAt s i := rfl

@[simp] theorem berthAt_setBerth (s : State) (b : Nat) (x : Berth) : berthAt (setBerth s b x) b = x := tabGet_tabSet_same _ _ _ _
theorem berthAt_setBerth_other (s : State) (k k' : Nat) (x : Berth) (h : k' ≠ k) :
    berthAt (setBerth s k x) k' = berthAt s k' := tabGet_tabSet_other _ _ _ _ _ h
@[simp] theorem chanAt_setBerth (s : State) (k i : Nat) (x : Berth) : chanAt (setBerth s k x) i = chanAt s i := rfl
@[simp] theorem quayAt_setBerth (s : State) (k i : Nat) (x : Berth) : quayAt (setBerth s k x) i = quayAt s i := rfl
@[simp] theorem wingAt_setBerth (s : State) (k i : Nat) (x : Berth) : wingAt (setBerth s k x) i = wingAt s i := rfl
@[simp] theorem engAt_setBerth (s : State) (k i : Nat) (x : Berth) : engAt (setBerth s k x) i = engAt s i := rfl
@[simp] theorem tpAt_setBerth (s : State) (k i : Nat) (x : Berth) : tpAt (setBerth s k x) i = tpAt s i := rfl
@[simp] theorem laneAt_setBerth (s : State) (k i : Nat) (x : Berth) : laneAt (setBerth s k x) i = laneAt s i := rfl
@[simp] theorem portAt_setBerth (s : State) (k i : Nat) (x : Berth) : portAt (setBerth s k x) i = portAt s i := rfl
@[simp] theorem zoneAt_setBerth (s : State) (k i : Nat) (x : Berth) : zoneAt (setBerth s k x) i = zoneAt s i := rfl
@[simp] theorem sensorAt_setBerth (s : State) (k i : Nat) (x : Berth) : sensorAt (setBerth s k x) i = sensorAt s i := rfl
@[simp] theorem sqAt_setBerth (s : State) (k i : Nat) (x : Berth) : sqAt (setBerth s k x) i = sqAt s i := rfl
@[simp] theorem rqAt_setBerth (s : State) (k i : Nat) (x : Berth) : rqAt (setBerth s k x) i = rqAt s i := rfl
@[simp] theorem msixAt_setBerth (s : State) (k i : Nat) (x : Berth) : msixAt (setBerth s k x) i = msixAt s i := rfl

@[simp] theorem quayAt_setQuay (s : State) (q : Nat) (x : Quay) : quayAt (setQuay s q x) q = x := tabGet_tabSet_same _ _ _ _
theorem quayAt_setQuay_other (s : State) (k k' : Nat) (x : Quay) (h : k' ≠ k) :
    quayAt (setQuay s k x) k' = quayAt s k' := tabGet_tabSet_other _ _ _ _ _ h
@[simp] theorem chanAt_setQuay (s : State) (k i : Nat) (x : Quay) : chanAt (setQuay s k x) i = chanAt s i := rfl
@[simp] theorem berthAt_setQuay (s : State) (k i : Nat) (x : Quay) : berthAt (setQuay s k x) i = berthAt s i := rfl
@[simp] theorem wingAt_setQuay (s : State) (k i : Nat) (x : Quay) : wingAt (setQuay s k x) i = wingAt s i := rfl
@[simp] theorem engAt_setQuay (s : State) (k i : Nat) (x : Quay) : engAt (setQuay s k x) i = engAt s i := rfl
@[simp] theorem tpAt_setQuay (s : State) (k i : Nat) (x : Quay) : tpAt (setQuay s k x) i = tpAt s i := rfl
@[simp] theorem laneAt_setQuay (s : State) (k i : Nat) (x : Quay) : laneAt (setQuay s k x) i = laneAt s i := rfl
@[simp] theorem portAt_setQuay (s : State) (k i : Nat) (x : Quay) : portAt (setQuay s k x) i = portAt s i := rfl
@[simp] theorem zoneAt_setQuay (s : State) (k i : Nat) (x : Quay) : zoneAt (setQuay s k x) i = zoneAt s i := rfl
@[simp] theorem sensorAt_setQuay (s : State) (k i : Nat) (x : Quay) : sensorAt (setQuay s k x) i = sensorAt s i := rfl
@[simp] theorem sqAt_setQuay (s : State) (k i : Nat) (x : Quay) : sqAt (setQuay s k x) i = sqAt s i := rfl
@[simp] theorem rqAt_setQuay (s : State) (k i : Nat) (x : Quay) : rqAt (setQuay s k x) i = rqAt s i := rfl
@[simp] theorem msixAt_setQuay (s : State) (k i : Nat) (x : Quay) : msixAt (setQuay s k x) i = msixAt s i := rfl

@[simp] theorem wingAt_setWing (s : State) (w : Nat) (x : Wing) : wingAt (setWing s w x) w = x := tabGet_tabSet_same _ _ _ _
theorem wingAt_setWing_other (s : State) (k k' : Nat) (x : Wing) (h : k' ≠ k) :
    wingAt (setWing s k x) k' = wingAt s k' := tabGet_tabSet_other _ _ _ _ _ h
@[simp] theorem chanAt_setWing (s : State) (k i : Nat) (x : Wing) : chanAt (setWing s k x) i = chanAt s i := rfl
@[simp] theorem berthAt_setWing (s : State) (k i : Nat) (x : Wing) : berthAt (setWing s k x) i = berthAt s i := rfl
@[simp] theorem quayAt_setWing (s : State) (k i : Nat) (x : Wing) : quayAt (setWing s k x) i = quayAt s i := rfl
@[simp] theorem engAt_setWing (s : State) (k i : Nat) (x : Wing) : engAt (setWing s k x) i = engAt s i := rfl
@[simp] theorem tpAt_setWing (s : State) (k i : Nat) (x : Wing) : tpAt (setWing s k x) i = tpAt s i := rfl
@[simp] theorem laneAt_setWing (s : State) (k i : Nat) (x : Wing) : laneAt (setWing s k x) i = laneAt s i := rfl
@[simp] theorem portAt_setWing (s : State) (k i : Nat) (x : Wing) : portAt (setWing s k x) i = portAt s i := rfl
@[simp] theorem zoneAt_setWing (s : State) (k i : Nat) (x : Wing) : zoneAt (setWing s k x) i = zoneAt s i := rfl
@[simp] theorem sensorAt_setWing (s : State) (k i : Nat) (x : Wing) : sensorAt (setWing s k x) i = sensorAt s i := rfl
@[simp] theorem sqAt_setWing (s : State) (k i : Nat) (x : Wing) : sqAt (setWing s k x) i = sqAt s i := rfl
@[simp] theorem rqAt_setWing (s : State) (k i : Nat) (x : Wing) : rqAt (setWing s k x) i = rqAt s i := rfl
@[simp] theorem msixAt_setWing (s : State) (k i : Nat) (x : Wing) : msixAt (setWing s k x) i = msixAt s i := rfl

@[simp] theorem engAt_setEng (s : State) (e : Nat) (x : Eng) : engAt (setEng s e x) e = x := tabGet_tabSet_same _ _ _ _
theorem engAt_setEng_other (s : State) (k k' : Nat) (x : Eng) (h : k' ≠ k) :
    engAt (setEng s k x) k' = engAt s k' := tabGet_tabSet_other _ _ _ _ _ h
@[simp] theorem chanAt_setEng (s : State) (k i : Nat) (x : Eng) : chanAt (setEng s k x) i = chanAt s i := rfl
@[simp] theorem berthAt_setEng (s : State) (k i : Nat) (x : Eng) : berthAt (setEng s k x) i = berthAt s i := rfl
@[simp] theorem quayAt_setEng (s : State) (k i : Nat) (x : Eng) : quayAt (setEng s k x) i = quayAt s i := rfl
@[simp] theorem wingAt_setEng (s : State) (k i : Nat) (x : Eng) : wingAt (setEng s k x) i = wingAt s i := rfl
@[simp] theorem tpAt_setEng (s : State) (k i : Nat) (x : Eng) : tpAt (setEng s k x) i = tpAt s i := rfl
@[simp] theorem laneAt_setEng (s : State) (k i : Nat) (x : Eng) : laneAt (setEng s k x) i = laneAt s i := rfl
@[simp] theorem portAt_setEng (s : State) (k i : Nat) (x : Eng) : portAt (setEng s k x) i = portAt s i := rfl
@[simp] theorem zoneAt_setEng (s : State) (k i : Nat) (x : Eng) : zoneAt (setEng s k x) i = zoneAt s i := rfl
@[simp] theorem sensorAt_setEng (s : State) (k i : Nat) (x : Eng) : sensorAt (setEng s k x) i = sensorAt s i := rfl
@[simp] theorem sqAt_setEng (s : State) (k i : Nat) (x : Eng) : sqAt (setEng s k x) i = sqAt s i := rfl
@[simp] theorem rqAt_setEng (s : State) (k i : Nat) (x : Eng) : rqAt (setEng s k x) i = rqAt s i := rfl
@[simp] theorem msixAt_setEng (s : State) (k i : Nat) (x : Eng) : msixAt (setEng s k x) i = msixAt s i := rfl

@[simp] theorem tpAt_setTp (s : State) (p : Nat) (x : Tp) : tpAt (setTp s p x) p = x := tabGet_tabSet_same _ _ _ _
theorem tpAt_setTp_other (s : State) (k k' : Nat) (x : Tp) (h : k' ≠ k) :
    tpAt (setTp s k x) k' = tpAt s k' := tabGet_tabSet_other _ _ _ _ _ h
@[simp] theorem chanAt_setTp (s : State) (k i : Nat) (x : Tp) : chanAt (setTp s k x) i = chanAt s i := rfl
@[simp] theorem berthAt_setTp (s : State) (k i : Nat) (x : Tp) : berthAt (setTp s k x) i = berthAt s i := rfl
@[simp] theorem quayAt_setTp (s : State) (k i : Nat) (x : Tp) : quayAt (setTp s k x) i = quayAt s i := rfl
@[simp] theorem wingAt_setTp (s : State) (k i : Nat) (x : Tp) : wingAt (setTp s k x) i = wingAt s i := rfl
@[simp] theorem engAt_setTp (s : State) (k i : Nat) (x : Tp) : engAt (setTp s k x) i = engAt s i := rfl
@[simp] theorem laneAt_setTp (s : State) (k i : Nat) (x : Tp) : laneAt (setTp s k x) i = laneAt s i := rfl
@[simp] theorem portAt_setTp (s : State) (k i : Nat) (x : Tp) : portAt (setTp s k x) i = portAt s i := rfl
@[simp] theorem zoneAt_setTp (s : State) (k i : Nat) (x : Tp) : zoneAt (setTp s k x) i = zoneAt s i := rfl
@[simp] theorem sensorAt_setTp (s : State) (k i : Nat) (x : Tp) : sensorAt (setTp s k x) i = sensorAt s i := rfl
@[simp] theorem sqAt_setTp (s : State) (k i : Nat) (x : Tp) : sqAt (setTp s k x) i = sqAt s i := rfl
@[simp] theorem rqAt_setTp (s : State) (k i : Nat) (x : Tp) : rqAt (setTp s k x) i = rqAt s i := rfl
@[simp] theorem msixAt_setTp (s : State) (k i : Nat) (x : Tp) : msixAt (setTp s k x) i = msixAt s i := rfl

@[simp] theorem laneAt_setLane (s : State) (l : Nat) (x : Lane) : laneAt (setLane s l x) l = x := tabGet_tabSet_same _ _ _ _
theorem laneAt_setLane_other (s : State) (k k' : Nat) (x : Lane) (h : k' ≠ k) :
    laneAt (setLane s k x) k' = laneAt s k' := tabGet_tabSet_other _ _ _ _ _ h
@[simp] theorem chanAt_setLane (s : State) (k i : Nat) (x : Lane) : chanAt (setLane s k x) i = chanAt s i := rfl
@[simp] theorem berthAt_setLane (s : State) (k i : Nat) (x : Lane) : berthAt (setLane s k x) i = berthAt s i := rfl
@[simp] theorem quayAt_setLane (s : State) (k i : Nat) (x : Lane) : quayAt (setLane s k x) i = quayAt s i := rfl
@[simp] theorem wingAt_setLane (s : State) (k i : Nat) (x : Lane) : wingAt (setLane s k x) i = wingAt s i := rfl
@[simp] theorem engAt_setLane (s : State) (k i : Nat) (x : Lane) : engAt (setLane s k x) i = engAt s i := rfl
@[simp] theorem tpAt_setLane (s : State) (k i : Nat) (x : Lane) : tpAt (setLane s k x) i = tpAt s i := rfl
@[simp] theorem portAt_setLane (s : State) (k i : Nat) (x : Lane) : portAt (setLane s k x) i = portAt s i := rfl
@[simp] theorem zoneAt_setLane (s : State) (k i : Nat) (x : Lane) : zoneAt (setLane s k x) i = zoneAt s i := rfl
@[simp] theorem sensorAt_setLane (s : State) (k i : Nat) (x : Lane) : sensorAt (setLane s k x) i = sensorAt s i := rfl
@[simp] theorem sqAt_setLane (s : State) (k i : Nat) (x : Lane) : sqAt (setLane s k x) i = sqAt s i := rfl
@[simp] theorem rqAt_setLane (s : State) (k i : Nat) (x : Lane) : rqAt (setLane s k x) i = rqAt s i := rfl
@[simp] theorem msixAt_setLane (s : State) (k i : Nat) (x : Lane) : msixAt (setLane s k x) i = msixAt s i := rfl

@[simp] theorem portAt_setPort (s : State) (p : Nat) (x : Port) : portAt (setPort s p x) p = x := tabGet_tabSet_same _ _ _ _
theorem portAt_setPort_other (s : State) (k k' : Nat) (x : Port) (h : k' ≠ k) :
    portAt (setPort s k x) k' = portAt s k' := tabGet_tabSet_other _ _ _ _ _ h
@[simp] theorem chanAt_setPort (s : State) (k i : Nat) (x : Port) : chanAt (setPort s k x) i = chanAt s i := rfl
@[simp] theorem berthAt_setPort (s : State) (k i : Nat) (x : Port) : berthAt (setPort s k x) i = berthAt s i := rfl
@[simp] theorem quayAt_setPort (s : State) (k i : Nat) (x : Port) : quayAt (setPort s k x) i = quayAt s i := rfl
@[simp] theorem wingAt_setPort (s : State) (k i : Nat) (x : Port) : wingAt (setPort s k x) i = wingAt s i := rfl
@[simp] theorem engAt_setPort (s : State) (k i : Nat) (x : Port) : engAt (setPort s k x) i = engAt s i := rfl
@[simp] theorem tpAt_setPort (s : State) (k i : Nat) (x : Port) : tpAt (setPort s k x) i = tpAt s i := rfl
@[simp] theorem laneAt_setPort (s : State) (k i : Nat) (x : Port) : laneAt (setPort s k x) i = laneAt s i := rfl
@[simp] theorem zoneAt_setPort (s : State) (k i : Nat) (x : Port) : zoneAt (setPort s k x) i = zoneAt s i := rfl
@[simp] theorem sensorAt_setPort (s : State) (k i : Nat) (x : Port) : sensorAt (setPort s k x) i = sensorAt s i := rfl
@[simp] theorem sqAt_setPort (s : State) (k i : Nat) (x : Port) : sqAt (setPort s k x) i = sqAt s i := rfl
@[simp] theorem rqAt_setPort (s : State) (k i : Nat) (x : Port) : rqAt (setPort s k x) i = rqAt s i := rfl
@[simp] theorem msixAt_setPort (s : State) (k i : Nat) (x : Port) : msixAt (setPort s k x) i = msixAt s i := rfl

@[simp] theorem zoneAt_setZone (s : State) (z : Nat) (x : Zone) : zoneAt (setZone s z x) z = x := tabGet_tabSet_same _ _ _ _
theorem zoneAt_setZone_other (s : State) (k k' : Nat) (x : Zone) (h : k' ≠ k) :
    zoneAt (setZone s k x) k' = zoneAt s k' := tabGet_tabSet_other _ _ _ _ _ h
@[simp] theorem chanAt_setZone (s : State) (k i : Nat) (x : Zone) : chanAt (setZone s k x) i = chanAt s i := rfl
@[simp] theorem berthAt_setZone (s : State) (k i : Nat) (x : Zone) : berthAt (setZone s k x) i = berthAt s i := rfl
@[simp] theorem quayAt_setZone (s : State) (k i : Nat) (x : Zone) : quayAt (setZone s k x) i = quayAt s i := rfl
@[simp] theorem wingAt_setZone (s : State) (k i : Nat) (x : Zone) : wingAt (setZone s k x) i = wingAt s i := rfl
@[simp] theorem engAt_setZone (s : State) (k i : Nat) (x : Zone) : engAt (setZone s k x) i = engAt s i := rfl
@[simp] theorem tpAt_setZone (s : State) (k i : Nat) (x : Zone) : tpAt (setZone s k x) i = tpAt s i := rfl
@[simp] theorem laneAt_setZone (s : State) (k i : Nat) (x : Zone) : laneAt (setZone s k x) i = laneAt s i := rfl
@[simp] theorem portAt_setZone (s : State) (k i : Nat) (x : Zone) : portAt (setZone s k x) i = portAt s i := rfl
@[simp] theorem sensorAt_setZone (s : State) (k i : Nat) (x : Zone) : sensorAt (setZone s k x) i = sensorAt s i := rfl
@[simp] theorem sqAt_setZone (s : State) (k i : Nat) (x : Zone) : sqAt (setZone s k x) i = sqAt s i := rfl
@[simp] theorem rqAt_setZone (s : State) (k i : Nat) (x : Zone) : rqAt (setZone s k x) i = rqAt s i := rfl
@[simp] theorem msixAt_setZone (s : State) (k i : Nat) (x : Zone) : msixAt (setZone s k x) i = msixAt s i := rfl

@[simp] theorem sensorAt_setSensor (s : State) (i : Nat) (x : Sensor) : sensorAt (setSensor s i x) i = x := tabGet_tabSet_same _ _ _ _
theorem sensorAt_setSensor_other (s : State) (k k' : Nat) (x : Sensor) (h : k' ≠ k) :
    sensorAt (setSensor s k x) k' = sensorAt s k' := tabGet_tabSet_other _ _ _ _ _ h
@[simp] theorem chanAt_setSensor (s : State) (k i : Nat) (x : Sensor) : chanAt (setSensor s k x) i = chanAt s i := rfl
@[simp] theorem berthAt_setSensor (s : State) (k i : Nat) (x : Sensor) : berthAt (setSensor s k x) i = berthAt s i := rfl
@[simp] theorem quayAt_setSensor (s : State) (k i : Nat) (x : Sensor) : quayAt (setSensor s k x) i = quayAt s i := rfl
@[simp] theorem wingAt_setSensor (s : State) (k i : Nat) (x : Sensor) : wingAt (setSensor s k x) i = wingAt s i := rfl
@[simp] theorem engAt_setSensor (s : State) (k i : Nat) (x : Sensor) : engAt (setSensor s k x) i = engAt s i := rfl
@[simp] theorem tpAt_setSensor (s : State) (k i : Nat) (x : Sensor) : tpAt (setSensor s k x) i = tpAt s i := rfl
@[simp] theorem laneAt_setSensor (s : State) (k i : Nat) (x : Sensor) : laneAt (setSensor s k x) i = laneAt s i := rfl
@[simp] theorem portAt_setSensor (s : State) (k i : Nat) (x : Sensor) : portAt (setSensor s k x) i = portAt s i := rfl
@[simp] theorem zoneAt_setSensor (s : State) (k i : Nat) (x : Sensor) : zoneAt (setSensor s k x) i = zoneAt s i := rfl
@[simp] theorem sqAt_setSensor (s : State) (k i : Nat) (x : Sensor) : sqAt (setSensor s k x) i = sqAt s i := rfl
@[simp] theorem rqAt_setSensor (s : State) (k i : Nat) (x : Sensor) : rqAt (setSensor s k x) i = rqAt s i := rfl
@[simp] theorem msixAt_setSensor (s : State) (k i : Nat) (x : Sensor) : msixAt (setSensor s k x) i = msixAt s i := rfl

@[simp] theorem sqAt_setSq (s : State) (n : Nat) (x : Sq) : sqAt (setSq s n x) n = x := tabGet_tabSet_same _ _ _ _
theorem sqAt_setSq_other (s : State) (k k' : Nat) (x : Sq) (h : k' ≠ k) :
    sqAt (setSq s k x) k' = sqAt s k' := tabGet_tabSet_other _ _ _ _ _ h
@[simp] theorem chanAt_setSq (s : State) (k i : Nat) (x : Sq) : chanAt (setSq s k x) i = chanAt s i := rfl
@[simp] theorem berthAt_setSq (s : State) (k i : Nat) (x : Sq) : berthAt (setSq s k x) i = berthAt s i := rfl
@[simp] theorem quayAt_setSq (s : State) (k i : Nat) (x : Sq) : quayAt (setSq s k x) i = quayAt s i := rfl
@[simp] theorem wingAt_setSq (s : State) (k i : Nat) (x : Sq) : wingAt (setSq s k x) i = wingAt s i := rfl
@[simp] theorem engAt_setSq (s : State) (k i : Nat) (x : Sq) : engAt (setSq s k x) i = engAt s i := rfl
@[simp] theorem tpAt_setSq (s : State) (k i : Nat) (x : Sq) : tpAt (setSq s k x) i = tpAt s i := rfl
@[simp] theorem laneAt_setSq (s : State) (k i : Nat) (x : Sq) : laneAt (setSq s k x) i = laneAt s i := rfl
@[simp] theorem portAt_setSq (s : State) (k i : Nat) (x : Sq) : portAt (setSq s k x) i = portAt s i := rfl
@[simp] theorem zoneAt_setSq (s : State) (k i : Nat) (x : Sq) : zoneAt (setSq s k x) i = zoneAt s i := rfl
@[simp] theorem sensorAt_setSq (s : State) (k i : Nat) (x : Sq) : sensorAt (setSq s k x) i = sensorAt s i := rfl
@[simp] theorem rqAt_setSq (s : State) (k i : Nat) (x : Sq) : rqAt (setSq s k x) i = rqAt s i := rfl
@[simp] theorem msixAt_setSq (s : State) (k i : Nat) (x : Sq) : msixAt (setSq s k x) i = msixAt s i := rfl

@[simp] theorem rqAt_setRq (s : State) (m : Nat) (x : Rq) : rqAt (setRq s m x) m = x := tabGet_tabSet_same _ _ _ _
theorem rqAt_setRq_other (s : State) (k k' : Nat) (x : Rq) (h : k' ≠ k) :
    rqAt (setRq s k x) k' = rqAt s k' := tabGet_tabSet_other _ _ _ _ _ h
@[simp] theorem chanAt_setRq (s : State) (k i : Nat) (x : Rq) : chanAt (setRq s k x) i = chanAt s i := rfl
@[simp] theorem berthAt_setRq (s : State) (k i : Nat) (x : Rq) : berthAt (setRq s k x) i = berthAt s i := rfl
@[simp] theorem quayAt_setRq (s : State) (k i : Nat) (x : Rq) : quayAt (setRq s k x) i = quayAt s i := rfl
@[simp] theorem wingAt_setRq (s : State) (k i : Nat) (x : Rq) : wingAt (setRq s k x) i = wingAt s i := rfl
@[simp] theorem engAt_setRq (s : State) (k i : Nat) (x : Rq) : engAt (setRq s k x) i = engAt s i := rfl
@[simp] theorem tpAt_setRq (s : State) (k i : Nat) (x : Rq) : tpAt (setRq s k x) i = tpAt s i := rfl
@[simp] theorem laneAt_setRq (s : State) (k i : Nat) (x : Rq) : laneAt (setRq s k x) i = laneAt s i := rfl
@[simp] theorem portAt_setRq (s : State) (k i : Nat) (x : Rq) : portAt (setRq s k x) i = portAt s i := rfl
@[simp] theorem zoneAt_setRq (s : State) (k i : Nat) (x : Rq) : zoneAt (setRq s k x) i = zoneAt s i := rfl
@[simp] theorem sensorAt_setRq (s : State) (k i : Nat) (x : Rq) : sensorAt (setRq s k x) i = sensorAt s i := rfl
@[simp] theorem sqAt_setRq (s : State) (k i : Nat) (x : Rq) : sqAt (setRq s k x) i = sqAt s i := rfl
@[simp] theorem msixAt_setRq (s : State) (k i : Nat) (x : Rq) : msixAt (setRq s k x) i = msixAt s i := rfl

@[simp] theorem msixAt_setMsix (s : State) (v : Nat) (x : MsixVec) : msixAt (setMsix s v x) v = x := tabGet_tabSet_same _ _ _ _
theorem msixAt_setMsix_other (s : State) (k k' : Nat) (x : MsixVec) (h : k' ≠ k) :
    msixAt (setMsix s k x) k' = msixAt s k' := tabGet_tabSet_other _ _ _ _ _ h
@[simp] theorem chanAt_setMsix (s : State) (k i : Nat) (x : MsixVec) : chanAt (setMsix s k x) i = chanAt s i := rfl
@[simp] theorem berthAt_setMsix (s : State) (k i : Nat) (x : MsixVec) : berthAt (setMsix s k x) i = berthAt s i := rfl
@[simp] theorem quayAt_setMsix (s : State) (k i : Nat) (x : MsixVec) : quayAt (setMsix s k x) i = quayAt s i := rfl
@[simp] theorem wingAt_setMsix (s : State) (k i : Nat) (x : MsixVec) : wingAt (setMsix s k x) i = wingAt s i := rfl
@[simp] theorem engAt_setMsix (s : State) (k i : Nat) (x : MsixVec) : engAt (setMsix s k x) i = engAt s i := rfl
@[simp] theorem tpAt_setMsix (s : State) (k i : Nat) (x : MsixVec) : tpAt (setMsix s k x) i = tpAt s i := rfl
@[simp] theorem laneAt_setMsix (s : State) (k i : Nat) (x : MsixVec) : laneAt (setMsix s k x) i = laneAt s i := rfl
@[simp] theorem portAt_setMsix (s : State) (k i : Nat) (x : MsixVec) : portAt (setMsix s k x) i = portAt s i := rfl
@[simp] theorem zoneAt_setMsix (s : State) (k i : Nat) (x : MsixVec) : zoneAt (setMsix s k x) i = zoneAt s i := rfl
@[simp] theorem sensorAt_setMsix (s : State) (k i : Nat) (x : MsixVec) : sensorAt (setMsix s k x) i = sensorAt s i := rfl
@[simp] theorem sqAt_setMsix (s : State) (k i : Nat) (x : MsixVec) : sqAt (setMsix s k x) i = sqAt s i := rfl
@[simp] theorem rqAt_setMsix (s : State) (k i : Nat) (x : MsixVec) : rqAt (setMsix s k x) i = rqAt s i := rfl

@[simp] theorem ackOf_setAck (s : State) (id : Word) (x : Ack) : ackOf (setAck s id x) id = x := tabGet_tabSet_same _ _ _ _
theorem ackOf_setAck_other (s : State) (id k : Word) (x : Ack) (h : k ≠ id) :
    ackOf (setAck s id x) k = ackOf s k :=
  tabGet_tabSet_other _ _ _ _ _ fun e => h (BitVec.eq_of_toNat_eq e)
@[simp] theorem ackOf_setChan (s : State) (k : Nat) (x : Chan) (id : Word) : ackOf (setChan s k x) id = ackOf s id := rfl
@[simp] theorem chanAt_setAck (s : State) (id : Word) (x : Ack) (i : Nat) : chanAt (setAck s id x) i = chanAt s i := rfl
@[simp] theorem chanAt_count (s : State) (sc n f m i : Nat) : chanAt (count s sc n f m) i = chanAt s i := rfl
@[simp] theorem chanAt_reach (s : State) (t i : Nat) : chanAt (reach s t) i = chanAt s i := rfl
@[simp] theorem ackOf_setBerth (s : State) (k : Nat) (x : Berth) (id : Word) : ackOf (setBerth s k x) id = ackOf s id := rfl
@[simp] theorem berthAt_setAck (s : State) (id : Word) (x : Ack) (i : Nat) : berthAt (setAck s id x) i = berthAt s i := rfl
@[simp] theorem berthAt_count (s : State) (sc n f m i : Nat) : berthAt (count s sc n f m) i = berthAt s i := rfl
@[simp] theorem berthAt_reach (s : State) (t i : Nat) : berthAt (reach s t) i = berthAt s i := rfl
@[simp] theorem ackOf_setQuay (s : State) (k : Nat) (x : Quay) (id : Word) : ackOf (setQuay s k x) id = ackOf s id := rfl
@[simp] theorem quayAt_setAck (s : State) (id : Word) (x : Ack) (i : Nat) : quayAt (setAck s id x) i = quayAt s i := rfl
@[simp] theorem quayAt_count (s : State) (sc n f m i : Nat) : quayAt (count s sc n f m) i = quayAt s i := rfl
@[simp] theorem quayAt_reach (s : State) (t i : Nat) : quayAt (reach s t) i = quayAt s i := rfl
@[simp] theorem ackOf_setWing (s : State) (k : Nat) (x : Wing) (id : Word) : ackOf (setWing s k x) id = ackOf s id := rfl
@[simp] theorem wingAt_setAck (s : State) (id : Word) (x : Ack) (i : Nat) : wingAt (setAck s id x) i = wingAt s i := rfl
@[simp] theorem wingAt_count (s : State) (sc n f m i : Nat) : wingAt (count s sc n f m) i = wingAt s i := rfl
@[simp] theorem wingAt_reach (s : State) (t i : Nat) : wingAt (reach s t) i = wingAt s i := rfl
@[simp] theorem ackOf_setEng (s : State) (k : Nat) (x : Eng) (id : Word) : ackOf (setEng s k x) id = ackOf s id := rfl
@[simp] theorem engAt_setAck (s : State) (id : Word) (x : Ack) (i : Nat) : engAt (setAck s id x) i = engAt s i := rfl
@[simp] theorem engAt_count (s : State) (sc n f m i : Nat) : engAt (count s sc n f m) i = engAt s i := rfl
@[simp] theorem engAt_reach (s : State) (t i : Nat) : engAt (reach s t) i = engAt s i := rfl
@[simp] theorem ackOf_setTp (s : State) (k : Nat) (x : Tp) (id : Word) : ackOf (setTp s k x) id = ackOf s id := rfl
@[simp] theorem tpAt_setAck (s : State) (id : Word) (x : Ack) (i : Nat) : tpAt (setAck s id x) i = tpAt s i := rfl
@[simp] theorem tpAt_count (s : State) (sc n f m i : Nat) : tpAt (count s sc n f m) i = tpAt s i := rfl
@[simp] theorem tpAt_reach (s : State) (t i : Nat) : tpAt (reach s t) i = tpAt s i := rfl
@[simp] theorem ackOf_setLane (s : State) (k : Nat) (x : Lane) (id : Word) : ackOf (setLane s k x) id = ackOf s id := rfl
@[simp] theorem laneAt_setAck (s : State) (id : Word) (x : Ack) (i : Nat) : laneAt (setAck s id x) i = laneAt s i := rfl
@[simp] theorem laneAt_count (s : State) (sc n f m i : Nat) : laneAt (count s sc n f m) i = laneAt s i := rfl
@[simp] theorem laneAt_reach (s : State) (t i : Nat) : laneAt (reach s t) i = laneAt s i := rfl
@[simp] theorem ackOf_setPort (s : State) (k : Nat) (x : Port) (id : Word) : ackOf (setPort s k x) id = ackOf s id := rfl
@[simp] theorem portAt_setAck (s : State) (id : Word) (x : Ack) (i : Nat) : portAt (setAck s id x) i = portAt s i := rfl
@[simp] theorem portAt_count (s : State) (sc n f m i : Nat) : portAt (count s sc n f m) i = portAt s i := rfl
@[simp] theorem portAt_reach (s : State) (t i : Nat) : portAt (reach s t) i = portAt s i := rfl
@[simp] theorem ackOf_setZone (s : State) (k : Nat) (x : Zone) (id : Word) : ackOf (setZone s k x) id = ackOf s id := rfl
@[simp] theorem zoneAt_setAck (s : State) (id : Word) (x : Ack) (i : Nat) : zoneAt (setAck s id x) i = zoneAt s i := rfl
@[simp] theorem zoneAt_count (s : State) (sc n f m i : Nat) : zoneAt (count s sc n f m) i = zoneAt s i := rfl
@[simp] theorem zoneAt_reach (s : State) (t i : Nat) : zoneAt (reach s t) i = zoneAt s i := rfl
@[simp] theorem ackOf_setSensor (s : State) (k : Nat) (x : Sensor) (id : Word) : ackOf (setSensor s k x) id = ackOf s id := rfl
@[simp] theorem sensorAt_setAck (s : State) (id : Word) (x : Ack) (i : Nat) : sensorAt (setAck s id x) i = sensorAt s i := rfl
@[simp] theorem sensorAt_count (s : State) (sc n f m i : Nat) : sensorAt (count s sc n f m) i = sensorAt s i := rfl
@[simp] theorem sensorAt_reach (s : State) (t i : Nat) : sensorAt (reach s t) i = sensorAt s i := rfl
@[simp] theorem ackOf_setSq (s : State) (k : Nat) (x : Sq) (id : Word) : ackOf (setSq s k x) id = ackOf s id := rfl
@[simp] theorem sqAt_setAck (s : State) (id : Word) (x : Ack) (i : Nat) : sqAt (setAck s id x) i = sqAt s i := rfl
@[simp] theorem sqAt_count (s : State) (sc n f m i : Nat) : sqAt (count s sc n f m) i = sqAt s i := rfl
@[simp] theorem sqAt_reach (s : State) (t i : Nat) : sqAt (reach s t) i = sqAt s i := rfl
@[simp] theorem ackOf_setRq (s : State) (k : Nat) (x : Rq) (id : Word) : ackOf (setRq s k x) id = ackOf s id := rfl
@[simp] theorem rqAt_setAck (s : State) (id : Word) (x : Ack) (i : Nat) : rqAt (setAck s id x) i = rqAt s i := rfl
@[simp] theorem rqAt_count (s : State) (sc n f m i : Nat) : rqAt (count s sc n f m) i = rqAt s i := rfl
@[simp] theorem rqAt_reach (s : State) (t i : Nat) : rqAt (reach s t) i = rqAt s i := rfl
@[simp] theorem ackOf_setMsix (s : State) (k : Nat) (x : MsixVec) (id : Word) : ackOf (setMsix s k x) id = ackOf s id := rfl
@[simp] theorem msixAt_setAck (s : State) (id : Word) (x : Ack) (i : Nat) : msixAt (setAck s id x) i = msixAt s i := rfl
@[simp] theorem msixAt_count (s : State) (sc n f m i : Nat) : msixAt (count s sc n f m) i = msixAt s i := rfl
@[simp] theorem msixAt_reach (s : State) (t i : Nat) : msixAt (reach s t) i = msixAt s i := rfl

end Sys2Proof.Machine
end

