-- ==== Sys2Proof/Laws/Memory.lean ====
section
/-! SUPPORT. The laws of tables and byte memories: every operation keeps the canonical form, a read after a write
gives what was written, and a write leaves every other address alone. -/

namespace Sys2Proof.Machine

/-- Every key of a table lies above `n`. -/
def keysAbove {α : Type} (t : Tab α) (n : Nat) : Prop := ∀ e ∈ t, n < e.1

theorem tabWf_cons {α : Type} (j : Nat) (w : α) (t : Tab α) :
    tabWf ((j, w) :: t) = true ↔ tabWf t = true ∧ keysAbove t j := by
  induction t generalizing j w with
  | nil => simp [tabWf, keysAbove]
  | cons e t ih =>
    obtain ⟨k, v⟩ := e
    constructor
    · intro h
      simp only [tabWf, Bool.and_eq_true, decide_eq_true_eq] at h
      refine ⟨h.2, ?_⟩
      have h2 := ((ih k v).1 h.2).2
      intro e he
      rcases List.mem_cons.1 he with rfl | he
      · exact h.1
      · exact Nat.lt_trans h.1 (h2 e he)
    · rintro ⟨h1, h2⟩
      have h3 : j < k := h2 (k, v) (by simp)
      simp only [tabWf, Bool.and_eq_true, decide_eq_true_eq]
      exact ⟨h3, h1⟩

theorem keysAbove_tabSet {α : Type} (t : Tab α) (n k : Nat) (v : α) (h : keysAbove t n) (hk : n < k) :
    keysAbove (tabSet t k v) n := by
  induction t with
  | nil => intro e he; simp only [tabSet, List.mem_singleton] at he; subst he; exact hk
  | cons e t ih =>
    obtain ⟨j, w⟩ := e
    have hj : n < j := h (j, w) (by simp)
    have ht : keysAbove t n := fun e he => h e (by simp [he])
    simp only [tabSet]
    split
    · intro e he
      rcases List.mem_cons.1 he with rfl | he
      · exact hk
      · exact ht e he
    · split
      · intro e he
        rcases List.mem_cons.1 he with rfl | he
        · exact hk
        · exact h e he
      · intro e he
        rcases List.mem_cons.1 he with rfl | he
        · exact hj
        · exact ih ht e he

/-- Setting a key keeps the keys rising. -/
theorem tabSet_wf {α : Type} (t : Tab α) (k : Nat) (v : α) (h : tabWf t = true) : tabWf (tabSet t k v) = true := by
  induction t with
  | nil => simp [tabSet, tabWf]
  | cons e t ih =>
    obtain ⟨j, w⟩ := e
    obtain ⟨h1, h2⟩ := (tabWf_cons j w t).1 h
    simp only [tabSet]
    split
    · subst_vars
      exact (tabWf_cons _ _ _).2 ⟨h1, h2⟩
    · split
      · refine (tabWf_cons _ _ _).2 ⟨h, ?_⟩
        intro e he
        rcases List.mem_cons.1 he with rfl | he
        · assumption
        · exact Nat.lt_trans ‹k < j› (h2 e he)
      · exact (tabWf_cons _ _ _).2 ⟨ih h1, keysAbove_tabSet _ _ _ _ h2 (by omega)⟩

theorem keysAbove_tabErase {α : Type} (t : Tab α) (n k : Nat) (h : keysAbove t n) : keysAbove (tabErase t k) n := by
  induction t with
  | nil => exact h
  | cons e t ih =>
    obtain ⟨j, w⟩ := e
    have ht : keysAbove t n := fun e he => h e (by simp [he])
    simp only [tabErase]
    split
    · exact ht
    · split
      · exact h
      · intro e he
        rcases List.mem_cons.1 he with rfl | he
        · exact h (j, w) (by simp)
        · exact ih ht e he

/-- Erasing a key keeps the keys rising. -/
theorem tabErase_wf {α : Type} (t : Tab α) (k : Nat) (h : tabWf t = true) : tabWf (tabErase t k) = true := by
  induction t with
  | nil => rfl
  | cons e t ih =>
    obtain ⟨j, w⟩ := e
    obtain ⟨h1, h2⟩ := (tabWf_cons j w t).1 h
    simp only [tabErase]
    split
    · exact h1
    · split
      · exact h
      · exact (tabWf_cons _ _ _).2 ⟨ih h1, keysAbove_tabErase _ _ _ h2⟩

theorem tabFind_below {α : Type} (t : Tab α) (k : Nat) (h : keysAbove t k) : tabFind t k = none := by
  cases t with
  | nil => rfl
  | cons e t =>
    obtain ⟨j, w⟩ := e
    have hj : k < j := h (j, w) (by simp)
    simp only [tabFind]
    rw [if_neg (by omega), if_pos hj]

theorem tabFind_tabErase_same {α : Type} (t : Tab α) (k : Nat) (h : tabWf t = true) :
    tabFind (tabErase t k) k = none := by
  induction t with
  | nil => rfl
  | cons e t ih =>
    obtain ⟨j, w⟩ := e
    obtain ⟨h1, h2⟩ := (tabWf_cons j w t).1 h
    simp only [tabErase]
    split
    · subst_vars
      exact tabFind_below _ _ h2
    · have hn : ¬ j = k := fun e => ‹¬ k = j› e.symm
      split
      · simp only [tabFind, if_neg hn, if_pos ‹k < j›]
      · simp only [tabFind, if_neg hn, if_neg ‹¬ k < j›]
        exact ih h1

theorem tabFind_tabErase_other {α : Type} (t : Tab α) (k k' : Nat) (h : tabWf t = true) (hk : k' ≠ k) :
    tabFind (tabErase t k) k' = tabFind t k' := by
  induction t with
  | nil => rfl
  | cons e t ih =>
    obtain ⟨j, w⟩ := e
    obtain ⟨h1, h2⟩ := (tabWf_cons j w t).1 h
    simp only [tabErase]
    split
    · subst_vars
      simp only [tabFind]
      rw [if_neg (fun e => hk e.symm)]
      split
      · exact tabFind_below _ _ fun e he => Nat.lt_trans ‹k' < _› (h2 e he)
      · rfl
    · split
      · rfl
      · simp only [tabFind]
        rw [ih h1]

/-! ### Memory -/

theorem memWf_iff (m : Mem) : memWf m = true ↔ tabWf m = true ∧ ∀ c ∈ m, c.2 ≠ memEmptyByte := by
  simp [memWf, List.all_eq_true]

theorem tabSet_mem {α : Type} (t : Tab α) (k : Nat) (v : α) (e : Nat × α) (h : e ∈ tabSet t k v) :
    e = (k, v) ∨ e ∈ t := by
  induction t with
  | nil => simpa [tabSet] using h
  | cons e' t ih =>
    obtain ⟨j, w⟩ := e'
    simp only [tabSet] at h
    split at h
    · rcases List.mem_cons.1 h with h | h <;> simp [h]
    · split at h
      · rcases List.mem_cons.1 h with h | h
        · exact .inl h
        · exact .inr h
      · rcases List.mem_cons.1 h with h | h
        · simp [h]
        · rcases ih h with h | h <;> simp [h]

theorem tabErase_mem {α : Type} (t : Tab α) (k : Nat) (e : Nat × α) (h : e ∈ tabErase t k) : e ∈ t := by
  induction t with
  | nil => exact h
  | cons e' t ih =>
    obtain ⟨j, w⟩ := e'
    simp only [tabErase] at h
    split at h
    · simp [h]
    · split at h
      · exact h
      · rcases List.mem_cons.1 h with h | h
        · simp [h]
        · simp [ih h]

/-- A write keeps the canonical form. -/
theorem memWrite_wf (m : Mem) (a : Nat) (v : Byte) (h : memWf m = true) : memWf (memWrite m a v) = true := by
  obtain ⟨h1, h2⟩ := (memWf_iff m).1 h
  unfold memWrite
  split
  · exact (memWf_iff _).2 ⟨tabErase_wf _ _ h1, fun c hc => h2 c (tabErase_mem _ _ _ hc)⟩
  · refine (memWf_iff _).2 ⟨tabSet_wf _ _ _ h1, fun c hc => ?_⟩
    rcases tabSet_mem _ _ _ _ hc with rfl | hc
    · assumption
    · exact h2 c hc

/-- Writing bytes keeps the canonical form. -/
theorem memWriteBytes_wf (m : Mem) (a : Nat) (bytes : List Byte) (h : memWf m = true) :
    memWf (memWriteBytes m a bytes) = true := by
  induction bytes generalizing m a with
  | nil => exact h
  | cons v rest ih => exact ih _ _ (memWrite_wf m a v h)

/-- A read after a write to the same address gives the byte written. -/
theorem memRead_memWrite_same (m : Mem) (a : Nat) (v : Byte) (h : memWf m = true) :
    memRead (memWrite m a v) a = v := by
  obtain ⟨h1, _⟩ := (memWf_iff m).1 h
  unfold memWrite memRead tabGet
  split
  · rw [tabFind_tabErase_same _ _ h1]; simp_all
  · rw [tabFind_tabSet_same]; rfl

/-- A write leaves every other address alone. -/
theorem memRead_memWrite_other (m : Mem) (a a' : Nat) (v : Byte) (h : memWf m = true) (ha : a' ≠ a) :
    memRead (memWrite m a v) a' = memRead m a' := by
  obtain ⟨h1, _⟩ := (memWf_iff m).1 h
  unfold memWrite memRead tabGet
  split
  · rw [tabFind_tabErase_other _ _ _ h1 ha]
  · rw [tabFind_tabSet_other _ _ _ _ ha]

/-- Writing bytes leaves every address outside them alone. -/
theorem memRead_memWriteBytes_other (m : Mem) (a a' : Nat) (bytes : List Byte) (h : memWf m = true)
    (ha : a' < a ∨ a + bytes.length ≤ a') : memRead (memWriteBytes m a bytes) a' = memRead m a' := by
  induction bytes generalizing m a with
  | nil => rfl
  | cons v rest ih =>
    simp only [List.length_cons] at ha
    simp only [memWriteBytes]
    rw [ih _ _ (memWrite_wf m a v h) (by omega), memRead_memWrite_other _ _ _ _ h (by omega)]

/-- Reading back the bytes just written gives them. -/
theorem memReadBytes_memWriteBytes (m : Mem) (a : Nat) (bytes : List Byte) (h : memWf m = true) :
    memReadBytes (memWriteBytes m a bytes) a bytes.length = bytes := by
  induction bytes generalizing m a with
  | nil => rfl
  | cons v rest ih =>
    simp only [memWriteBytes, List.length_cons, memReadBytes]
    rw [ih _ _ (memWrite_wf m a v h), memRead_memWriteBytes_other _ _ _ _ (memWrite_wf m a v h) (by omega),
      memRead_memWrite_same _ _ _ h]

end Sys2Proof.Machine
end

