-- ==== Sys2Proof/Laws/Ops.lean ====
section
/-! SUPPORT. What the shared operations can do: parts of the state that each may change, byte orders, counts,
host commands as slots, and microwords that change only their context. -/

namespace Sys2Proof.Machine

/-! ### Lists of instances -/

/-- A property that every application of an operation keeps holds after all of them. -/
theorem forAll_keeps (p : State → Prop) (f : State → Nat → State) (hf : ∀ s n, p s → p (f s n)) (s : State)
    (xs : List Nat) (h : p s) : p (forAll s xs f) := by
  induction xs generalizing s with
  | nil => exact h
  | cons x xs ih => exact ih _ (hf s x h)

/-- A value that no application changes is as before. -/
theorem forAll_same {α : Type} (g : State → α) (f : State → Nat → State) (hf : ∀ s n, g (f s n) = g s) (s : State)
    (xs : List Nat) : g (forAll s xs f) = g s :=
  forAll_keeps (fun t => g t = g s) f (fun t n h => (hf t n).trans h) s xs rfl

/-! ### Bytes -/

@[simp] theorem leBytes_length (n v : Nat) : (leBytes n v).length = n := by
  induction n generalizing v with
  | zero => rfl
  | succ n ih => simp [leBytes, ih]

theorem leNat_leBytes (n v : Nat) : leNat (leBytes n v) = v % 256 ^ n := by
  induction n generalizing v with
  | zero => simp [leBytes, leNat, Nat.mod_one]
  | succ n ih => simp [leBytes, leNat, ih, Nat.pow_succ', Nat.mod_mul]

/-! ### ACK counts -/

@[simp] theorem ackOf_count_same (s : State) (sc i f m : Nat) :
    ackOf (count s sc i f m) (pid sc i f m) = ackBump (ackOf s (pid sc i f m)) := tabGet_tabSet_same _ _ _ _

theorem ackOf_count_other (s : State) (sc i f m : Nat) (id : Word) (h : id ≠ pid sc i f m) :
    ackOf (count s sc i f m) id = ackOf s id :=
  tabGet_tabSet_other _ _ _ _ _ fun he => h (BitVec.eq_of_toNat_eq he)

/-- A count changes no other part of the state. -/
theorem count_only (s : State) (sc i f m : Nat) : count s sc i f m = { s with acks := (count s sc i f m).acks } := rfl

/-! ### Replies -/

theorem msixRaise_only (s : State) (v : Nat) : msixRaise s v = { s with host := (msixRaise s v).host } := by
  unfold msixRaise
  split <;> rfl

theorem writeReply_only (s : State) (m : Nat) (irq : Bool) (r : Reply) :
    writeReply s m irq r = { s with host := (writeReply s m irq r).host } := by
  unfold writeReply
  dsimp only
  split
  · rw [msixRaise_only]
    rfl
  · rfl

/-- What the end of a command may change: the host side, the counts, the commands in flight, the replies that
wait, the engine contexts, the segment banks that were filling, and what leaves over the chain. -/
def onlyEnds (s t : State) : Prop :=
  t = { s with
    host := t.host, acks := t.acks, inflight := t.inflight, unposted := t.unposted, eng := t.eng, quay := t.quay
    chain := t.chain, out := t.out }

theorem onlyEnds_trans {s t u : State} (h : onlyEnds s t) (k : onlyEnds t u) : onlyEnds s u := by
  rw [onlyEnds] at h k ⊢
  rw [k, h]

theorem onlyEnds_foldl {α : Type} (f : State → α → State) (hf : ∀ s x, onlyEnds s (f s x)) (s : State) (xs : List α) :
    onlyEnds s (xs.foldl f s) := by
  induction xs generalizing s with
  | nil => rfl
  | cons x xs ih => exact onlyEnds_trans (hf s x) (ih _)

theorem onlyEnds_freeCtx (s : State) (c : Cmd) (e k : Nat) : onlyEnds s (freeCtx s c e k) := by
  unfold freeCtx
  split <;> rfl

theorem onlyEnds_fillOver (s : State) (c : Cmd) : onlyEnds s (fillOver s c) := by
  unfold fillOver
  split <;> rfl

/-- A command that leaves changes its ring, the commands in flight, its contexts and the banks that it was filling. -/
theorem onlyEnds_release (s : State) (c : Cmd) : onlyEnds s (release s c) := by
  unfold release
  refine onlyEnds_trans ?_ (onlyEnds_foldl _ (fun t (p : Nat × Nat) => onlyEnds_freeCtx t c p.1 p.2) _ _)
  have h : onlyEnds s (dropCmd s c.ord) := rfl
  refine onlyEnds_trans (onlyEnds_trans h (onlyEnds_fillOver _ c)) ?_
  split <;> rfl

theorem onlyEnds_releaseIf (s : State) (counted : Bool) (c : Cmd) : onlyEnds s (releaseIf s counted c) := by
  unfold releaseIf
  split
  · exact onlyEnds_release s c
  · rfl

/-- Writing a reply changes the host side alone. -/
theorem onlyEnds_writeReply (s : State) (m : Nat) (irq : Bool) (r : Reply) : onlyEnds s (writeReply s m irq r) := by
  rw [onlyEnds, writeReply_only]

theorem onlyEnds_dropReply (s : State) (m : Nat) : onlyEnds s (dropReply s m) := rfl

theorem onlyEnds_writeResult (s : State) (a : Nat) (bytes : List Byte) : onlyEnds s (writeResult s a bytes) := rfl

/-- A reply that falls due. -/
theorem onlyEnds_postReply (s : State) (c : Cmd) (counted : Bool) (r : Reply) (result : List Byte) :
    onlyEnds s (postReply s c counted r result) := by
  have h := onlyEnds_releaseIf s counted c
  unfold postReply
  dsimp only
  split
  · exact onlyEnds_trans h (onlyEnds_dropReply _ _)
  split
  · exact onlyEnds_trans h (onlyEnds_trans (onlyEnds_writeResult _ _ _) (onlyEnds_writeReply _ _ _ _))
  split
  · exact onlyEnds_trans h (onlyEnds_dropReply _ _)
  · rfl

theorem putFrame_only (s : State) (p : Nat) (b : FrameBody) :
    putFrame s p b = { s with chain := (putFrame s p b).chain, out := (putFrame s p b).out } := rfl

/-- What leaves changes the chain and what has left. -/
theorem onlyEnds_send (s : State) (x : Sent) : onlyEnds s (send s x) := by
  have h : ∀ t p b, onlyEnds t (putFrame t p b) := fun _ _ _ => rfl
  match x with
  | .frame (some p) b => exact h s p b
  | .frame none b => exact forAll_keeps (onlyEnds s) _ (fun t p k => onlyEnds_trans k (h t p b)) s _ rfl
  | .signal _ _ | .ackFrame _ _ | .nakFrame _ _ | .credit _ _ _ | .train _ _ | .capability _ _ _ _ _ _ => rfl

/-- A reply as a frame. -/
theorem onlyEnds_answerChain (s : State) (c : Cmd) (r : Reply) (result : List Byte) :
    onlyEnds s (answerChain s c r result) := by
  unfold answerChain
  refine onlyEnds_trans ?_ (onlyEnds_send _ _)
  split
  · rfl
  · exact onlyEnds_send _ _

theorem onlyEnds_postTo (s : State) (c : Cmd) (counted : Bool) (r : Reply) (result : List Byte) :
    onlyEnds s (postTo s c counted r result) := by
  unfold postTo
  split
  · exact onlyEnds_trans (onlyEnds_releaseIf _ _ _) (onlyEnds_answerChain _ _ _ _)
  · exact onlyEnds_postReply _ _ _ _ _

theorem onlyEnds_postWaiting (s : State) (u : Unposted) : onlyEnds s (postWaiting s u) := by
  unfold postWaiting
  split
  · rfl
  · have h : onlyEnds s { s with unposted := s.unposted.filter fun x => x.cmd.ord ≠ u.cmd.ord } := rfl
    exact onlyEnds_trans h (onlyEnds_postTo _ _ _ _ _)

theorem onlyEnds_postFollowing (s : State) : onlyEnds s (postFollowing s) :=
  forAll_keeps (onlyEnds s) _ (fun t _ h => onlyEnds_trans h (onlyEnds_foldl _ onlyEnds_postWaiting t t.unposted)) s _
    rfl

/-- A reply in ring order. -/
theorem onlyEnds_postOrdered (s : State) (c : Cmd) (r : Reply) (result : List Byte) :
    onlyEnds s (postOrdered s c r result) := by
  unfold postOrdered postInOrder
  split
  · rfl
  · exact onlyEnds_trans (onlyEnds_postTo _ _ _ _ _) (onlyEnds_postFollowing _)

/-- The end of a command changes nothing of the data plane. -/
theorem onlyEnds_finish (s : State) (c : Cmd) (status : Nat) (d result : List Byte) :
    onlyEnds s (finish s c status d result) := by
  unfold finish
  dsimp only
  refine onlyEnds_trans ?_ (onlyEnds_postOrdered _ _ _ _)
  generalize (if status = stOk ∧ c.hdr.defer = true then stOkDeferred else status) = st
  split <;> rfl

theorem onlyEnds_complete (s : State) (c : Cmd) (status : Nat) (d result : List Byte) :
    onlyEnds s (complete s c status d result) := by
  unfold complete
  split
  · exact onlyEnds_finish _ _ _ _ _
  · rfl

/-! ### Host commands and microwords -/

/-- The row of an operation takes the slot that spells it. -/
theorem exec_hostInstr (h : Hdr) (op : HostOp) (s : State) :
    exec (hostInstr h op) s = .next (takeSlot s [] [] h op) := by
  cases op <;> rfl

/-- A microword whose action is on its context alone yields that context. -/
theorem microCtx_yields (s : State) (e c : Nat) (i : Instr) (w : Word) (f : State → Ctx → Ctx) (h : canExecute s e c)
    (hw : delivers s e (ctxAt s e c) w = true) (hi : exec i s = .next (microCtx s e c w f)) :
    Yields i s e c (f (takeTurn (modCtx s e c advancePc) e c false) (advancePc (ctxAt s e c))) := by
  refine fun _ => ⟨_, hi, ?_⟩
  unfold microCtx micro
  rw [if_pos h.1, h.2]
  simp only [hw, if_true]
  refine ⟨by simp [ctxAt, setCtx], by simp [modCtx, setCtx, setEng, takeTurn], ?_⟩
  intro p d hp
  have hs : ∀ t x, p ≠ e → engAt (setEng t e x) p = engAt t p := fun _ _ he => tabGet_tabSet_other _ _ _ _ _ he
  by_cases he : p = e
  · subst he
    have hd : d ≠ c := fun hd => hp ⟨rfl, hd⟩
    simp [modCtx, takeTurn, ctxAt, setCtx, tabGet_tabSet_other _ _ _ _ _ hd]
  · simp [modCtx, takeTurn, ctxAt, setCtx, hs _ _ he]

@[simp] theorem readReg_modCtx (s : State) (e c : Nat) (g : Ctx → Ctx) (x : Ctx) (r : Nat) :
    readReg (modCtx s e c g) x r = readReg s x r := rfl

@[simp] theorem readReg_takeTurn (s : State) (e c : Nat) (y : Bool) (x : Ctx) (r : Nat) :
    readReg (takeTurn s e c y) x r = readReg s x r := rfl

@[simp] theorem ctxAt_takeTurn (s : State) (e c p d : Nat) (y : Bool) : ctxAt (takeTurn s e c y) p d = ctxAt s p d := by
  by_cases h : p = e
  · subst h
    simp [takeTurn, ctxAt]
  · have hs : ∀ t x, engAt (setEng t e x) p = engAt t p := fun _ _ => tabGet_tabSet_other _ _ _ _ _ h
    simp [takeTurn, ctxAt, hs]

@[simp] theorem ctxAt_modCtx (s : State) (e c : Nat) (g : Ctx → Ctx) :
    ctxAt (modCtx s e c g) e c = g (ctxAt s e c) := by simp [modCtx, ctxAt, setCtx]

end Sys2Proof.Machine
end

