-- ==== Sys2Proof/Tests/Slice0.lean ====
section
/-! SUPPORT. Tests: ill-formed commands, one step of a command of each family, and for every statement with
hypotheses a state and operands that meet them, clause by clause. Expected values are worked out from the spec. -/

open Sys2Proof Sys2Proof.Machine

namespace Sys2Proof.Tests

set_option maxRecDepth 20000
set_option Elab.async false

/-! ### States -/

/-- Whether a command answers a next state with a property. -/
def answers (o : Host.Outcome State Fault Refusal) (p : State → Bool) : Bool :=
  match o with
  | .next t => p t
  | .fault _ => false
  | .refused _ => false

/-- A slot of ring 0 for the device itself: tag 7, results to address 4096. -/
def tH : Hdr := ⟨0, 7#16, false, true, false, true, 0#7, 0#12, 6#4, 0#32, 4096#64, 65536#32⟩

/-- The same without a result area. -/
def tHn : Hdr := { tH with resDma := false, resultPtr := 0, resultLen := 0 }

/-- The same for another target. -/
def tHat (sc : BitVec 4) (i : BitVec 12) : Hdr := { tH with scope := sc, inst := i }

/-- A standalone device that is up and READY: one slot to fetch in ring 0, reply ring 0 enabled. -/
def tUp : State := { State.reset with
  cold := false, booted := true, unparked := true, tideOn := true, tide := 1000000
  boot := { aonOn := true, rst := false, straps := some ⟨0, 1, 1, false, false, true, 0⟩, railVdd := true
            railVdda := true, refQualified := true, fusesRead := true, parkLoaded := true }
  clk := { refState := .locked, pllLock := true, hkSettled := true, trimLock := true, refPresent := 7 }
  host := { linkUp := true, speed := 5, width := 16, busMaster := true
            sq := [(0, { enable := true, log2 := 4, tail := 1 })], rq := [(0, { enable := true, log2 := 4 })] }
  hold := { trained := true } }

/-- The same device as a follower of a chain, its parent at port 0. -/
def tFol : State := { tUp with
  boot := { tUp.boot with straps := some ⟨2, 0, 1, false, false, true, 0⟩ }
  chain := { index := 5, enumerated := true, ports := [(0, { state := 2, role := 1 })] } }

/-- The same device as a pilot, with one follower at port 1. -/
def tPil : State := { tUp with
  boot := { tUp.boot with straps := some ⟨1, 0, 1, false, false, true, 0⟩ }
  chain := { enumerated := true, ports := [(1, { state := 2, role := 2 })], devices := [(5, { x := 1 })] } }

def tFull : State := setRq tUp 0 { rqAt tUp 0 with reserved := 15 }
def tBound : State := setSq tUp 0 { sqAt tUp 0 with inFlight := 15 }
def tStall : State := setSq tUp 0 { sqAt tUp 0 with stalled := true, stallOn := 7 }
def tTray : State := { tUp with par := { tUp.par with
  trays := [(1, { entries := [(pid 2 3 0x10 0, 5)], proven := true })] } }
def tTray2 : State := { tUp with par := { tUp.par with trays := [(1, { entries := [(0xFFFFFFFF, 5)] })] } }

/-! ### Ill-formed commands -/

theorem test_wf_stage : (∀ ps, ps.length = 8191 → (Instr.stage tH 0 ps).wf = false) ∧
    (∀ ps, ps.length = 8190 → (Instr.stage tH 0 ps).wf = true) := by
  constructor <;> intro ps h <;> simp [Instr.wf, listsFit, h]
theorem test_wf_ackWrite : ∀ ps, ps.length = 8192 → (Instr.ackWrite tH ps).wf = false := by
  intro ps h; simp [Instr.wf, listsFit, h]
theorem test_wf_read : ∀ ids, ids.length = 16382 → (Instr.read tH 0 ids).wf = false := by
  intro ids h; simp [Instr.wf, listsFit, h]
theorem test_wf_spSequence : ∀ es, es.length = 8192 → (Instr.spSequence tH es).wf = false := by
  intro es h; simp [Instr.wf, listsFit, h]
theorem test_wf_calRestore : ∀ b, b.length = 65536 → (Instr.calRestore tH b).wf = false := by
  intro b h; simp [Instr.wf, listsFit, h]
theorem test_wf_mcPatchLoad : ∀ b, b.length = 65528 → (Instr.mcPatchLoad tH 1 b).wf = false := by
  intro b h; simp [Instr.wf, listsFit, h]
theorem test_wf_tpXfer : ∀ us, us.length = 16383 → (Instr.tpXfer tH 0 0 8 0 us).wf = false := by
  intro us h; simp [Instr.wf, listsFit, h]
theorem test_wf_slot : (∀ a b, a.length = 63 → (Instr.slotFetchComplete 0 a b).wf = false) ∧
    (∀ a b, b.length = 65536 → (Instr.slotFetchComplete 0 a b).wf = false) ∧
    (∀ a b, a.length = 65 → (Instr.fetchResume 0 a b).wf = false) := by
  refine ⟨?_, ?_, ?_⟩ <;> intro a b h <;> simp [Instr.wf, listsFit, h]
theorem test_wf_broadcast : ∀ bs, bs.length = 2 → (Instr.frameReceive 0 0 true (.broadcast 0xBFFFFFFFF bs true)).wf = false := by
  intro bs h; simp [Instr.wf, FrameBody.wf, h]
theorem test_wf_windows : (Instr.ackMirrorWrite 0x1000000 0).wf = false ∧
    (Instr.counterLowRead ⟨0x1000000, 4⟩).wf = false ∧
    (Instr.counterLowRead ⟨0xFFFFFC, 8⟩).wf = false ∧ (Instr.bar0Write 0xFFFFFE [0, 0, 0, 0] false).wf = false ∧
    (Instr.bar2Write 0xFFFFFFFFF [0, 0] false).wf = false ∧ (Instr.bar2Read 0x1000000000 1).wf = false ∧
    (Instr.configRequest 4096 none).wf = false ∧ (Instr.configRequest 2 none).wf = false := by decide +kernel
theorem test_wf_stamps : (Instr.tidePing 0 0 (2 ^ 63) 0).wf = false ∧
    (Instr.tidePong 0 0 0 (2 ^ 63)).wf = false ∧ (Instr.tidePing 0 0 (2 ^ 63 - 1) 0).wf = true := by decide +kernel
theorem test_wf_frames : (Instr.frameReceive 0 0 true (.reply 0 0 0 0 0 [])).wf = false ∧
    (Instr.frameReceive 0 0 true (.tideData 0 (2 ^ 63) 0)).wf = false ∧
    (Instr.frameReceive 0 0 true (.correction 0 0 (2 ^ 63))).wf = false := by decide +kernel
theorem test_wf_lists : (Instr.thermalSample [⟨3, 0, .ok⟩, ⟨3, 1, .ok⟩]).wf = false ∧
    (Instr.hostLinkUp 0 16 false).wf = false ∧ (Instr.hostLinkUp 5 3 false).wf = false := by decide +kernel

/-! ### The step and the encodings -/

theorem test_meets_StepRunsFront : { tUp with pending := [.nop tH] }.pending = [.nop tH] ∧ tUp.pending = [] ∧
    tUp.tideOn = true ∧ State.reset.pending = [] ∧ State.reset.tideOn = false := by decide +kernel
theorem test_meets_WellFormedCompletes : (Instr.counterLowRead ⟨0xFFFFFC, 4⟩).wf = true ∧
    exec (.counterLowRead ⟨0x1000000, 4⟩) tUp = .fault .noSuchAddress := ⟨by decide +kernel, rfl⟩
theorem test_meets_ExecLeavesQueue : ∃ t, exec .smbValueUpdate tUp = .next t := ⟨_, rfl⟩
theorem test_meets_StepKeepsMemories : memoriesWf tUp ∧ step tUp = .next { tUp with tide := 1000001 } :=
  ⟨⟨by decide, by decide, fun _ => rfl⟩, rfl⟩
theorem test_meets_SlotRoundTrip : (paramBytes (.tpXfer 0 0 8 0 [1, 2, 3])).length = 16 ∧
    (paramBytes .nop).length = 0 := by decide +kernel
theorem test_meets_SlotBytesAreTheCommand : (paramBytes (.trayStatus 1)).length < 65536 ∧
    (0x1000#64).toNat % 8 = 0 ∧
    paramLenOk (opcode (.trayStatus 1)) (paramBytes (.trayStatus 1)).length (paramBytes (.trayStatus 1)) = true ∧
    (sqAt tUp tH.ring.val).stalled = false := by decide +kernel
theorem test_meets_MicrowordRoundTrip :
    microEncode (.add 2 5 3 7) = some 0b000100_00011_00111_0000000000000000#32 ∧
    microCtxOf (.add 2 5 3 7) = some (2, 5) := by decide +kernel
theorem test_meets_MicrowordUnique :
    microDecode 4 15 0b100000_00010_00011_0000000100000010#32 = some (.wait 4 15 2 3 0x02#8 true) := by decide +kernel

/-! ### Host commands -/

theorem test_unhindered_nop : Unhindered tUp tH .nop 0 := by constructor <;> decide +kernel
theorem test_unhindered_getState : Unhindered tUp tH .getState 0 := by constructor <;> decide +kernel
theorem test_unhindered_trayStatus : Unhindered tUp tH (.trayStatus 7) 0 := by constructor <;> decide +kernel
theorem test_unhindered_seqStatus : Unhindered tUp (tHat 4 15) .seqStatus 0 := by constructor <;> decide +kernel
theorem test_unhindered_mcVersion : Unhindered tUp tH .mcVersion 0 := by constructor <;> decide +kernel
theorem test_unhindered_fuseRead : Unhindered tUp tH (.fuseRead 0) 0 := by constructor <;> decide +kernel
theorem test_unhindered_stage : Unhindered tUp tH (.stage 1 [⟨pid 2 3 0x10 0, 5⟩]) 0 := by
  constructor <;> decide +kernel
theorem test_unhindered_trayClear : Unhindered tTray tH (.trayClear 1) 0 := by constructor <;> decide +kernel
theorem test_unhindered_proof : Unhindered tTray tH (.proof 1) 0 := by constructor <;> decide +kernel
theorem test_unhindered_proof_fails : Unhindered tTray2 tH (.proof 1) 0 := by constructor <;> decide +kernel
theorem test_unhindered_bake : Unhindered tTray tH (.bake 2000000 1 false false 0) 0 := by
  constructor <;> decide +kernel

theorem test_meets_RejectionHasNoEffect : ringReady tUp tH.ring.val = true ∧ resumesLater tUp tH.ring.val = false ∧
    rqFree (rqAt tUp (sqAt tUp tH.ring.val).replyRing) ≠ 0 ∧
    (slotVerdict tUp [] [] tH (.bake 0 0 false true 0)).isSome = true ∧ tUp.inflight = [] ∧ tUp.unposted = [] := by
  decide +kernel
theorem test_meets_BoundStallsRing :
    (ringReady tFull 0 = true ∧ resumesLater tFull 0 = false ∧ rqFree (rqAt tFull 0) = 0) ∧
    (ringReady tBound 0 = true ∧ resumesLater tBound 0 = false ∧ rqFree (rqAt tBound 0) ≠ 0 ∧
      slotVerdict tBound [] [] tH .nop = none ∧ boundMet tBound tH .nop ≠ 0) ∧
    (ringReady tStall 0 = true ∧ resumesLater tStall 0 = false ∧ (sqAt tStall 0).stalled = true) := by
  decide +kernel
theorem test_bound_stalls : answers (exec (.nop tH) tFull) (fun t => (sqAt t 0).stalled && (sqAt t 0).head = 0 &&
      (rqAt t 0).fullStall.c = 1 && (sqAt t 0).stallCount.c = 0) = true ∧
    answers (exec (.nop tH) tBound) (fun t => (sqAt t 0).stalled && (sqAt t 0).head = 0 &&
      (rqAt t 0).fullStall.c = 0 && (sqAt t 0).stallCount.c = 1) = true := by decide +kernel
/-- Two commands of ring 0 to the device, the earlier one still running. -/
def cEarly : Cmd := { ord := 0, hdr := tH, op := .nop, accepted := 0, phase := .running }
def cLate : Cmd := { ord := 1, hdr := tH, op := .nop, accepted := 0, phase := .running }
def tTwo : State := { tUp with inflight := [cEarly, cLate], nextOrd := 2 }
theorem test_meets_ReplyIsPosted : replyWaits tTwo cLate = true ∧ replyWaits tTwo cEarly = false ∧ tTwo.unposted = [] ∧
    (rqAt tUp 0).enable = true ∧ ringLegal (rqAt tUp 0).log2 = true ∧
    canRequest tUp = true := by decide +kernel
/-- The later reply waits, and both stand in the reply ring in ring order once the earlier one is posted. -/
theorem test_replies_in_ring_order :
    (let t := postOrdered tTwo cLate ⟨0, 8, 0, 0, true, []⟩ []
     (t.host.rqMem.length, t.unposted.length) = (0, 1) ∧
     (let u := postOrdered t cEarly ⟨0, 7, 0, 0, true, []⟩ []
      (tabFind u.host.rqMem (rqKey 0 0)).map (·.tag) = some 7#16 ∧
      (tabFind u.host.rqMem (rqKey 0 1)).map (·.tag) = some 8#16 ∧ u.unposted = [])) := by decide +kernel
theorem test_reply_wraps : (rqAt (postReply (setRq tUp 0 { rqAt tUp 0 with tail := 15 }) cEarly false
      ⟨0, 7, 0, 0, true, []⟩ []) 0).phase = false := by decide +kernel
theorem test_nop_replies : answers (exec (.nop tH) tUp) (fun t =>
    ((tabFind t.host.rqMem (rqKey 0 0)).map fun r => (r.status, r.tag, r.phase)) = some (0#16, 7#16, true) &&
      (sqAt t 0).head = 1 && t.inflight = []) = true := by decide +kernel
theorem test_getState_ready : answers (exec (.getState tHn) tUp) (fun t =>
    ((tabFind t.host.rqMem (rqKey 0 0)).map fun (r : Reply) => r.data.take 4) = some [3#8, 0#8, 0#8, 0#8]) = true := by
  decide +kernel
theorem test_stage_adds : answers (exec (.stage tH 1 [⟨pid 2 3 0x10 0, 5⟩]) tUp) (fun t =>
    (trayAt t 1).entries = [(0x20031000#32, 5)]) = true := by
  decide +kernel
theorem test_stage_replaces : stageEntries [(1, 5), (2, 6)] [⟨1, 7⟩, ⟨3, 8⟩] = [(1, 7), (2, 6), (3, 8)] := by decide +kernel
theorem test_meets_ProofMarksTray :
    proofFail (startedState tTray2 tH (.proof 1) 0) (trayAt tTray2 1).entries = none ∧
    (proofFail (startedState tTray tH (.proof 1) 0) (trayAt tTray 1).entries).isSome = true := by decide +kernel
theorem test_meets_BakeArms : tH.scope = 6#4 := rfl

def tArmed : State := { tTray with par := { tTray.par with
  pendBake := some { instant := 2000000, tray := 1, tag := some 0 } } }
theorem test_meets_BakeStrobeLoads : ∃ p, tArmed.par.pendBake = some p ∧ p.chain = false ∧ p.cal = none :=
  ⟨_, rfl, rfl, rfl⟩
theorem test_strobe : answers (exec (.bakeStrobe true) tArmed) (fun u =>
    u.tide = 2000000 && u.par.generation = 1 && baked u (pid 2 3 0x10 0) = 5) = true ∧
  answers (exec (.bakeStrobe false) tArmed) (fun u => u.par.generation = 0 && u.par.baked = []) = true := by
  decide +kernel

def tAck : State := setAck tUp (pid 6 0 0xD9 5) ⟨5, 2⟩
theorem test_meets_AcknowledgeByCount :
    let x := ackOf tAck (ackHome tAck (pid 6 0 0xD9 5))
    idOne (pid 6 0 0xD9 5) = some .ack ∧ (5 - x.a).toNat ≤ (x.c - x.a).toNat ∧
      (x.c - x.a).toNat < (6 - x.a).toNat ∧ ackHome tAck (pid 6 0 0xD9 5) ≠ pid 6 0 0x02 0 ∧
      (Ack.mk 1 2).c - (Ack.mk 1 2).a = 0xFFFFFFFF#32 := by decide +kernel

def cN : Cmd := { ord := 0, hdr := tH, op := .nop, accepted := 0 }
def tWait : State := { tUp with inflight := [cN], nextOrd := 1 }
def cD : Cmd := { cN with phase := .deferred, hdr := { tH with defer := true, deferGen := 0 } }
def tDef : State := { tUp with inflight := [cD], nextOrd := 1 }
theorem test_meets_FetchAndDispatch :
    (sqAt tUp 0).stalled = false ∧ (sqAt tStall 0).stalled = true ∧
    (ringReady tUp 0 = true ∧ resumesLater tUp 0 = false ∧ rqFree (rqAt tUp (sqAt tUp 0).replyRing) ≠ 0 ∧
      parseOp (slotOpcode (List.replicate 64 255#8)) (slotBlock (List.replicate 64 255#8) []) = none) ∧
    (firstStart tWait 4 = some cN ∧ forwarded tWait cN = false ∧ disabledEngine tWait cN = none ∧
      freeContext tWait cN.engine = some 0) ∧
    (deferFirst tDef = some cD ∧ startChecks tDef cD.viaChain cD.hdr cD.op = none) := by decide +kernel

/-! ### The host link -/

def tRq : State := setRq tUp 0 { rqAt tUp 0 with tail := 2 }
theorem test_meets_Doorbells : barReach tUp = true ∧ barReach tRq = true ∧
    ((sqAt tUp 0).enable = true ∧ ringLegal (sqAt tUp 0).log2 = true ∧ 15 < 2 ^ (sqAt tUp 0).log2) ∧
    ¬(16 < 2 ^ (sqAt tUp 0).log2) ∧ (sqAt tUp 15).enable = false ∧
    ((rqAt tRq 0).enable = true ∧ (2 + 2 ^ 4 - 0) % 2 ^ 4 ≤ ((rqAt tRq 0).tail + 2 ^ 4 - (rqAt tRq 0).head) % 2 ^ 4 ∧
      ¬((3 + 2 ^ 4 - 0) % 2 ^ 4 ≤ ((rqAt tRq 0).tail + 2 ^ 4 - (rqAt tRq 0).head) % 2 ^ 4)) := by decide +kernel
theorem test_sqTailDoorbell : answers (exec (.sqTailDoorbell 0 0xFFFFF00F) tUp) (fun t =>
      (sqAt t 0).tail = 15 && (sqAt t 0).doorbellErr.c = 0) = true ∧
    answers (exec (.sqTailDoorbell 0 0x10) tUp) (fun t =>
      (sqAt t 0).tail = 1 && (sqAt t 0).doorbellErr.c = 1) = true := by decide +kernel
theorem test_rqHeadDoorbell : answers (exec (.rqHeadDoorbell 0 2) tRq) (fun t => (rqAt t 0).head = 2) = true ∧
    answers (exec (.rqHeadDoorbell 0 3) tRq) (fun t =>
      (rqAt t 0).head = 0 && (rqAt t 0).doorbellErr.c = 1) = true := by decide +kernel
theorem test_meets_Descriptors : barReach tUp = true ∧ (sqAt tUp 15).enable = false ∧ (rqAt tUp 15).enable = false ∧
    ((sqAt tUp 0).enable = true ∧ (sqAt tUp 0).base = 0 ∧ (sqAt tUp 0).log2 = 4 ∧ (sqAt tUp 0).replyRing = 0) ∧
    ((rqAt tUp 0).enable = true ∧ (rqAt tUp 0).base = 0 ∧ (rqAt tUp 0).log2 = 4) := by decide +kernel
theorem test_sqRingEnable : answers (exec (.sqRingEnable 0 0x1040 12 3) tUp) (fun t =>
      (sqAt t 0).log2 = 4 && (sqAt t 0).doorbellErr.c = 1) = true ∧
    answers (exec (.sqRingEnable 1 0x1040 12 3) tUp) (fun t =>
      sqAt t 1 = { base := 0x1040, enable := true, log2 := 12, replyRing := 3 }) = true := by decide +kernel
theorem test_rqRingEnable : answers (exec (.rqRingEnable 0 0 4 63 255 65535) tUp) (fun t =>
      (rqAt t 0).vector = 63 && (rqAt t 0).doorbellErr.c = 0) = true ∧
    answers (exec (.rqRingDisable 0 0x20 4 1 1 0) tUp) (fun t =>
      (rqAt t 0).enable && (rqAt t 0).doorbellErr.c = 1) = true := by decide +kernel

theorem test_meets_ControlWindow : barReach tUp = true ∧ (1048848 < 0x1000000 ∧ 0x100000 ≤ 1048848 ∧
      1048848 % 4 = 0 ∧ ((mirrorAt 1048848).map ackable) = some true) ∧
    (0x2100 ≤ 0xFFFFFC ∧ 0xFFFFFC % 4 = 0 ∧ mirrorAt 0xFFFFFC = none) ∧
    ((mirrorAt 0x100000).map ackable) ≠ some true ∧ 0x2101 % 4 ≠ 0 ∧ 0x2101 + 1 ≤ 0x1000000 ∧
    (1048592 % 8 = 0 ∧ isLow64 1048592 = true) ∧ (isLow64 1048596 = false ∧ isLow64 (1048596 - 4) = true) ∧
    (isLow64 0x2100 = false ∧ isLow64 (0x2100 - 4) = false) := by decide +kernel
theorem test_counterLowRead_pair : answers (exec (.counterLowRead ⟨1048592, 8⟩) tUp) (fun t => t.out.bytes.length = 8 &&
    t.host.latch = []) = true := by decide +kernel
theorem test_bar0Write_rejected : answers (exec (.bar0Write 0x2101 [1] false) tUp) (fun t =>
    (ackOf t (pid 6 0 0xD1 6)).c = 1) = true := by decide +kernel
theorem test_counterLowRead_latches : answers (exec (.counterLowRead ⟨1048592, 4⟩) tUp) (fun t =>
    t.out.status = 0 && tabGet 9 t.host.latch 1048596 = bar0Value tUp 1048596) = true := by decide +kernel

def tBad : State := { tUp with hold := { tUp.hold with bad := [(2, true)] } }
theorem test_meets_HoldAperture : barReach tUp = true ∧ memWf tUp.hold.mem = true ∧
    (rangePattern 0x1000 2 = true ∧ stackIsDown tUp 0 = false ∧ stackIsDown tUp 1 = false) ∧
    rangePattern 0xBFFFFFFFF 1 = false ∧ 0xFFFFFFFFF + 1 ≤ 0x1000000000 ∧ 0xC00000000 ≤ 0xFFFFFFFFF ∧
    badWord tUp 0xBFFFFFFFF 1 = none ∧ (badWord tBad 0x40 2).isSome = true := by decide +kernel
theorem test_bar2Write : answers (exec (.bar2Write 0x1000 [1, 2] false) tUp) (fun t =>
    memReadBytes t.hold.mem 0xFFF 4 = [0, 1, 2, 0]) = true := by decide +kernel

def tNoFuse : State := { tUp with boot := { tUp.boot with fusesRead := false } }
theorem test_meets_Configuration : tUp.host.linkUp = true ∧ tNoFuse.host.linkUp = true ∧
    tNoFuse.boot.fusesRead = false ∧ tUp.cold = false ∧ tUp.boot.fusesRead = true := by decide +kernel
theorem test_configRequest_ids : answers (exec (.configRequest 0 none) tUp) (fun t =>
    t.out.bytes = [0x6A, 0x1F, 0x10, 0x64]) = true := by decide +kernel

def cHeld : Cmd := { ord := 0, hdr := { tH with resultPtr := 64 }, op := .nop, accepted := 0 }
def tHeld : State := { tUp with host := { tUp.host with
  heldReplies := [⟨cHeld, true, 0, ⟨0, 7, 0, 0, true, []⟩, 900000, [1]⟩], busMaster := false } }
def tD3 : State := { tUp with host := { tUp.host with dState := 3 } }
theorem test_meets_PowerStates : tHeld.host.linkUp = true ∧ tD3.host.dState = 3 ∧ tHeld.host.heldReplies ≠ [] ∧
    (exec .busMasterEnableSet tHeld = .next (flushHeld { tHeld with host := { tHeld.host with busMaster := true } })) :=
  ⟨rfl, rfl, by decide +kernel, rfl⟩
theorem test_held_reply_posts : answers (exec .busMasterEnableSet tHeld) (fun t =>
    t.host.heldReplies = [] && (rqAt t 0).tail = 1 && memReadBytes t.host.hostMem 64 1 = [1]) = true := by decide +kernel

def tDown : State := { tUp with host := { tUp.host with linkUp := false } }
theorem test_meets_LinkLossAndTraining : tUp.host.linkUp = true ∧ mayLinkUp tDown = true ∧ 16 ≤ maxWidth tDown := by
  decide +kernel
theorem test_hostLinkDown : answers (exec .hostLinkDown tUp) (fun t =>
    (sqAt t 0).enable = false && (sqAt t 0).tail = 1 && (rqAt t 0).enable = false) = true := by decide +kernel

def cS : Cmd := { ord := 0, hdr := tHat 4 0, op := .segLoad 0 0 0 64, accepted := 0, phase := .running, work := .segRead }
def tSeg : State := { tUp with inflight := [cS], nextOrd := 1 }
def cB : Cmd := { ord := 0, hdr := tHat 7 0, op := .bcastLoad 0 0 64, accepted := 0, phase := .running
                  work := .bcast 0 [] }
def tBc : State := { tUp with inflight := [cB], nextOrd := 1 }
def cSh : Cmd := { cS with op := .segLoad 0 0 0x8000000000000040 64 }
def tSegH : State := { tBad with inflight := [cSh], nextOrd := 1 }
theorem test_meets_ReadCompletions : readerOf tSeg 7 = some cS ∧ readerOf tBc 7 = some cB ∧ ringReady tUp 0 = true ∧
    segFromHold 0 = false ∧ (readerOf tSegH 7 = some cSh ∧ segFromHold 0x8000000000000040 = true ∧
      (holdRead tSegH 0x40 64).2.isSome = true) ∧ (holdRead tSegH 0x80 64).2 = none := by decide +kernel
theorem test_poisonedCompletion : answers (exec (.poisonedCompletion (.inr 7)) tSeg) (fun t => t.inflight = [] &&
    ((tabFind t.host.rqMem (rqKey 0 0)).map fun (r : Reply) => (r.status, r.data.take 2)) =
      some (0x200#16, [0xD0#8, 0x00#8])) = true := by decide +kernel
theorem test_lost_fetch_disables : answers (exec (.completionTimeout (.inl 0)) tUp) (fun t =>
    (sqAt t 0).enable = false && (sqAt t 0).head = 0 && (sqAt t 0).doorbellErr.c = 1) = true := by decide +kernel

def tMs : State := { tUp with host := { tUp.host with msixEn := true, msix := [(1, { masked := false, pending := true })] } }
def tCo : State := setRq tMs 0 { rqAt tUp 0 with unsignalled := 1, coalesceTime := 1, oldest := 1000000, coalesceCount := 3 }
theorem test_meets_ReplySignals : 0x100 ≤ (0x100#16).toNat ∧ Nat.max 1 (rqAt tUp 0).coalesceCount ≤ (rqAt tUp 0).unsignalled + 1 ∧
    ((0xFF#16).toNat < 0x100 ∧ (rqAt tCo 0).unsignalled + 1 < Nat.max 1 (rqAt tCo 0).coalesceCount) ∧
    msixCanSend tMs (rqAt tMs 0).vector = true ∧ msixCanSend tUp (rqAt tUp 0).vector = false ∧ barReach tUp = true ∧
    ((rqAt tCo 0).unsignalled ≠ 0 ∧ (rqAt tCo 0).coalesceTime ≠ 0 ∧ msixCanSend tCo (rqAt tCo 0).vector = true) ∧
    (msixCanSend tMs 1 = true ∧ (msixAt tMs 1).pending = true) := by decide +kernel
theorem test_replyCoalesceTimeout : answers (exec (.replyCoalesceTimeout 0) tCo) (fun t =>
    (rqAt t 0).unsignalled = 0 && t.tide = 1000800 && (msixAt t 1).sent = 1) = true := by decide +kernel
theorem test_meets_FastStatus : (fsAt tUp .device).notBefore ≤ tUp.tide ∧
    (fsAt tUp .device).words ≠ fsContents tUp .device := by decide +kernel
theorem test_fastStatusRewrite : answers (exec (.fastStatusRewrite .device) tUp) (fun t =>
    (fsAt t .device).seq = 1 && (fsAt t .device).notBefore = 1006400) = true := by decide +kernel
theorem test_meets_SmbusCodes : tUp.boot.aonOn = true ∧ tUp.cold = false ∧ { tUp with cold := true }.cold = true := by
  decide +kernel
theorem test_smbRunState : answers (exec .smbRunState tUp) (fun t => t.out.bytes = [3]) = true ∧
    answers (exec .smbRunState { tUp with cold := true }) (fun t => t.out.bytes = [0]) = true ∧
    answers (exec (.smbZoneTemp 23) tUp) (fun t => t.out.bytes = [0x00, 0x80]) = true := by decide +kernel

/-! ### The chain -/

def tFolTray : State := { tFol with par := { tFol.par with
  trays := [(1, { entries := [(0xFFFFFFFF, 5)], proven := true })] } }
def tFolBake : State := { tFolTray with par := { tFolTray.par with
  pendBake := some { instant := 1002000, tray := 1, chain := true, go := false } } }
def tPilBake : State := { tPil with par := { tPil.par with
  pendBake := some { instant := 1002000, tray := 1, chain := true, go := false, wanted := [5], tag := some 0 } } }
def tPilReady : State := { tPil with par := { tPil.par with
  pendBake := some { instant := 1002000, tray := 1, chain := true, go := false, wanted := [5], ready := [5], tag := some 0 } } }
def tFolAsk : State := { tFolTray with par := { tFolTray.par with
  pendBake := some { instant := 1002000, tray := 1, chain := true, go := false, wanted := [1] } } }
theorem test_meets_ChainBakeSignals : isFollower tFolTray = true ∧ canPrepare tFolTray (expand36 tFolTray 1100000) 1 = true ∧
    canPrepare tFolTray (expand36 tFolTray 1000000) 1 = false ∧
    (∃ b, tFolBake.par.pendBake = some b ∧ bakeNamed b 1002000 = true ∧ isFollower tFolBake = true) ∧
    (∃ b, tFolAsk.par.pendBake = some b ∧ bakeNamed b 1002000 = true ∧ isFollower tFolAsk = true ∧ b.tag = none ∧
      b.ready.contains (1 : Fin 4).val = false ∧ b.wanted.all (fun q => (b.ready ++ [(1 : Fin 4).val]).contains q) = true) ∧
    (∃ b, tPilBake.par.pendBake = some b ∧ bakeNamed b 1002000 = true ∧ isFollower tPilBake = false ∧ b.chain = true ∧
      b.go = false ∧ b.tag.isSome = true ∧ b.wanted.all (fun i => b.ready.contains i) = false ∧
      tPilBake.tide + 1600 ≤ b.instant ∧ b.instant < { tPilBake with tide := 1000401 }.tide + 1600) ∧
    (∃ b, tPilReady.par.pendBake = some b ∧ b.chain = true ∧ b.go = false ∧ b.tag.isSome = true ∧ b.armed = true ∧
      tPilReady.tide + 1600 ≤ b.instant ∧ b.wanted.all (fun i => b.ready.contains i) = true) := by
  refine ⟨by decide +kernel, by decide +kernel, by decide +kernel, ⟨_, rfl, by decide +kernel⟩,
    ⟨_, rfl, by decide +kernel⟩, ⟨_, rfl, by decide +kernel⟩, ⟨_, rfl, by decide +kernel⟩⟩
theorem test_bakeReady_names_device : answers (exec (.bakeReady 1 1002000) tPilBake) (fun t =>
    (t.par.pendBake.map (·.ready)) = some [5]) = true := by decide +kernel
theorem test_chainBakeDecision_cancels : answers (exec .chainBakeDecision tPilBake) (fun t =>
    t.par.pendBake = none && t.tide = 1000400 && t.out.sent = [.signal none (.bakeCancel 1002000)]) = true := by decide +kernel

def tTok : State := { tFol with quay := [(15, { armed := true, mask := 1, tokenWait := true })] }
def tLine : State := { tFol with chain := { tFol.chain with pendTrig := [(15, 1000100)] } }
theorem test_meets_TokensAndTriggers : isFollower tTok = true ∧ tTok.tide + 192 ≤ expand36 tTok 1000192 ∧
    lacksToken tTok 15 = true ∧ isFollower tPil = false ∧ isPilot tPil = true ∧
    ((15 : Fin 16).val, 1000100) ∈ tLine.chain.pendTrig ∧
    (∀ e ∈ tLine.chain.pendTrig, e.1 = 15 → 1000100 ≤ e.2) := by decide +kernel
theorem test_token_in_time : answers (exec (.token 1000192) tTok) (fun t =>
      (quayAt t 15).startAt = some 1000192) = true ∧
    answers (exec (.token 1000191) tTok) (fun t => (quayAt t 15).startAt = none && (quayAt t 15).armed &&
      (ackOf t (pid 4 15 0x36 12)).c = 1) = true := by decide +kernel
theorem test_meets_OvenAndLost : isFollower tFol = true ∧ tFol.clk.refState = .locked ∧ isFollower tPil = false ∧
    isPilot tPil = true := by decide +kernel
theorem test_lost_loses_subtree : answers (exec (.lost 5) tPil) (fun t =>
    ((tabFind t.chain.devices 5).map (·.lost)) = some true) = true := by decide +kernel

def tAlign : State := { tFol with chain := { tFol.chain with
  correction := some (-5001, 1000100), drift := -1, stepAt := 1000200 } }
theorem test_meets_TideAlignment : 2 ≤ (portAt tFol 0).state ∧
    ((measAt tPil 1).exchange = 0 ∧ (measAt tPil 1).done < exchanges) ∧
    (tAlign.chain.correction = some (-5001, 1000100) ∧ isFollower tAlign = true) ∧
    (tAlign.chain.enumerated = true ∧ trackEn tAlign = true ∧ tAlign.chain.drift ≠ 0) ∧
    ((portAt tFol 0).queue = [] ∧ frameMost ≤ creditOf (portAt tFol 0) 0 ∧ (portAt tFol 0).replay.length < 128) ∧
    (quayAt { tAlign with quay := [(15, { armed := true })] } 15).armed = true := by decide +kernel
theorem test_tideAlignment_quays : ∀ q, q < 16 → (quayAt tAlign q).armed = false ∧ (quayAt tAlign q).running = false :=
  fun _ _ => ⟨rfl, rfl⟩
theorem test_tideCorrectionApply : answers (exec .tideCorrectionApply tAlign) (fun t =>
    t.tide = 1000098 && t.chain.rootPhase = 4999) = true := by decide +kernel

def tSent : State := { tFol with chain := { tFol.chain with
  ports := [(0, { state := 2, role := 1, replay := [(7, .lossPark)], txSeq := 8 })] } }
theorem test_meets_FramesAndLinkBlocks : 2 ≤ (portAt tSent 0).state ∧ (0#16).toNat = (portAt tSent 0).rxSeq ∧
    replayFrom (portAt tSent 0).replay 7 = [(7, .lossPark)] ∧ (portAt tSent 3).state < 2 ∧
    ((0xFFFF#16).toNat ≠ (portAt tSent 0).rxSeq ∧
      ((portAt tSent 0).rxSeq + 65536 - (0xFFFF#16).toNat) % 65536 < 32768) ∧ (portAt tSent 0).queue = [] := by
  decide +kernel
theorem test_linkBlock_ack : answers (exec (.linkBlock 0 (.ack 7)) tSent) (fun t => (portAt t 0).replay = []) = true ∧
    answers (exec (.frameReceive 0 3 false .lossPark) tSent) (fun t =>
      (ackOf t (pid 6 0 0x83 1)).c = 1 && t.out.sent = [.nakFrame 0 3]) = true := by decide +kernel

def tLane (x : Lane) : State := { tPil with chain := { tPil.chain with lanes := [(47, x)] } }
theorem test_meets_LaneBringUp : (laneEnabled (portEnter (tLane {}) 3) 47 = true ∧ laneClocked (tLane {}) 47 = true ∧
      mayTrain (tLane {}) (portOfLane 47) = true ∧ (laneAt (tLane {}) 47).state = .off ∧
      ((lanesOfPort 3).all fun k => (laneAt (tLane {}) k).state = .off) = true) ∧
    (laneAt (tLane { state := .slip }) 47).state = .slip ∧
    (laneAt (tLane { state := .detect }) 47).state = .detect ∧
    (laneAt (tLane { state := .bitLock }) 47).state = .bitLock ∧
    ((laneAt (tLane { state := .blockLock, retried := true }) 47).retried = true ∧ (laneAt (tLane { state := .blockLock }) 47).retried = false) ∧
    ((laneAt (tLane { state := .deskew }) 47).state = .deskew ∧ (portAt (tLane {}) (portOfLane 47)).state < 2) ∧
    capLanes (tLane { state := .capability }) 3 ≠ [] ∧ (portAt (tLane {}) 3).capCause = 0 ∧
    trainedMask (tLane { state := .capability }) 3 = 0x800 ∧ isPilot tFol = false ∧ isPilot (tLane {}) = true ∧
    ((0x800#12).toNat = trainedMask (tLane { state := .capability }) 3 ∧
      (0x7FF#12).toNat ≠ trainedMask (tLane { state := .capability }) 3 ∧
      (1 : Fin 3).val ≠ (portAt (tLane { state := .capability }) 3).rate) := by decide +kernel
def tTrainAct : State := { tFol with chain := { tFol.chain with
  lanes := [(0, { state := .active }), (1, { state := .train }), (2, { state := .active, frozen := true })] } }
theorem test_meets_LaneBringUp_timeout :
    (lanesOfPort 0).any (fun k => (laneAt tTrainAct k).state = .train) = true ∧ 2 ≤ (portAt tTrainAct 0).state := by
  decide +kernel
theorem test_trainTimeout : answers (exec (.trainTimeout 0) tTrainAct) (fun t => (laneAt t 1).state = .failed &&
    (laneAt t 0).state = .active) = true := by decide +kernel

def cT : Cmd := { ord := 0, hdr := tH, op := .laneTest 1 0 false false 0 0 50, accepted := 0, phase := .running
                  started := 900000, work := .laneTest 1 }
def tTest : State := { tTrainAct with inflight := [cT], nextOrd := 1 }
theorem test_meets_LaneEvents : (laneAt tTrainAct 1).state = .train ∧ laneActive tTrainAct 0 = true ∧
    (laneAt tTrainAct 0).frozen = false ∧ (laneActive tTrainAct 2 = true ∧ (laneAt tTrainAct 2).frozen = true) ∧
    ((15 :: (laneAt tTrainAct 0).bips).take 4).sum < 16 ∧ ¬((16 :: (laneAt tTrainAct 0).bips).take 4).sum < 16 ∧
    2 ≤ (portAt tTrainAct 0).state ∧ testCmd tTest 1 = some cT ∧ rootLocked tTrainAct = true ∧
    (rootLocked { tTrainAct with clk := {} } = false ∧ (laneAt { tTrainAct with clk := {} } 1).state = .train) ∧
    (portAt { tFol with chain := { ports := [(0, { downPend := true })] } } 0).downPend = true ∧
    (testCmd (tLane { state := .test }) 47 = none ∧ (laneAt (tLane { state := .test }) 47).state = .test) := by
  decide +kernel
theorem test_adaptWindowEnd : answers (exec (.adaptWindowEnd 0 3687) tTrainAct) (fun t => (laneAt t 0).frozen &&
      (ackOf t (pid 6 0 0x82 3)).c = 1) = true ∧
    answers (exec (.adaptWindowEnd 0 3686) tTrainAct) (fun t => !(laneAt t 0).frozen) = true := by decide +kernel

/-! ### Sequencers, results, channels -/

def tc0 : Nat := 1000000 * 5000 * 65536
/-- Quay 15 with berth 60 armed. -/
def tQ (x : Quay) : State := { tUp with quay := [(15, x)], berth := [(60, { run := .running, powered := true })] }
def tRun : Quay := { armed := true, running := true, mask := 1, vectorIndex := 64, sPos := tc0 }
theorem test_meets_BurstEvents :
    ((quayAt (tQ { armed := true, mask := 1, startAt := some 1000192 }) 15).armed = true ∧
      gateOf (reach (tQ { armed := true, mask := 1, startAt := some 1000192 }) 1000192) 15 ≤ 1000192) ∧
    (quayAt (tQ { armed := true, mask := 1, startAt := some 1000192 }) 15).running = false ∧
    ((quayAt (tQ tRun) 15).running = true ∧ (quayAt (tQ tRun) 15).starving = false ∧ nextSegment (tQ tRun) 15 = some 0) ∧
    dataThere (tQ tRun) 15 (64 * 3 - (quayAt (tQ tRun) 15).played) = true ∧
    ((quayAt (tQ { tRun with haltReq := some (1000000, 1) }) 15).haltReq = some (1000000, 1) ∧
      boundaryFor (tQ { tRun with haltReq := some (1000000, 1) }) 15 1000000
        (granulesLeft (tQ { tRun with haltReq := some (1000000, 1) }) 15) = some 3) ∧
    boundaryFor (tQ { tRun with jumps := [(1000000, 3, 0)] }) 15 1000000
      (granulesLeft (tQ { tRun with jumps := [(1000000, 3, 0)] }) 15) = some 3 ∧
    (quayAt (tQ { tRun with starving := true }) 15).starving = true := by decide +kernel
/-- A zone of the quay throttles: the gate lies past the instant. -/
def tGate : State := { tQ { armed := true, mask := 1, startAt := some 1000192, gate := some 1000193 } with
  therm := { zones := [(15, { state := 2 })] } }
theorem test_meets_BurstEvents_gate : 1000192 < gateOf (reach tGate 1000192) 15 := by decide +kernel
theorem test_haltTaken : answers (exec (.haltTaken 15) (tQ { tRun with haltReq := some (1000000, 1) })) (fun t =>
    (quayAt t 15).halted && (quayAt t 15).haltCause = 1 && (quayAt t 15).haltIndex = 256 && t.tide = 1000192 &&
    (berthAt t 60).run = .idle) = true := by decide +kernel
theorem test_burstStart : answers (exec (.burstStart 15) (tQ { armed := true, mask := 1, startAt := some 1000192 }))
    (fun t => (quayAt t 15).running && t.tide = 1000192 && (berthAt t 60).run = .running) = true := by decide +kernel

def tPause : State := tQ { tRun with pause := some 4 }
def tRedirect : State := tQ { tRun with pause := some 4, redirect := some 9 }
def cA : Cmd := { ord := 0, hdr := tHat 4 15, op := .arm 0 1 0, accepted := 0, phase := .running, work := .prefill [15] [15] }
def tFill : State := { tQ {} with inflight := [cA], nextOrd := 1 }
/-- The quay plays a streaming segment of 4 granules with 70 vectors in the FIFO, the word of the 66th bad. -/
def tStream : State :=
  let s := tQ { tRun with fifo := 1700, fifoBad := some 1600 }
  { s with par := { s.par with baked := [((pid 4 15 0x30 0).toNat, 6)] } }
def tPrefill : State := { tFill with quay := [(15, { fifo := 262144, prefill := some 0 })] }
def tLw : State := tQ { tRun with lwPlaying := true, lwNext := 1, lwStart := 1000000 }
theorem test_meets_SegmentEvents : playing (tQ tRun) 15 = true ∧
    ((quayAt tPause 15).pause = some 4 ∧ (quayAt tPause 15).running = true ∧ (quayAt tPause 15).haltReq = none ∧
      (quayAt tPause 15).jumps = [] ∧ (quayAt tPause 15).redirect = none) ∧
    ((quayAt tRedirect 15).pause = some 4 ∧ (quayAt tRedirect 15).redirect = some 9) ∧
    ((quayAt (tQ tRun) 15).vectorIndex ≤ 64 ∧ 65 % 64 ≠ 0) ∧
    (tFill.inflight = [cA] ∧ cA.op = .arm 0 1 0 ∧ cA.phase = .running ∧ cA.work = .prefill [15] [15]) ∧
    (quayAt tLw 15).lwPlaying = true ∧
    dataThere (tQ tRun) 15 (64 * segLenG (tQ tRun) 15 (quayAt (tQ tRun) 15).curSeg - (quayAt (tQ tRun) 15).played) = true ∧
    starveDue tStream 15 = some (130, starveCode .holdEcc) ∧ starveDue (tQ tRun) 15 ≠ some (130, starveCode .underrun) ∧
    prefilled tPrefill 15 = true ∧ (let u := catchUp tStream 15
      Nat.min (fifoRoom u 15) ((quayAt u 15).fifo + 32) < fifoRoom u 15 ∧
      Nat.min (fifoRoom u 15) ((quayAt u 15).fifo + 262144) = fifoRoom u 15) := by decide +kernel
theorem test_starve : answers (exec (.starve 15 130 .holdEcc) tStream) (fun t => (quayAt t 15).starving &&
      (quayAt t 15).starveIndex = 130 && (quayAt t 15).starveCause = 2) = true ∧
    answers (exec (.starveHalt 15) (tQ { tRun with starving := true, vectorIndex := 65 })) (fun t =>
      (quayAt t 15).haltCause = 2 && (quayAt t 15).haltIndex = 128) = true := by decide +kernel
theorem test_segmentPassEnd : answers (exec (.segmentPassEnd 15) (tQ tRun)) (fun t => (quayAt t 15).vectorIndex = 320 &&
      t.tide = 1000256) = true ∧
    answers (exec (.segmentPassEnd 15) (tQ { tRun with played := 64 })) (fun t => (quayAt t 15).vectorIndex = 256 &&
      (quayAt t 15).played = 0 && t.tide = 1000192) = true := by decide +kernel
theorem test_streamReadComplete : answers (exec (.streamReadComplete 15 32 false) tStream) (fun t =>
    (quayAt t 15).fifo = 1732 && (quayAt t 15).fifoBad = some 1600) = true := by decide +kernel

def tRes : State := { tQ { armed := true, mask := 1, resultMask := 1, resultsOpen := true, haltIndex := 128, entries := [(0, 0)] } with
  chan := [(975, { mode := 2 })] }
def rF : PosResult := ⟨15, 2, .high⟩
def cU (w : Work) : Cmd := { ord := 0, hdr := tHat 7 0, op := .resultUpload 1, accepted := 990000, phase := .running, work := w }
def tUpl (w : Work) : State := { tUp with inflight := [cU w], nextOrd := 1 }
theorem test_meets_ResultEvents : ((quayAt tRes (quayOfBerth 60)).resultsOpen = true ∧
      natBit (quayAt tRes (quayOfBerth 60)).resultMask (60 % 4) = true ∧ vectorPlayed tRes (quayOfBerth 60) 127 = true ∧
      (playedEntry tRes (quayOfBerth 60) 127).map (·.2) = some (0#8).toNat ∧ inDigital tRes 60 rF = true ∧ fails rF = true) ∧
    ((quayAt tRes 15).resultsOpen = true ∧ (quayAt tRes 15).running = false ∧ 60 ∈ berthsOfQuay 15) ∧
    ((berthAt tRes 60).fc.log.length < 256 ∧ (quayAt tUp (quayOfBerth 60)).resultsOpen = false) ∧
    ((tUpl (.upload [] [])).inflight = [cU (.upload [] [])] ∧ (cU (.upload [] [])).op = .resultUpload 1 ∧
      (cU (.upload [] [])).viaChain = false) ∧
    ((cU (.upload [(0, [])] [5])).work = .upload [(0, [])] [5] ∧ [5] ≠ [] ∧
      partTaken (tUpl (.upload [(0, [])] [5])) [(0, [])] = true ∧ canRequest (tUpl (.upload [(0, [])] [5])) = true) := by
  decide +kernel
theorem test_compareResult : answers (exec (.compareResult 60 127 0 0 false [rF]) tRes) (fun t =>
    (chanAt t 975).failCount = 1 && (berthAt t 60).fc.failVectors = 1 && (chanAt t 974).failCount = 0) = true ∧
    answers (exec (.compareResult 60 128 0 0 false [rF]) tRes) (fun t => (chanAt t 975).failCount = 0) = true := by
  decide +kernel
theorem test_resultPartTimeout : answers (exec .resultPartTimeout (tUpl (.upload [(0, [])] [5]))) (fun t =>
    t.inflight = [] && t.tide = 8996400 &&
    ((tabFind t.host.rqMem (rqKey 0 0)).map fun (r : Reply) => (r.status, r.data.take 6)) =
      some (0x200#16, [0x42, 0, 5, 0, 0, 0])) = true := by decide +kernel

/-- Berth 63 of a device that is up. -/
def tB (x : Berth) : State := { tUp with berth := [(63, x)] }
/-- A baked parameter of a device that is up. -/
def tP (ps : List (Word × Word)) (s : State) : State :=
  { s with par := { s.par with baked := ps.foldl (fun t p => tabSet t p.1.toNat p.2) s.par.baked } }
def tHand (x : Berth) : State := { (tB { x with run := .parked, powered := true, target := 15, seqStart := 1000000 }) with
  chan := [(1023, { connect := true, mode := 2, driver := .low }), (1087, { mode := 2 })] }
def cP : Cmd := { ord := 0, hdr := tHat 6 0, op := .unpark 1001000, accepted := 0, phase := .running, work := .unpark 1001000 }
def tUnpark : State := { (tB { run := .parked, powered := true }) with inflight := [cP], nextOrd := 1 }
/-- The quay of berth 63 runs with vectors of one count; one of them starts at the 320th count after the strobe. -/
def tMove : State := { (tB { run := .running, powered := true, target := 15, seqStart := 999800, seqPhase := 2 }) with
  quay := [(15, { tRun with mask := 8 })] }
theorem test_meets_ChannelEvents :
    ((chanAt (tHand {}) 1023).driver ≠ .hiz ∧ (chanAt tUp 1023).driver = .hiz ∧ (wingAt (tHand {}) 3).linkDown = false) ∧
    liveF (tP [(pid 2 1023 0x10 0, 0)] tUp) 2 (paramInst tUp 1023) 0x10 0 5 2 = 0 ∧
    liveF (tP [(pid 2 1023 0x10 0, 0x20)] (tB { run := .idle })) 2 (paramInst tUp 1023) 0x10 0 5 2 = 1 ∧
    (liveF (tP [(pid 2 1023 0x10 0, 0x40)] (tB { run := .idle })) 2 (paramInst tUp 1023) 0x10 0 5 2 = 2 ∧
      (berthAt (tP [(pid 2 1023 0x10 0, 0x40)] (tB { run := .idle })) (berthOfChan 1023)).run ≠ .off) ∧
    ((berthAt (tHand { seqPhase := 1 }) 63).seqPhase = 1 ∧ (berthAt (tHand { seqPhase := 1 }) 63).target < 16) ∧
    ((berthAt (tHand { seqPhase := 2 }) 63).seqPhase = 2 ∧ (berthAt (tHand { seqPhase := 2 }) 63).movedAt = none ∧
      (quayAt (tHand { seqPhase := 2 }) (quayOfBerth 63)).running = false) ∧
    ((berthAt tMove 63).seqPhase = 2 ∧ (berthAt tMove 63).movedAt = none ∧
      vectorStartFrom tMove (quayOfBerth 63) ((berthAt tMove 63).seqStart + 320) = some (tc0 + 120 * 5000 * 65536)) ∧
    ((berthAt (tHand { seqPhase := 2, movedAt := some 1000320, cal := { step := 1 } }) 63).movedAt = some 1000320 ∧
      (berthAt (tHand { seqPhase := 2, movedAt := some 1000320, cal := { step := 1 } }) 63).seqPhase = 2 ∧
      (berthAt (tHand { seqPhase := 2, movedAt := some 1000320, cal := { step := 1 } }) 63).seqStart + 384 < 2 ^ 64 ∧
      (berthAt (tHand { seqPhase := 2, movedAt := some 1000320, cal := { step := 1 } }) 63).cal.step ≠ 4) ∧
    ((berthAt (tHand { seqPhase := 5, movedAt := some 1000320 }) 63).seqPhase = 5 ∧
      (berthAt (tHand { seqPhase := 5, movedAt := some 1000320 }) 63).target < 16 ∧
      (berthAt (tHand { seqPhase := 5, movedAt := some 1000320 }) 63).cal = {}) ∧
    firstUnpark tUnpark = some (cP, 1001000) ∧
    (berthAt (tB { run := .idle, park := some { applyAt := some 1001600, toFault := true } }) 63).park =
      some { applyAt := some 1001600, toFault := true } ∧
    (berthAt (tB { run := .running, park := some { deadline := some 1008000 } }) 63).park =
      some { deadline := some 1008000 } := by decide +kernel
theorem test_substOverlap : answers (exec (.substOverlap 63) (tHand { seqPhase := 1 })) (fun t =>
    (chanAt t 1087).connect && (chanAt t 1087).mode = 2 && t.tide = 1000256) = true := by decide +kernel
theorem test_substSwitch : answers (exec (.substSwitch 63) (tHand { seqPhase := 2, movedAt := some 1000380, cal := { step := 1 } }))
    (fun t => t.tide = 1000388 && (berthAt t 63).subst = 1 && !(chanAt t 1023).connect) = true := by decide +kernel
theorem test_unparkInstant : answers (exec .unparkInstant tUnpark) (fun t => t.tide = 1001000 && (berthAt t 63).run = .idle &&
    t.inflight = []) = true := by decide +kernel
theorem test_parkModeApply : answers (exec (.parkModeApply 63)
    (tB { run := .idle, park := some { applyAt := some 1001600, toFault := true } })) (fun t =>
    t.tide = 1001600 && (berthAt t 63).run = .fault) = true := by decide +kernel

def tC (x : Chan) : State := { tUp with chan := [(1087, x)] }
def tPp : PpmuRun := { cmd := 0, slow := false, left := 2 }
theorem test_meets_PpmuEvents : ((chanAt (tC { rangeSw := some { target := 2, start := 1000000 } }) 1087).rangeSw =
      some { target := 2, start := 1000000 }) ∧
    ((chanAt (tC { mode := 3 }) 1087).mode = 3 ∧ funcNow (tC { mode := 3 }) 1087 < 2) ∧
    ((chanAt (tC { mode := 3, ppmu := some tPp }) 1087).ppmu = some tPp ∧
      (chanAt (tC { mode := 3, ppmu := some tPp })
        (carrier (tC { mode := 3, ppmu := some tPp }) (berthOfChan 1087) (posOfChan 1087))).mode = 3 ∧
      ppmuDelayed (tC { mode := 3, ppmu := some tPp }) 1087 = false ∧ 1 < tPp.left) := by decide +kernel
theorem test_rangeSwEnd : answers (exec (.rangeSwEnd 1087)
    (tC { rangeSw := some { target := 2, start := 1000000, step := 2, queued := some 5 } })) (fun t =>
    (chanAt t 1087).range = 2 && (chanAt t 1087).rangeSw = some { target := 5, start := 1001600 }) = true := by decide +kernel
theorem test_ppmuSample : answers (exec (.ppmuSample 1087 (-3)) (tC { mode := 3, ppmu := some tPp })) (fun t =>
    (chanAt t 1087).ppmu = some { tPp with left := 1, taken := 1, sum := -3, least := -3, most := -3 }) = true := by
  decide +kernel

/-! ### Measurement, site power, calibration, thermal supervision -/

def tAcq (x : Acq) : State := tB { run := .idle, powered := true, acq := x }
theorem test_meets_AcquisitionEvents : (acqAt (tAcq { state := 1, first := 1000040 }) 63).state ≠ 0 ∧
    recordWhole (acqAt (tAcq { state := 2, want := 0, left := 1 }) 63) = true ∧
    (acqAt (tAcq { state := 3, closing := true, left := 1 }) 63).closing = true ∧
    ((acqAt (tAcq { state := 3, left := 1 }) 63).state = 3 ∧ (acqAt (tAcq { state := 3, left := 1 }) 63).closing = false) ∧
    ((acqAt (tAcq { unspilled := [(0, [1, 2])] }) 63).unspilled = [(0, [1, 2])] ∧
      stackIsDown (tAcq { unspilled := [(0, [1, 2])] }) (stackOf (regionBase 63)) = false ∧
      stackIsDown { (tAcq { unspilled := [(0, [1, 2])] }) with hold := { trained := true, stackDown := 2 } }
        (stackOf (regionBase 63)) = true) := by decide +kernel
theorem test_acqSpill : answers (exec (.acqSpill 63) (tAcq { unspilled := [(0, [1, 2])] })) (fun t =>
    memReadBytes t.hold.mem (acqRegion 63) 2 = [1, 2] && (acqAt t 63).held = [(0, 0, 2)]) = true := by decide +kernel

def tTmu (x : Tmu) : State := tB { run := .idle, powered := true, tmu := x }
def u0 : Nat := 5000 * 1000000
theorem test_meets_TimeMeasurementEvents :
    ((tmuAt (tTmu { state := 1, source := 4 }) 63).source = (4 : Fin 5).val ∧ (tmuAt (tTmu { state := 1, source := 4 }) 63).pendOpen = none) ∧
    (tmuAt (tTmu { state := 2, source := 4 }) 63).state = 2 ∧
    (tmuAt (tTmu { state := 1, pendOpen := some u0 }) 63).pendOpen = some u0 ∧
    (tmuAt (tTmu { state := 2, openAt := some u0, closeAt := some (u0 + 10), windows := 1 }) 63).closeAt = some (u0 + 10) ∧
    (inOpenWindow (tmuAt (tTmu { state := 2, openAt := some u0, words := [0, 0x60000] }) 63) u0 = true ∧
      edgeUsed (tmuAt (tTmu { state := 2, openAt := some u0, words := [0, 0x60000] }) 63) 18 0 = true) ∧
    (edgeComes (tTmu { state := 2 }) 63 18 u0 = true ∧ edgeComes (tTmu { state := 2 }) 63 17 (u0 + 1) = false) ∧
    ((tmuAt (tTmu { state := 1, source := 1, gateSel := 3, gateFall := true }) 63).gateFall = !false) := by decide +kernel
theorem test_tmuWindows : answers (exec (.tmuWindowOpen 63) (tTmu { state := 1, pendOpen := some u0 })) (fun t =>
    (tmuAt t 63).state = 2 && (tmuAt t 63).windows = 1) = true := by decide +kernel
def tEdge : State := tTmu { state := 2, openAt := some u0, words := [0, 0x60000], lastAccepted := [(18, u0)] }
theorem test_tmuEdge : answers (exec (.tmuEdge 63 18 0 (u0 + 159)) tEdge) (fun t => (tmuAt t 63).pendEdges.length = 1 &&
      (let v := tmuFlush t 63
       (ackOf v (pid 3 63 0x63 3)).c = 1 && tabFind (tmuAt v 63).lastAccepted 18 = some u0)) = true ∧
    answers (exec (.tmuEdge 63 18 0 (u0 + 160)) tEdge) (fun t => let v := tmuFlush t 63
      (ackOf v (pid 3 63 0x63 3)).c = 0 && tabFind (tmuAt v 63).lastAccepted 18 = some (u0 + 160)) = true := by decide +kernel
/-- Two edges of one stamp that are brought in the wrong order are evaluated with the lower input first (R245). -/
theorem test_edges_in_order : (edgeInsert ⟨u0, 3, 0, false, false⟩ [⟨u0 - 1, 9, 0, false, false⟩, ⟨u0, 18, 0, false, false⟩]).map
    (fun e => e.input) = [9, 3, 18] := by decide +kernel
def tEdge2 : State :=
  tTmu { state := 2, openAt := some u0, words := [0, 0x60000], pendEdges := [⟨u0, 18, 0, false, false⟩] }
/-- An edge more than 64 tc behind is evaluated as another comes. -/
theorem test_tmuEdge_flushes : answers (exec (.tmuEdge 63 18 0 (u0 + 5000 * 65)) tEdge2) (fun t =>
    tabFind (tmuAt t 63).lastAccepted 18 = some u0 && (tmuAt t 63).pendEdges.length = 1) = true := by decide +kernel

def tSp (x : Sp) : State := tB { run := .idle, powered := true, sp := x }
def tPlan : OffPlan := { now := [], later := [[63]], nextAt := some 1000800 }
def tOff : State := { tSp { state := .on } with offPlans := [tPlan] }
def tEntry : SeqEntry := ⟨63, false, 0, 0, 1800000⟩
def cQ : Cmd := { ord := 0, hdr := tHat 6 0, op := .spSequence [tEntry], accepted := 0, phase := .running
                  work := .sequence [tEntry] [] (some 1000800) none }
def tSeqE : State := { tSp {} with inflight := [cQ], nextOrd := 1 }
theorem test_meets_SitePowerRamps :
    ((spAt (tSp { state := .starting, readyAt := some 1000800 }) 63).state = .starting ∧
      (spAt (tSp { state := .starting, readyAt := some 1000800 }) 63).readyAt = some 1000800) ∧
    (ramping (spAt (tSp { state := .rampUp, rampTarget := 1, rampSlew := 20 }) 63) = true ∧
      stepsLeft (spAt (tSp { state := .rampUp, rampTarget := 1, rampSlew := 20 }) 63) ≠ 0) ∧
    (ramping (spAt (tSp { state := .rampDown, acc := 0 }) 63) = true ∧
      (spAt (tSp { state := .rampDown, acc := 0 }) 63).rampTarget = 0) ∧
    ((spAt (tSp { state := .rampUp, rampTarget := 1, acc := 20 }) 63).rampTarget ≠ 0 ∧
      (spAt (tSp { state := .rampUp, rampTarget := 1, acc := 20 }) 63).offAfter = false) ∧
    (spAt (tSp { state := .rampDown, enFallAt := some 1000800 }) 63).enFallAt = some 1000800 ∧
    ((spAt (tSp { state := .hiccup, hiccupAt := some 1000800 }) 63).hiccupAt = some 1000800) ∧
    leastOf (tOff.offPlans.filterMap (·.nextAt)) = some 1000800 ∧
    (tSeqE.inflight = [cQ] ∧ cQ.work = .sequence (tEntry :: []) [] (some 1000800) none ∧ tEntry.berth.toNat = 63 ∧
      entryOwn tSeqE cQ.hdr.scope.toNat tEntry = true ∧ (berthAt tSeqE 63).run ≠ .off ∧ ctrlMoves tSeqE 63 = false) := by
  decide +kernel
theorem test_rampStep : answers (exec (.rampStep 63) (tSp { state := .rampUp, rampTarget := 1, rampSlew := 15 })) (fun t =>
    (spAt t 63).acc = 15 && (spAt t 63).stepAt = 40) = true := by decide +kernel
theorem test_stageReady : answers (exec (.stageReady 63 (-7) false) (tSp { state := .starting, readyAt := some 1000800, rampTarget := 500 }))
    (fun t => (spAt t 63).state = .rampUp && (spAt t 63).acc = 0 && t.tide = 1000800) = true := by decide +kernel
theorem test_enFallDelay : answers (exec (.enFallDelay 63 0) (tSp { state := .rampDown, enFallAt := some 1000800 })) (fun t =>
    (spAt t 63).state = .off && t.tide = 1000800) = true := by decide +kernel

theorem test_meets_SitePowerFaults :
    (monActs (tSp { state := .on }) 63 .oc = true ∧ (monOf (spAt (tSp { state := .on }) 63) .oc).blankEnd = none ∧
      (monOf (spAt (tSp { state := .on }) 63) .oc).level ≠ false) ∧
    (monActs (tSp { state := .on, ov := { level := false } }) 63 .ov = true ∧
      (monOf (spAt (tSp { state := .on, ov := { level := false } }) 63) .ov).level ≠ true) ∧
    (monOf (spAt (tSp { state := .on, uv := { blankEnd := some 1000100 } }) 63) .uv).blankEnd = some 1000100 ∧
    ((monOf (spAt (tSp { state := .on, uvArmed := true, uv := { filterFrom := some 1000000 } }) 63) .uv).filterFrom = some 1000000 ∧
      filterRuns (spAt (tSp { state := .on, uvArmed := true, uv := { filterFrom := some 1000000 } }) 63) .uv = true ∧
      filterEnd (tSp { state := .on, uvArmed := true, uv := { filterFrom := some 1000000 } }) 63 .uv = some
        (1000000 + filterTime (tSp { state := .on, uvArmed := true, uv := { filterFrom := some 1000000 } }) 63 .uv) ∧
      filterEnd (tSp { state := .on, uvArmed := true, uv := { filterFrom := some 1000000 } }) 63 .ov = none) ∧
    (wingAt tUp (wingOfBerth 63)).linkDown = false ∧
    (berthAt (tSp { state := .on }) 63).powered = true ∧
    (leaderOf (tSp { state := .on }) 63 = 63 ∧ switching (spAt (tSp { state := .on }) 63) = true) ∧
    (63 ∈ gangOf (tSp { state := .on }) 63 ∧ (berthAt (tSp { state := .on }) 63).run ≠ .off) := by decide +kernel
theorem test_monitorLevelChange : answers (exec (.monitorLevelChange 63 .ov true) (tSp { state := .on, ov := { level := false } }))
    (fun t => (ackOf t (pid 3 63 0x6F 4)).c = 1) = true := by decide +kernel
theorem test_stageFaultFlag : answers (exec (.stageFaultFlag 63) (tSp { state := .on })) (fun t =>
    (berthAt t 63).run = .fault && (ackOf t (pid 3 63 0x6F 8)).c = 1 && (berthAt t 63).lastFault = 0x33) = true := by
  decide +kernel

def tPwm (x : Phase) : State := tSp { state := .on, phases := [(0, x)] }
theorem test_meets_PwmEvents : phaseRuns (tPwm {}) 63 0 = true ∧ isCycleEdge (tPwm {}) 63 0 8000000 = true ∧
    (tPwm {}).tide ≤ 8000000 / 8 ∧ (7999744 + 256 ≤ 8000000) ∧ (8000000 < 7999745 + 256 ∧ 7999745 ≠ 0) ∧
    (phaseAt (spAt (tPwm { pwm := .high }) 63).phases 0).pwm = .high ∧ lebPeriods (tPwm {}) 63 ≤ maxDutyPeriods (tPwm {}) 63 ∧
    ((phaseAt (spAt (tPwm { pwm := .low }) 63).phases 0).pwm = .low ∧
      (spAt (tSp { state := .on, lightForced := true }) (leaderOf (tPwm {}) 63)).lightForced = true ∧
      liveF (tP [(pid 3 63 0x68 0, 47390736)] (tPwm { pwm := .low })) 3 63 0x68 0 4 1 = 1) := by decide +kernel
theorem test_pwmCycleEdge : answers (exec (.pwmCycleEdge 63 0 8000000) (tPwm { lastFall := 7999744 })) (fun t =>
      (phaseAt (spAt t 63).phases 0).pwm = .high) = true ∧
    answers (exec (.pwmCycleEdge 63 0 8000000) (tPwm { lastFall := 7999745 })) (fun t =>
      (phaseAt (spAt t 63).phases 0).pwm = .mid) = true := by decide +kernel
theorem test_maxDutyTimeout : answers (exec (.maxDutyTimeout 63 0) (tPwm { pwm := .high, setEdge := 8000000 })) (fun t =>
    (phaseAt (spAt t 63).phases 0).lastFall = 8005760) = true := by decide +kernel

def tCal (r : BRun) (x : Cal) : State := tB { run := r, powered := true, cal := x }
def tAuto : State := tP [(pid 3 63 0x90 0, 0x1FFF), (pid 3 63 0x90 1, 0)] { tCal .idle {} with tide := 60 * 800000000 }
theorem test_meets_CalibrationEvents :
    (liveF tAuto 3 63 0x90 0 0 1 = 1 ∧ (berthAt tAuto 63).run ≠ .off ∧ (berthAt tAuto 63).run ≠ .fault ∧ calBusy tAuto 63 = false ∧
      liveF tAuto 3 63 0x90 0 1 11 ≠ 0 ∧ tAuto.clk.refState = .locked ∧ patchHolds tAuto tAuto.nextOrd (wingOfBerth 63) = false ∧
      autoDue (tP [(pid 3 63 0x90 1, 0x100)] tAuto) 63 .period = true) ∧
    ((calAt (tCal .idle { runState := 1, step := 1 }) 63).step = 1 ∧ (calAt (tCal .idle { runState := 1, step := 1 }) 63).runState = 1) ∧
    ((calAt (tCal .idle { runState := 3, step := 1 }) 63).runState = 3) ∧
    (inPath (tB { run := .parked, powered := true, target := 15, cal := { runState := 2, step := 1, curPos := 15 } }) 63 = true) ∧
    (inPath (tCal .idle { runState := 2, step := 1, curPos := 15, inPlace := true }) 63 = false ∧
      (calAt (tCal .idle { runState := 2, step := 1, curPos := 15, inPlace := true }) 63).curPos < 16) ∧
    ((calAt (tCal .idle { readyAt := some 1000000 }) 63).readyAt = some 1000000 ∧
      (tCal .idle { readyAt := some 1000000 }).par.pendBake = none ∧
      liveF (tCal .idle { readyAt := some 1000000 }) 3 63 0x90 0 12 2 = 1) ∧
    (calBusy (tCal .idle { runState := 3, services := 1 }) 63 = true ∧
      (calAt (tCal .idle { runState := 3, services := 1 }) 63).services ≠ 0) := by decide +kernel
theorem test_calRideTimeout : answers (exec (.calRideTimeout 63) (tCal .idle { readyAt := some 1000000 })) (fun t =>
    t.tide = 17000000 && (t.par.pendBake.map (·.instant)) = some 17001600) = true := by decide +kernel

def tTemp (r : Int) : State := { tUp with therm := { sensors := (sensorsOf 0).map fun i => (i, { reading := some r }) } }
def causes (s : State) : Nat := stopCauses s 0 (levelsOf s 0 (zoneAt s 0).fresh (zoneAt s 0).levels (zoneTemp s 0) (zoneRate s 0)) (zoneTemp s 0)
theorem test_meets_ThermalEvents : ((sensorAt tUp 103).badKind = 0 ∧ ignored tUp 103 = false) ∧
    ((zoneAt (tTemp (256 * 140)) 0).state < 3 ∧ zoneTemp (tTemp (256 * 140)) 0 ≠ none ∧ causes (tTemp (256 * 140)) ≠ 0) ∧
    (zoneTemp (tTemp (256 * 25)) 0 ≠ none ∧ causes (tTemp (256 * 25)) = 0) ∧
    ([SensorIn.mk 3 0 .opened].map (·.sensor)).Nodup ∧ { tUp with cold := true }.cold = true ∧
    (sensorsOf 0).any (badHolds { tUp with therm := { sensors := [(0, { badKind := 1 })] } }) = true ∧
    natBit tUp.hold.stackDown 1 = false := by decide +kernel
theorem test_holdStackDown : answers (exec (.holdStackDown 1) { tUp with hold := { stackDown := 1 } }) (fun t =>
    t.hold.stackDown = 3 && t.devFault = some 0x41) = true := by decide +kernel

/-! ### Clocks, crossings, tender ports, start-up -/

def tClk (x : Clk) : State := { tUp with clk := { x with hkSettled := true, refPresent := 7 } }
def cR : Cmd := { ord := 0, hdr := tH, op := .refSelect 1, accepted := 0, phase := .running, started := 900000, work := .refSelect }
theorem test_meets_ReferenceEvents : tUp.clk.ovenLevel = false ∧
    ((tClk { ovenLevel := true, refSel := 1, refState := .locked }).clk.ovenLevel = true ∧ isFollower (tClk { ovenLevel := true }) = false ∧
      ovenReference (tClk { ovenLevel := true, refSel := 1, refState := .locked }) = true) ∧
    tUp.clk.refState = .locked ∧
    ((tClk { refState := .coast, coastEnd := some 1000100, trimLock := true }).clk.coastEnd = some 1000100 ∧
      (tClk { refState := .coast, coastEnd := some 1000100 }).clk.fallbackBy = none ∧
      (tClk { refState := .coast, coastEnd := some 1000100 }).clk.coastDone = false ∧
      (tClk { refState := .coast, coastEnd := some 1000100 }).clk.trimLock = false) ∧
    ((tClk { refState := .coast, coastLong := some 1000100 }).clk.coastLong = some 1000100) ∧
    ((tClk { refState := .coast, fallbackBy := some 1000100 }).clk.fallbackBy = some 1000100 ∧
      (tClk { refState := .coast, fallbackBy := some 1000100 }).devFault = none) ∧
    (liveF (tClk { refState := .fallback }) 6 0 0xB0 0 1 1 = 1 ∧
      liveF (tP [(pid 6 0 0xB0 0, 0)] (tClk { refState := .fallback })) 6 0 0xB0 0 1 1 = 0) ∧
    ((tClk { refState := .relock }).clk.refState = .relock ∧ (tClk { refState := .relock }).inflight = []) ∧
    (cR.phase = .running ∧ cR.work = .refSelect ∧ cR.op = .refSelect 1 ∧ 1000000 ≤ cR.started + 1200000) ∧
    ((tClk {}).boot.refQualified = true ∧ (tClk {}).clk.refState = .none) := by decide +kernel
theorem test_fallbackLocked : answers (exec .fallbackLocked (tClk { refState := .coast, fallbackBy := some 1000100 })) (fun t =>
    t.clk.refState = .fallback && (ackOf t (pid 6 0 0xB1 8)).c = 1) = true := by decide +kernel
theorem test_relockDone : answers (exec .relockDone { tClk { refState := .relock } with inflight := [cR], nextOrd := 1 })
    (fun t => t.clk.refState = .locked && t.clk.refSel = 1 && t.inflight = []) = true := by decide +kernel
theorem test_pllLock : answers (exec .pllLock { tClk {} with tideOn := false }) (fun t => t.tideOn && t.clk.pllLock) = true := by
  decide +kernel

theorem test_meets_ClockDomainEvents : tUp.boot.aonOn = true ∧ tUp.clk.refState = .locked ∧ 1000 < (1001 : Int).natAbs ∧
    trimRuns tUp = true ∧ tUp.clk.trimLock = true ∧ tUp.clk.refSel = 0 ∧ (tClk {}).clk.refState = .none ∧
    (mayGate tUp 0 63 = true ∧ sleepCond tUp 0 63 = true ∧ sleepState tUp 0 63 = 0 ∧ deepEn tUp 0 63 = true ∧
      deepCond tUp 0 63 = true) ∧ (47 < domainCount 5 ∧ sleepCond tUp 5 47 = false) := by decide +kernel
theorem test_domainSleep : answers (exec (.domainSleep 0 63 true) tUp) (fun t => sleepState t 0 63 = 2) = true ∧
    answers (exec (.domainSleep 2 0 false) tUp) (fun t => sleepState t 2 0 = 0) = true := by decide +kernel
theorem test_trimMeasurement : answers (exec (.trimMeasurement 1001) tUp) (fun t => !t.clk.trimLock &&
      (ackOf t (pid 6 0 0xB1 5)).c = 1) = true ∧
    answers (exec (.trimMeasurement 1000) tUp) (fun t => (ackOf t (pid 6 0 0xB1 5)).c = 0) = true := by decide +kernel

def cW (type : Byte) (w : List Nat) : Cmd := { ord := 0, hdr := tHat 5 3, op := .resetScope type none, accepted := 0
                                               phase := .running, work := .reset w 0 }
def tRst (type : Byte) (w : List Nat) (x : Wing) : State :=
  { tUp with inflight := [cW type w], nextOrd := 1, wing := [(3, x)] }
def cX (units : List (BitVec 32)) : Cmd := { ord := 0, hdr := tH, op := .tpXfer 7 3 8 0 units, accepted := 0, phase := .running }
def tTp (units : List (BitVec 32)) (x : Tp) : State := { tUp with inflight := [cX units], nextOrd := 1, tp := [(7, x)] }
def rT : TpRun := { cmd := 0, settings := 8, ctrl := 0 }
theorem test_meets_CrossingAndTenderEvents : (tUp.cold = false ∧ (wingAt tUp 3).linkDown = false) ∧
    awaiting (tRst 1 [3] {}) 3 = some (cW 1 [3], [3], 0) ∧
    acknowledged (tRst 0 [] {}) = some (cW 0 [], 0) ∧ acknowledged (tRst 1 [] {}) = some (cW 1 [], 0) ∧
    (linkReset (tRst 1 [] { retrainBy := some 1080000 }) 3 = some (cW 1 [], 0) ∧
      (wingAt (tRst 1 [] { retrainBy := some 1080000 }) 3).retrainBy = some 1080000) ∧
    (awaiting tUp 3 = none ∧ tUp.booted = true ∧ (berthsOfWing 3).any (fun b => (berthAt tUp b).run = .off) = true) ∧
    (runEn (tTp [] { queue := [0] }) 8 7 = true ∧ (tpAt (tTp [] { queue := [0] }) 7).run = none ∧ (tpAt (tTp [] { queue := [0] }) 7).queue = (cX []).ord :: []) ∧
    (tpRun (tTp [5] { run := some rT }) 7 = some (rT, cX [5]) ∧ rT.status = none ∧ rT.failed = 0 ∧ bit rT.settings 3 = true) ∧
    (tpRun (tTp [5] { run := some { rT with status := some 0 } }) 7 = some ({ rT with status := some 0 }, cX [5]) ∧
      rT.unit < (tpUnits (cX [5])).2.length) ∧
    rT.unit = (tpUnits (cX [])).2.length ∧ { rT with failed := 4 }.failed = 4 := by decide +kernel
theorem test_resetIndication : answers (exec (.resetIndication 3 1 2 3 4) (tRst 1 [3] { frozen := true, held := 3 })) (fun t =>
    (ackOf t (pid 5 3 0xC1 1)).c = 1 && (ackOf t (pid 5 3 0xC1 2)).c = 5 && (ackOf t (pid 5 3 0xC1 3)).c = 3 &&
    (t.inflight.map (·.work)) = [.reset [] 13]) = true := by decide +kernel
theorem test_d2dRetrainTimeout : answers (exec (.d2dRetrainTimeout 3) (tRst 1 [] { retrainBy := some 1080000 })) (fun t =>
    t.tide = 1080000 && (wingAt t 3).frozen && t.inflight = []) = true := by decide +kernel
theorem test_tpTransactionEnd : answers (exec (.tpTransactionEnd 7 8) (tTp [] { run := some { rT with status := some 0x5A } }))
    (fun t => (tpAt t 7).lastError = 0 && memReadBytes t.host.hostMem 4096 4 = [0x5A, 0, 0, 0]) = true := by decide +kernel
theorem test_tpReadyHigh : answers (exec (.tpReadyHigh 7 0x1FF) (tTp [5] { run := some { rT with status := some 0 } })) (fun t =>
    ((tpAt t 7).run.map (·.read)) = some [0xFF]) = true := by decide +kernel

def tBoot (b : Boot) : State := { tUp with booted := false, unparked := false, boot := { b with
  aonOn := true, rst := false, straps := some ⟨0, 1, 1, false, false, true, 0⟩, railVdd := true, railVdda := true } }
def tCold : State := { State.reset with boot := { aonOn := true }, clk := { hkSettled := true } }
theorem test_meets_StartUp : (tUp.boot.rst = false ∧ tUp.boot.aonOn = true ∧ tUp.cold = false) ∧
    (tCold.cold = true ∧ tCold.boot.aonOn = true ∧ tCold.clk.hkSettled = true ∧ tCold.boot.railsBad = 0) ∧ State.reset.boot.aonOn = false ∧
    booting (tBoot {}) = true ∧ (tBoot {}).boot.refQualified = false ∧ (tBoot {}).boot.fusesRead = false ∧
    flashWants (tBoot { fusesRead := true }) 0 = true ∧
    (flashWants (tBoot { fusesRead := true, flashRead := 1, flashFound := true }) 1 = true) ∧
    (flashWants (tBoot { fusesRead := true, flashRead := 3, flashFound := true }) 2 = true ∧
      flashWants (tBoot { fusesRead := true, flashRead := 3, flashFound := true }) 3 = true) ∧
    (flashWants (tBoot { fusesRead := true, flashRead := 15, flashFound := true }) 4 = true) ∧
    (step3Done (tBoot { refQualified := true }) = true ∧ { tBoot {} with hold := {} }.hold.trained = false) ∧
    (let s := tBoot { refQualified := true, fusesRead := true, flashRead := 15, flashFound := true, bootBerths := 1, quaysUp := 0 }
     s.boot.reload = false ∧ step3Done s = true ∧ step6Done s = true ∧ flashSkipped s = false ∧ s.boot.quaysUp ≤ (0 : Fin 16).val ∧
       bootMask s 0 = true ∧ (∀ b, b < 64 → s.boot.quaysUp ≤ quayOfBerth b → quayOfBerth b < (0 : Fin 16).val → bootMask s b = false)) ∧
    (let s := tBoot { refQualified := true, fusesRead := true, flashRead := 31, flashFound := true, quaysUp := 16 }
     step3Done s = true ∧ s.boot.fusesRead = true ∧ s.boot.reload = false ∧ step7Done s = true ∧ flashGot s 4 = true ∧
       s.boot.parkLoaded = false) ∧
    (let s := tBoot { refQualified := true, fusesRead := true, flashRead := 15, flashFound := true, reload := true }
     step3Done s = true ∧ s.boot.reload = true ∧ step6Done s = true) ∧
    (let s := tBoot { parkLoaded := true }
     s.hold.trained = true ∧ s.clk.hkSettled = true ∧ s.clk.refState = .locked ∧ s.devFault = none) := by decide +kernel
theorem test_boot_references : { tBoot {} with clk := {} }.clk.refState = .none := rfl
theorem test_rstNFall : answers (exec .rstNFall tUp) (fun t => t.cold && t.boot.straps = none &&
    (ackOf t (pid 6 0 0xD9 4)).c = 1 && !t.tideOn) = true := by decide +kernel
theorem test_strapCapture : answers (exec (.strapCapture ⟨0, 3, 0, true, true, false, 0⟩) tCold) (fun t =>
    !t.cold && t.boot.strapConflicts = 13 && t.boot.step = 2) = true := by decide +kernel

/-! ### Microwords -/

def tCtx (x : Ctx) : State := { tUp with inflight := [{ cN with phase := .running, context := 15 }], nextOrd := 1
                                         eng := [(4, { ctxs := [(15, { x with busy := true, safeAt := 1000000 })] })] }
theorem test_meets_MicrowordArithmetic : (ctxReady (tCtx {}) 4 15 = true ∧ ctxFault (tCtx {}) (ctxAt (tCtx {}) 4 15) = none) ∧
    (ctxFault (tCtx { sinceSafe := 255 }) (ctxAt (tCtx { sinceSafe := 255 }) 4 15) = none ∧
      ctxFault (tCtx { sinceSafe := 256 }) (ctxAt (tCtx { sinceSafe := 256 }) 4 15) = some 4) ∧
    ((ctxAt (tCtx { stack := List.replicate 7 1 }) 4 15).stack.length < 8 ∧ 8 ≤ (List.replicate 8 1).length) := by decide +kernel
/-- Patch RAM answers the fetch at address 0 with an ADD of E03 and E07. -/
def tPatch : State := { tCtx {} with eng := [(4, { engAt (tCtx {}) 4 with
  patchRam := [(0x8000, 0b000100_00011_00111_0000000000000000#32)], patchPoints := [(0, 0x8000)] })] }
theorem test_meets_fetches : fetches (.mov 4 15 3 7) (tCtx {}) 4 15 ∧ fetches (.add 4 15 3 7) tPatch 4 15 ∧
    delivers tPatch 4 (ctxAt tPatch 4 15) 0b000001_00011_00111_0000000000000000#32 = false :=
  ⟨⟨_, rfl, by decide +kernel⟩, ⟨_, rfl, by decide +kernel⟩, by decide +kernel⟩
theorem test_fetch_decides : answers (exec (.mov 4 15 3 7) tPatch) (fun t => (ctxAt t 4 15).pc = 0) = true ∧
    answers (exec (.add 4 15 3 7) tPatch) (fun t => (ctxAt t 4 15).pc = 1) = true := by decide +kernel
theorem test_add_carries : answers (exec (.add 4 15 3 7) (tCtx { regs := [(3, 0xFFFFFFFF), (7, 1)] })) (fun t =>
    let x := ctxAt t 4 15
    tabGet 9 x.regs 3 = 0 && x.zf && !x.nf && x.cf && !x.vf && x.pc = 1) = true := by decide +kernel
theorem test_sub_overflows : answers (exec (.sub 4 15 3 7) (tCtx { regs := [(3, 0x80000000), (7, 1)] })) (fun t =>
    let x := ctxAt t 4 15
    tabGet 9 x.regs 3 = 0x7FFFFFFF && !x.zf && !x.nf && x.vf) = true := by decide +kernel
theorem test_ret_pops : answers (exec (.ret 4 15) (tCtx { pc := 7, stack := [0x1234] })) (fun t =>
      (ctxAt t 4 15).pc = 0x1234 && (ctxAt t 4 15).stack = []) = true ∧
    answers (exec (.ret 4 15) (tCtx { pc := 7 })) (fun t => (engAt t 4).lastFaultCode = 3 &&
      (engAt t 4).lastFaultAddr = 7) = true := by decide +kernel

def tOn (op : HostOp) (x : Ctx) (s : State) : State := { s with
  inflight := [{ cN with op := op, phase := .running, context := 15 }], nextOrd := 1
  eng := [(4, { ctxs := [(15, { x with busy := true, safeAt := 1000000 })] })] }
theorem test_meets_MicrowordData :
    (let s := { tCtx {} with mc := { fabric := [(0x10000, 9)] } }
     canExecute s 4 15 ∧ tabFind s.mc.fabric (0x10000 : Word).toNat = some 9) ∧
    (let s := tOn (.trayStatus 1) {} tTray
     canExecute s 4 15 ∧ (ctxCmd s 4 15).isSome = true ∧ (ctxCmd s 4 15).bind (fun k => trayOf k.op) = some 1 ∧
       (trayAt s 1).entries[(0 : Word).toNat]? = some (pid 2 3 0x10 0, 5)) ∧
    (let s := tOn (.trayStatus 1) {} tTray
     paramWord s 4 15 0 ≠ none ∧ ((ctxCmd s 4 15).map (·.viaChain)) = some false ∧
       (ctxCmd s 4 15).map (replyWaits s) = some false ∧ s.unposted = []) ∧
    (let s := tOn .nop { regs := [(3, 5)] } tPil
     canExecute s 4 15 ∧ treePort s (5 % 128) = [1]) ∧
    idOne (pid 6 0 0xD9 5) = some .ack := by
  refine ⟨⟨⟨by decide +kernel, by decide +kernel⟩, by decide +kernel⟩,
    ⟨⟨by decide +kernel, by decide +kernel⟩, by decide +kernel⟩, by decide +kernel,
    ⟨⟨by decide +kernel, by decide +kernel⟩, by decide +kernel⟩, by decide +kernel⟩
theorem test_fwd : answers (exec (.fwd 4 15 3) (tOn .nop { regs := [(3, 5)] } tPil)) (fun t =>
    (t.inflight.map (·.missing)) = [[5]] && t.out.sent.length = 1) = true := by decide +kernel
theorem test_twr : answers (exec (.twr 4 15 3 0 true) (tOn (.trayStatus 1) { regs := [(3, 6)] } tTray)) (fun t =>
    (trayAt t 1).entries = [(pid 2 3 0x10 0, 6)] && t.par.baked = []) = true := by decide +kernel
theorem test_pst : answers (exec (.pst 4 15) (tOn .nop { regs := [(1, 0xABCD), (29, 1)] } tUp)) (fun t => t.inflight = [] &&
    ((tabFind t.host.rqMem (rqKey 0 0)).map fun (r : Reply) => (r.status, r.data.take 2)) =
      some (1#16, [0xCD#8, 0xAB#8])) = true := by decide +kernel

def tSafe (x : Ctx) : State := tOn .nop x tUp
theorem test_meets_MicrowordPhases :
    (canExecute (tSafe {}) 4 15 ∧ canExecuteSafe (tSafe { sinceSafe := 256 }) 4 15) ∧
    ((ctxAt (tSafe {}) 4 15).interrupt = false ∧ (ctxAt (tSafe {}) 4 15).abort = false ∧
      waitDefined 0x12 1 = true ∧ waitDefined 0x13 1 = false ∧ waitDefined 1 0 = false) ∧
    ((ctxAt (tSafe { abort := true }) 4 15).abort = true ∧ (ctxAt (tSafe { abort := true }) 4 15).phase = .prepare ∧
      (ctxCmd (tSafe { abort := true }) 4 15).isSome = true) ∧
    ((ctxAt (tSafe { wait := some ⟨1, false, 0, some 1000100, false⟩ }) 4 15).wait = some ⟨1, false, 0, some 1000100, false⟩ ∧
      (engAt (tSafe {}) 4).state = 0 ∧ waitShown (tSafe {}) ⟨1, false, 0, some 1000100, false⟩ ≠ false) ∧
    deliversFault (tSafe {}) 4 (ctxAt (tSafe {}) 4 15) (.microword 5) = true ∧
    (ctxReady (tSafe {}) 4 15 = true ∧ (engAt { tUp with eng := [(4, { state := 1 })] } 4).state = 1) :=
  ⟨⟨⟨by decide +kernel, by decide +kernel⟩, ⟨by decide +kernel, by decide +kernel⟩⟩, by decide +kernel, by decide +kernel,
    by decide +kernel, by decide +kernel, by decide +kernel⟩
theorem test_poll_enters_handler : answers (exec (.poll 4 15) (tSafe { abort := true, abortTag := 3 })) (fun t =>
    (ctxAt t 4 15).handled && (ctxAt t 4 15).ending = some (abortedBy 3) && t.inflight.length = 1) = true := by
  decide +kernel
theorem test_fault_of_ce4 : answers (exec (.fault 4 15 .parity) (tSafe { pc := 9 })) (fun t =>
    (engAt t 4).lastFaultCode = 2 && (engAt t 4).lastFaultAddr = 9 && t.devFault = some 0x82) = true := by decide +kernel
theorem test_waitTimeout : answers (exec (.waitTimeout 4 15) (tSafe { wait := some ⟨6, false, 0, some 1000100, false⟩ })) (fun t =>
    t.tide = 1000100 && (ctxAt t 4 15).timedOut && (ctxAt t 4 15).wait = none) = true := by decide +kernel

/-! ### Hypotheses that meet together, clause by clause -/

def tStale : State := { tUp with therm := { zones := (List.range 24).map fun z => (z, { fresh := false }) } }
theorem test_whole_BakeStrobeLoads :
    (∃ p, tArmed.par.pendBake = some p ∧ (p.chain = false ∨ p.go = true) ∧ p.armed = true ∧ p.instant < 2 ^ 64) ∧
    (∃ p, tFolBake.par.pendBake = some p ∧ p.chain = true ∧ p.go = false ∧ p.tag = none) ∧
    (∀ z, z < 24 → (zoneAt tStale z).fresh = false) :=
  ⟨⟨_, rfl, by decide⟩, ⟨_, rfl, by decide⟩, by decide +kernel⟩

def tFolCal : State := { tFolTray with par := { tFolTray.par with pendBake := some { instant := 1900000, tray := 0, cal := some 63 } } }
def tFolHeld : State := { tFolTray with par := { tFolTray.par with
  pendBake := some { instant := 1002000, tray := 1, chain := true, go := false, ready := [1] } } }
theorem test_whole_ChainBakeSignals :
    (isFollower tFolCal = true ∧ canPrepare tFolCal (expand36 tFolCal 1000000) 1 = false ∧ calBakePend tFolCal = true) ∧
    (isFollower tFolTray = true ∧ canPrepare tFolTray (expand36 tFolTray 1000000) 1 = false ∧ calBakePend tFolTray = false) ∧
    (∃ b, { tPilBake with tide := 1000401 }.par.pendBake = some b ∧ bakeNamed b 1002000 = true ∧
      isFollower { tPilBake with tide := 1000401 } = false ∧ b.instant < 1000401 + 1600) ∧
    (∃ b, tFolHeld.par.pendBake = some b ∧ bakeNamed b 1002000 = true ∧ isFollower tFolHeld = true ∧
      b.ready.contains (1 : Fin 4).val = true) ∧
    (∃ b, tPilBake.par.pendBake = some b ∧ b.chain = true ∧ b.go = false ∧ b.tag.isSome = true ∧ b.instant < 2 ^ 64 ∧
      ¬(b.armed = true ∧ tPilBake.tide + 1600 ≤ b.instant ∧ b.wanted.all (fun i => b.ready.contains i) = true)) :=
  ⟨by decide +kernel, by decide +kernel, ⟨_, rfl, by decide +kernel⟩, ⟨_, rfl, by decide +kernel⟩, ⟨_, rfl, by decide +kernel⟩⟩

def tPilCorr : State := { tPil with chain := { tPil.chain with correction := some (0, 1000100) } }
theorem test_whole_TideAlignment :
    (expand36 tTok 1000191 < tTok.tide + 192 ∧ isFollower tTok = true) ∧
    (tPilCorr.chain.correction = some (0, 1000100) ∧ isFollower tPilCorr = false) ∧
    5000 < (tAlign.chain.track + 5002 - tAlign.chain.drift).natAbs ∧ 2 ≤ (portAt tPil 1).state := by decide +kernel

def tNak (n : Nat) : State := { tFol with chain := { tFol.chain with
  ports := [(0, { state := 2, role := 1, replay := [(7, .lossPark)], txSeq := 8, nakSeq := 7, replays := n })] } }
theorem test_whole_FramesAndLinkBlocks :
    (2 ≤ (portAt (tNak 15) 0).state ∧ replayFrom (portAt (tNak 15) 0).replay 7 = [(7, .lossPark)] ∧
      (portAt (tNak 15) 0).nakSeq = 7 ∧ (portAt (tNak 15) 0).replays < 16) ∧
    (replayFrom (portAt (tNak 16) 0).replay 7 = [(7, .lossPark)] ∧ 16 ≤ (portAt (tNak 16) 0).replays) ∧
    replayFrom (portAt (tNak 16) 0).replay 9 = [] := by decide +kernel
theorem test_sixteen_replays : answers (exec (.linkBlock 0 (.nak 7)) (tNak 15)) (fun t => (portAt t 0).state = 2 &&
      (portAt t 0).replays = 16) = true ∧
    answers (exec (.linkBlock 0 (.nak 7)) (tNak 16)) (fun t => (portAt t 0).state = 0) = true := by decide +kernel

def tCapable : State := { tPil with chain := { tPil.chain with
  lanes := (List.range 12).map fun k => (36 + k, { state := .capability }) } }
def tOneTrain : State := { tPil with chain := { tPil.chain with lanes := [(47, { state := .train })] } }
theorem test_whole_LaneBringUp :
    (let s := tLane { state := .detect }
     laneEnabled s 47 = true ∧ laneClocked s 47 = true ∧ mayTrain s (portOfLane 47) = true ∧ (laneAt s 47).state = .detect ∧
       ((lanesOfPort 3).all fun k => (laneAt s k).state = .off) = false) ∧
    (laneAt (tLane { state := .blockLock, retried := true }) 47).state = .blockLock ∧
    ((lanesOfPort 3).any (fun k => (laneAt tOneTrain k).state = .train) = true ∧ portMoves tOneTrain 3 = false) ∧
    ((lanesOfPort 0).any (fun k => (laneAt tTrainAct k).state = .train) = true ∧ portMoves tTrainAct 0 = true) ∧
    (capLanes tCapable 3 ≠ [] ∧ portMoves tCapable 3 = true ∧ isPilot tCapable = true ∧ trainedMask tCapable 3 = 4095 ∧
      (portAt tCapable 3).capCause = 0 ∧ (6#12).toNat ≠ trainedMask tCapable 3 ∧
      (1 : Fin 3).val ≠ (portAt tCapable 3).rate) := by decide +kernel
theorem test_capabilityFrame : answers (exec (.capabilityFrame 3 true false 4095#12 0) tCapable) (fun t =>
    (laneAt t 36).state = .active && (portAt t 3).state ≠ 0) = true := by decide +kernel
theorem test_whole_LaneEvents :
    activeLanes tFol 3 ≠ [47] ∧ activeLanes (tLane { state := .active }) 3 = [47] ∧
    laneActive tTrainAct 0 = true ∧ activeLanes tTrainAct 0 ≠ [0] ∧
    3 ≤ (zoneAt { tUp with therm := { zones := [(22, { state := 4 })] } } 22).state := by decide +kernel

def tHalt : State := tQ { tRun with haltReq := some (1000000, 1) }
def tJump : State := tQ { tRun with jumps := [(1000000, 3, 0)] }
theorem test_whole_BurstEvents :
    ((quayAt tHalt 15).haltReq = some (1000000, 1) ∧ (quayAt tHalt 15).running = true ∧ (quayAt tHalt 15).starving = false ∧
      boundaryFor tHalt 15 1000000 (granulesLeft tHalt 15) = some 3 ∧ dataThere tHalt 15 (64 * 3 - (quayAt tHalt 15).played) = true) ∧
    ((quayAt tJump 15).jumps = [(1000000, 3, 0)] ∧ (quayAt tJump 15).running = true ∧ (quayAt tJump 15).starving = false ∧
      (quayAt tJump 15).haltReq = none ∧ boundaryFor tJump 15 1000000 (granulesLeft tJump 15) = some 3 ∧
      dataThere tJump 15 (64 * 3 - (quayAt tJump 15).played) = true) ∧
    ((quayAt (tQ { tRun with starving := true }) 15).running = true ∧ (quayAt (tQ { tRun with starving := true }) 15).starving = true) ∧
    ((quayAt tGate 15).armed = true ∧ (quayAt tGate 15).running = false ∧ (quayAt tGate 15).startAt = some 1000192 ∧
      1000192 < gateOf (reach tGate 1000192) 15) ∧ 60 ∈ armedBerths (tQ tRun) 15 := by decide +kernel

def tStarved : State := { tStream with hold := { trained := true, stackDown := 3 } }
def tReady : State := { tFill with berth := [(60, { run := .idle, powered := true })]
                                   quay := [(15, { fifo := 262144, prefill := some 0 })] }
def cA2 : Cmd := { cA with hdr := tHat 5 3, work := .prefill [14, 15] [14, 15] }
def tFill2 : State := { tReady with inflight := [cA2] }
theorem test_whole_SegmentEvents :
    ((quayAt tRedirect 15).pause = some 4 ∧ (quayAt tRedirect 15).running = true ∧ (quayAt tRedirect 15).haltReq = none ∧
      (quayAt tRedirect 15).jumps = [] ∧ (quayAt tRedirect 15).redirect = some 9) ∧
    (starveDue tStream 15 = some (130, starveCode .holdEcc) ∧ 130 % 64 ≠ 0) ∧
    (stackStarves (catchUp tStarved 15) 15 = true ∧ stackStarves (catchUp tStream 15) 15 = false) ∧
    (tReady.inflight = [cA] ∧ cA.op = .arm 0 1 0 ∧ cA.phase = .running ∧ prefilled tReady 15 = true ∧
      cA.work = .prefill [15] [15] ∧ quayFits tReady cA.op 15 = true) ∧
    (tFill2.inflight = [cA2] ∧ cA2.op = .arm 0 1 0 ∧ cA2.phase = .running ∧ prefilled tFill2 15 = true ∧
      cA2.work = .prefill [14, 15] [14, 15] ∧ [14, 15].filter (· ≠ 15) ≠ []) := by decide +kernel
theorem test_streamPrefillDone : answers (exec (.streamPrefillDone 15) tReady) (fun t => (quayAt t 15).armed && t.inflight = [] &&
    (berthAt t 60).run = .armed) = true := by decide +kernel
theorem test_stack_down_brings_nothing : answers (exec (.streamReadComplete 15 32 false) tStarved) (fun t =>
    (quayAt t 15).fifo = 1700) = true := by decide +kernel

def tLog (n : Nat) : State := tB { run := .idle, powered := true, fc := { log := List.replicate n [], logTotal := n
                                                                          capture := List.replicate n [], captureTotal := n } }
theorem test_whole_ResultEvents :
    ((quayAt tRes (quayOfBerth 60)).resultsOpen = true ∧ natBit (quayAt tRes (quayOfBerth 60)).resultMask (60 % 4) = true ∧
      vectorPlayed tRes (quayOfBerth 60) 127 = true ∧ (playedEntry tRes (quayOfBerth 60) 127).map (·.2) = some (0#8).toNat ∧
      inDigital tRes 60 rF = true ∧ fails rF = true ∧ windowClosed tRes 60 127 rF = true) ∧
    (256 ≤ (berthAt (tLog 256) 63).fc.log.length ∧
      stackIsDown { tLog 256 with hold := { stackDown := 2 } } (stackOf (regionBase 63)) = true) ∧
    (let s := { tRes with berth := [(60, { run := .idle, powered := true, fc := { log := [[]] } })] }
     (berthAt s 60).fc.log.length < 256 ∧ (quayAt s (quayOfBerth 60)).resultsOpen = true) := by decide +kernel
theorem test_lost_spill_is_uncounted : answers (exec (.failLogSpill 63) { tLog 257 with hold := { stackDown := 2 } }) (fun t =>
      (berthAt t 63).fc.log.length = 1 && (berthAt t 63).fc.logTotal = 1) = true ∧
    answers (exec (.failLogSpill 63) (tLog 257)) (fun t => (berthAt t 63).fc.logTotal = 257) = true := by decide +kernel

def tLimit (n : Word) (r : BRun) : State := tP [(pid 2 1023 0x10 0, n)] (tHand { run := r })
theorem test_whole_ChannelEvents :
    (let s := tLimit 0x20 .idle
     let u := catchUp s (quayOfBerth (berthOfChan 1023))
     (chanAt u 1023).driver ≠ .hiz ∧ liveF u 2 (paramInst u 1023) 0x10 0 5 2 = 1 ∧
       (wingAt u (wingOfBerth (berthOfChan 1023))).linkDown = false) ∧
    (berthAt (tHand { seqPhase := 4 }) 63).seqPhase = 4 ∧
    ((berthAt tUp 63).seqPhase ≠ 1 ∧ (berthAt tUp 63).seqPhase ≠ 4) ∧
    (let x := berthAt (tHand { seqPhase := 5, movedAt := some 1000320 }) 63
     x.movedAt = some 1000320 ∧ x.seqPhase = 5 ∧ x.target < 16 ∧ x.cal.purpose = 0 ∧ x.cal.step = 0 ∧ x.cal.runState = 0) ∧
    (let x := berthAt (tHand { seqPhase := 2, movedAt := some 1000320, cal := { purpose := 1, step := 4 } }) 63
     x.movedAt = some 1000320 ∧ x.seqPhase = 2 ∧ x.target < 16 ∧ x.seqStart + 384 < 2 ^ 64 ∧ x.cal.purpose = 1) ∧
    (let x : ParkReq := { deadline := some 1008000 }
     (berthAt (tB { run := .running, park := some x }) 63).park = some x ∧ x.applyAt = none ∧ x.deadline = some 1008000) := by
  decide +kernel
theorem test_shortLimitEvent : answers (exec (.shortLimitEvent 1023) (tHand {})) (fun t =>
    (chanAt t 1023).limitAt = some 1000000 && (ackOf t (pid 2 1023 0x14 0)).c = 1) = true := by decide +kernel

def tSw (w : RangeSwitch) : State := tC { mode := 3, rangeSw := some w, ppmu := some tPp }
theorem test_whole_PpmuEvents :
    ((chanAt (tSw { target := 2, start := 1000000, step := 1 }) 1087).rangeSw = some { target := 2, start := 1000000, step := 1 }) ∧
    (let w : RangeSwitch := { target := 2, start := 1000000, step := 2, queued := some 5 }
     (chanAt (tSw w) 1087).rangeSw = some w ∧ w.step = 2 ∧ w.queued = some 5 ∧ 5 ≠ w.target) ∧
    (let w : RangeSwitch := { target := 2, start := 1000000, step := 2 }
     (chanAt (tSw w) 1087).rangeSw = some w ∧ w.step = 2 ∧ w.queued = none) ∧
    (chanAt tUp 1087).mode ≠ 3 ∧
    ((chanAt (tSw { target := 2, start := 1000000 }) 1087).ppmu = some tPp ∧ tPp.taken = 0 ∧
      ppmuDelayed (tSw { target := 2, start := 1000000 }) 1087 = true) := by decide +kernel

theorem test_whole_AcquisitionEvents (img : List Byte) :
    (acqAt (tAcq { unspilled := [(0, img)] }) 63).unspilled = [(0, img)] ∧
    ((acqAt (tAcq { state := 3, continuous := true }) 63).state = 3 ∧ (acqAt (tAcq { state := 3, continuous := true }) 63).closing = false) ∧
    (List.replicate 0x2000001 (0 : Byte)).length = 0x2000001 := ⟨rfl, by decide +kernel, List.length_replicate⟩

theorem test_whole_TimeMeasurementEvents :
    ((tmuAt tEdge 63).state = 2 ∧ inOpenWindow (tmuAt tEdge 63) (u0 + 160) = true ∧ edgeUsed (tmuAt tEdge 63) 18 0 = true ∧
      tabFind (tmuAt tEdge 63).lastAccepted 18 = some u0) ∧ (tmuAt tUp 63).state ≠ 2 ∧
    (let x := tmuAt (tTmu { state := 1, source := 1, gateSel := 3, gateFall := true }) 63
     x.source = 1 ∧ x.gateSel = (3 : Fin 4).val ∧ x.gateFall = !false ∧ x.state = 1 ∧ x.pendOpen = none) ∧
    (let x := tmuAt (tTmu { state := 1, source := 4 }) 63
     x.source = (4 : Fin 5).val ∧ x.state = 1 ∧ x.pendOpen = none) ∧
    (let x := tmuAt (tTmu { state := 1, pendOpen := some u0 }) 63
     x.state = 1 ∧ x.pendOpen = some u0) := by decide +kernel

theorem test_whole_SitePowerRamps :
    (let x := spAt (tSp { state := .rampUp, rampTarget := 1, rampSlew := 20 }) 63
     ramping x = true ∧ x.enFallAt = none ∧ stepsLeft x ≠ 0) ∧
    (let x := spAt (tSp { state := .rampDown, acc := 0 }) 63
     ramping x = true ∧ x.enFallAt = none ∧ x.rampTarget = 0) ∧
    (let x := spAt (tSp { state := .rampUp, rampTarget := 1, acc := 20 }) 63
     ramping x = true ∧ x.enFallAt = none ∧ x.rampTarget ≠ 0 ∧ x.state ≠ .undoing ∧ x.offAfter = false) ∧
    (let x := spAt (tSp { state := .hiccup, enFallAt := some 1000800, hiccupAt := some 1000900 }) 63
     x.enFallAt = some 1000800 ∧ x.state ≠ .undoing ∧ x.state = .hiccup ∧ x.hiccupAt = some 1000900) ∧
    (tSeqE.inflight = [cQ] ∧ cQ.phase = .running ∧ cQ.work = .sequence (tEntry :: []) [] (some 1000800) none ∧
      tEntry.berth.toNat = 63 ∧ entryOwn tSeqE cQ.hdr.scope.toNat tEntry = true ∧ (berthAt tSeqE 63).run ≠ .off ∧
      ctrlMoves tSeqE 63 = false) := by decide +kernel
theorem test_spSeqEntryStart : answers (exec .spSeqEntryStart tSeqE) (fun t => (spAt t 63).rampTarget = 1800000 / 25 * 25 ∧
    t.tide = 1000800) = true := by decide +kernel

theorem test_whole_SitePowerFaults :
    (let s := tSp { state := .on }
     let u := countFront s 3 63 0x6F 8
     (berthAt s 63).powered = true ∧ filtersDue u (leaderOf s 63) u.tide = [] ∧ causeWins u (leaderOf s 63) 2 0 = true) ∧
    (let s := tSp { state := .on, lastAct := some (1000000, 3, 2) }
     let u := countFront s 3 63 0x6F 8
     (berthAt s 63).powered = true ∧ filtersDue u (leaderOf s 63) u.tide = [] ∧ causeWins u (leaderOf s 63) 2 0 = false) ∧
    (berthAt tUp 62).powered = false ∧
    (let s := tSp { state := .on }
     let u := countFront s 3 63 0x6F 0x0A
     leaderOf s 63 = 63 ∧ switching (spAt s 63) = true ∧ filtersDue u 63 u.tide = [] ∧ causeWins u 63 2 1 = true) ∧
    (let s := tSp { state := .on, lastAct := some (1000000, 2, 0) }
     let u := countFront s 3 63 0x6F 0x0A
     leaderOf s 63 = 63 ∧ switching (spAt s 63) = true ∧ filtersDue u 63 u.tide = [] ∧ causeWins u 63 2 1 = false) ∧
    switching (spAt (tSp {}) 63) = false := by decide +kernel
theorem test_one_action_an_edge : answers (exec (.openSenseDetect 63) (tSp { state := .on, lastAct := some (1000000, 2, 0) })) (fun t =>
    (berthAt t 63).run = .idle && (ackOf t (pid 3 63 0x6F 0x0A)).c = 1) = true := by decide +kernel

theorem test_whole_ReferenceEvents :
    (tUp.clk.refState = .locked ∧ (tClk { refState := .relock }).clk.refState = .relock ∧
      (tClk { refState := .coast, unsettled := true }).clk.unsettled = true) ∧
    (let x := (tClk { refState := .coast, coastEnd := some 1000100, trimLock := true }).clk
     x.coastEnd = some 1000100 ∧ x.refState = .coast ∧ x.coastDone = false ∧ x.fallbackBy = none ∧ x.hkSettled = true ∧
       x.trimLock = true) ∧
    (let s := tClk { refState := .coast, fallbackBy := some 1000100 }
     s.clk.refState = .coast ∧ s.clk.fallbackBy ≠ none ∧ s.devFault = none) ∧
    (let s := tClk {}
     s.boot.refQualified = true ∧ s.clk.refState = .none ∧ refcGood s = true) ∧
    (let s := { tClk { refState := .relock } with inflight := [cR], nextOrd := 1 }
     s.clk.refState = .relock ∧ s.inflight = [cR]) ∧
    (let s := tBoot {}
     booting { s with clk := {} } = true ∧ refcGood { s with clk := {} } = true) := by decide +kernel
theorem test_whole_CrossingAndTenderEvents :
    (acknowledged (tRst 0 [] {}) = some (cW 0 [], 0) ∧ (cW 0 []).op = .resetScope 0 none ∧ (0 : Byte) ≠ 1#8) ∧
    (let r : TpRun := { rT with status := some 0, failed := 3 }
     tpRun (tTp [] { run := some r }) 7 = some (r, cX []) ∧ r.failed = 3) ∧
    (let r : TpRun := { rT with status := some 0 }
     tpRun (tTp [] { run := some r }) 7 = some (r, cX []) ∧ r.status ≠ none ∧ r.failed = 0 ∧ r.unit = (tpUnits (cX [])).2.length) := by
  decide +kernel

/-- The fetch from ROM delivers any microword that has a word. -/
theorem test_rom_fetches (i : Instr) (w : Word) (h : microEncode i = some w) : fetches i (tCtx {}) 4 15 := ⟨w, h, rfl⟩
theorem test_whole_Microwords :
    (let s := tOn (.trayStatus 1) {} tTray
     canExecute s 4 15 ∧ (ctxAt s 4 15).ending = none ∧ (ctxCmd s 4 15).isSome = true) ∧
    (let s := tSafe { interrupt := true, held := some (0x0500, []) }
     canExecuteSafe s 4 15 ∧ (ctxAt s 4 15).handled = false ∧ (ctxCmd s 4 15).map (·.work) = some .none ∧
       (ctxAt s 4 15).interrupt = true) ∧
    (let s := tSafe { abort := true }
     canExecuteSafe s 4 15 ∧ (ctxAt s 4 15).handled = false ∧ (ctxCmd s 4 15).map (·.work) = some .none ∧
       (ctxAt s 4 15).interrupt = false ∧ (ctxAt s 4 15).abort = true) ∧
    (waitShown tUp ⟨2, false, 1000100, none, false⟩ = false ∧ waitShown tUp ⟨1, true, 0, none, false⟩ = true) ∧
    (ctxAt (tCtx { stack := List.replicate 8 1 }) 4 15).stack.length = 8 :=
  ⟨⟨⟨by decide +kernel, by decide +kernel⟩, by decide +kernel⟩, ⟨⟨by decide +kernel, by decide +kernel⟩, by decide +kernel⟩,
    ⟨⟨by decide +kernel, by decide +kernel⟩, by decide +kernel⟩, by decide +kernel, by decide +kernel⟩

end Sys2Proof.Tests
end

section
/-! Acceptance and start of a host command that nothing holds up, and what a BAKE then arms. -/

namespace Sys2Proof.HostCommands

open Sys2Proof Sys2Proof.Machine

/-! ### Acceptance (R32, R58, R59, R86) -/

/-- The host side once a command is taken from the head of ring `n`: Head is past its slot, an entry of the reply ring
is reserved, and the ring has one command more in flight. -/
def slotHost (s : State) (n : Nat) : HostSide :=
  let t := reserveReply (headPast s n) (sqAt s n).replyRing
  (setSq t n { sqAt t n with inFlight := (sqAt t n).inFlight + 1 }).host

@[simp] theorem slotHost_heldReplies (s : State) (n : Nat) : (slotHost s n).heldReplies = s.host.heldReplies := rfl

theorem accepted_eq_enter (s : State) (h : Hdr) (op : HostOp) :
    accepted s h op = enter { s with host := slotHost s h.ring.val } h op false := rfl

/-- Of the state, an operation that enters changes the pending bake alone. -/
theorem pendOf_only (s : State) (c : Cmd) :
    pendOf s c = { s with par := { s.par with pendBake := (pendOf s c).par.pendBake } } := by
  unfold pendOf
  split <;> rfl

theorem enter_only (s : State) (h : Hdr) (op : HostOp) (viaChain : Bool) :
    (enter s h op viaChain).1 = { s with
      nextOrd := s.nextOrd + 1, inflight := s.inflight ++ [(enter s h op viaChain).2]
      par := { s.par with pendBake := (enter s h op viaChain).1.par.pendBake } } := by
  unfold enter
  dsimp only
  split
  · exact pendOf_only _ _
  · rfl

/-- Acceptance changes the rings, the pending bake, the commands in flight and the next order number. -/
theorem accepted_only (s : State) (h : Hdr) (op : HostOp) :
    (accepted s h op).1 = { s with
      host := slotHost s h.ring.val, nextOrd := s.nextOrd + 1
      inflight := s.inflight ++ [(accepted s h op).2]
      par := { s.par with pendBake := (accepted s h op).1.par.pendBake } } := by
  rw [accepted_eq_enter]
  exact enter_only { s with host := slotHost s h.ring.val } h op false

@[simp] theorem accepted_inflight (s : State) (h : Hdr) (op : HostOp) :
    (accepted s h op).1.inflight = s.inflight ++ [(accepted s h op).2] := by rw [accepted_only]
@[simp] theorem accepted_unposted (s : State) (h : Hdr) (op : HostOp) :
    (accepted s h op).1.unposted = s.unposted := by rw [accepted_only]
@[simp] theorem accepted_chain (s : State) (h : Hdr) (op : HostOp) : (accepted s h op).1.chain = s.chain := by
  rw [accepted_only]
@[simp] theorem accepted_eng (s : State) (h : Hdr) (op : HostOp) : (accepted s h op).1.eng = s.eng := by
  rw [accepted_only]
@[simp] theorem accepted_tide (s : State) (h : Hdr) (op : HostOp) : (accepted s h op).1.tide = s.tide := by
  rw [accepted_only]
@[simp] theorem accepted_generation (s : State) (h : Hdr) (op : HostOp) :
    (accepted s h op).1.par.generation = s.par.generation := by rw [accepted_only]
@[simp] theorem accepted_heldReplies (s : State) (h : Hdr) (op : HostOp) :
    (accepted s h op).1.host.heldReplies = s.host.heldReplies := by
  rw [accepted_only]
  exact slotHost_heldReplies s h.ring.val

@[simp] theorem engAt_accepted (s : State) (h : Hdr) (op : HostOp) (e : Nat) :
    engAt (accepted s h op).1 e = engAt s e := by simp [engAt]

@[simp] theorem freeContext_accepted (s : State) (h : Hdr) (op : HostOp) (e : Nat) :
    freeContext (accepted s h op).1 e = freeContext s e := by simp [freeContext, ctxAt]

/-- A command of this device itself that is not deferred, as it enters. -/
def enteredCmd (s : State) (h : Hdr) (op : HostOp) : Cmd :=
  { ord := s.nextOrd, seq := s.nextOrd, hdr := h, op := op, accepted := s.tide, engine := engineFor h }

/-- Acceptance of a command of this device itself that is not deferred. -/
theorem accepted_of_own {s : State} {h : Hdr} (op : HostOp) (own : h.chain.toNat = s.chain.index)
    (notDeferred : h.defer = false) :
    accepted s h op =
      (pendOf { s with
          host := slotHost s h.ring.val, nextOrd := s.nextOrd + 1, inflight := s.inflight ++ [enteredCmd s h op] }
        (enteredCmd s h op), enteredCmd s h op) := by
  rw [accepted_eq_enter, enter, isOwn, own]
  simp [enteredCmd, engineFor, notDeferred]

/-! ### The start of a command that nothing holds up (R54, R61, R430) -/

@[simp] theorem startedCmd_hdr (s : State) (h : Hdr) (op : HostOp) (k : Nat) : (startedCmd s h op k).hdr = h := rfl
@[simp] theorem startedCmd_op (s : State) (h : Hdr) (op : HostOp) (k : Nat) : (startedCmd s h op k).op = op := rfl

section unhindered

variable {s : State} {h : Hdr} {op : HostOp} {k : Nat} (hu : Unhindered s h op k)
include hu

theorem accepted_cmd : (accepted s h op).2 = enteredCmd s h op := by
  rw [accepted_of_own op hu.own hu.notDeferred]

/-- The command is the only one in flight. -/
theorem accepted_alone : (accepted s h op).1.inflight = [enteredCmd s h op] := by
  rw [accepted_inflight, hu.alone, accepted_cmd hu, List.nil_append]

/-- The command at the head of the ring is accepted. -/
theorem exec_accepts :
    exec (hostInstr h op) s = .next (tryStart (accepted s h op).1 (enteredCmd s h op)) := by
  rw [exec_hostInstr, ← accepted_cmd hu]
  unfold takeSlot
  simp only [hu.ready, hu.notLater, hu.entry, hu.passes, hu.unbounded]
  rfl

theorem not_forwarded : forwarded (accepted s h op).1 (enteredCmd s h op) = false := by
  simp [forwarded, enteredCmd, hu.own]

theorem engine_running {e : Nat} (he : e ∈ enginesFor (accepted s h op).1 (enteredCmd s h op)) :
    (engAt (accepted s h op).1 e).state = 0 := by
  rw [engAt_accepted]
  exact hu.engines e (accepted_cmd hu ▸ he)

theorem no_engine_disabled : disabledEngine (accepted s h op).1 (enteredCmd s h op) = none := by
  refine List.find?_eq_none.mpr fun e he => ?_
  rw [engine_running hu he]
  decide

/-- No command comes before the only one in flight. -/
theorem not_heldUp : heldUp (accepted s h op).1 (enteredCmd s h op) = false := by
  have hself : heldUpBy (enteredCmd s h op) (enteredCmd s h op) = false := by simp [heldUpBy, comesBefore]
  rw [heldUp, accepted_alone hu, accepted_unposted, accepted_heldReplies, hu.answered]
  by_cases horder : (enteredCmd s h op).hdr.order = true
  · simp [hself, hu.delivered horder]
  · simp [hself, horder]

theorem no_patch_holds (e : Nat) : patchHolds (accepted s h op).1 s.nextOrd e = false := by
  rw [patchHolds, accepted_alone hu]
  simp [enteredCmd]

theorem no_enum_ahead : enumAhead (accepted s h op).1 (enteredCmd s h op) = false := by
  rw [enumAhead, accepted_alone hu]
  simp

theorem no_context_ahead : contextAhead (accepted s h op).1 (enteredCmd s h op) = false := by
  rw [contextAhead, accepted_alone hu]
  simp

theorem entered_unheld : unheld (accepted s h op).1 (enteredCmd s h op) = true := by
  have hengines : (enginesFor (accepted s h op).1 (enteredCmd s h op)).all (fun e =>
      (engAt (accepted s h op).1 e).state = 0 && !patchHolds (accepted s h op).1 s.nextOrd e) = true :=
    List.all_eq_true.mpr fun e he => by
      rw [engine_running hu he, no_patch_holds hu]
      rfl
  have hwaits := hu.waits
  rw [accepted_cmd hu] at hwaits
  rw [unheld, not_heldUp hu, hwaits, no_enum_ahead hu]
  simpa [enteredCmd] using hengines

theorem entered_startable : startable (accepted s h op).1 (enteredCmd s h op) = true := by
  have hcontexts := hu.parts
  have hcontrollers := hu.controllers
  rw [accepted_cmd hu] at hcontexts hcontrollers
  rw [startable, runnable, entered_unheld hu, hcontrollers, hcontexts, no_context_ahead hu]
  rfl

theorem tryStart_accepted :
    tryStart (accepted s h op).1 (enteredCmd s h op) = startIn (accepted s h op).1 (enteredCmd s h op) k := by
  have hcontext : freeContext (accepted s h op).1 (enteredCmd s h op).engine = some k := by
    rw [freeContext_accepted]
    exact hu.context
  have hphase : ¬ (enteredCmd s h op).phase ≠ .waiting := by simp [enteredCmd]
  rw [tryStart, if_neg hphase, not_forwarded hu, no_engine_disabled hu, entered_startable hu, hcontext]
  rfl

theorem startIn_accepted :
    startIn (accepted s h op).1 (enteredCmd s h op) k = run (startedState s h op k) (startedCmd s h op k) := by
  have hcmd := accepted_cmd hu
  unfold startIn startedState startedCmd startedParts startedCtx
  dsimp only
  rw [hcmd, accepted_tide, accepted_generation]
  generalize (accepted s h op).1 = t
  rfl

/-- A command that nothing holds up goes straight to its operation (R63: it is not divided). -/
theorem run_started :
    run (startedState s h op k) (startedCmd s h op k) =
      perform (startedState s h op k) (startedCmd s h op k) := by
  have hdivided : ((startedCmd s h op k).hdr.scope = 7 && !(startedCmd s h op k).viaChain &&
      divides (startedCmd s h op k).op) = false := by
    rw [startedCmd_hdr, startedCmd_op]
    by_cases hscope : h.scope = 7#4
    · simp [hu.undivided (congrArg BitVec.toNat hscope)]
    · simp [hscope]
  have hquays : (noQuayLeft (startedState s h op k) (startedCmd s h op k) &&
      !((startedCmd s h op k).op = .halt && (startedCmd s h op k).hdr.scope ≠ 7)) = false := by
    rw [startedCmd_hdr, startedCmd_op]
    cases hq : noQuayLeft (startedState s h op k) (startedCmd s h op k)
    · rfl
    · obtain ⟨hhalt, hscope⟩ := hu.quays hq
      simp [hhalt, hscope]
  rw [run, if_neg (ne_true_of_eq_false hu.acts), if_neg (ne_true_of_eq_false hdivided), runHere,
    if_neg (ne_true_of_eq_false hquays)]

/-- A host command that nothing holds up performs its operation on the state in which it has started. -/
theorem exec_performs :
    exec (hostInstr h op) s = .next (perform (startedState s h op k) (startedCmd s h op k)) := by
  rw [exec_accepts hu, tryStart_accepted hu, startIn_accepted hu, run_started hu]

end unhindered

/-! ### A BAKE of one device (R9, R19, R66, R86) -/

theorem foldl_setEng_par {α : Type} (e : α → Nat) (x : State → α → Eng) (s : State) (ps : List α) :
    (ps.foldl (fun u p => setEng u (e p) (x u p)) s).par = s.par := by
  induction ps generalizing s with
  | nil => rfl
  | cons p ps ih => exact ih _

/-- The start changes no parameter. -/
theorem startedState_par (s : State) (h : Hdr) (op : HostOp) (k : Nat) :
    (startedState s h op k).par = (accepted s h op).1.par := by
  unfold startedState
  rw [putCmd_par, foldl_setEng_par]

/-- The bake that a BAKE of one device leaves pending, its comparators not armed yet. -/
def acceptedBake (s : State) (i : BitVec 64) (tray : BitVec 3) (rel : Bool) : PendBake :=
  { instant := bakeInstant s.tide i.toNat rel, tray := tray.toNat, tag := some s.nextOrd, armed := false }

/-- The parameters once a BAKE of one device is accepted. -/
theorem accepted_bake_par {s : State} {h : Hdr} (i : BitVec 64) (tray : BitVec 3) (chk rel : Bool) (want : Word)
    (own : h.chain.toNat = s.chain.index) (notDeferred : h.defer = false) (scope : h.scope ≠ 7#4) :
    (accepted s h (.bake i tray chk rel want)).1.par =
      { s.par with pendBake := some (acceptedBake s i tray rel) } := by
  rw [accepted_of_own _ own notDeferred]
  simp [pendOf, enteredCmd, scope, acceptedBake]

/-- A bake of this device alone is armed as it runs; the values, the generation and the trays stay. -/
theorem performBake_par {s : State} {p : PendBake} (c : Cmd) (hp : s.par.pendBake = some p)
    (hchain : p.chain = false) :
    (performBake s c).par =
      { s.par with shadow := [], pendBake := some { p with armed := true, ready := [] } } := by
  simp [performBake, hp, hchain]

/-- The parameters after a BAKE of one device that nothing holds up. -/
theorem exec_bake_par {s : State} {h : Hdr} {k : Nat} {i : BitVec 64} {tray : BitVec 3} {chk rel : Bool}
    {want : Word} (hu : Unhindered s h (.bake i tray chk rel want) k) (scope : h.scope ≠ 7#4) :
    ∃ u, exec (.bake h i tray chk rel want) s = .next u ∧ u.par = { s.par with
      shadow := [], pendBake := some { acceptedBake s i tray rel with armed := true } } := by
  have hpar : (startedState s h (.bake i tray chk rel want) k).par =
      { s.par with pendBake := some (acceptedBake s i tray rel) } :=
    (startedState_par _ _ _ _).trans (accepted_bake_par i tray chk rel want hu.own hu.notDeferred scope)
  have hpend : (startedState s h (.bake i tray chk rel want) k).par.pendBake =
      some (acceptedBake s i tray rel) := congrArg Par.pendBake hpar
  refine ⟨_, exec_performs hu, ?_⟩
  simp only [perform, startedCmd_op]
  rw [performBake_par _ hpend rfl, hpar]
  rfl

/-- Settles O19: the BAKE has become the pending bake at its acceptance, and to run it only arms it. -/
theorem bakeArms : Obligations.BakeArms := by
  unfold Obligations.BakeArms
  intro s h k i tray chk rel want hu hscope
  obtain ⟨u, hnext, hpar⟩ := exec_bake_par hu (by simp [hscope])
  exact ⟨u, hnext, by rw [hpar]; rfl, by rw [hpar], by rw [hpar], by rw [hpar], by rw [hpar]⟩

end Sys2Proof.HostCommands
end

section
/-! What a step does, and that a host command that nothing holds up runs in it. -/

namespace Sys2Proof.Steps

open Sys2Proof Sys2Proof.Machine

/-! ### The step (R9, R16, R59) -/

theorem step_of_cons {s : State} {c : Instr} {rest : List Instr} (h : s.pending = c :: rest) :
    step s = exec c { s with pending := rest } := by
  rw [step, h]

theorem step_of_nil {s : State} (h : s.pending = []) : step s = .next (idle s) := by
  rw [step, h]

/-- A gate of FREQ_MEASURE belongs to a command in flight (R472). -/
theorem freqEnd_of_noneInFlight {s : State} (h : s.inflight = []) : freqEnd s = s := by
  simp [freqEnd, cmdsWhere, h]

/-- Settles O1: the front of the queue runs; on an empty queue the tide counts, and without a command in flight no
gate ends at that count. -/
theorem stepRunsFront : Obligations.StepRunsFront := by
  unfold Obligations.StepRunsFront
  refine ⟨fun c rest s h => step_of_cons h, fun s h => ⟨fun hon => ?_, fun hoff => ?_⟩⟩
  · have hstep : step s = .next (freqEnd { s with tide := (s.tide + 1) % 2 ^ 64 }) := by
      rw [step_of_nil h, idle, if_pos hon, tideSum]
    exact ⟨hstep, fun hnone => hstep.trans (congrArg _ (freqEnd_of_noneInFlight hnone))⟩
  · rw [step_of_nil h, idle, if_neg (ne_true_of_eq_false hoff)]

/-- Settles O11: accepted, started and performed in one (`exec_performs`). -/
theorem hostCommandRuns : Obligations.HostCommandRuns := by
  unfold Obligations.HostCommandRuns
  exact fun _ _ _ _ hu => HostCommands.exec_performs hu

end Sys2Proof.Steps
end

section
/-! A starve whose cause a full FIFO hides (R23, R174, R175, R319). -/

namespace Sys2Proof.Starving

open Sys2Proof Sys2Proof.Machine

/-- Quay 15 begins a streaming segment of 171 granules with a full FIFO, 10,922 vectors, and the stack that holds the
segment has just gone down. -/
def fullFifo : State := { State.reset with
  cold := false, booted := true, unparked := true, tideOn := true, tide := 1000000
  hold := { trained := true, stackDown := 1 }
  quay := [(15, { armed := true, running := true, mask := 1, startAt := some 1000000, sPos := 1000000 * 5000 * 65536
                  fifo := fifoSize, stream := [(fifoSize, [])] })]
  berth := [(60, { run := .running, powered := true })]
  par := { State.reset.par with baked := [((pid 4 15 0x30 0).toNat, 6), ((pid 4 15 0x33 0).toNat, 171)] } }

/-- While the FIFO is full it asks for no byte, so the vector beyond it is due as an UNDERRUN. -/
theorem starveDue_fullFifo : starveDue fullFifo 15 = some (10922, starveCode .underrun) := by decide +kernel

/-- Once its vectors have played it asks for the next byte, which the stack that is down does not bring: what the row
records is HOLD_ECC. -/
theorem exec_starve_fullFifo :
    ∃ t, exec (.starve 15 10922 .underrun) fullFifo = .next t ∧ (quayAt t 15).starveCause = starveCode .holdEcc :=
  ⟨_, rfl, by decide +kernel⟩

/-- Refutes O43, in its clause on STARVE (R175): the row that is due names UNDERRUN as the FIFO stands full, and
HOLD_ECC is what is recorded once the FIFO has run empty over a stack that is down; vector 10,922 is inside a granule. -/
theorem not_segmentEvents : ¬ Obligations.SegmentEvents := by
  unfold Obligations.SegmentEvents
  intro h
  obtain ⟨-, -, hstarve, -⟩ := h fullFifo 15
  obtain ⟨t, u, hexec, -, -, hcause⟩ := hstarve 10922 .underrun starveDue_fullFifo
  obtain ⟨-, -, hunderrun⟩ := hcause (by decide)
  obtain ⟨t', hexec', hecc⟩ := exec_starve_fullFifo
  obtain rfl : t = t' := Host.Outcome.next.inj (hexec.symm.trans hexec')
  exact absurd (hunderrun.symm.trans hecc) (by decide)

end Sys2Proof.Starving
end

section
/-! Where berths and wings stand: the run state of each berth and the die-to-die links, which no end of a command, no
measurement that is cut and no park that starts changes. -/

namespace Sys2Proof.Standing

open Sys2Proof Sys2Proof.Machine

/-- The run states of the berths, and the wings with their links. -/
def stands (s : State) : (Nat → BRun) × Tab Wing := (fun b => (berthAt s b).run, s.wing)

theorem stands_eq_iff {s t : State} :
    stands t = stands s ↔ (∀ b, (berthAt t b).run = (berthAt s b).run) ∧ t.wing = s.wing := by
  simp [stands, funext_iff]

theorem stands_foldl {α : Type} (f : State → α → State) (hf : ∀ s x, stands (f s x) = stands s) (s : State)
    (xs : List α) : stands (xs.foldl f s) = stands s := by
  induction xs generalizing s with
  | nil => rfl
  | cons x xs ih => exact (ih _).trans (hf s x)

theorem stands_forAll (f : State → Nat → State) (hf : ∀ s n, stands (f s n) = stands s) (s : State) (xs : List Nat) :
    stands (forAll s xs f) = stands s := forAll_same stands f hf s xs

/-! ### Updates -/

@[simp] theorem stands_count (s : State) (sc i f m : Nat) : stands (count s sc i f m) = stands s := rfl
@[simp] theorem stands_modChan (s : State) (c : Nat) (f : Chan → Chan) : stands (modChan s c f) = stands s := rfl
@[simp] theorem stands_modQuay (s : State) (q : Nat) (f : Quay → Quay) : stands (modQuay s q f) = stands s := rfl
@[simp] theorem stands_modTp (s : State) (p : Nat) (f : Tp → Tp) : stands (modTp s p f) = stands s := rfl
@[simp] theorem stands_setCtx (s : State) (e c : Nat) (x : Ctx) : stands (setCtx s e c x) = stands s := rfl

theorem berthAt_modBerth_other (s : State) {b k : Nat} (f : Berth → Berth) (h : k ≠ b) :
    berthAt (modBerth s b f) k = berthAt s k := berthAt_setBerth_other _ _ _ _ h

@[simp] theorem berthAt_modBerth (s : State) (b : Nat) (f : Berth → Berth) :
    berthAt (modBerth s b f) b = f (berthAt s b) := berthAt_setBerth _ _ _

theorem stands_modBerth (s : State) (b : Nat) (f : Berth → Berth) (hf : (f (berthAt s b)).run = (berthAt s b).run) :
    stands (modBerth s b f) = stands s := by
  refine stands_eq_iff.mpr ⟨fun k => ?_, rfl⟩
  by_cases hk : k = b
  · rw [hk, berthAt_modBerth, hf]
  · rw [berthAt_modBerth_other s f hk]

@[simp] theorem stands_modAcq (s : State) (b : Nat) (f : Acq → Acq) : stands (modAcq s b f) = stands s :=
  stands_modBerth _ _ _ rfl
@[simp] theorem stands_modTmu (s : State) (b : Nat) (f : Tmu → Tmu) : stands (modTmu s b f) = stands s :=
  stands_modBerth _ _ _ rfl
@[simp] theorem stands_modCal (s : State) (b : Nat) (f : Cal → Cal) : stands (modCal s b f) = stands s :=
  stands_modBerth _ _ _ rfl

/-! ### The end of a command (R42, R444) -/

theorem stands_of_onlyEnds {s t : State} (h : onlyEnds s t) : stands t = stands s := by
  rw [h]
  rfl

@[simp] theorem stands_completeV (s : State) (c : Cmd) (v : Verdict) : stands (completeV s c v) = stands s :=
  stands_of_onlyEnds (onlyEnds_complete _ _ _ _ _)

@[simp] theorem stands_calSchedule (s : State) (b : Nat) : stands (calSchedule s b) = stands s := by
  unfold calSchedule
  split <;> rfl

@[simp] theorem stands_calOwn (s : State) (b : Nat) : stands (calOwn s b) = stands s := by
  unfold calOwn
  split <;> simp

@[simp] theorem stands_calReadyAgain (s : State) : stands (calReadyAgain s) = stands s := by
  unfold calReadyAgain calReschedule
  rw [stands_forAll _ stands_calOwn, stands_forAll _ fun t b => stands_modCal t b _]

/-- A bake that ends without loading. -/
@[simp] theorem stands_dropPending (s : State) (c : Cmd) (status : Nat) :
    stands (dropPending s c status) = stands s := by
  unfold dropPending
  split
  · split
    · rw [stands_count, bakeDrop, stands_calReadyAgain]
      rfl
    · rfl
  · rfl

@[simp] theorem stands_fillOver (s : State) (c : Cmd) : stands (fillOver s c) = stands s :=
  stands_of_onlyEnds (onlyEnds_fillOver s c)

@[simp] theorem stands_unwind (s : State) (c : Cmd) (status : Nat) : stands (unwind s c status) = stands s := by
  unfold unwind
  split
  · split <;> simp
  · exact stands_forAll _ (fun u q => stands_modQuay u q _) _ _
  · exact stands_forAll _ (fun u q => stands_modQuay u q _) _ _
  · simp
  · exact stands_forAll _ (fun u q => stands_modQuay u q _) _ _
  · exact stands_forAll _ (fun u c => stands_modChan u c _) _ _
  · simp
  · rfl

@[simp] theorem stands_cancel (s : State) (c : Cmd) (v : Verdict) : stands (cancel s c v) = stands s := by
  simp [cancel]

@[simp] theorem stands_cancelAll (s : State) (p : Cmd → Bool) (v : Verdict) : stands (cancelAll s p v) = stands s :=
  stands_foldl _ (fun t c => stands_cancel t c v) _ _

theorem stands_takeInterrupt (s : State) (c : Cmd) (v : Verdict) : stands (takeInterrupt s c v) = stands s := by
  unfold takeInterrupt
  dsimp only
  split
  · rfl
  · exact stands_cancel s c v

theorem stands_interruptOne (v : Verdict) (s : State) (c : Cmd) : stands (interruptOne v s c) = stands s := by
  unfold interruptOne
  dsimp only
  split
  · split
    · rw [stands_takeInterrupt, stands_setCtx]
    · exact stands_setCtx _ _ _ _
  · exact stands_cancel s c v

@[simp] theorem stands_interrupt (s : State) (p : Cmd → Bool) (v : Verdict) : stands (interrupt s p v) = stands s :=
  stands_foldl _ (stands_interruptOne v) _ _

@[simp] theorem stands_deferredEnd (s : State) (p : Cmd → Bool) : stands (deferredEnd s p) = stands s :=
  stands_cancelAll _ _ _

/-! ### A measurement that is cut (R234, R263) -/

@[simp] theorem stands_acqClose (s : State) (b : Nat) (why : CloseWhy) : stands (acqClose s b why) = stands s := by
  unfold acqClose
  dsimp only
  rw [stands_modAcq]
  split <;> split <;> rfl

@[simp] theorem stands_acqEnd (s : State) (b : Nat) : stands (acqEnd s b) = stands s := by
  unfold acqEnd
  dsimp only
  rw [stands_modAcq]
  split
  · exact stands_acqClose _ _ _
  · split <;> simp

@[simp] theorem stands_tmuCount (s : State) (b m : Nat) : stands (tmuCount s b m) = stands s := by simp [tmuCount]

@[simp] theorem stands_stampStore (s : State) (b : Nat) (e : TmuEdge) : stands (stampStore s b e) = stands s := by
  unfold stampStore
  dsimp only
  split <;> simp

@[simp] theorem stands_edgeEvaluate (s : State) (b input edge t : Nat) (prov : Bool) :
    stands (edgeEvaluate s b input edge t prov) = stands s := by
  unfold edgeEvaluate
  dsimp only
  split
  · split
    · split <;> simp
    · split
      · split <;> simp
      · rfl
  · split
    · split <;> simp
    · rfl
  · split <;> split <;> simp
  · rfl

@[simp] theorem stands_edgeAccepted (s : State) (b : Nat) (e : TmuEdge) : stands (edgeAccepted s b e) = stands s := by
  unfold edgeAccepted
  dsimp only
  split
  · simp
  · rw [stands_edgeEvaluate]
    split <;> split <;> simp

@[simp] theorem stands_tmuTake (s : State) (b : Nat) (e : TmuEdge) : stands (tmuTake s b e) = stands s := by
  unfold tmuTake
  dsimp only
  split
  · split
    · split <;> simp
    · exact stands_edgeAccepted _ _ _
  · rfl

@[simp] theorem stands_tmuFlush (s : State) (b : Nat) : stands (tmuFlush s b) = stands s := by
  unfold tmuFlush
  dsimp only
  rw [stands_foldl _ fun t e => stands_tmuTake t b e]
  split <;> simp

@[simp] theorem stands_differences (s : State) (b : Nat) : stands (differences s b) = stands s := by
  refine stands_forAll _ (fun t i => ?_) _ _
  split <;> simp

@[simp] theorem stands_windowClose (s : State) (b : Nat) : stands (windowClose s b) = stands s := by
  unfold windowClose
  dsimp only
  split <;> split <;> simp

@[simp] theorem stands_tmuEnd (s : State) (b : Nat) : stands (tmuEnd s b) = stands s := by
  unfold tmuEnd
  split
  · split <;> simp
  · rfl

@[simp] theorem stands_tmuCut (s : State) (b : Nat) (provisional : Bool) :
    stands (tmuCut s b provisional) = stands s := by
  unfold tmuCut
  split <;> simp

/-! ### A berth that faults (R51, R194, R397) -/

theorem stands_parkStart (s : State) (c : Nat) : stands (parkStart s c) = stands s := by
  unfold parkStart freezeMembers holdMod
  dsimp only
  rw [stands_modChan, stands_modChan]
  split <;> rfl

@[simp] theorem stands_parkBerth (s : State) (b : Nat) (toFault : Bool) (groups : List (List Nat)) :
    stands (parkBerth s b toFault groups) = stands s := by
  unfold parkBerth parkOrderly measureCut
  dsimp only
  rw [stands_modBerth _ _ _ rfl, stands_forAll _ stands_parkStart, stands_tmuCut, stands_acqEnd]

@[simp] theorem stands_calFault (s : State) (b : Nat) : stands (calFault s b) = stands s := by
  unfold calFault
  dsimp only
  split
  · rfl
  · split
    · exact stands_modCal _ _ _
    · rw [stands_modCal]
      split
      · exact stands_modBerth _ _ _ rfl
      · rfl

@[simp] theorem stands_haltRequest (s : State) (q cause : Nat) : stands (haltRequest s q cause) = stands s := by
  unfold haltRequest
  split <;> simp

@[simp] theorem stands_causeEvent (s : State) (n : Nat) : stands (causeEvent s n) = stands s := by
  unfold causeEvent vec0
  dsimp only
  split
  · rw [msixRaise_only]
    rfl
  · rfl

/-- From s to t no wing changes, no berth leaves FAULT and none goes off. -/
structure FaultsKept (s t : State) : Prop where
  wing : t.wing = s.wing
  fault : ∀ b, (berthAt s b).run = .fault → (berthAt t b).run = .fault
  on : ∀ b, (berthAt s b).run ≠ .off → (berthAt t b).run ≠ .off

theorem FaultsKept.trans {s t u : State} (h : FaultsKept s t) (k : FaultsKept t u) : FaultsKept s u where
  wing := k.wing.trans h.wing
  fault b hb := k.fault b (h.fault b hb)
  on b hb := k.on b (h.on b hb)

theorem FaultsKept.of_stands {s t : State} (h : stands t = stands s) : FaultsKept s t := by
  obtain ⟨hrun, hwing⟩ := stands_eq_iff.mp h
  exact ⟨hwing, fun b => by simp [hrun b], fun b => by simp [hrun b]⟩

theorem FaultsKept.refl (s : State) : FaultsKept s s := .of_stands rfl

theorem faultsKept_modBerth (s : State) (b : Nat) (f : Berth → Berth)
    (hfault : (berthAt s b).run = .fault → (f (berthAt s b)).run = .fault)
    (hon : (berthAt s b).run ≠ .off → (f (berthAt s b)).run ≠ .off) : FaultsKept s (modBerth s b f) := by
  have hother {k : Nat} (hk : k ≠ b) : berthAt (modBerth s b f) k = berthAt s k := berthAt_modBerth_other s f hk
  refine ⟨rfl, fun k => ?_, fun k => ?_⟩
  · by_cases hk : k = b
    · rw [hk, berthAt_modBerth]
      exact hfault
    · rw [hother hk]
      exact id
  · by_cases hk : k = b
    · rw [hk, berthAt_modBerth]
      exact hon
    · rw [hother hk]
      exact id

/-- A quay that is disarmed leads ARMED berths to IDLE. -/
theorem faultsKept_disarm (s : State) (q : Nat) : FaultsKept s (disarm s q) := by
  have hberths : FaultsKept s (forAll s (armedBerths s q) fun s b =>
      if (berthAt s b).run = .armed then modBerth s b fun x => { x with run := .idle } else s) := by
    refine forAll_keeps (FaultsKept s) _ (fun t b ht => ht.trans ?_) s _ (.refl s)
    split
    · next harmed => exact faultsKept_modBerth t b _ (by simp [harmed]) (by simp)
    · exact .refl t
  exact hberths.trans (.of_stands (stands_modQuay _ _ _))

theorem faultsKept_leaveArmed (s : State) (b : Nat) : FaultsKept s (leaveArmed s b) := by
  unfold leaveArmed
  dsimp only
  split
  · split
    · exact (FaultsKept.of_stands (stands_modQuay _ _ _)).trans
        ((faultsKept_disarm _ _).trans (.of_stands (stands_cancelAll _ _ _)))
    · exact .of_stands (stands_modQuay _ _ _)
  · exact .refl s

/-- A berth that faults: it is in FAULT unless it is off, and the others stay as they are or leave ARMED. -/
theorem berthFault_spec (s : State) (b src inst : Nat) (group : List Nat) :
    FaultsKept s (berthFault s b src inst group) ∧
      ((berthAt s b).run ≠ .off → (berthAt (berthFault s b src inst group) b).run = .fault) := by
  unfold berthFault
  dsimp only
  split
  · next hdown => exact ⟨.refl s, fun hon => hdown.resolve_left hon⟩
  · generalize hu : (if inBurst s b = true then haltRequest s (quayOfBerth b) 7 else leaveArmed s b) = u
    have hleft : FaultsKept s u := by
      rw [← hu]
      split
      · exact .of_stands (stands_haltRequest _ _ _)
      · exact faultsKept_leaveArmed s b
    generalize ht : modBerth u b (fun x => { x with run := .fault, lastFault := src }) = t
    have hfault : FaultsKept u t := by
      rw [← ht]
      exact faultsKept_modBerth u b _ (fun _ => rfl) (by simp)
    have hend : ∀ g, stands (parkBerth (calFault
        (causeEvent { t with lastFaultSource := src, lastFaultInst := inst } 1) b) b true g) = stands t := fun g => by
      rw [stands_parkBerth, stands_calFault, stands_causeEvent]
      rfl
    refine ⟨(hleft.trans hfault).trans (.of_stands (hend _)), fun _ => ?_⟩
    rw [(stands_eq_iff.mp (hend _)).1 b, ← ht, berthAt_modBerth]

theorem forAll_berthFault_spec (src inst : Nat) (group : List Nat) (bs : List Nat) (s : State) :
    let t := forAll s bs fun s b => berthFault s b src inst group
    FaultsKept s t ∧ ∀ b ∈ bs, (berthAt s b).run ≠ .off → (berthAt t b).run = .fault := by
  induction bs generalizing s with
  | nil => exact ⟨.refl s, by simp⟩
  | cons a bs ih =>
    obtain ⟨hfirst, hfault⟩ := berthFault_spec s a src inst group
    obtain ⟨hrest, hfaults⟩ := ih (berthFault s a src inst group)
    refine ⟨hfirst.trans hrest, fun b hb hon => ?_⟩
    rcases List.mem_cons.mp hb with rfl | hb
    · exact hrest.fault b (hfault hon)
    · exact hfaults b hb (hfirst.on b hon)

/-- Berths that fault for one cause: all of them but those that are off are then in FAULT, and no wing changes
(R15, R57). -/
theorem berthsFault_spec (s : State) (bs : List Nat) (src inst : Nat) (v : Verdict) (group : List Nat) :
    (berthsFault s bs src inst v group).wing = s.wing ∧
      ∀ b ∈ bs, (berthAt s b).run ≠ .off → (berthAt (berthsFault s bs src inst v group) b).run = .fault := by
  unfold berthsFault
  dsimp only
  generalize hhit : bs.filter (fun b => (berthAt s b).run ≠ .off && (berthAt s b).run ≠ .fault) = hit
  generalize hu : deferredEnd (interrupt s (actsOnAny s hit) v) (targetsBerth hit) = u
  have hends : stands u = stands s := by rw [← hu, stands_deferredEnd, stands_interrupt]
  obtain ⟨hrun, hwing⟩ := stands_eq_iff.mp hends
  obtain ⟨hkept, hfaults⟩ := forAll_berthFault_spec src inst group hit u
  refine ⟨hkept.wing.trans hwing, fun b hb hon => ?_⟩
  rw [← hrun b] at hon
  by_cases hfault : (berthAt u b).run = .fault
  · exact hkept.fault b hfault
  · refine hfaults b ?_ hon
    rw [← hhit, List.mem_filter]
    rw [hrun b] at hon hfault
    simp [hb, hon, hfault]

end Sys2Proof.Standing
end

section
/-! Die-to-die links, resets of crossing sides and tender ports: the rows. -/

namespace Sys2Proof.Crossings

open Sys2Proof Sys2Proof.Machine

/-! ### Parts of the state that the end of a command leaves (R42) -/

theorem complete_wing (s : State) (c : Cmd) (status : Nat) (d r : List Byte) :
    (complete s c status d r).wing = s.wing := by
  rw [onlyEnds_complete s c status d r]

theorem complete_tp (s : State) (c : Cmd) (status : Nat) (d r : List Byte) : (complete s c status d r).tp = s.tp := by
  rw [onlyEnds_complete s c status d r]

theorem complete_tide (s : State) (c : Cmd) (status : Nat) (d r : List Byte) :
    (complete s c status d r).tide = s.tide := by
  rw [onlyEnds_complete s c status d r]

theorem wingAt_of_wing {s t : State} (h : t.wing = s.wing) (w : Nat) : wingAt t w = wingAt s w := by
  rw [wingAt, wingAt, h]

@[simp] theorem wingAt_modWing (s : State) (w : Nat) (f : Wing → Wing) : wingAt (modWing s w f) w = f (wingAt s w) :=
  wingAt_setWing s w _

/-- Counts change the ACK fields alone (R100). -/
theorem countN_only (s : State) (sc i f m n : Nat) :
    countN s sc i f m n = { s with acks := (countN s sc i f m n).acks } := by
  induction n generalizing s with
  | zero => rfl
  | succ n ih =>
    rw [countN, ih]
    rfl

theorem flushCount_only (s : State) (w deck front reads device : Nat) :
    flushCount s w deck front reads device =
      { s with acks := (flushCount s w deck front reads device).acks } := by
  unfold flushCount
  rw [countN_only, countN_only (countN (countN s 5 w 0xC1 1 deck) 5 w 0xC1 2 front),
    countN_only (countN s 5 w 0xC1 1 deck), countN_only s]

/-- The counts that came over a lost crossing late: of its wing, the list of them is emptied. -/
theorem wingAt_lateCross (s : State) (w : Nat) : wingAt (lateCross s w) w = { wingAt s w with late := [] } := by
  have hcounts : ∀ (es : Tab Nat) (u : State), (es.foldl (fun s e =>
      countN s (idScope (BitVec.ofNat 32 e.1)) (idInst (BitVec.ofNat 32 e.1)) (idFam (BitVec.ofNat 32 e.1))
        (idMem (BitVec.ofNat 32 e.1)) e.2) u).wing = u.wing := by
    intro es
    induction es with
    | nil => exact fun _ => rfl
    | cons e es ih =>
      intro u
      rw [List.foldl_cons, ih, countN_only]
  exact (wingAt_of_wing (hcounts _ _) w).trans (wingAt_modWing _ _ _)

theorem resetDone_wing (s : State) (c : Cmd) (flushed : Nat) : (resetDone s c flushed).wing = s.wing := by
  unfold resetDone
  dsimp only
  split
  · exact complete_wing _ _ _ _ _
  · rfl

/-! ### Links (R15, R500, R502) -/

/-- The wing's link is lost with `wr` writes and `rd` reads frozen, and the loss is counted; its berths have still to
fault. -/
def linkLost (s : State) (w wr rd : Nat) : State :=
  count (modWing s w fun x => { x with
    linkDown := true, frozen := true, held := wr, heldReads := rd, lastCause := 0xC1 }) 5 w 0xC1 4

theorem wingAt_linkLost (s : State) (w wr rd : Nat) :
    wingAt (linkLost s w wr rd) w = { wingAt s w with
      linkDown := true, frozen := true, held := wr, heldReads := rd, lastCause := 0xC1 } :=
  wingAt_setWing s w _

theorem exec_d2dLinkLoss {s : State} {w : Fin 4} (wr rd : Nat) (hcold : s.cold = false)
    (hup : (wingAt s w).linkDown = false) :
    exec (.d2dLinkLoss w wr rd) s = .next (berthsFault (linkLost s w wr rd) (berthsOfWing w) 0xC1 w (linkFault w)
      (withLeaders (linkLost s w wr rd) (berthsOfWing w))) := by
  change execD2dLinkLoss w wr rd s = _
  rw [execD2dLinkLoss, hcold, hup]
  rfl

/-- A link that is lost freezes its crossing, and its wing's berths are in FAULT but for those that are off. -/
theorem d2dLinkLoss_faults (s : State) (w wr rd : Nat) (v : Verdict) (group : List Nat) :
    let t := berthsFault (linkLost s w wr rd) (berthsOfWing w) 0xC1 w v group
    (wingAt t w).linkDown = true ∧ (wingAt t w).frozen = true ∧ (wingAt t w).held = wr ∧ (wingAt t w).heldReads = rd ∧
      ∀ b ∈ berthsOfWing w, (berthAt s b).run ≠ .off → (berthAt t b).run = .fault := by
  obtain ⟨hwing, hfaults⟩ :=
    Standing.berthsFault_spec (linkLost s w wr rd) (berthsOfWing w) 0xC1 w v group
  dsimp only
  rw [wingAt_of_wing hwing, wingAt_linkLost]
  exact ⟨rfl, rfl, rfl, rfl, hfaults⟩

theorem exec_d2dLinkRetrained {s : State} {w : Fin 4} {c : Cmd} {n i : Nat} (hreset : linkReset s w = some (c, n))
    (htrain : (wingAt s w).retrainBy = some i) :
    ∃ t, exec (.d2dLinkRetrained w) s = .next t ∧ (wingAt t w).linkDown = false ∧ (wingAt t w).frozen = false := by
  refine ⟨_, rfl, ?_⟩
  rw [hreset]
  dsimp only
  rw [htrain, Option.isSome_some, if_pos rfl, wingAt_of_wing (resetDone_wing _ c n), wingAt_lateCross, wingAt_modWing]
  exact ⟨rfl, rfl⟩

/-- The wing's link has not trained by the instant `i`: its crossing stays frozen, and the reset that waited for it
shows what it has flushed. -/
def retrainFailed (s : State) (w i : Nat) (c : Cmd) (n : Nat) : State :=
  let u := modWing (reach s i) w fun x => { x with
    linkDown := true, frozen := true, retrainBy := none, lastCause := 0xC1 }
  { u with host := { u.host with
    lastFlush := BitVec.ofNat 32 n, inReset := u.inflight.any fun x => isReset x && x.ord ≠ c.ord } }

theorem wingAt_retrainFailed (s : State) (w i : Nat) (c : Cmd) (n : Nat) :
    wingAt (retrainFailed s w i c n) w = { wingAt s w with
      linkDown := true, frozen := true, retrainBy := none, lastCause := 0xC1 } :=
  wingAt_setWing (reach s i) w _

theorem exec_d2dRetrainTimeout {s : State} {w : Fin 4} {c : Cmd} {n i : Nat} (hreset : linkReset s w = some (c, n))
    (htrain : (wingAt s w).retrainBy = some i) :
    exec (.d2dRetrainTimeout w) s = .next (completeV (retrainFailed s w i c n) c (hwFault 0xC0 w)) := by
  change execD2dRetrainTimeout w s = _
  rw [execD2dRetrainTimeout, hreset, htrain]
  rfl

theorem d2dRetrainTimeout_keeps_down (s : State) (w i : Nat) (c : Cmd) (n : Nat) (v : Verdict) :
    let t := completeV (retrainFailed s w i c n) c v
    (wingAt t w).linkDown = true ∧ (wingAt t w).frozen = true ∧ i % 2 ^ 64 ≤ t.tide := by
  dsimp only
  rw [completeV, wingAt_of_wing (complete_wing _ _ _ _ _), wingAt_retrainFailed, complete_tide]
  exact ⟨rfl, rfl, Nat.le_max_right _ _⟩

/-! ### Resets of crossing sides (R496 to R500) -/

/-- What an indication flushes for a RESET_SCOPE of `type`: the transfers given, and with a WING_LINK reset also those
that a loss has frozen. -/
def flushedFor (type : Byte) (n held : Nat) : Nat := if type = 1#8 then n + held else n

/-- The flushes of an indication are counted, and a WING_LINK reset ends the freeze. -/
def flushed (s : State) (w deck front reads device : Nat) (type : Byte) : State :=
  let t := flushCount s w deck (flushedFor type front (wingAt s w).held) (flushedFor type reads (wingAt s w).heldReads)
    device
  if type = 1#8 then modWing t w fun x => { x with frozen := false, held := 0, heldReads := 0 } else t

theorem exec_resetIndication_of_awaiting {s : State} {w : Fin 4} {c : Cmd} {ws : List Nat} {n : Nat} {type : Byte}
    {e : Option Byte} (k f r v : Nat) (hwait : awaiting s w = some (c, ws, n)) (hop : c.op = .resetScope type e) :
    exec (.resetIndication w k f r v) s = .next (putCmd (flushed s w k f r v type) { c with
      work := .reset (ws.erase w) (n + k + flushedFor type f (wingAt s w).held +
        flushedFor type r (wingAt s w).heldReads + v) }) := by
  change execResetIndication w k f r v s = _
  rw [execResetIndication, hwait]
  by_cases htype : type = 1#8 <;> simp [hop, htype, flushed, flushedFor]

theorem exec_resetIndication_of_off {s : State} {w : Fin 4} (k f r v : Nat) (hnone : awaiting s w = none)
    (hbooted : s.booted = true) (hoff : (berthsOfWing w).any (fun b => (berthAt s b).run = .off) = true) :
    exec (.resetIndication w k f r v) s = .next (flushCount s w k f r 0) := by
  change execResetIndication w k f r v s = _
  rw [execResetIndication, hnone, hbooted, hoff]
  rfl

/-- Flushes change the ACK fields and the wing alone. -/
theorem flushed_only (s : State) (w k f r v : Nat) (type : Byte) :
    flushed s w k f r v type = { s with
      acks := (flushCount s w k (flushedFor type f (wingAt s w).held) (flushedFor type r (wingAt s w).heldReads) v).acks
      wing := (flushed s w k f r v type).wing } := by
  unfold flushed
  dsimp only
  rw [flushCount_only]
  split <;> rfl

theorem wingAt_flushed_of_link (s : State) (w k f r v : Nat) :
    wingAt (flushed s w k f r v 1#8) w = { wingAt s w with frozen := false, held := 0, heldReads := 0 } := by
  rw [flushed, if_pos rfl, wingAt_modWing, flushCount_only]
  rfl

theorem exec_resetAcknowledge {s : State} {c : Cmd} {n : Nat} {t : Byte} {e : Option Byte}
    (hack : acknowledged s = some (c, n)) (hop : c.op = .resetScope t e) :
    exec .resetAcknowledge s = .next (if t = 1#8 then
      modWing s c.hdr.inst.toNat fun x => { x with retrainBy := some (s.tide + 80000) } else resetDone s c n) := by
  change execResetAcknowledge s = _
  rw [execResetAcknowledge, hack]
  simp only [hop, usTc]

/-! ### Tender ports (R510 to R519) -/

@[simp] theorem tpAt_modTp (s : State) (p : Nat) (f : Tp → Tp) : tpAt (modTp s p f) p = f (tpAt s p) := tpAt_setTp s p _

@[simp] theorem tpAt_putCmd (s : State) (c : Cmd) (p : Nat) : tpAt (putCmd s c) p = tpAt s p := rfl

theorem run_of_tpRun {s : State} {p : Nat} {r : TpRun} {c : Cmd} (h : tpRun s p = some (r, c)) :
    (tpAt s p).run = some r := by
  unfold tpRun at h
  split at h
  · cases h
  · next r' hrun =>
    obtain ⟨c', -, hpair⟩ := Option.map_eq_some_iff.mp h
    rw [hrun, (Prod.mk.inj hpair).1]

/-- The port whose transaction has ended. -/
theorem tpAt_tpEnd (s : State) (p edges error : Nat) (c : Cmd) (status : Nat) (d result : List Byte) :
    tpAt (tpEnd s p edges error c status d result) p = { tpAt s p with
      run := none, lastEdgeCount := edges, lastError := if error = 0 then (tpAt s p).lastError else error } := by
  have hcounts u : tpAt (if error = 0 then u else count u 6 0 0xCA (8 * p + tpCounter error)) p = tpAt u p := by
    split <;> rfl
  unfold tpEnd
  dsimp only
  rw [tpAt, complete_tp]
  exact (tpAt_modTp _ _ _).trans (by rw [hcounts]; rfl)

theorem exec_tpTransactionStart {s : State} {p : Fin 8} {c : Cmd} {rest : List Nat} {port : BitVec 3} {sel : BitVec 2}
    {bits lead : Byte} {units : List (BitVec 32)} (hruns : runEn s 8 p = true) (hidle : (tpAt s p).run = none)
    (hqueue : (tpAt s p).queue = c.ord :: rest) (halone : s.inflight = [c])
    (hop : c.op = .tpXfer port sel bits lead units) :
    exec (.tpTransactionStart p) s = .next (putCmd (modTp s p fun x => { x with
      queue := rest
      run := some { cmd := c.ord, settings := baked s (pid 6 0 0xC9 (4 * p.val + sel.toNat))
                    ctrl := baked s (pid 6 0 0xC8 p) } }) { c with work := .tp p }) := by
  change execTpTransactionStart p s = _
  rw [execTpTransactionStart, hidle, hqueue, hruns, halone]
  simp [hop]

theorem tpBits_length (lsbFirst : Bool) (n v : Nat) : (tpBits lsbFirst n v).length = n := by
  cases lsbFirst <;> simp [tpBits]

/-- One edge to each bit of the lead byte and of the units. -/
theorem tpEdges_tpXfer (settings : Word) (port : BitVec 3) (sel : BitVec 2) (bits lead : Byte)
    (units : List (BitVec 32)) :
    tpEdges settings (.tpXfer port sel bits lead units) = 8 + units.length * bits.toNat := by
  simp [tpEdges, tpDout, tpBits_length, List.length_flatMap]

section transaction

variable {s : State} {p : Fin 8} {r : TpRun} {c : Cmd} (hrun : tpRun s p = some (r, c))
include hrun

theorem exec_tpStatusByte (v : Byte) (hlead : r.status = none) (hgood : r.failed = 0) :
    ∃ t, exec (.tpStatusByte p v) s = .next t ∧ (tpAt t p).lastStatus = v.toNat := by
  refine ⟨_, rfl, ?_⟩
  rw [run_of_tpRun hrun]
  simp [hlead, hgood]

theorem exec_tpReadyHigh (din : BitVec 32) (hstatus : r.status ≠ none) (hgood : r.failed = 0)
    (hleft : r.unit < (tpUnits c).2.length) :
    ∃ t, exec (.tpReadyHigh p din) s = .next t ∧ (tpAt t p).run = some { r with
      unit := r.unit + 1, read := r.read ++ [din.toNat % 2 ^ (tpUnits c).1] } := by
  refine ⟨_, rfl, ?_⟩
  rw [hrun]
  simp [Option.isSome_iff_ne_none.mpr hstatus, hgood, hleft]

theorem exec_tpReadyTimeout (hcheck : bit r.settings 3 = true) (hgood : r.failed = 0)
    (hleft : r.status = none ∨ r.unit < (tpUnits c).2.length) :
    ∃ t, exec (.tpReadyTimeout p) s = .next t ∧ (tpAt t p).run = some { r with failed := 4 } := by
  refine ⟨_, rfl, ?_⟩
  rw [hrun]
  simp [hcheck, hgood, hleft]

theorem exec_tpSelBreak :
    ∃ t, exec (.tpSelBreak p) s = .next t ∧ (tpAt t p).run = none ∧ (tpAt t p).lastError = 1 := by
  refine ⟨_, rfl, ?_⟩
  rw [hrun]
  dsimp only
  rw [tpAt_tpEnd]
  exact ⟨rfl, rfl⟩

/-- A transaction all of whose units have been read ends with the edges that were counted; a wrong count is error 2. -/
theorem exec_tpTransactionEnd_of_read (e : BitVec 32) (hstatus : r.status ≠ none) (hgood : r.failed = 0)
    (hread : r.unit = (tpUnits c).2.length) :
    ∃ t, exec (.tpTransactionEnd p e) s = .next t ∧ (tpAt t p).run = none ∧ (tpAt t p).lastEdgeCount = e.toNat ∧
      (tpAt t p).lastError = (if e.toNat = tpEdges r.settings c.op then (tpAt s p).lastError else 2) := by
  refine ⟨_, rfl, ?_⟩
  rw [hrun]
  dsimp only
  rw [if_neg (by simp [hgood]), if_neg (by simp [hgood]), if_neg (by simp [hstatus, hread])]
  by_cases hedges : e.toNat = tpEdges r.settings c.op
  · rw [if_neg (not_not.mpr hedges), tpAt_tpEnd, if_pos hedges]
    exact ⟨rfl, rfl, rfl⟩
  · rw [if_pos hedges, tpAt_tpEnd, if_neg hedges]
    exact ⟨rfl, rfl, rfl⟩

/-- A transaction that has failed at its status byte or at READY ends with that error. -/
theorem exec_tpTransactionEnd_of_failed (e : BitVec 32) (hfailed : r.failed = 3 ∨ r.failed = 4) :
    ∃ t, exec (.tpTransactionEnd p e) s = .next t ∧ (tpAt t p).run = none ∧ (tpAt t p).lastError = r.failed := by
  refine ⟨_, rfl, ?_⟩
  rw [hrun]
  dsimp only
  rcases hfailed with h | h
  · rw [if_pos h, tpAt_tpEnd, h]
    exact ⟨rfl, rfl⟩
  · rw [if_neg (by simp [h]), if_pos h, tpAt_tpEnd, h]
    exact ⟨rfl, rfl⟩

end transaction

/-- Settles O56, row by row. -/
theorem crossingAndTenderEvents : Obligations.CrossingAndTenderEvents := by
  unfold Obligations.CrossingAndTenderEvents
  refine ⟨fun s w wr rd hcold hup => ⟨_, exec_d2dLinkLoss wr rd hcold hup, d2dLinkLoss_faults s w wr rd _ _⟩,
    fun s w k f r v => ⟨fun c ws n type e hwait hop => ?_, exec_resetIndication_of_off k f r v⟩,
    fun s c n t e hack hop => ⟨fun ht => ?_, fun ht => ?_⟩,
    fun s w c n i hreset htrain => ⟨exec_d2dLinkRetrained hreset htrain,
      _, exec_d2dRetrainTimeout hreset htrain, d2dRetrainTimeout_keeps_down s w i c n _⟩,
    fun s p c rest port sel bits lead units hruns hidle hqueue halone hop =>
      ⟨_, exec_tpTransactionStart hruns hidle hqueue halone hop, ?_⟩,
    fun s p r c hrun => ⟨exec_tpStatusByte hrun, exec_tpReadyHigh hrun, exec_tpReadyTimeout hrun, exec_tpSelBreak hrun,
      exec_tpTransactionEnd_of_read hrun, exec_tpTransactionEnd_of_failed hrun, fun port sel bits lead units hop => ?_⟩⟩
  · refine ⟨flushed s w k f r v type, exec_resetIndication_of_awaiting k f r v hwait hop, ?_, ?_, ?_, ?_, ?_⟩
    · rw [flushed_only]
      rfl
    · rw [flushed_only]
    · rw [flushed_only]
    · rw [flushed_only]
    · rintro rfl
      rw [wingAt_flushed_of_link]
      exact ⟨rfl, rfl, rfl⟩
  · rw [exec_resetAcknowledge hack hop, if_neg ht]
  · refine ⟨_, (exec_resetAcknowledge hack hop).trans (congrArg _ (if_pos ht)), ?_⟩
    rw [wingAt_modWing]
  · exact ⟨by simp, by simp⟩
  · rw [hop, tpEdges_tpXfer]

end Sys2Proof.Crossings
end

section
/-! The tide on the chain: exchanges, corrections and tracking (R360 to R362). -/

namespace Sys2Proof.Tides

open Sys2Proof Sys2Proof.Machine

/-! ### Frames on a port (R355, R356) -/

/-- Of a device's chain side, a frame that is put on a port changes the ports alone. -/
theorem putFrame_chain (s : State) (p : Nat) (b : FrameBody) :
    (putFrame s p b).chain = { s.chain with ports := (putFrame s p b).chain.ports } := rfl

/-- A frame that is put on the chain changes the ports and what has left. -/
theorem sendFrame_only (s : State) (port : Option Nat) (b : FrameBody) :
    send s (.frame port b) = { s with
      chain := { s.chain with ports := (send s (.frame port b)).chain.ports }
      out := (send s (.frame port b)).out } := by
  cases port with
  | some p => rfl
  | none =>
    exact forAll_keeps (fun t => t = { s with chain := { s.chain with ports := t.chain.ports }, out := t.out }) _
      (fun t p ht => by rw [putFrame_only, putFrame_chain, ht]) s _ rfl

theorem mem_sent_putFrame {s : State} {x : Sent} (p : Nat) (b : FrameBody) (h : x ∈ s.out.sent) :
    x ∈ (putFrame s p b).out.sent :=
  List.mem_append_left _ h

/-- A frame of class F0 that is alone on its port leaves as soon as it may (R355). -/
theorem nextFrame_of_alone {x : Port} {b : FrameBody} (hq : x.queue = [b]) (hclass : frameClass b = 0)
    (hmay : maySend x b = true) : nextFrame x = some b := by
  have h0 : classFrame x 0 = some b := by simp [classFrame, hq, hclass, hmay]
  simp [nextFrame, h0]

theorem drainPort_of_alone {x : Port} {b : FrameBody} (lanes : Nat) (hq : x.queue = [b]) (hclass : frameClass b = 0)
    (hmay : maySend x b = true) : (drainPort lanes x.queue.length x).2 = [b] := by
  simp [hq, drainPort, nextFrame_of_alone hq hclass hmay]

/-- With the credit for a frame of any length and fewer than 128 frames in the replay buffer a frame may leave
(R356). -/
theorem maySend_of_room {x : Port} {b : FrameBody} (hcredit : frameMost ≤ creditOf x (frameClass b))
    (hreplay : x.replay.length < 128) : maySend x b = true := by
  have hroom : frameMost * (x.replay.length + 1) ≤ replayBuffer := by
    simp only [frameMost, replayBuffer]
    omega
  simp [maySend, hcredit, hroom]

/-- The port with the frames of a message behind those that wait. -/
def queued (x : Port) (b : FrameBody) : Port := { x with queue := x.queue ++ framesOf b }

theorem portSend_sent (s : State) (p : Nat) :
    (portSend s p).out.sent = s.out.sent ++
      (drainPort (activeLanes s p).length (portAt s p).queue.length (portAt s p)).2.map (.frame (some p)) := rfl

/-- An F0 message in one frame leaves at once over a port with nothing queued and the room for it. -/
theorem sent_putFrame_of_room {s : State} {p : Nat} {b : FrameBody} (hone : messageBytes b = none)
    (hclass : frameClass b = 0) (hq : (portAt s p).queue = []) (hcredit : frameMost ≤ creditOf (portAt s p) 0)
    (hreplay : (portAt s p).replay.length < 128) : Sent.frame (some p) b ∈ (putFrame s p b).out.sent := by
  have halone : (queued (portAt s p) b).queue = [b] := by simp [queued, framesOf, hone, hq]
  have hmay : maySend (queued (portAt s p) b) b = true := maySend_of_room (by rw [hclass]; exact hcredit) hreplay
  have hport : portAt (modPort s p fun x => queued x b) p = queued (portAt s p) b := portAt_setPort _ _ _
  change Sent.frame (some p) b ∈ (portSend (modPort s p fun x => queued x b) p).out.sent
  rw [portSend_sent, hport, drainPort_of_alone _ halone hclass hmay]
  exact List.mem_append_right _ (List.mem_singleton.mpr rfl)

/-! ### Tide exchanges (R360) -/

theorem exec_tidePing (p : Fin 4) (x : BitVec 16) (t1 t2 : Nat) {s : State} (hup : 2 ≤ (portAt s p).state) :
    exec (.tidePing p x t1 t2) s =
      .next (putFrame (sendRaw s (.signal (some p) (.tidePong x.toNat))) p (.tideData x t1 t2)) := by
  change execTidePing p x t1 t2 s = _
  rw [execTidePing, if_pos hup]
  rfl

theorem exec_tidePong {p : Fin 4} {x : BitVec 16} (t0 t3 : Nat) {s : State}
    (hexchange : (measAt s p).exchange = x.toNat) (hleft : (measAt s p).done < exchanges) :
    exec (.tidePong p x t0 t3) s = .next (setMeas s p { measAt s p with stamps := some (t0, t3) }) := by
  change execTidePong p x t0 t3 s = _
  rw [execTidePong]
  simp [hexchange, hleft]

/-! ### Corrections (R17, R361; log 97) -/

theorem anyQuayBusy_iff (s : State) :
    (List.range 16).any (quayBusy s) = true ↔
      ∃ q, q < 16 ∧ ((quayAt s q).armed = true ∨ (quayAt s q).running = true) := by
  simp [quayBusy]

theorem allQuaysFree_iff (s : State) :
    ((List.range 16).all fun q => !quayBusy s q) = true ↔
      ∀ q, q < 16 → (quayAt s q).armed = false ∧ (quayAt s q).running = false := by
  simp [quayBusy]

/-- The device at the tide of its correction of c units: applied, or lapsed where a quay is ARMED or RUNNING. -/
def corrected (s : State) (c : Int) (at_ : Nat) : State :=
  if (List.range 16).any (quayBusy s) then
    { reach s at_ with chain := { s.chain with correction := none } }
  else tideCorrect (reach s at_) c

theorem exec_tideCorrectionApply {s : State} {c : Int} {at_ : Nat} (h : s.chain.correction = some (c, at_)) :
    exec .tideCorrectionApply s =
      .next (if isFollower s then corrected s c at_ else alignAgain (corrected s c at_)) := by
  have hrole : isFollower (corrected s c at_) = isFollower s := by
    unfold corrected
    split <;> rfl
  change execTideCorrectionApply s = _
  rw [execTideCorrectionApply, h, ← hrole]
  rfl

theorem corrected_correction (s : State) (c : Int) (at_ : Nat) : (corrected s c at_).chain.correction = none := by
  unfold corrected
  split <;> rfl

theorem corrected_inflight (s : State) (c : Int) (at_ : Nat) : (corrected s c at_).inflight = s.inflight := by
  unfold corrected
  split <;> rfl

theorem corrected_of_busy {s : State} (c : Int) (at_ : Nat)
    (h : ∃ q, q < 16 ∧ ((quayAt s q).armed = true ∨ (quayAt s q).running = true)) :
    corrected s c at_ = { reach s at_ with chain := { s.chain with correction := none } } :=
  if_pos ((anyQuayBusy_iff s).mpr h)

theorem corrected_of_free {s : State} (c : Int) (at_ : Nat)
    (h : ∀ q, q < 16 → (quayAt s q).armed = false ∧ (quayAt s q).running = false) :
    corrected s c at_ = tideCorrect (reach s at_) c := by
  refine if_neg fun hany => ?_
  obtain ⟨q, hq, hbusy⟩ := (anyQuayBusy_iff s).mp hany
  obtain ⟨harmed, hrunning⟩ := h q hq
  simp [harmed, hrunning] at hbusy

theorem tideCorrect_tide (s : State) (c : Int) : ((tideCorrect s c).tide : Int) = (s.tide + c / 5000) % 2 ^ 64 :=
  Int.toNat_of_nonneg (Int.emod_nonneg _ (by decide))

/-- The rest of a correction below a tide count goes to the root phase. -/
theorem tideCorrect_rootPhase (s : State) (c : Int) :
    (tideCorrect s c).chain.rootPhase = s.chain.rootPhase + c % 5000 := by
  simp [tideCorrect, tcUnits, Int.emod_def]

/-! ### Tracking (R362) -/

/-- A device that loses its alignment: of its chain side the ports, TideAligned and the devices' alignment change. -/
theorem chainUnalign_only (s : State) :
    chainUnalign s = { s with
      chain := { s.chain with
        ports := (chainUnalign s).chain.ports, tideAligned := false
        devices := (chainUnalign s).chain.devices }
      out := (chainUnalign s).out } := by
  unfold chainUnalign
  dsimp only
  split
  · rw [sendFrame_only]
  · split
    · rw [sendFrame_only]
    · rfl

@[simp] theorem chainUnalign_tide (s : State) : (chainUnalign s).tide = s.tide := by rw [chainUnalign_only]
@[simp] theorem chainUnalign_drift (s : State) : (chainUnalign s).chain.drift = s.chain.drift := by
  rw [chainUnalign_only]
@[simp] theorem chainUnalign_theta (s : State) : (chainUnalign s).chain.theta = s.chain.theta := by
  rw [chainUnalign_only]
@[simp] theorem chainUnalign_track (s : State) : (chainUnalign s).chain.track = s.chain.track := by
  rw [chainUnalign_only]
@[simp] theorem chainUnalign_tideAligned (s : State) : (chainUnalign s).chain.tideAligned = false := by
  rw [chainUnalign_only]

/-- A follower that tracks takes what it measures as its drift and adds the change to its Θ (log 51); a Θ that first
passes 2,500 units is counted. -/
def tracked (s : State) (theta : Int) : State :=
  let new := s.chain.track + theta - s.chain.drift
  let t := { s with chain := { s.chain with theta := new, track := new, drift := theta } }
  if 2500 < new.natAbs && s.chain.track.natAbs ≤ 2500 then count t 6 0 0x84 7 else t

theorem tracked_chain (s : State) (theta : Int) : (tracked s theta).chain = { s.chain with
    theta := s.chain.track + theta - s.chain.drift, track := s.chain.track + theta - s.chain.drift
    drift := theta } := by
  unfold tracked
  dsimp only
  split <;> rfl

theorem tracked_tide (s : State) (theta : Int) : (tracked s theta).tide = s.tide := by
  unfold tracked
  dsimp only
  split <;> rfl

theorem exec_tideTrackMeasure {s : State} (theta : Int) (hfollower : isFollower s = true)
    (henum : s.chain.enumerated = true) (htrack : trackEn s = true) :
    exec (.tideTrackMeasure theta) s = .next (if 5000 < (tracked s theta).chain.theta.natAbs then
      chainUnalign (tracked s theta) else tracked s theta) := by
  change execTideTrackMeasure theta s = _
  rw [execTideTrackMeasure, hfollower, henum, htrack, tracked_chain]
  rfl

/-- The alignment is lost beyond 5,000 units; what has been tracked stays. -/
theorem tracked_spec (s : State) (theta : Int) :
    let u := tracked s theta
    let t := if 5000 < u.chain.theta.natAbs then chainUnalign u else u
    t.chain.drift = theta ∧ t.chain.theta = s.chain.track + theta - s.chain.drift ∧ t.chain.track = t.chain.theta ∧
      t.tide = s.tide ∧ (5000 < t.chain.theta.natAbs → t.chain.tideAligned = false) := by
  dsimp only
  by_cases hfar : 5000 < (tracked s theta).chain.theta.natAbs
  · rw [if_pos hfar]
    simp [tracked_chain, tracked_tide]
  · rw [if_neg hfar]
    exact ⟨by rw [tracked_chain], by rw [tracked_chain], by rw [tracked_chain], tracked_tide s theta,
      fun h => absurd h hfar⟩

/-- A tracking step moves the root phase, the drift and the tracked Θ by the same unit towards no drift. -/
theorem exec_tideTrackStep {s : State} (hfollower : isFollower s = true) (htrack : trackEn s = true)
    (hdrift : s.chain.drift ≠ 0)
    (hfree : ∀ q, q < 16 → (quayAt s q).armed = false ∧ (quayAt s q).running = false) :
    ∃ t, exec .tideTrackStep s = .next t ∧ (t.chain.drift - s.chain.drift).natAbs = 1 ∧
      t.chain.drift.natAbs < s.chain.drift.natAbs ∧
      t.chain.rootPhase - s.chain.rootPhase = t.chain.drift - s.chain.drift ∧
      t.chain.track - s.chain.track = t.chain.drift - s.chain.drift ∧ t.chain.theta = s.chain.theta ∧
      s.chain.stepAt % 2 ^ 64 ≤ t.tide := by
  refine ⟨_, rfl, ?_⟩
  rw [hfollower, htrack, (allQuaysFree_iff s).mpr hfree]
  simp only [hdrift, ne_eq, not_false_eq_true, decide_true, Bool.and_self, if_true, reach_chain]
  by_cases hpos : 0 < s.chain.drift
  · simp only [hpos, if_true]
    refine ⟨?_, ?_, ?_, ?_, trivial, Nat.le_max_right _ _⟩ <;> omega
  · simp only [hpos, if_false]
    refine ⟨?_, ?_, ?_, ?_, trivial, Nat.le_max_right _ _⟩ <;> omega

/-- Settles O38, row by row. -/
theorem tideAlignment : Obligations.TideAlignment := by
  unfold Obligations.TideAlignment
  refine ⟨fun s p x t1 t2 hup => ?_, fun s p x t0 t3 => exec_tidePong t0 t3, fun s c at_ hcorr hfollower => ?_,
    fun s c at_ hcorr hpilot => ?_, fun s theta hfollower henum htrack =>
      ⟨_, exec_tideTrackMeasure theta hfollower henum htrack, tracked_spec s theta⟩, fun s => exec_tideTrackStep⟩
  · have hpong : Sent.signal (some p.val) (.tidePong x.toNat) ∈
        (sendRaw s (.signal (some p.val) (.tidePong x.toNat))).out.sent :=
      List.mem_append_right _ (List.mem_singleton.mpr rfl)
    exact ⟨_, exec_tidePing p x t1 t2 hup, mem_sent_putFrame _ _ hpong, rfl,
      sent_putFrame_of_room (s := sendRaw s _) rfl rfl⟩
  · refine ⟨_, (exec_tideCorrectionApply hcorr).trans (congrArg _ (if_pos hfollower)), corrected_correction s c at_,
      fun hfree => ?_, fun hbusy => ?_⟩
    · rw [corrected_of_free c at_ hfree]
      exact ⟨tideCorrect_tide _ c, tideCorrect_rootPhase _ c⟩
    · rw [corrected_of_busy c at_ hbusy]
      exact ⟨rfl, rfl⟩
  · exact ⟨_, (exec_tideCorrectionApply hcorr).trans (congrArg _ (if_neg (ne_true_of_eq_false hpilot))),
      corrected_correction s c at_, corrected_inflight s c at_⟩

end Sys2Proof.Tides
end

section
/-! Command slots as bytes: what is written for a header and an operation is read back (R37, R65, R591). -/
namespace Sys2Proof.Slots

open Sys2Proof Sys2Proof.Machine

/-! ### Fields of a list of bytes -/

@[simp] theorem word4_length (w : Word) : (word4 w).length = 4 := leBytes_length _ _
@[simp] theorem zeros_length (n : Nat) : (zeros n).length = n := List.length_replicate

@[simp] theorem leAt_append_right {xs : List Byte} {k : Nat} (h : xs.length ≤ k) (ys : List Byte) (n : Nat) :
    leAt (xs ++ ys) k n = leAt ys (k - xs.length) n := by
  simp [leAt, List.drop_append, List.drop_of_length_le h]

@[simp] theorem leAt_cons_succ (x : Byte) (xs : List Byte) (k n : Nat) : leAt (x :: xs) (k + 1) n = leAt xs k n := by
  simp [leAt]

@[simp] theorem leAt_cons_one (x : Byte) (xs : List Byte) : leAt (x :: xs) 0 1 = x.toNat := by simp [leAt, leNat]

/-- The low bytes of a number are a prefix of its bytes. -/
theorem leBytes_add (k m v : Nat) : leBytes (k + m) v = leBytes k v ++ leBytes m (v / 256 ^ k) := by
  induction k generalizing v with
  | zero => simp [leBytes]
  | succ k ih =>
    rw [Nat.succ_add, leBytes, ih, leBytes, Nat.div_div_eq_div_mul, Nat.pow_succ']
    rfl

/-- Bytes inside a number, with others behind it. -/
theorem leAt_leBytes_append {n k m : Nat} (h : k + m ≤ n) (v : Nat) (ys : List Byte) :
    leAt (leBytes n v ++ ys) k m = v / 256 ^ k % 256 ^ m := by
  obtain ⟨r, rfl⟩ := Nat.exists_eq_add_of_le h
  rw [leBytes_add (k + m) r, leBytes_add k m, leAt, List.append_assoc, List.append_assoc,
    List.drop_left' (leBytes_length _ _), List.take_left' (leBytes_length _ _), leNat_leBytes]

theorem leAt_leBytes {n k m : Nat} (h : k + m ≤ n) (v : Nat) : leAt (leBytes n v) k m = v / 256 ^ k % 256 ^ m := by
  simpa using leAt_leBytes_append h v []

/-- A value that fits a number of bytes is read back whole. -/
theorem leAt_toNat_append {w n : Nat} (h : 2 ^ w ≤ 256 ^ n) (v : BitVec w) (ys : List Byte) :
    leAt (leBytes n v.toNat ++ ys) 0 n = v.toNat := by
  rw [leAt_leBytes_append (Nat.zero_add n).le, Nat.pow_zero, Nat.div_one,
    Nat.mod_eq_of_lt (Nat.lt_of_lt_of_le v.isLt h)]

@[simp] theorem leAt_toNat_two (v : BitVec 16) : leAt (leBytes 2 v.toNat) 0 2 = v.toNat := by
  simpa using leAt_toNat_append (by decide) v []

@[simp] theorem leAt_toNat_two_append (v : BitVec 16) (ys : List Byte) :
    leAt (leBytes 2 v.toNat ++ ys) 0 2 = v.toNat :=
  leAt_toNat_append (by decide) v ys

@[simp] theorem byteAt_cons_zero (x : Byte) (xs : List Byte) : byteAt (x :: xs) 0 = x := rfl
@[simp] theorem byteAt_cons_succ (x : Byte) (xs : List Byte) (k : Nat) : byteAt (x :: xs) (k + 1) = byteAt xs k := by
  simp [byteAt]

@[simp] theorem byteAt_append_right {xs : List Byte} {k : Nat} (h : xs.length ≤ k) (ys : List Byte) :
    byteAt (xs ++ ys) k = byteAt ys (k - xs.length) := by
  rw [byteAt, List.getElem?_append_right h, byteAt]

@[simp] theorem wordAt_cons_succ (x : Byte) (xs : List Byte) (k : Nat) : wordAt (x :: xs) (k + 1) = wordAt xs k := by
  rw [wordAt, leAt_cons_succ, wordAt]

@[simp] theorem wordAt_append_right {xs : List Byte} {k : Nat} (h : xs.length ≤ k) (ys : List Byte) :
    wordAt (xs ++ ys) k = wordAt ys (k - xs.length) := by
  rw [wordAt, leAt_append_right h, wordAt]

@[simp] theorem wordAt_word4_append (w : Word) (ys : List Byte) : wordAt (word4 w ++ ys) 0 = w := by
  rw [wordAt, word4, leAt_toNat_append (by decide), BitVec.ofNat_toNat, BitVec.setWidth_eq]

@[simp] theorem wordAt_word4 (w : Word) : wordAt (word4 w) 0 = w := by simpa using wordAt_word4_append w []

@[simp] theorem quadAt_cons_succ (x : Byte) (xs : List Byte) (k : Nat) : quadAt (x :: xs) (k + 1) = quadAt xs k := by
  rw [quadAt, leAt_cons_succ, quadAt]

@[simp] theorem quadAt_append_right {xs : List Byte} {k : Nat} (h : xs.length ≤ k) (ys : List Byte) :
    quadAt (xs ++ ys) k = quadAt ys (k - xs.length) := by
  rw [quadAt, leAt_append_right h, quadAt]

@[simp] theorem quadAt_leBytes_append (v : BitVec 64) (ys : List Byte) :
    quadAt (leBytes 8 v.toNat ++ ys) 0 = v := by
  rw [quadAt, leAt_toNat_append (by decide), BitVec.ofNat_toNat, BitVec.setWidth_eq]

@[simp] theorem quadAt_leBytes (v : BitVec 64) : quadAt (leBytes 8 v.toNat) 0 = v := by
  simpa using quadAt_leBytes_append v []

/-- A field that fits a byte. -/
@[simp] theorem setWidth_byteOf {n : Nat} (v : BitVec n) (h : n ≤ 8 := by decide) :
    (byteOf v.toNat).setWidth n = v := by
  rw [byteOf, BitVec.ofNat_toNat, BitVec.setWidth_setWidth_of_le _ h, BitVec.setWidth_eq]

@[simp] theorem byteOf_toNat (v : Byte) : byteOf v.toNat = v := by rw [byteOf, BitVec.ofNat_toNat, BitVec.setWidth_eq]


/-! ### Lists in a block -/

/-- What is read of elements of one size that stand behind each other in a block. -/
theorem map_read_flatMap {α β : Type} (read : List Byte → Nat → β) (bytes : α → List Byte) (value : α → β)
    {size : Nat} (hsize : ∀ x, (bytes x).length = size)
    (hskip : ∀ xs ys k, read (xs ++ ys) (xs.length + k) = read ys k)
    (hread : ∀ x ys, read (bytes x ++ ys) 0 = value x) (pre : List Byte) (xs : List α) :
    (List.range xs.length).map (fun i => read (pre ++ xs.flatMap bytes) (pre.length + size * i)) = xs.map value := by
  induction xs generalizing pre with
  | nil => rfl
  | cons x xs ih =>
    have hrest := ih (pre ++ bytes x)
    simp only [List.length_append, hsize, List.append_assoc] at hrest
    rw [List.length_cons, List.range_succ_eq_map, List.map_cons, List.map_map, List.flatMap_cons, Nat.mul_zero, hskip,
      hread]
    refine congrArg (value x :: ·) (Eq.trans (List.map_congr_left fun i _ => ?_) hrest)
    simp only [Function.comp_apply, Nat.succ_eq_add_one, Nat.mul_add, Nat.mul_one]
    congr 1
    omega

theorem length_flatMap_of_size {α : Type} {bytes : α → List Byte} {size : Nat} (hsize : ∀ x, (bytes x).length = size)
    (xs : List α) : (xs.flatMap bytes).length = size * xs.length := by
  simp [List.length_flatMap, hsize, Nat.mul_comm]

@[simp] theorem words_length (ws : List Word) : (ws.flatMap word4).length = 4 * ws.length :=
  length_flatMap_of_size word4_length ws

@[simp] theorem pairBytes8_length (p : Pair) : (pairBytes8 p).length = 8 := by simp [pairBytes8]

@[simp] theorem pairs_length (ps : List Pair) : (ps.flatMap pairBytes8).length = 8 * ps.length :=
  length_flatMap_of_size pairBytes8_length ps

@[simp] theorem seqEntryBytes_length (e : SeqEntry) : (seqEntryBytes e).length = 8 := by simp [seqEntryBytes]

@[simp] theorem entries_length (es : List SeqEntry) : (es.flatMap seqEntryBytes).length = 8 * es.length :=
  length_flatMap_of_size seqEntryBytes_length es

theorem wordsFrom_words (pre : List Byte) (ws : List Word) :
    wordsFrom (pre ++ ws.flatMap word4) pre.length ws.length = ws :=
  (map_read_flatMap wordAt word4 id word4_length (fun xs ys k => by simp) wordAt_word4_append pre ws).trans
    (List.map_id ws)

/-- A pair at a byte of a block. -/
def pairAt (b : List Byte) (k : Nat) : Pair := ⟨wordAt b k, wordAt b (k + 4)⟩

theorem pairsFrom_pairs (pre : List Byte) (ps : List Pair) :
    pairsFrom (pre ++ ps.flatMap pairBytes8) pre.length ps.length = ps :=
  (map_read_flatMap pairAt pairBytes8 id pairBytes8_length (fun xs ys k => by simp [pairAt, Nat.add_assoc])
    (fun p ys => by simp [pairAt, pairBytes8]) pre ps).trans (List.map_id ps)

/-- An entry of SP_SEQUENCE at a byte of a block (R283). -/
def entryAt (b : List Byte) (j : Nat) : SeqEntry where
  berth := (byteAt b j).setWidth 6
  waitGood := bitAt b j 7
  chain := (byteAt b (j + 1)).setWidth 7
  delay := BitVec.ofNat 16 (leAt b (j + 2) 2)
  target := wordAt b (j + 4)

/-- The byte of an entry that packs its berth and WaitGood. -/
theorem berthByte (b : BitVec 6) (w : Bool) :
    let x := BitVec.ofNat 8 (b.toNat + if w then 128 else 0)
    x.setWidth 6 = b ∧ x.getLsbD 7 = w := by
  revert b w
  decide

theorem entryAt_seqEntryBytes (e : SeqEntry) (ys : List Byte) : entryAt (seqEntryBytes e ++ ys) 0 = e := by
  have hchain : (BitVec.ofNat 8 e.chain.toNat).setWidth 7 = e.chain := setWidth_byteOf _
  have htarget : wordAt (leBytes 4 e.target.toNat ++ ys) 0 = e.target := wordAt_word4_append _ _
  cases e with
  | mk berth waitGood chain delay target =>
    simpa [entryAt, seqEntryBytes, bitAt, hchain, htarget] using berthByte berth waitGood

theorem entriesFrom_entries (pre : List Byte) (es : List SeqEntry) :
    entriesFrom (pre ++ es.flatMap seqEntryBytes) pre.length es.length = es :=
  (map_read_flatMap entryAt seqEntryBytes id seqEntryBytes_length
    (fun xs ys k => by simp [entryAt, bitAt, Nat.add_assoc]) entryAt_seqEntryBytes pre es).trans (List.map_id es)


/-! ### Bytes that pack several fields -/

theorem bakeByte (t : BitVec 3) (check relative : Bool) :
    let x := byteOf (t.toNat + flag check 6 + flag relative 7)
    x.setWidth 3 = t ∧ x.getLsbD 6 = check ∧ x.getLsbD 7 = relative := by
  revert t check relative
  decide

theorem ppmuByte (current slow : Bool) :
    let x := byteOf (flag current 0 + flag slow 1)
    x.getLsbD 0 = current ∧ x.getLsbD 1 = slow := by
  revert current slow
  decide

theorem laneBytes (pattern : BitVec 2) (loop single burst : Bool) (len : BitVec 6) :
    let x := byteOf (pattern.toNat + flag loop 2)
    let y := byteOf (flag single 0 + flag burst 1 + 4 * len.toNat)
    x.setWidth 2 = pattern ∧ x.getLsbD 2 = loop ∧ y.getLsbD 0 = single ∧ y.getLsbD 1 = burst ∧
      BitVec.ofNat 6 (y.toNat / 4) = len := by
  revert pattern loop single burst len
  decide

theorem clockByte (run sleep deep : Bool) :
    let x := byteOf (flag run 0 + flag sleep 1 + flag deep 2)
    x.getLsbD 0 = run ∧ x.getLsbD 1 = sleep ∧ x.getLsbD 2 = deep := by
  revert run sleep deep
  decide

/-- The word of TMU_ARM that packs its source, gate, mark and line. -/
def tmuWord (source : BitVec 3) (gate : BitVec 2) (fall : Bool) (mark line : BitVec 4) : Nat :=
  source.toNat + 8 * gate.toNat + flag fall 5 + 64 * mark.toNat + 1024 * line.toNat

theorem tmuWord_lt (source : BitVec 3) (gate : BitVec 2) (fall : Bool) (mark line : BitVec 4) :
    tmuWord source gate fall mark line < 2 ^ 14 := by
  have := source.isLt
  have := gate.isLt
  have := mark.isLt
  have := line.isLt
  unfold tmuWord flag
  split <;> omega

theorem tmuWord_fields (source : BitVec 3) (gate : BitVec 2) (fall : Bool) (mark line : BitVec 4) :
    let w := tmuWord source gate fall mark line
    BitVec.ofNat 3 w = source ∧ BitVec.ofNat 2 (w / 8) = gate ∧ natBit w 5 = fall ∧ BitVec.ofNat 4 (w / 64) = mark ∧
      BitVec.ofNat 4 (w / 1024) = line := by
  have := source.isLt
  have := gate.isLt
  have := mark.isLt
  have := line.isLt
  have hfall : natBit (tmuWord source gate fall mark line) 5 = fall := by
    rw [natBit, Nat.testBit_eq_decide_div_mod_eq]
    cases fall <;> simp [tmuWord, flag] <;> omega
  refine ⟨?_, ?_, hfall, ?_, ?_⟩ <;>
    · refine BitVec.eq_of_toNat_eq ?_
      rw [BitVec.toNat_ofNat]
      unfold tmuWord flag
      split <;> omega

theorem leAt_tmuWord (source : BitVec 3) (gate : BitVec 2) (fall : Bool) (mark line : BitVec 4) :
    leAt (leBytes 4 (tmuWord source gate fall mark line)) 0 4 = tmuWord source gate fall mark line := by
  rw [leAt_leBytes (by decide), Nat.pow_zero, Nat.div_one, Nat.mod_eq_of_lt]
  exact (tmuWord_lt source gate fall mark line).trans (by decide)

theorem paramBytes_tmuArm (mode source : BitVec 3) (gate : BitVec 2) (fall : Bool) (mark line : BitVec 4) :
    paramBytes (.tmuArm mode source gate fall mark line) =
      byteOf mode.toNat :: zeros 3 ++ leBytes 4 (tmuWord source gate fall mark line) := rfl

theorem paramBytes_freqMeasure (i : Byte) (kind : BitVec 4) (gate : Word) :
    paramBytes (.freqMeasure i kind gate) = [i, byteOf kind.toNat, 0#8, 0#8] ++ word4 gate := by
  have hi := i.isLt
  have hkind := kind.isLt
  have hlow : BitVec.ofNat 8 (i.toNat + 256 * kind.toNat) = i := BitVec.eq_of_toNat_eq (by simp; omega)
  have hhigh : (i.toNat + 256 * kind.toNat) / 256 = kind.toNat := by omega
  have hnone : kind.toNat / 256 = 0 := by omega
  simp [paramBytes, leBytes, byteOf, hlow, hhigh, hnone]

/-! ### The operation that a block spells -/

theorem parseOp_paramBytes (op : HostOp) (h : (paramBytes op).length < 65536) :
    parseOp (opcode op) (paramBytes op) = some op := by
  cases op with
  | resetScope type engines => cases engines <;> simp [parseOp, opcode, paramBytes]
  | stage tray ps => simpa [parseOp, opcode, paramBytes] using pairsFrom_pairs (tray :: zeros 7) ps
  | bake i tray check relative want =>
    simpa [parseOp, opcode, paramBytes, bitAt] using bakeByte tray check relative
  | read sel ids => simpa [parseOp, opcode, paramBytes] using wordsFrom_words (sel :: zeros 7) ids
  | ackWrite ps => simpa [parseOp, opcode, paramBytes] using pairsFrom_pairs [] ps
  | ppmuMeasure current slow range n => simpa [parseOp, opcode, paramBytes, bitAt] using ppmuByte current slow
  | tmuArm mode source gate fall mark line =>
    simpa [parseOp, opcode, paramBytes_tmuArm, leAt_tmuWord] using tmuWord_fields source gate fall mark line
  | spSequence es => simpa [parseOp, opcode, paramBytes] using entriesFrom_entries (leBytes 4 es.length) es
  | laneTest lane pattern loop single burst len time =>
    simpa [parseOp, opcode, paramBytes, bitAt] using laneBytes pattern loop single burst len
  | freqMeasure i kind gate => simp [parseOp, opcode, paramBytes_freqMeasure]
  | clockMode mask run sleep deep kind =>
    simpa [parseOp, opcode, paramBytes, bitAt] using clockByte run sleep deep
  | tpXfer port sel bits lead units =>
    simpa [parseOp, opcode, paramBytes] using
      wordsFrom_words [byteOf port.toNat, byteOf sel.toNat, bits, lead] units
  | _ => simp [parseOp, opcode, paramBytes]

/-! ### The parts of a slot (R37) -/

/-- A block of more than 28 bytes stands outside the slot. -/
def outside (op : HostOp) : Bool := decide (28 < (paramBytes op).length)

/-- The flags of a slot. -/
def slotFlags (h : Hdr) (op : HostOp) : Nat :=
  flag (outside op) 0 + flag h.defer 1 + flag h.irq 2 + flag h.order 3 + flag h.resDma 4

/-- The last 28 bytes of a slot. -/
def slotTail (op : HostOp) : List Byte := if outside op then zeros 28 else padTo 28 (paramBytes op)

theorem buildSlot_eq (h : Hdr) (op : HostOp) (ptr : BitVec 64) :
    buildSlot h op ptr = leBytes 2 (opcode op) ++ (leBytes 2 h.tag.toNat ++ (leBytes 2 (slotFlags h op) ++
      (leBytes 2 (paramBytes op).length ++
        (leBytes 4 (targetWord h.chain.toNat h.scope.toNat h.inst.toNat) ++ (word4 h.deferGen ++
          (leBytes 8 (if outside op then ptr.toNat else 0) ++ (leBytes 8 h.resultPtr.toNat ++
            (word4 h.resultLen ++ slotTail op)))))))) := by
  simp only [buildSlot, List.append_assoc]
  rfl

theorem padTo_length (n : Nat) (b : List Byte) : (padTo n b).length = n := by
  simp [padTo]
  omega

@[simp] theorem slotTail_length (op : HostOp) : (slotTail op).length = 28 := by
  unfold slotTail
  split
  · exact zeros_length 28
  · exact padTo_length 28 _

theorem opcode_lt (op : HostOp) : opcode op < 65536 := by
  unfold opcode
  split <;> decide

theorem slotFlags_lt (h : Hdr) (op : HostOp) : slotFlags h op < 32 := by
  unfold slotFlags flag
  (repeat' split) <;> decide

theorem flagByte (ext defer irq order resDma : Bool) :
    let x := BitVec.ofNat 8 (flag ext 0 + flag defer 1 + flag irq 2 + flag order 3 + flag resDma 4)
    x.getLsbD 0 = ext ∧ x.getLsbD 1 = defer ∧ x.getLsbD 2 = irq ∧ x.getLsbD 3 = order ∧ x.getLsbD 4 = resDma := by
  revert ext defer irq order resDma
  decide

theorem byteAt_leBytes_append (n v : Nat) (ys : List Byte) :
    byteAt (leBytes (n + 1) v ++ ys) 0 = BitVec.ofNat 8 v := rfl

section slot

variable (h : Hdr) (op : HostOp) (ptr : BitVec 64)

theorem buildSlot_length : (buildSlot h op ptr).length = 64 := by simp [buildSlot_eq]

theorem drop_buildSlot : (buildSlot h op ptr).drop 36 = slotTail op := by
  simp [buildSlot_eq, List.drop_append, List.drop_of_length_le]

theorem flags_buildSlot : leAt (buildSlot h op ptr) 4 2 = slotFlags h op := by
  have hflags := slotFlags_lt h op
  simp [buildSlot_eq, leAt_leBytes_append]
  omega

theorem flagByte_buildSlot : byteAt (buildSlot h op ptr) 4 = BitVec.ofNat 8 (slotFlags h op) := by
  simp [buildSlot_eq, byteAt_leBytes_append]

theorem target_buildSlot {k n : Nat} (hk : k + n ≤ 4) : leAt (buildSlot h op ptr) (k + 8) n =
    targetWord h.chain.toNat h.scope.toNat h.inst.toNat / 256 ^ k % 256 ^ n := by
  simp [buildSlot_eq, leAt_leBytes_append hk]

theorem ptr_buildSlot : leAt (buildSlot h op ptr) 16 8 = if outside op then ptr.toNat else 0 := by
  have hptr := ptr.isLt
  cases hout : outside op <;> simp [buildSlot_eq, leAt_leBytes_append, hout]
  omega

/-- The target word holds the chain index, the number of the target and its scope side by side (R37). -/
theorem targetWord_fields (ch : BitVec 7) (sc : BitVec 4) (i : BitVec 12) :
    let w := targetWord ch.toNat sc.toNat i.toNat
    BitVec.ofNat 7 (w / 256 ^ 0 % 256 ^ 2) = ch ∧ BitVec.ofNat 12 (w / 256 ^ 2 % 256 ^ 2) = i ∧
      BitVec.ofNat 4 (w / 256 ^ 3 % 256 ^ 1 / 16) = sc := by
  have hch := ch.isLt
  have hsc := sc.isLt
  have hi := i.isLt
  refine ⟨?_, ?_, ?_⟩ <;>
    · refine BitVec.eq_of_toNat_eq ?_
      rw [BitVec.toNat_ofNat]
      unfold targetWord
      omega

theorem slotOpcode_buildSlot : slotOpcode (buildSlot h op ptr) = opcode op := by
  have hop := opcode_lt op
  simp [slotOpcode, buildSlot_eq, leAt_leBytes_append]
  omega

theorem slotExt_buildSlot : slotExt (buildSlot h op ptr) = outside op := by
  rw [slotExt, bitAt, flagByte_buildSlot]
  exact (flagByte _ _ _ _ _).1

theorem slotLen_buildSlot (hlen : (paramBytes op).length < 65536) :
    slotLen (buildSlot h op ptr) = (paramBytes op).length := by
  simp [slotLen, buildSlot_eq, leAt_leBytes_append]
  omega

theorem parseHdr_buildSlot : parseHdr h.ring (buildSlot h op ptr) = h := by
  obtain ⟨-, hdefer, hirq, horder, hdma⟩ := flagByte (outside op) h.defer h.irq h.order h.resDma
  obtain ⟨hchain, hinst, hscope⟩ := targetWord_fields h.chain h.scope h.inst
  rw [← slotFlags, ← flagByte_buildSlot h op ptr] at hdefer hirq horder hdma
  rw [← target_buildSlot h op ptr (by decide)] at hchain hinst hscope
  have htag : leAt (buildSlot h op ptr) 2 2 = h.tag.toNat := by simp [buildSlot_eq]
  have hgen : wordAt (buildSlot h op ptr) 12 = h.deferGen := by simp [buildSlot_eq]
  have hresult : quadAt (buildSlot h op ptr) 24 = h.resultPtr := by simp [buildSlot_eq]
  have hlen : wordAt (buildSlot h op ptr) 32 = h.resultLen := by simp [buildSlot_eq]
  simp only [parseHdr, bitAt, hdefer, hirq, horder, hdma, hchain, hinst, hscope, htag, hgen, hresult, hlen,
    BitVec.ofNat_toNat, BitVec.setWidth_eq]

end slot

theorem take_slotTail (op : HostOp) (h : outside op = false) :
    (slotTail op).take (paramBytes op).length = paramBytes op := by
  have hlen : (paramBytes op).length ≤ 28 := by simpa [outside] using h
  simp [slotTail, h, padTo, hlen]

theorem slotBlock_buildSlot (h : Hdr) (op : HostOp) (ptr : BitVec 64) (hlen : (paramBytes op).length < 65536) :
    slotBlock (buildSlot h op ptr) (paramBytes op) = paramBytes op := by
  rw [slotBlock, slotExt_buildSlot, slotLen_buildSlot _ _ _ hlen, drop_buildSlot]
  cases hout : outside op with
  | true => simp [padTo]
  | false => exact take_slotTail op hout

/-- Settles O6, part by part. -/
theorem slotRoundTrip : Obligations.SlotRoundTrip := by
  unfold Obligations.SlotRoundTrip
  intro h op ptr hlen
  refine ⟨buildSlot_length h op ptr, parseHdr_buildSlot h op ptr, ?_⟩
  rw [slotOpcode_buildSlot, slotBlock_buildSlot h op ptr hlen, parseOp_paramBytes op hlen]

/-! ### A well-built slot breaks none of R37, R38 and R591 -/

@[simp] theorem leNat_replicate_zero (n : Nat) : leNat (List.replicate n 0#8) = 0 := by
  induction n with
  | zero => rfl
  | succ n ih => simp [List.replicate_succ, leNat, ih]

theorem leAt_of_drop {b ys : List Byte} {k : Nat} (h : b.drop k = ys) (n : Nat) : leAt b k n = leNat (ys.take n) := by
  rw [leAt, h]

/-- Behind its inline parameters a slot is 0. -/
theorem rest_buildSlot (h : Hdr) (op : HostOp) (ptr : BitVec 64) (hin : outside op = false) :
    leAt (buildSlot h op ptr) (36 + (paramBytes op).length) (28 - (paramBytes op).length) = 0 := by
  have hlen : (paramBytes op).length ≤ 28 := by simpa [outside] using hin
  have hdrop : (buildSlot h op ptr).drop (36 + (paramBytes op).length) = zeros (28 - (paramBytes op).length) := by
    rw [← List.drop_drop, drop_buildSlot, slotTail, if_neg (ne_true_of_eq_false hin), padTo,
      List.take_of_length_le hlen, List.drop_left]
    rfl
  rw [leAt_of_drop hdrop, zeros, List.take_replicate, leNat_replicate_zero]

theorem slotOffsets_buildSlot (h : Hdr) (op : HostOp) {ptr : BitVec 64} (hlen : (paramBytes op).length < 65536)
    (hptr : ptr.toNat % 8 = 0) (hok : paramLenOk (opcode op) (paramBytes op).length (paramBytes op) = true) :
    slotOffsets (buildSlot h op ptr) (paramBytes op) = [] := by
  have hflags : leAt (buildSlot h op ptr) 4 2 / 32 = 0 := by
    rw [flags_buildSlot]
    exact Nat.div_eq_of_lt (slotFlags_lt h op)
  have htarget : leAt (buildSlot h op ptr) 8 2 / 128 % 512 = 0 := by
    rw [target_buildSlot h op ptr (k := 0) (by decide), targetWord]
    have := h.chain.isLt
    omega
  rw [slotOffsets]
  simp only [slotExt_buildSlot, slotLen_buildSlot h op ptr hlen, slotBlock_buildSlot h op ptr hlen,
    slotOpcode_buildSlot, hok, hflags, htarget, ptr_buildSlot]
  cases hout : outside op with
  | false =>
    have hshort : (paramBytes op).length ≤ 28 := by simpa [outside] using hout
    simp [hshort, rest_buildSlot h op ptr hout]
  | true =>
    have hlong : 28 < (paramBytes op).length := by simpa [outside] using hout
    have hrest : leAt (buildSlot h op ptr) 36 28 = 0 := by
      rw [leAt_of_drop (drop_buildSlot h op ptr), slotTail, if_pos hout]
      rfl
    have hsome : paramBytes op ≠ [] := List.ne_nil_of_length_pos (by omega)
    simp [hptr, resBytes, hrest, hsome]

@[simp] theorem leAt_zeros_append (n : Nat) (ys : List Byte) : leAt (zeros n ++ ys) 0 n = 0 := by
  rw [leAt, List.drop_zero, List.take_left' (zeros_length n)]
  exact leNat_replicate_zero n

@[simp] theorem leAt_zeros (n : Nat) : leAt (zeros n) 0 n = 0 := by simpa using leAt_zeros_append n []

/-- A field in the low bits of a byte leaves the others 0. -/
theorem land_fieldByte :
    (∀ v : BitVec 2, (byteOf v.toNat).toNat &&& 0xFC = 0) ∧ (∀ v : BitVec 3, (byteOf v.toNat).toNat &&& 0xF8 = 0) ∧
      (∀ v : BitVec 4, (byteOf v.toNat).toNat &&& 0xF0 = 0) ∧ (∀ v : BitVec 5, (byteOf v.toNat).toNat &&& 0xE0 = 0) ∧
        ∀ v : BitVec 6, (byteOf v.toNat).toNat &&& 0xC0 = 0 := by
  decide

theorem land_bakeByte (t : BitVec 3) (check relative : Bool) :
    (byteOf (t.toNat + flag check 6 + flag relative 7)).toNat &&& 0x38 = 0 := by
  revert t check relative
  decide

theorem land_ppmuByte (current slow : Bool) : (byteOf (flag current 0 + flag slow 1)).toNat &&& 0xFC = 0 := by
  revert current slow
  decide

theorem land_patternByte (pattern : BitVec 2) (loop : Bool) :
    (byteOf (pattern.toNat + flag loop 2)).toNat &&& 0xF8 = 0 := by
  revert pattern loop
  decide

theorem land_clockByte (run sleep deep : Bool) :
    (byteOf (flag run 0 + flag sleep 1 + flag deep 2)).toNat &&& 0xF8 = 0 := by
  revert run sleep deep
  decide

theorem land_entryBytes (b : BitVec 6) (w : Bool) (ch : BitVec 7) :
    (BitVec.ofNat 8 (b.toNat + if w then 128 else 0)).toNat &&& 0x40 = 0 ∧
      (BitVec.ofNat 8 ch.toNat).toNat &&& 0x80 = 0 := by
  revert b w ch
  decide

/-- The bits of an entry of SP_SEQUENCE that are reserved (R283). -/
def entryReserved (b : List Byte) (k : Nat) : Nat × Nat :=
  (Nat.land (byteAt b k).toNat 0x40, Nat.land (byteAt b (k + 1)).toNat 0x80)

theorem entryReserved_entries (pre : List Byte) (es : List SeqEntry) {i : Nat} (hi : i < es.length) :
    entryReserved (pre ++ es.flatMap seqEntryBytes) (pre.length + 8 * i) = (0, 0) := by
  have hall := map_read_flatMap entryReserved seqEntryBytes (fun _ => (0, 0)) seqEntryBytes_length
    (fun xs ys k => by simp [entryReserved, Nat.add_assoc])
    (fun e ys => by simpa [entryReserved, seqEntryBytes] using land_entryBytes e.berth e.waitGood e.chain) pre es
  have hmem := List.mem_map_of_mem (f := fun i => entryReserved (pre ++ es.flatMap seqEntryBytes) (pre.length + 8 * i))
    (List.mem_range.mpr hi)
  rw [hall] at hmem
  obtain ⟨-, -, h⟩ := List.mem_map.mp hmem
  exact h.symm

theorem reservedOffsets_spSequence (es : List SeqEntry) :
    reservedOffsets (opcode (.spSequence es)) (paramBytes (.spSequence es)) = [] := by
  have hlen : ((paramBytes (.spSequence es)).length - 4) / 8 = es.length := by simp [paramBytes]
  change ((List.range _).flatMap fun i => _) = []
  rw [hlen, List.flatMap_eq_nil_iff]
  intro i hi
  have h : entryReserved (paramBytes (.spSequence es)) (4 + 8 * i) = (0, 0) :=
    leBytes_length 4 es.length ▸ entryReserved_entries (leBytes 4 es.length) es (List.mem_range.mp hi)
  obtain ⟨hlow, hhigh⟩ := Prod.mk.inj h
  rw [show 5 + 8 * i = 4 + 8 * i + 1 by omega, resBits, resBits, if_pos hlow, if_pos hhigh]
  rfl

/-- No field of a block is reserved and not 0, but in the content of RESULT_UPLOAD, which the command takes whole. -/
theorem reservedOffsets_paramBytes (op : HostOp) (hop : ∀ m, op ≠ .resultUpload m) :
    reservedOffsets (opcode op) (paramBytes op) = [] := by
  obtain ⟨h2, h3, h4, h5, h6⟩ := land_fieldByte
  cases op with
  | resultUpload m => exact absurd rfl (hop m)
  | spSequence es => exact reservedOffsets_spSequence es
  | bake | ppmuMeasure | laneTest | clockMode =>
    simp [reservedOffsets, opcode, paramBytes, resBits, resBytes, land_bakeByte, land_ppmuByte, land_patternByte,
      land_clockByte]
  | tmuArm mode source gate fall mark line =>
    have hword := tmuWord_lt source gate fall mark line
    simpa [reservedOffsets, opcode, paramBytes_tmuArm, resBits, resBytes, leAt_tmuWord, h3] using hword
  | freqMeasure i kind gate =>
    have hi := i.isLt
    have hkind := kind.isLt
    simp [reservedOffsets, opcode, paramBytes, leAt_leBytes_append]
    omega
  | _ => simp [reservedOffsets, opcode, paramBytes, resBits, resBytes, h2, h3, h4, h5, h6]

/-! ### A slot as bytes and the row of its operation (R37, R38) -/

theorem reservedOffsets_resultUpload (m : Byte) :
    reservedOffsets (opcode (.resultUpload m)) (paramBytes (.resultUpload m)) =
      offendIf (Nat.land m.toNat 0x78 ≠ 0) 0 := by
  by_cases hm : m.toNat &&& 0x78 = 0 <;>
    simp [reservedOffsets, opcode, paramBytes, resBits, resBytes, offendIf, hm]

/-- An offset that is named twice gives one verdict. -/
theorem paramVerdict_offendIf_twice (slot : List Nat) (c : Bool) (rest : List Nat) :
    paramVerdict slot (offendIf c 0 ++ (offendIf c 0 ++ rest)) = paramVerdict slot (offendIf c 0 ++ rest) := by
  cases c with
  | false => rfl
  | true =>
    have htwice : (0 :: 0 :: rest).min? = (0 :: rest).min? := by
      simp only [List.min?_cons', List.foldl_cons, Nat.min_self]
    simp only [offendIf, paramVerdict, if_true, List.cons_append, List.nil_append, htwice]

/-- The check of the fields finds no more in a well-built slot than in its row. -/
theorem fieldChecks_reservedOffsets (s : State) (h : Hdr) (op : HostOp) :
    fieldChecks s [] (reservedOffsets (opcode op) (paramBytes op)) h op = fieldChecks s [] [] h op := by
  by_cases hop : ∃ m, op = .resultUpload m
  · obtain ⟨m, rfl⟩ := hop
    rw [reservedOffsets_resultUpload]
    simp only [fieldChecks, freeOffsets, List.nil_append, List.append_assoc, paramVerdict_offendIf_twice]
  · rw [reservedOffsets_paramBytes op fun m hm => hop ⟨m, hm⟩]

theorem takeBytes_buildSlot (s : State) (h : Hdr) (op : HostOp) {ptr : BitVec 64}
    (hlen : (paramBytes op).length < 65536) (hptr : ptr.toNat % 8 = 0)
    (hok : paramLenOk (opcode op) (paramBytes op).length (paramBytes op) = true) :
    takeBytes s h.ring (buildSlot h op ptr) (paramBytes op) = takeSlot s [] [] h op := by
  rw [takeBytes]
  simp only [parseHdr_buildSlot, slotBlock_buildSlot h op ptr hlen, slotOpcode_buildSlot, parseOp_paramBytes op hlen,
    slotOffsets_buildSlot h op hlen hptr hok]
  simp only [takeSlot, slotVerdict, fieldChecks_reservedOffsets]

/-- Settles O7: the bytes give the header, the operation and no reserved field. -/
theorem slotBytesAreTheCommand : Obligations.SlotBytesAreTheCommand := by
  unfold Obligations.SlotBytesAreTheCommand
  intro h op ptr s hlen hptr hok hstalled
  change execSlotFetchComplete _ _ _ s = _
  rw [execSlotFetchComplete, if_neg (ne_true_of_eq_false hstalled), takeBytes_buildSlot s h op hlen hptr hok,
    exec_hostInstr]

end Sys2Proof.Slots
end

section
/-! Ring descriptors and doorbells (R31 to R34, R531). -/

namespace Sys2Proof.Rings

open Sys2Proof Sys2Proof.Machine

/-! ### A host access to BAR0 -/

@[simp] theorem sqAt_wakeLink (s : State) (n : Nat) : sqAt (wakeLink s) n = sqAt s n := rfl
@[simp] theorem rqAt_wakeLink (s : State) (m : Nat) : rqAt (wakeLink s) m = rqAt s m := rfl

theorem onBar_of_reach {s : State} (h : barReach s = true) (f : State → State) : onBar s f = f (wakeLink s) := if_pos h

@[simp] theorem noteDiscard_none (t : State) : noteDiscard (t, .none) = t := rfl
@[simp] theorem noteDiscard_sq (t : State) (n : Nat) :
    noteDiscard (t, .sq n) = setSq t n { sqAt t n with doorbellErr := ackBump (sqAt t n).doorbellErr } := rfl
@[simp] theorem noteDiscard_rq (t : State) (m : Nat) :
    noteDiscard (t, .rq m) = setRq t m { rqAt t m with doorbellErr := ackBump (rqAt t m).doorbellErr } := rfl

/-- A word that a write brings as its bytes. -/
theorem ofNat_leNat_leBytes (w : Word) : BitVec.ofNat 32 (leNat (leBytes 4 w.toNat)) = w := by
  rw [leNat_leBytes, Nat.mod_eq_of_lt (Nat.lt_of_lt_of_le w.isLt (by decide)), BitVec.ofNat_toNat, BitVec.setWidth_eq]

/-- An aligned write of a word (R531). -/
theorem exec_bar0Write_word {s : State} {off : Nat} (w : Word) (hreach : barReach s = true) (halign : off % 4 = 0)
    (hend : off + 4 ≤ bar0Size) :
    exec (.bar0Write off (leBytes 4 w.toNat) false) s = .next (noteDiscard (bar0Word (wakeLink s) off w)) := by
  change execBar0Write off _ false s = _
  rw [execBar0Write, leBytes_length, if_neg (Nat.not_lt.mpr hend), onBar_of_reach hreach]
  simp [bar0Access, halign, ofNat_leNat_leBytes]

/-! ### Doorbells (R34) -/

theorem bar0Word_sqDoorbell (t : State) (n : Fin 16) (w : Word) :
    bar0Word t (0x2000 + 8 * n.val) w = tailDoorbell t n.val w := by
  have hn := n.isLt
  have hplace : (0x2000 + 8 * n.val - 0x2000) / 8 = n.val := by omega
  rw [bar0Word, if_neg (by omega), if_neg (by omega), if_pos (by omega), if_pos (by omega), hplace]

theorem bar0Word_rqDoorbell (t : State) (m : Fin 16) (w : Word) :
    bar0Word t (0x2080 + 8 * m.val) w = headDoorbell t m.val w := by
  have hm := m.isLt
  have hplace : (0x2080 + 8 * m.val - 0x2080) / 8 = m.val := by omega
  rw [bar0Word, if_neg (by omega), if_neg (by omega), if_neg (by omega), if_pos (by omega), if_pos (by omega), hplace]

/-- A doorbell carries its index in bits [11:0]. -/
theorem fld_index (w : Word) : fld w 0 12 = w.toNat % 4096 := by simp [fld, bitsOf]

theorem exec_sqTailDoorbell {s : State} (n : Fin 16) (w : Word) (hreach : barReach s = true) :
    exec (.sqTailDoorbell n w) s = .next (noteDiscard (tailDoorbell (wakeLink s) n.val w)) :=
  congrArg _ (onBar_of_reach hreach _)

theorem exec_rqHeadDoorbell {s : State} (m : Fin 16) (w : Word) (hreach : barReach s = true) :
    exec (.rqHeadDoorbell m w) s = .next (noteDiscard (headDoorbell (wakeLink s) m.val w)) :=
  congrArg _ (onBar_of_reach hreach _)

/-- Settles O23: each doorbell is taken under one condition, and counted otherwise. -/
theorem doorbells : Obligations.Doorbells := by
  unfold Obligations.Doorbells
  intro s n w hreach
  have hn := n.isLt
  refine ⟨?_, ?_, fun hin => ?_, fun hout => ?_, fun hin => ?_, fun hout => ?_⟩
  · rw [exec_bar0Write_word w hreach (by omega) (by simp only [bar0Size]; omega), bar0Word_sqDoorbell,
      exec_sqTailDoorbell n w hreach]
  · rw [exec_bar0Write_word w hreach (by omega) (by simp only [bar0Size]; omega), bar0Word_rqDoorbell,
      exec_rqHeadDoorbell n w hreach]
  · obtain ⟨hon, hlegal, hi⟩ := hin
    rw [exec_sqTailDoorbell n w hreach, tailDoorbell]
    simp [fld_index, hon, hlegal, hi]
  · rw [exec_sqTailDoorbell n w hreach, tailDoorbell, if_neg (by simpa [fld_index] using hout)]
    rfl
  · obtain ⟨⟨hon, hlegal⟩, hi, hwritten⟩ := hin
    rw [exec_rqHeadDoorbell n w hreach, headDoorbell]
    simp [fld_index, rqUsed, hon, hlegal, hi, hwritten]
  · rw [exec_rqHeadDoorbell n w hreach, headDoorbell, if_neg (by simpa [fld_index, rqUsed, and_assoc] using hout)]
    rfl

/-! ### Descriptors (R32, R33) -/

theorem toNat_eq_roundDown {x base : BitVec 64} {k : Nat} :
    x.toNat = base.toNat / k * k ↔ x = BitVec.ofNat 64 (base.toNat / k * k) := by
  have hle : base.toNat / k * k < 2 ^ 64 := Nat.lt_of_le_of_lt (Nat.div_mul_le_self _ _) base.isLt
  rw [← BitVec.toNat_inj, BitVec.toNat_ofNat, Nat.mod_eq_of_lt hle]

/-- A submission ring that is enabled refuses what would change its Base, Log2Entries or ReplyRing. -/
theorem sqDesc_of_refused {t : State} {n : Nat} {base : BitVec 64} {log2 reply : Nat} (enable : Bool)
    (hon : (sqAt t n).enable = true)
    (hnew : ¬((sqAt t n).base = BitVec.ofNat 64 (base.toNat / 64 * 64) ∧ (sqAt t n).log2 = log2 ∧
      (sqAt t n).replyRing = reply)) :
    sqDesc t n base.toNat enable log2 reply = (t, .sq n) := by
  rw [sqDesc, if_pos]
  rw [← toNat_eq_roundDown] at hnew
  simp only [hon, Bool.true_and, Bool.or_eq_true, decide_eq_true_eq]
  tauto

theorem sqDesc_of_taken {t : State} {n : Nat} {base : BitVec 64} {log2 reply : Nat} (enable : Bool)
    (h : (sqAt t n).enable = false ∨ ((sqAt t n).base = BitVec.ofNat 64 (base.toNat / 64 * 64) ∧
      (sqAt t n).log2 = log2 ∧ (sqAt t n).replyRing = reply)) :
    sqDesc t n base.toNat enable log2 reply = (setSq t n (
      let y := { sqAt t n with
        base := BitVec.ofNat 64 (base.toNat / 64 * 64), enable := enable, log2 := log2, replyRing := reply }
      if enable then y else { y with stalled := false, stallOn := 0 }), .none) := by
  rw [sqDesc, if_neg]
  rw [← toNat_eq_roundDown] at h
  rcases h with h | ⟨hb, hl, hr⟩ <;> simp_all

/-- Settles O24: the descriptor is refused where the ring is enabled and a fixed field would change. -/
theorem submissionDescriptor : Obligations.SubmissionDescriptor := by
  unfold Obligations.SubmissionDescriptor
  intro s n base log2 reply hreach
  have hexec (enable : Bool) :
      onBar s (fun t => noteDiscard (sqDesc t n.val base.toNat enable log2.toNat reply.toNat)) =
      noteDiscard (sqDesc (wakeLink s) n.val base.toNat enable log2.toNat reply.toNat) := onBar_of_reach hreach _
  refine ⟨fun h => ?_, fun hon hnew => ?_⟩
  · have htaken (enable : Bool) := (hexec enable).trans (congrArg _ (sqDesc_of_taken (t := wakeLink s) enable h))
    exact ⟨congrArg _ (htaken true), congrArg _ (htaken false)⟩
  · have hrefused (enable : Bool) :=
      (hexec enable).trans (congrArg _ (sqDesc_of_refused (t := wakeLink s) enable hon hnew))
    exact ⟨congrArg _ (hrefused true), congrArg _ (hrefused false)⟩

/-- A reply ring that is enabled refuses what would change its Base or Log2Entries. -/
theorem rqDesc_of_refused {t : State} {m : Nat} {base : BitVec 64} {log2 : Nat} (enable : Bool) (vector cnt time : Nat)
    (hon : (rqAt t m).enable = true)
    (hnew : ¬((rqAt t m).base = BitVec.ofNat 64 (base.toNat / 32 * 32) ∧ (rqAt t m).log2 = log2)) :
    rqDesc t m base.toNat enable log2 vector cnt time = (t, .rq m) := by
  rw [rqDesc, if_pos]
  rw [← toNat_eq_roundDown] at hnew
  simp only [hon, Bool.true_and, Bool.or_eq_true, decide_eq_true_eq]
  tauto

theorem rqDesc_of_taken {t : State} {m : Nat} {base : BitVec 64} {log2 : Nat} (enable : Bool) (vector cnt time : Nat)
    (h : (rqAt t m).enable = false ∨
      ((rqAt t m).base = BitVec.ofNat 64 (base.toNat / 32 * 32) ∧ (rqAt t m).log2 = log2)) :
    rqDesc t m base.toNat enable log2 vector cnt time = (setRq t m { rqAt t m with
      base := BitVec.ofNat 64 (base.toNat / 32 * 32), enable := enable, log2 := log2, vector := vector
      coalesceCount := cnt, coalesceTime := time }, .none) := by
  rw [rqDesc, if_neg]
  rw [← toNat_eq_roundDown] at h
  rcases h with h | ⟨hb, hl⟩ <;> simp_all

/-- Settles O25: the descriptor is refused where the ring is enabled and a fixed field would change. -/
theorem replyDescriptor : Obligations.ReplyDescriptor := by
  unfold Obligations.ReplyDescriptor
  intro s m base log2 v cnt time hreach
  have hexec (enable : Bool) : onBar s (fun t => noteDiscard (rqDesc t m.val base.toNat enable log2.toNat v.toNat
      cnt.toNat time.toNat)) = noteDiscard (rqDesc (wakeLink s) m.val base.toNat enable log2.toNat v.toNat cnt.toNat
        time.toNat) := onBar_of_reach hreach _
  refine ⟨fun h => ?_, fun hon hnew => ?_⟩
  · have htaken (enable : Bool) := (hexec enable).trans
      (congrArg _ (rqDesc_of_taken (t := wakeLink s) enable v.toNat cnt.toNat time.toNat h))
    exact ⟨congrArg _ (htaken true), congrArg _ (htaken false)⟩
  · have hrefused (enable : Bool) := (hexec enable).trans
      (congrArg _ (rqDesc_of_refused (t := wakeLink s) enable v.toNat cnt.toNat time.toNat hon hnew))
    exact ⟨congrArg _ (hrefused true), congrArg _ (hrefused false)⟩

end Sys2Proof.Rings
end

section
/-! Acceptance, stalls and the start of commands that wait (R38, R54 to R61, R430). -/

namespace Sys2Proof.Acceptance

open Sys2Proof Sys2Proof.Machine Sys2Proof.HostCommands

/-! ### What enters with a command (R32, R58, R59, R86) -/

theorem foldl_setEng_only {α : Type} (e : α → Nat) (x : State → α → Eng) (s : State) (ps : List α) :
    ps.foldl (fun u p => setEng u (e p) (x u p)) s =
      { s with eng := (ps.foldl (fun u p => setEng u (e p) (x u p)) s).eng } := by
  induction ps generalizing s with
  | nil => rfl
  | cons p ps ih => exact (ih _).trans rfl

/-- The start takes contexts, and changes nothing else but the command in flight. -/
theorem startedState_only (s : State) (h : Hdr) (op : HostOp) (k : Nat) :
    startedState s h op k = { (accepted s h op).1 with
      eng := (startedState s h op k).eng, inflight := (startedState s h op k).inflight } := by
  unfold startedState
  have hcontexts := foldl_setEng_only (fun p : Nat × Nat => p.1) (fun u p => { engAt u p.1 with
    lastCtx := p.2, ctxs := tabSet (engAt u p.1).ctxs p.2 (startedCtx s h op) }) (accepted s h op).1
      ((engineFor h, k) :: startedParts s h op)
  generalize List.foldl _ _ _ = u at hcontexts ⊢
  rw [hcontexts]
  rfl

theorem startedState_host (s : State) (h : Hdr) (op : HostOp) (k : Nat) :
    (startedState s h op k).host = slotHost s h.ring.val := by
  rw [startedState_only, accepted_only]

/-- The rings once a command is taken from the head of ring `n`. -/
def ringTaken (s : State) (n : Nat) : State :=
  let t := reserveReply (headPast s n) (sqAt s n).replyRing
  setSq t n { sqAt t n with inFlight := (sqAt t n).inFlight + 1 }

theorem ringTaken_host (s : State) (n : Nat) : (ringTaken s n).host = slotHost s n := rfl

/-- Head has passed the slot, and the command counts in its ring. -/
theorem sqAt_ringTaken (s : State) (n : Nat) : sqAt (ringTaken s n) n = { sqAt s n with
    head := ((sqAt s n).head + 1) % 2 ^ (sqAt s n).log2, inFlight := (sqAt s n).inFlight + 1, stalled := false
    stallOn := 0 } := by
  simp [ringTaken, reserveReply, headPast]

theorem sqAt_ringTaken_other (s : State) {n k : Nat} (hk : k ≠ n) : sqAt (ringTaken s n) k = sqAt s k := by
  simp [ringTaken, reserveReply, headPast, sqAt_setSq_other, hk]

/-- One entry more of its reply ring is reserved. -/
theorem rqAt_ringTaken (s : State) (n : Nat) :
    let m := (sqAt s n).replyRing
    rqAt (ringTaken s n) m = { rqAt s m with reserved := (rqAt s m).reserved + 1 } := by
  simp [ringTaken, reserveReply, headPast]

theorem rqAt_ringTaken_other (s : State) {n m : Nat} (hm : m ≠ (sqAt s n).replyRing) :
    rqAt (ringTaken s n) m = rqAt s m := by
  simp [ringTaken, reserveReply, headPast, rqAt_setRq_other, hm]

theorem sqAt_congr {s t : State} (h : s.host = t.host) (n : Nat) : sqAt s n = sqAt t n := by rw [sqAt, h, sqAt]
theorem rqAt_congr {s t : State} (h : s.host = t.host) (m : Nat) : rqAt s m = rqAt t m := by rw [rqAt, h, rqAt]

theorem sqAt_startedState (s : State) (h : Hdr) (op : HostOp) (k n : Nat) :
    sqAt (startedState s h op k) n = sqAt (ringTaken s h.ring.val) n :=
  sqAt_congr (startedState_host s h op k) n

theorem rqAt_startedState (s : State) (h : Hdr) (op : HostOp) (k m : Nat) :
    rqAt (startedState s h op k) m = rqAt (ringTaken s h.ring.val) m :=
  rqAt_congr (startedState_host s h op k) m

/-- Only a BAKE makes a bake pending as it enters. -/
theorem accepted_par_of_not_bake {s : State} {h : Hdr} {op : HostOp}
    (hop : ∀ i tray chk rel want, op ≠ .bake i tray chk rel want) : (accepted s h op).1.par = s.par := by
  have hnone (t : State) (c : Cmd) (hc : c.op = op) : pendOf t c = t := by
    unfold pendOf
    split
    · next hbake => exact absurd (hc.symm.trans hbake) (hop _ _ _ _ _)
    · rfl
  rw [accepted_eq_enter, enter]
  dsimp only
  split
  · rw [hnone _ _ rfl]
  · rfl

/-- Settles O12, part by part of the state. -/
theorem acceptanceFrame : Obligations.AcceptanceFrame := by
  unfold Obligations.AcceptanceFrame
  intro s h op k
  have hframe := startedState_only s h op k
  rw [accepted_only] at hframe
  simp only [sqAt_startedState, rqAt_startedState]
  refine ⟨sqAt_ringTaken s _, fun n hn => sqAt_ringTaken_other s hn, rqAt_ringTaken s _,
    fun m hm => rqAt_ringTaken_other s hm, ?_, fun hop => ?_, ?_⟩
  · rw [hframe]
  · rw [startedState_par, accepted_par_of_not_bake hop]
  · rw [hframe]
    exact ⟨rfl, rfl, rfl, rfl, rfl, rfl, rfl, rfl, rfl⟩

/-! ### A ring that stalls (R59, R595) -/

/-- The slot at the head of a ring that has one. -/
theorem takeSlot_of_ready {s : State} {h : Hdr} (op : HostOp) (hready : ringReady s h.ring.val = true)
    (hnow : resumesLater s h.ring.val = false) :
    takeSlot s [] [] h op =
      if rqFree (rqAt s (sqAt s h.ring.val).replyRing) = 0 then
        stall s h.ring.val (onReplyRing (sqAt s h.ring.val).replyRing)
      else match slotVerdict s [] [] h op with
        | some v => reject s h op v
        | none =>
          match boundMet s h op with
          | 0 => accept s h op
          | k => stall s h.ring.val k := by
  rw [takeSlot, hready, hnow]
  rfl

/-- A stall changes the rings alone, and of the other submission rings none. -/
theorem stall_frame (s : State) (n cause : Nat) :
    let t := stall s n cause
    (sqAt t n).stalled = true ∧ (sqAt t n).head = (sqAt s n).head ∧ t.inflight = s.inflight ∧ t.acks = s.acks ∧
      t.host.rqMem = s.host.rqMem ∧ ∀ k, k ≠ n → sqAt t k = sqAt s k := by
  unfold stall
  dsimp only
  split
  · next hstalled => exact ⟨by simpa using hstalled, by simp, rfl, rfl, rfl, fun k hk => sqAt_setSq_other _ _ _ _ hk⟩
  · split <;> exact ⟨by simp, by simp, rfl, rfl, rfl, fun k hk => by simp [sqAt_setSq_other, hk]⟩

/-- A stall for want of a reply entry counts in FullStall, once for its episode. -/
theorem stall_full (s : State) (n : Nat) :
    let x := sqAt s n
    let t := stall s n (onReplyRing x.replyRing)
    (sqAt t n).stallCount = x.stallCount ∧ (rqAt t x.replyRing).fullStall =
      if x.stalled then (rqAt s x.replyRing).fullStall else ackBump (rqAt s x.replyRing).fullStall := by
  dsimp only
  unfold stall
  cases hstalled : (sqAt s n).stalled <;> simp [hstalled]

/-- A stall on a bound counts in StallCount, once for its episode. -/
theorem stall_bound {s : State} {n cause : Nat} (hcause : cause ≠ onReplyRing (sqAt s n).replyRing) :
    let x := sqAt s n
    let t := stall s n cause
    t.host.rq = s.host.rq ∧ (sqAt t n).stallCount = if x.stalled then x.stallCount else ackBump x.stallCount := by
  dsimp only
  unfold stall
  cases hstalled : (sqAt s n).stalled <;> simp [hstalled, hcause]

/-! ### The bounds name no reply ring (R55, R58) -/

theorem paramVerdict_eq_none {slot par : List Nat} (h : paramVerdict slot par = none) : slot = [] := by
  unfold paramVerdict at h
  split at h
  · cases h
  · next hmin => exact List.min?_eq_none_iff.mp hmin

/-- A command that passes the checks of its fields names a target that exists. -/
theorem targetOffsets_of_passes {s : State} {h : Hdr} {op : HostOp} (hpass : slotVerdict s [] [] h op = none) :
    targetOffsets s h op = [] := by
  simp only [slotVerdict, fieldChecks, Option.or_eq_none_iff] at hpass
  obtain ⟨⟨-, htarget, -⟩, -⟩ := hpass
  exact (List.append_eq_nil_iff.mp (paramVerdict_eq_none htarget)).1

theorem inst_lt_of_target {s : State} {h : Hdr} {op : HostOp} (htarget : targetOffsets s h op = []) :
    1 ≤ h.scope.toNat → h.scope.toNat ≤ 7 → h.inst.toNat < scopeCount h.scope.toNat := by
  intro hlow hhigh
  simp only [targetOffsets, List.append_eq_nil_iff, offendIf] at htarget
  obtain ⟨⟨-, hinst⟩, -⟩ := htarget
  simpa [hlow, hhigh] using hinst

theorem wingOfBerth_berthOfChan_lt {i : Nat} (h : i < 0x440) : wingOfBerth (berthOfChan i) < 4 := by
  unfold wingOfBerth berthOfChan
  split <;> omega

/-- The engine of a target that exists. -/
theorem engineOf_lt {sc i : Nat} (h : 1 ≤ sc → sc ≤ 7 → i < scopeCount sc) : engineOf sc i < 5 := by
  unfold engineOf
  split
  · exact (wingOfBerth_berthOfChan_lt (h (by decide) (by decide))).trans (by decide)
  · exact (wingOfBerth_berthOfChan_lt (h (by decide) (by decide))).trans (by decide)
  · have hberth : i < 64 := h (by decide) (by decide)
    unfold wingOfBerth
    omega
  · have hquay : i < 16 := h (by decide) (by decide)
    omega
  · exact (h (by decide) (by decide)).trans (by decide)
  · decide

theorem followerBound_ge {s : State} {h : Hdr} {i k : Nat} (hk : followerBound s h i = some k) : 64 ≤ k := by
  simp only [followerBound] at hk
  split at hk
  · obtain rfl := Option.some.inj hk
    omega
  · split at hk
    · obtain rfl := Option.some.inj hk
      omega
    · split at hk
      · obtain rfl := Option.some.inj hk
        omega
      · cases hk

/-- The codes of the bounds are none of those of the reply rings. -/
theorem boundMet_ne_onReplyRing {s : State} {h : Hdr} {op : HostOp} (hpass : slotVerdict s [] [] h op = none)
    (m : Nat) :
    boundMet s h op ≠ onReplyRing m := by
  have hengine := engineOf_lt (inst_lt_of_target (targetOffsets_of_passes hpass))
  have hcode : boundMet s h op < 16 ∨ 32 ≤ boundMet s h op := by
    unfold boundMet
    dsimp only
    split
    · decide
    split
    · left
      omega
    split
    · right
      omega
    split
    · next k hk =>
      obtain ⟨i, -, hi⟩ := List.exists_of_findSome?_eq_some hk
      have := followerBound_ge hi
      right
      omega
    · split
      · decide
      · split <;> decide
  have hring : onReplyRing m = 16 + m % 16 := rfl
  omega

/-- Settles O14: with the reply ring full, and with a bound that is met, the slot stalls its ring. -/
theorem boundStallsRing : Obligations.BoundStallsRing := by
  unfold Obligations.BoundStallsRing
  intro s h op hready hnow
  have hexec : exec (hostInstr h op) s = .next (takeSlot s [] [] h op) := exec_hostInstr h op s
  rw [takeSlot_of_ready op hready hnow] at hexec
  refine ⟨fun hfull => ?_, fun hfree hpass hbound => ?_, ?_, fun hstalled slot block => ⟨?_, ?_⟩⟩
  · rw [if_pos hfull] at hexec
    obtain ⟨hstall, hhead, hfly, hacks, hmem, hothers⟩ :=
      stall_frame s h.ring.val (onReplyRing (sqAt s h.ring.val).replyRing)
    obtain ⟨hcount, hfullStall⟩ := stall_full s h.ring.val
    exact ⟨_, hexec, hstall, hhead, hcount, hfullStall, hfly, hacks, hmem, hothers⟩
  · have hcode : (match boundMet s h op with
        | 0 => accept s h op
        | k => stall s h.ring.val k) = stall s h.ring.val (boundMet s h op) := by
      split
      · next hzero => exact absurd hzero hbound
      · rfl
    rw [if_neg hfree, hpass] at hexec
    obtain ⟨hstall, hhead, hfly, hacks, hmem, hothers⟩ := stall_frame s h.ring.val (boundMet s h op)
    obtain ⟨hrq, hcount⟩ := stall_bound (boundMet_ne_onReplyRing hpass (sqAt s h.ring.val).replyRing)
    exact ⟨_, hexec.trans (congrArg _ hcode), hstall, hhead, hrq, hcount, hfly, hacks, hmem, hothers⟩
  · have hhost : (accepted s h op).1.host = (ringTaken s h.ring.val).host := by rw [accepted_only, ringTaken_host]
    rw [rqAt_congr hhost, rqAt_ringTaken]
  · exact congrArg _ (if_pos hstalled)
  · exact congrArg _ (if_pos hstalled)

/-! ### Slots as bytes, and commands that wait (R38, R54 to R56, R61, R430) -/

/-- A slot with an undefined opcode is rejected (R38 check 1). -/
theorem takeBytes_of_undefined {s : State} {n : Fin 16} {slot block : List Byte} (hready : ringReady s n.val = true)
    (hnow : resumesLater s n.val = false) (hfree : rqFree (rqAt s (sqAt s n.val).replyRing) ≠ 0)
    (hop : parseOp (slotOpcode slot) (slotBlock slot block) = none) :
    takeBytes s n slot block =
      reject s (parseHdr n slot) .nop (stBadOpcode, dataOf [(16, 2, slotOpcode slot)]) := by
  rw [takeBytes]
  simp [hop, hready, hnow, hfree]

/-- The command that an engine starts first waits, and unless it is forwarded a disabled engine or none holds it. -/
theorem firstStart_spec {s : State} {e : Nat} {c : Cmd} (h : firstStart s e = some c) (hown : forwarded s c = false) :
    c.phase = .waiting ∧ ((disabledEngine s c).isSome = true ∨ startable s c = true) := by
  have hc := List.find?_some h
  simp only [hown, Bool.false_eq_true, if_false, Bool.and_eq_true, Bool.or_eq_true, decide_eq_true_eq] at hc
  obtain ⟨hphase, -, hstart⟩ := hc
  exact ⟨hphase, hstart⟩

theorem tryStart_of_startable {s : State} {c : Cmd} {k : Nat} (hphase : c.phase = .waiting)
    (hown : forwarded s c = false) (hengines : disabledEngine s c = none) (hstart : startable s c = true)
    (hcontext : freeContext s c.engine = some k) : tryStart s c = startIn s c k := by
  simp [tryStart, hphase, hown, hengines, hstart, hcontext]

/-- COMMAND_DISPATCH starts the first command of its engine in a free context. -/
theorem exec_commandDispatch_starts {s : State} {e : Fin 5} {c : Cmd} {k : Nat} (hfirst : firstStart s e.val = some c)
    (hown : forwarded s c = false) (hengines : disabledEngine s c = none) (hcontext : freeContext s c.engine = some k) :
    exec (.commandDispatch e) s = .next (startIn s c k) := by
  obtain ⟨hphase, hstart⟩ := firstStart_spec hfirst hown
  have hstartable : startable s c = true := hstart.resolve_left (by simp [hengines])
  change execCommandDispatch e.val s = _
  rw [execCommandDispatch, hfirst]
  exact congrArg _ (tryStart_of_startable hphase hown hengines hstartable hcontext)

/-- Settles O22, row by row. -/
theorem fetchAndDispatch : Obligations.FetchAndDispatch := by
  unfold Obligations.FetchAndDispatch
  refine ⟨fun n slot block s hstalled => ⟨?_, ?_⟩, fun n slot block s hstalled => ⟨?_, ?_⟩,
    fun n slot block s hready hnow hfree hop => takeBytes_of_undefined hready hnow hfree hop, fun e s => rfl,
    fun e s c k hfirst hown hengines hcontext => exec_commandDispatch_starts hfirst hown hengines hcontext,
    fun s c hfirst => ?_⟩
  · exact congrArg _ (if_neg (ne_true_of_eq_false hstalled))
  · exact congrArg _ (if_neg (ne_true_of_eq_false hstalled))
  · exact congrArg _ (if_pos hstalled)
  · exact congrArg _ (if_pos hstalled)
  · change (startChecks _ _ _ _ = none → execDeferredCommandStart s = _) ∧
      ∀ v, startChecks _ _ _ _ = some v → execDeferredCommandStart s = _
    rw [execDeferredCommandStart, hfirst]
    exact ⟨fun hpass => by simp only [hpass], fun v hfail => by simp only [hfail]⟩

end Sys2Proof.Acceptance
end

section
/-! Replies: how one is posted and when it signals its vector (R32, R36, R39, R40, R61, R62, R535). -/

namespace Sys2Proof.Replies

open Sys2Proof Sys2Proof.Machine

/-! ### Vectors (R62, R535) -/

@[simp] theorem rqAt_msixRaise (s : State) (v m : Nat) : rqAt (msixRaise s v) m = rqAt s m := by
  unfold msixRaise
  split <;> rfl

@[simp] theorem sqAt_msixRaise (s : State) (v n : Nat) : sqAt (msixRaise s v) n = sqAt s n := by
  unfold msixRaise
  split <;> rfl

@[simp] theorem msixRaise_rqMem (s : State) (v : Nat) : (msixRaise s v).host.rqMem = s.host.rqMem := by
  unfold msixRaise
  split <;> rfl

@[simp] theorem msixRaise_hostMem (s : State) (v : Nat) : (msixRaise s v).host.hostMem = s.host.hostMem := by
  unfold msixRaise
  split <;> rfl

@[simp] theorem msixRaise_tide (s : State) (v : Nat) : (msixRaise s v).tide = s.tide := by rw [msixRaise_only]

/-- A vector that may leave is sent. -/
theorem msixAt_msixRaise_of_sends {s : State} {v : Nat} (h : msixCanSend s v = true) :
    msixAt (msixRaise s v) v = { msixAt s v with sent := (msixAt s v).sent + 1 } := by
  rw [msixRaise, if_pos h, msixAt_setMsix]

/-- A vector that may not leave is pending. -/
theorem msixAt_msixRaise_of_held {s : State} {v : Nat} (h : msixCanSend s v = false) :
    msixAt (msixRaise s v) v = { msixAt s v with pending := true } := by
  rw [msixRaise, if_neg (ne_true_of_eq_false h), msixAt_setMsix]

@[simp] theorem msixCanSend_setRq (s : State) (m v : Nat) (x : Rq) :
    msixCanSend (setRq s m x) v = msixCanSend s v := rfl
@[simp] theorem msixCanSend_reach (s : State) (i v : Nat) : msixCanSend (reach s i) v = msixCanSend s v := rfl

/-! ### Writing a reply (R36, R40, R62) -/

/-- A reply signals its vector as it is written (R62). -/
def signalsNow (x : Rq) (irq : Bool) (r : Reply) : Bool :=
  irq || decide (0x100 ≤ r.status.toNat) || decide (Nat.max 1 x.coalesceCount ≤ x.unsignalled + 1)

/-- The memory with a reply in the entry at Tail of ring `m`. -/
def replyWritten (s : State) (m : Nat) (r : Reply) : State :=
  let x := rqAt s m
  { s with host := { s.host with
    rqMem := tabSet s.host.rqMem (rqKey m x.tail) { r with phase := x.phase }
    hostMem := memWriteBytes s.host.hostMem (x.base.toNat + 32 * x.tail) (replyBytes { r with phase := x.phase }) } }

/-- A reply ring whose Tail has passed an entry that is unsignalled yet. -/
def tailPast (x : Rq) (now : Nat) : Rq := { x with
  tail := (x.tail + 1) % 2 ^ x.log2
  phase := if (x.tail + 1) % 2 ^ x.log2 = 0 then !x.phase else x.phase
  reserved := x.reserved - 1
  unsignalled := x.unsignalled + 1
  oldest := if x.unsignalled = 0 then now else x.oldest }

theorem writeReply_eq (s : State) (m : Nat) (irq : Bool) (r : Reply) :
    writeReply s m irq r = if signalsNow (rqAt s m) irq r then
        msixRaise (setRq (replyWritten s m r) m { tailPast (rqAt s m) s.tide with unsignalled := 0 }) (rqAt s m).vector
      else setRq (replyWritten s m r) m (tailPast (rqAt s m) s.tide) := rfl

theorem signalsNow_iff (x : Rq) (irq : Bool) (r : Reply) : signalsNow x irq r = true ↔
    irq = true ∨ 0x100 ≤ r.status.toNat ∨ Nat.max 1 x.coalesceCount ≤ x.unsignalled + 1 := by
  simp [signalsNow, or_assoc]

@[simp] theorem sqAt_replyWritten (s : State) (m n : Nat) (r : Reply) : sqAt (replyWritten s m r) n = sqAt s n := rfl
@[simp] theorem rqAt_replyWritten (s : State) (m k : Nat) (r : Reply) : rqAt (replyWritten s m r) k = rqAt s k := rfl
@[simp] theorem msixAt_replyWritten (s : State) (m v : Nat) (r : Reply) :
    msixAt (replyWritten s m r) v = msixAt s v := rfl

@[simp] theorem msixCanSend_replyWritten (s : State) (m v : Nat) (r : Reply) :
    msixCanSend (replyWritten s m r) v = msixCanSend s v := rfl

/-- What a reply that is written leaves in memory, whether it signals or not. -/
theorem writeReply_memory (s : State) (m : Nat) (irq : Bool) (r : Reply) :
    (writeReply s m irq r).host.rqMem = (replyWritten s m r).host.rqMem ∧
      (writeReply s m irq r).host.hostMem = (replyWritten s m r).host.hostMem := by
  rw [writeReply_eq]
  split <;> simp

/-- What a reply that is written leaves of its ring but for the count of unsignalled ones. -/
theorem rqAt_writeReply (s : State) (m : Nat) (irq : Bool) (r : Reply) :
    rqAt (writeReply s m irq r) m = { tailPast (rqAt s m) s.tide with
      unsignalled := if signalsNow (rqAt s m) irq r then 0 else (rqAt s m).unsignalled + 1 } := by
  rw [writeReply_eq]
  split
  · rw [rqAt_msixRaise, rqAt_setRq]
  · rw [rqAt_setRq]
    rfl

theorem rqAt_writeReply_other (s : State) {m k : Nat} (irq : Bool) (r : Reply) (hk : k ≠ m) :
    rqAt (writeReply s m irq r) k = rqAt s k := by
  rw [writeReply_eq]
  split <;> simp [rqAt_setRq_other, hk]

@[simp] theorem sqAt_writeReply (s : State) (m n : Nat) (irq : Bool) (r : Reply) :
    sqAt (writeReply s m irq r) n = sqAt s n := by
  rw [writeReply_eq]
  split <;> simp

/-- A reply that signals sends its vector, or leaves it pending. -/
theorem writeReply_signals {s : State} {m : Nat} {irq : Bool} {r : Reply} (h : signalsNow (rqAt s m) irq r = true) :
    let v := (rqAt s m).vector
    (msixCanSend s v = true → (msixAt (writeReply s m irq r) v).sent = (msixAt s v).sent + 1) ∧
      (msixCanSend s v = false → (msixAt (writeReply s m irq r) v).pending = true) := by
  rw [writeReply_eq, if_pos h]
  refine ⟨fun hsends => ?_, fun hheld => ?_⟩
  · rw [msixAt_msixRaise_of_sends (by simpa using hsends)]
    rfl
  · rw [msixAt_msixRaise_of_held (by simpa using hheld)]

/-! ### Messages that are pending (R535) -/

/-- The vector is sent if it is pending and may leave. -/
def flushOne (s : State) (v : Nat) : State :=
  if (msixAt s v).pending && msixCanSend s v then
    setMsix s v { msixAt s v with pending := false, sent := (msixAt s v).sent + 1 }
  else s

theorem msixAt_flushOne_other (s : State) {v k : Nat} (hk : k ≠ v) : msixAt (flushOne s v) k = msixAt s k := by
  unfold flushOne
  split
  · exact msixAt_setMsix_other _ _ _ _ hk
  · rfl

theorem msixCanSend_flushOne_other (s : State) {v k : Nat} (hk : k ≠ v) :
    msixCanSend (flushOne s v) k = msixCanSend s k := by
  rw [msixCanSend, msixAt_flushOne_other s hk, flushOne]
  split <;> rfl

theorem msixFlush_eq (s : State) : msixFlush s = (List.range 64).foldl flushOne s := rfl

theorem msixAt_foldl_flushOne_other {k : Nat} {vs : List Nat} (hk : k ∉ vs) (s : State) :
    msixAt (vs.foldl flushOne s) k = msixAt s k := by
  induction vs generalizing s with
  | nil => rfl
  | cons v vs ih =>
    obtain ⟨hv, hvs⟩ := not_or.mp (mt List.mem_cons.mpr hk)
    rw [List.foldl_cons, ih hvs, msixAt_flushOne_other s hv]

/-- Each vector of a list is flushed once. -/
theorem msixAt_foldl_flushOne {k : Nat} {vs : List Nat} (hk : k ∈ vs) (hnodup : vs.Nodup) {s : State}
    (hsends : msixCanSend s k = true) (hpending : (msixAt s k).pending = true) :
    msixAt (vs.foldl flushOne s) k = { msixAt s k with pending := false, sent := (msixAt s k).sent + 1 } := by
  induction vs generalizing s with
  | nil => exact absurd hk List.not_mem_nil
  | cons v vs ih =>
    obtain ⟨hv, hvs⟩ := List.nodup_cons.mp hnodup
    rw [List.foldl_cons]
    by_cases hkv : k = v
    · subst hkv
      rw [msixAt_foldl_flushOne_other hv, flushOne, hpending, hsends]
      exact msixAt_setMsix _ _ _
    · have hrest := ih ((List.mem_cons.mp hk).resolve_left hkv) hvs (s := flushOne s v)
        (by rw [msixCanSend_flushOne_other s hkv, hsends]) (by rw [msixAt_flushOne_other s hkv, hpending])
      rw [hrest, msixAt_flushOne_other s hkv]

theorem exec_replyCoalesceTimeout {s : State} {m : Fin 16} (hcount : (rqAt s m.val).unsignalled ≠ 0)
    (htime : (rqAt s m.val).coalesceTime ≠ 0) :
    exec (.replyCoalesceTimeout m) s = .next (
      let x := rqAt s m.val
      let t := reach s (x.oldest + 800 * x.coalesceTime)
      msixRaise (setRq t m.val { rqAt t m.val with unsignalled := 0 }) x.vector) := by
  have hdue : ¬((rqAt s m.val).unsignalled = 0 || (rqAt s m.val).coalesceTime = 0) = true := by simp [hcount, htime]
  exact congrArg _ (if_neg hdue)

theorem exec_msixUnmask_vector {s : State} (v : Fin 64) (hreach : barReach s = true) :
    exec (.msixUnmask (some v)) s =
      .next (msixFlush (setMsix s v.val { msixAt s v.val with masked := false })) := by
  change execMsixUnmask (some v) s = _
  rw [execMsixUnmask, if_pos hreach]

theorem exec_msixUnmask_function {s : State} (hreach : barReach s = true) :
    exec (.msixUnmask none) s =
      .next (msixFlush { s with host := { s.host with msixEn := true, funcMask := false } }) := by
  change execMsixUnmask none s = _
  rw [execMsixUnmask, if_pos hreach]

/-- Settles O32: each reply signals or is counted; what is pending leaves as it may. -/
theorem replySignals : Obligations.ReplySignals := by
  unfold Obligations.ReplySignals
  refine ⟨fun s m irq r => ⟨fun hnow => ?_, fun hirq hstatus hcount => ?_⟩,
    fun s v m => ⟨fun hreach => ⟨exec_msixUnmask_vector v hreach, exec_msixUnmask_function hreach⟩,
      fun hcount htime => ?_, fun k hk hsends hpending => ?_⟩⟩
  · have hsignals := (signalsNow_iff _ irq r).mpr hnow
    refine ⟨?_, writeReply_signals hsignals⟩
    rw [rqAt_writeReply, if_pos hsignals]
  · have hquiet : ¬ signalsNow (rqAt s m) irq r = true := by
      rw [signalsNow_iff, hirq]
      simp only [Bool.false_eq_true, false_or]
      omega
    refine ⟨?_, ?_⟩
    · rw [rqAt_writeReply, if_neg hquiet]
    · rw [writeReply_eq, if_neg hquiet]
      rfl
  · refine ⟨_, exec_replyCoalesceTimeout hcount htime, by simp, by simp, fun hsends => ?_⟩
    rw [msixAt_msixRaise_of_sends (by simpa using hsends)]
    rfl
  · rw [msixFlush_eq, msixAt_foldl_flushOne (List.mem_range.mpr hk) List.nodup_range hsends hpending]
    exact ⟨rfl, rfl⟩

/-! ### A command leaves with its reply (R32, R40, R61) -/

theorem freeCtx_only (s : State) (c : Cmd) (e k : Nat) :
    freeCtx s c e k = { s with eng := (freeCtx s c e k).eng } := by
  unfold freeCtx
  split <;> rfl

theorem foldl_freeCtx_only (s : State) (c : Cmd) (ps : List (Nat × Nat)) :
    ps.foldl (fun t p => freeCtx t c p.1 p.2) s =
      { s with eng := (ps.foldl (fun t p => freeCtx t c p.1 p.2) s).eng } := by
  induction ps generalizing s with
  | nil => rfl
  | cons p ps ih =>
    have hfirst := freeCtx_only s c p.1 p.2
    have hrest := ih (freeCtx s c p.1 p.2)
    rw [List.foldl_cons]
    generalize List.foldl _ _ ps = u at hrest ⊢
    rw [hrest, hfirst]

/-- A command of a ring that leaves: its ring counts it no more, and of the rest its contexts and its banks change. -/
theorem release_only (s : State) {c : Cmd} (hown : c.viaChain = false) :
    release s c = { s with
      inflight := s.inflight.filter (fun x => x.ord ≠ c.ord), quay := (release s c).quay, eng := (release s c).eng
      host := (setSq s c.hdr.ring.val { sqAt s c.hdr.ring.val with
        inFlight := (sqAt s c.hdr.ring.val).inFlight - 1 }).host } := by
  have hbanks : fillOver (dropCmd s c.ord) c =
      { dropCmd s c.ord with quay := (fillOver (dropCmd s c.ord) c).quay } := by
    unfold fillOver
    split <;> rfl
  have hcontexts := foldl_freeCtx_only (setSq (fillOver (dropCmd s c.ord) c) c.hdr.ring.val
    { sqAt (fillOver (dropCmd s c.ord) c) c.hdr.ring.val with
      inFlight := (sqAt (fillOver (dropCmd s c.ord) c) c.hdr.ring.val).inFlight - 1 }) c
        ((c.engine, c.context) :: c.parts)
  unfold release
  simp only [hown, Bool.false_eq_true, if_false]
  generalize List.foldl _ _ _ = u at hcontexts ⊢
  generalize fillOver _ _ = v at hbanks hcontexts
  rw [hcontexts, hbanks]
  rfl

/-- What a command that leaves does not touch. -/
theorem releaseIf_frame (s : State) (counted : Bool) {c : Cmd} (hown : c.viaChain = false) :
    let t := releaseIf s counted c
    t.host.rq = s.host.rq ∧ t.host.rqMem = s.host.rqMem ∧ t.host.hostMem = s.host.hostMem ∧ t.acks = s.acks ∧
      t.par = s.par ∧ t.unposted = s.unposted ∧
      t.inflight = if counted then s.inflight.filter (fun x => x.ord ≠ c.ord) else s.inflight := by
  cases counted with
  | false => exact ⟨rfl, rfl, rfl, rfl, rfl, rfl, rfl⟩
  | true =>
    dsimp only
    rw [releaseIf, if_pos rfl, release_only s hown]
    exact ⟨rfl, rfl, rfl, rfl, rfl, rfl, rfl⟩

/-- Its ring counts it no more, and the others stay. -/
theorem sqAt_releaseIf (s : State) (counted : Bool) {c : Cmd} (hown : c.viaChain = false) :
    let n := c.hdr.ring.val
    let t := releaseIf s counted c
    (sqAt t n).inFlight = (sqAt s n).inFlight - (if counted then 1 else 0) ∧ ∀ k, k ≠ n → sqAt t k = sqAt s k := by
  cases counted with
  | false => exact ⟨rfl, fun k _ => rfl⟩
  | true =>
    have hhost : (release s c).host = (setSq s c.hdr.ring.val { sqAt s c.hdr.ring.val with
        inFlight := (sqAt s c.hdr.ring.val).inFlight - 1 }).host := by rw [release_only s hown]
    refine ⟨?_, fun k hk => ?_⟩
    · exact congrArg Sq.inFlight ((Acceptance.sqAt_congr hhost _).trans (sqAt_setSq _ _ _))
    · exact (Acceptance.sqAt_congr hhost k).trans (sqAt_setSq_other _ _ _ _ hk)

@[simp] theorem sqAt_writeResult (s : State) (a n : Nat) (bytes : List Byte) :
    sqAt (writeResult s a bytes) n = sqAt s n := rfl
@[simp] theorem writeResult_hostMem (s : State) (a : Nat) (bytes : List Byte) :
    (writeResult s a bytes).host.hostMem = memWriteBytes s.host.hostMem a bytes := rfl
@[simp] theorem rqAt_writeResult (s : State) (a m : Nat) (bytes : List Byte) :
    rqAt (writeResult s a bytes) m = rqAt s m := rfl

/-- A reply that falls due on an enabled ring while requests may leave is written, its result before it (R39, R40). -/
theorem postReply_of_open {s : State} {c : Cmd} (counted : Bool) (r : Reply) (result : List Byte)
    (hon : (rqAt s (sqAt s c.hdr.ring.val).replyRing).enable = true)
    (hlegal : ringLegal (rqAt s (sqAt s c.hdr.ring.val).replyRing).log2 = true) (hcan : canRequest s = true) :
    postReply s c counted r result =
      writeReply (writeResult (releaseIf s counted c) c.hdr.resultPtr.toNat result)
        (sqAt s c.hdr.ring.val).replyRing c.hdr.irq r := by
  rw [postReply]
  simp [hon, hlegal, hcan]

theorem postReply_unposted (s : State) {c : Cmd} (counted : Bool) (r : Reply) (result : List Byte)
    (hown : c.viaChain = false) : (postReply s c counted r result).unposted = s.unposted := by
  obtain ⟨-, -, -, -, -, hunposted, -⟩ := releaseIf_frame s counted hown
  unfold postReply
  dsimp only
  split
  · exact hunposted
  split
  · rw [writeReply_only]
    exact hunposted
  split
  · exact hunposted
  · rfl

/-- With no other reply that waits a reply in its place is just posted. -/
theorem postOrdered_of_none {s : State} {c : Cmd} (r : Reply) (result : List Byte) (hfirst : replyWaits s c = false)
    (hnone : s.unposted = []) (hown : c.viaChain = false) :
    postOrdered s c r result = postReply s c true r result := by
  rw [postOrdered, postInOrder, if_neg (ne_true_of_eq_false hfirst), postTo, if_neg (ne_true_of_eq_false hown),
    postFollowing, postReply_unposted s true r result hown, hnone]
  rfl

/-- Settles O16: the reply is the only write of its ring, and its command leaves with it. -/
theorem replyIsPosted : Obligations.ReplyIsPosted := by
  unfold Obligations.ReplyIsPosted
  refine ⟨fun s c r result => ⟨fun hwaits => ?_, postOrdered_of_none r result⟩,
    fun s c counted r result hon hlegal hcan hown => ?_⟩
  · rw [postOrdered, postInOrder, if_pos hwaits]
    rfl
  · obtain ⟨hrq, hrqMem, hhostMem, hacks, hpar, -, hfly⟩ := releaseIf_frame s counted hown
    obtain ⟨hcount, hothers⟩ := sqAt_releaseIf s counted hown
    have hring (k : Nat) : rqAt (releaseIf s counted c) k = rqAt s k := by rw [rqAt, hrq, rqAt]
    dsimp only
    rw [postReply_of_open counted r result hon hlegal hcan]
    obtain ⟨hentry, hbytes⟩ := writeReply_memory (writeResult (releaseIf s counted c) c.hdr.resultPtr.toNat result)
      (sqAt s c.hdr.ring.val).replyRing c.hdr.irq r
    refine ⟨?_, ?_, ?_, ?_, ?_, fun k hk => ?_, ?_, fun k hk => ?_, ?_, ?_, ?_, rfl⟩
    · simp only [hentry, replyWritten, rqAt_writeResult, hring, tabFind_tabSet_same]
    · simp only [hbytes, replyWritten, rqAt_writeResult, hring, writeResult_hostMem, hhostMem]
      rfl
    · simp only [rqAt_writeReply, rqAt_writeResult, hring, tailPast]
    · simp only [rqAt_writeReply, rqAt_writeResult, hring, tailPast]
    · simp only [rqAt_writeReply, rqAt_writeResult, hring, tailPast]
    · rw [rqAt_writeReply_other _ _ _ hk, rqAt_writeResult, hring]
    · rw [sqAt_writeReply, sqAt_writeResult, hcount]
    · rw [sqAt_writeReply, sqAt_writeResult, hothers k hk]
    · rw [writeReply_only]
      exact hfly
    · rw [writeReply_only]
      exact hacks
    · rw [writeReply_only]
      exact hpar

end Sys2Proof.Replies
end

section
/-! Microwords that reach beyond their context (R39, R433). -/

namespace Sys2Proof.Microwords

open Sys2Proof Sys2Proof.Machine

/-! ### A step of one context (R430) -/

theorem ctxOnly_refl (s : State) (e c : Nat) : ctxOnly s s e c (ctxAt s e c) := ⟨rfl, rfl, fun _ _ _ => rfl⟩

theorem ctxAt_setCtx_other (s : State) {e c p d : Nat} (x : Ctx) (h : ¬(p = e ∧ d = c)) :
    ctxAt (setCtx s e c x) p d = ctxAt s p d := by
  by_cases hp : p = e
  · subst hp
    have hd : d ≠ c := fun hd => h ⟨rfl, hd⟩
    simp [ctxAt, setCtx, tabGet_tabSet_other _ _ _ _ _ hd]
  · have heng : engAt (setCtx s e c x) p = engAt s p := tabGet_tabSet_other _ _ _ _ _ hp
    rw [ctxAt, heng, ctxAt]

@[simp] theorem ctxAt_setCtx (s : State) (e c : Nat) (x : Ctx) : ctxAt (setCtx s e c x) e c = x := by
  simp [ctxAt, setCtx]

theorem ctxOnly_setCtx {s t : State} {e c : Nat} {x : Ctx} (h : ctxOnly s t e c x) (y : Ctx) :
    ctxOnly s (setCtx t e c y) e c y := by
  obtain ⟨-, hrest, hothers⟩ := h
  refine ⟨ctxAt_setCtx t e c y, ?_, fun p d hpd => (ctxAt_setCtx_other t y hpd).trans (hothers p d hpd)⟩
  conv_lhs => rw [hrest]
  rfl

theorem ctxOnly_takeTurn {s t : State} {e c : Nat} {x : Ctx} (h : ctxOnly s t e c x) (yields : Bool) :
    ctxOnly s (takeTurn t e c yields) e c x := by
  obtain ⟨hctx, hrest, hothers⟩ := h
  refine ⟨(ctxAt_takeTurn t e c e c yields).trans hctx, ?_, fun p d hpd =>
    (ctxAt_takeTurn t e c p d yields).trans (hothers p d hpd)⟩
  conv_lhs => rw [hrest]
  rfl

/-- The state in which a microword acts: its context stands at the next address, and its turn is taken. -/
def ahead (s : State) (e c : Nat) : State := takeTurn (modCtx s e c advancePc) e c false

theorem ctxOnly_ahead (s : State) (e c : Nat) : ctxOnly s (ahead s e c) e c (advancePc (ctxAt s e c)) :=
  ctxOnly_takeTurn (ctxOnly_setCtx (ctxOnly_refl s e c) _) false

@[simp] theorem readReg_ahead (s : State) (e c : Nat) (x : Ctx) (r : Nat) : readReg (ahead s e c) x r = readReg s x r :=
  rfl

@[simp] theorem ctxAt_ahead (s : State) (e c : Nat) : ctxAt (ahead s e c) e c = advancePc (ctxAt s e c) :=
  (ctxOnly_ahead s e c).1

/-- The command of a context stays while it runs microwords. -/
@[simp] theorem ctxCmd_ahead (s : State) (e c : Nat) : ctxCmd (ahead s e c) e c = ctxCmd s e c := by
  rw [ctxCmd, ctxAt_ahead, ctxCmd]
  rfl

theorem ctxTray_ahead {s : State} {e c tray : Nat} {k : Cmd} (hcmd : ctxCmd s e c = some k)
    (htray : trayOf k.op = some tray) : ctxTray (ahead s e c) e c = some tray := by
  rw [ctxTray, ctxCmd_ahead, hcmd]
  exact htray

/-! ### Words and what a fetch delivers (R431) -/

theorem ofNat_toNat_immBit (v : Bool) : BitVec.ofNat 16 v.toNat = immBit v := by cases v <;> rfl

/-- A microword that its context fetches and executes acts in the state ahead. -/
theorem micro_acts {i : Instr} {s : State} {e c : Nat} {w : Word} {f : State → Ctx → State}
    (hexec : canExecute s e c) (hfetch : fetches i s e c) (hword : microEncode i = some w) :
    micro s e c w f = f (ahead s e c) (advancePc (ctxAt s e c)) := by
  obtain ⟨w', hw', hdelivers⟩ := hfetch
  obtain rfl : w = w' := Option.some.inj (hword.symm.trans hw')
  obtain ⟨hready, hfault⟩ := hexec
  rw [micro, if_pos hready, hfault]
  exact if_pos hdelivers

theorem vec0_only (s : State) (n : Nat) : vec0 s n = { s with host := (vec0 s n).host } := by
  unfold vec0
  split
  · exact msixRaise_only s 0
  · rfl

section words

variable {s : State} {e : Fin 5} {c : Fin 16} (hexec : canExecute s e c)
include hexec

/-- FRD of a fabric word that has been written. -/
theorem yields_frd (a b : Fin 32) (imm : BitVec 16) {v : Word}
    (hv : tabFind s.mc.fabric (readReg s (advancePc (ctxAt s e c)) b + imm.setWidth 32).toNat = some v) :
    Yields (.frd e c a b imm) s e c (writeReg (advancePc (ctxAt s e c)) a v) := by
  intro hfetch
  refine ⟨setCtx (takeTurn (ahead s e c) e c true) e c (writeReg (advancePc (ctxAt s e c)) a v), ?_,
    ctxOnly_setCtx (ctxOnly_takeTurn (ctxOnly_ahead s e c) true) _⟩
  have hfound : tabFind (takeTurn (ahead s e c) e c true).mc.fabric
      (fabricAddr (takeTurn (ahead s e c) e c true) (advancePc (ctxAt s e c)) b imm) = some v := hv
  change execFrd e c a b imm s = _
  rw [execFrd, micro_acts hexec hfetch (by simp [microEncode, uword])]
  simp only [hfound]

theorem exec_fwr {a b : Fin 32} {imm : BitVec 16} (hfetch : fetches (.fwr e c a b imm) s e c) :
    let x := advancePc (ctxAt s e c)
    let t := ahead s e c
    exec (.fwr e c a b imm) s = .next { t with mc := { t.mc with
      fabric := tabSet s.mc.fabric (readReg s x b + imm.setWidth 32).toNat (readReg s x a) } } := by
  change execFwr e c a b imm s = _
  rw [execFwr, micro_acts hexec hfetch (by simp [microEncode, uword])]
  rfl

/-- TRD of an entry that the tray of the command holds. -/
theorem yields_trd (a b : Fin 32) (high : Bool) {tray : Nat} {k : Cmd} {p : Word × Word} (hcmd : ctxCmd s e c = some k)
    (htray : trayOf k.op = some tray)
    (hp : (trayAt s tray).entries[(readReg s (advancePc (ctxAt s e c)) b).toNat]? = some p) :
    Yields (.trd e c a b high) s e c (writeReg (advancePc (ctxAt s e c)) a (if high then p.2 else p.1)) := by
  intro hfetch
  refine ⟨setCtx (ahead s e c) e c (writeReg (advancePc (ctxAt s e c)) a (if high then p.2 else p.1)), ?_,
    ctxOnly_setCtx (ctxOnly_ahead s e c) _⟩
  have hentry : (trayAt (ahead s e c) ((ctxTray (ahead s e c) e c).getD 8)).entries[
      (readReg (ahead s e c) (advancePc (ctxAt s e c)) b).toNat]? = some p := by
    rw [ctxTray_ahead hcmd htray]
    exact hp
  change execTrd e c a b high s = _
  rw [execTrd, micro_acts hexec hfetch (by simp [microEncode, uword, ofNat_toNat_immBit])]
  simp only [hentry]

theorem exec_twr {a b : Fin 32} {high : Bool} {tray : Nat} {k : Cmd} (hcmd : ctxCmd s e c = some k)
    (htray : trayOf k.op = some tray) (hfetch : fetches (.twr e c a b high) s e c) :
    let x := advancePc (ctxAt s e c)
    exec (.twr e c a b high) s = .next (setTray (ahead s e c) tray { trayAt s tray with
      entries := trayWrite (trayAt s tray).entries (readReg s x b).toNat high (readReg s x a) }) := by
  change execTwr e c a b high s = _
  rw [execTwr, micro_acts hexec hfetch (by simp [microEncode, uword, ofNat_toNat_immBit])]
  simp only [ctxTray_ahead hcmd htray]
  rfl

theorem exec_shw {a b : Fin 32} (hfetch : fetches (.shw e c a b) s e c) :
    let x := advancePc (ctxAt s e c)
    let t := ahead s e c
    exec (.shw e c a b) s = .next { t with par := { t.par with
      shadow := tabSet s.par.shadow (readReg s x b).toNat (readReg s x a) } } := by
  change execShw e c a b s = _
  rw [execShw, micro_acts hexec hfetch (by simp [microEncode, uword])]
  rfl

/-- HRD of a word of the command's block. -/
theorem yields_hrd (a : Fin 32) (imm : BitVec 16) {v : Word}
    (hv : paramWord s e c (readReg s (advancePc (ctxAt s e c)) 26 + imm.setWidth 32).toNat = some v) :
    let x := advancePc (ctxAt s e c)
    Yields (.hrd e c a imm) s e c (writeReg (writeReg x 26 (readReg s x 26 + 4)) a v) := by
  intro x hfetch
  refine ⟨setCtx (ahead s e c) e c (writeReg (writeReg x 26 (readReg s x 26 + 4)) a v), ?_,
    ctxOnly_setCtx (ctxOnly_ahead s e c) _⟩
  have hword : paramWord (ahead s e c) e c (readReg (ahead s e c) x 26 + imm.setWidth 32).toNat = some v := by
    rw [paramWord, ctxCmd_ahead]
    exact hv
  change execHrd e c a imm s = _
  rw [execHrd, micro_acts hexec hfetch (by simp [microEncode, uword])]
  simp only [hword, x]
  rfl

/-- A microword of its context alone. -/
theorem yields_microCtx {i : Instr} {w : Word} {f : State → Ctx → Ctx} (hi : exec i s = .next (microCtx s e c w f))
    (hword : microEncode i = some w) : Yields i s e c (f (ahead s e c) (advancePc (ctxAt s e c))) := by
  intro hfetch
  refine ⟨_, hi.trans (congrArg _ (micro_acts hexec hfetch hword)), ctxOnly_setCtx (ctxOnly_ahead s e c) _⟩

theorem yields_hwr (a b : Fin 32) (imm : BitVec 16) :
    let x := advancePc (ctxAt s e c)
    Yields (.hwr e c a b imm) s e c
      { x with dma := tabSet x.dma (readReg s x b + imm.setWidth 32).toNat (readReg s x a) } :=
  yields_microCtx (i := .hwr e c a b imm) hexec rfl (by simp [microEncode, uword])

theorem yields_tide (a : Fin 32) (high : Bool) :
    let x := advancePc (ctxAt s e c)
    Yields (.tide e c a high) s e c (if high then writeReg x a x.tideHigh
      else { writeReg x a (BitVec.ofNat 32 s.tide) with tideHigh := BitVec.ofNat 32 (s.tide / 2 ^ 32) }) :=
  yields_microCtx (i := .tide e c a high) hexec rfl (by simp [microEncode, uword, ofNat_toNat_immBit])

theorem exec_tarm {a b : Fin 32} (hfetch : fetches (.tarm e c a b) s e c) :
    let x := advancePc (ctxAt s e c)
    let t := ahead s e c
    let i := (readReg s x a).toNat + 2 ^ 32 * (readReg s x 1).toNat
    let par := { t.par with comparators := tabSet s.par.comparators (readReg s x b).toNat i }
    exec (.tarm e c a b) s = .next (armPending { t with par := par } e c i) := by
  change execTarm e c a b s = _
  rw [execTarm, micro_acts hexec hfetch (by simp [microEncode, uword])]
  rfl

theorem exec_sig {a : Fin 32} {code : Byte} (hfetch : fetches (.sig e c a code) s e c) :
    exec (.sig e c a code) s = .next (sendRaw (ahead s e c) (.signal
      (if signalUp code.toNat then some s.chain.upPort else none)
      (signalOf code.toNat (readReg s (advancePc (ctxAt s e c)) a)))) := by
  change execSig e c a code s = _
  rw [execSig, micro_acts hexec hfetch (by simp [microEncode, uword])]
  rfl

/-- PST of a routine that no handler ends, with no other reply before or behind it. -/
theorem exec_pst {k : Cmd} (hcmd : ctxCmd s e c = some k) (hown : k.viaChain = false) (hfirst : replyWaits s k = false)
    (hnone : s.unposted = []) (hending : (advancePc (ctxAt s e c)).ending = none) (hfetch : fetches (.pst e c) s e c) :
    let x := advancePc (ctxAt s e c)
    let t := ahead s e c
    let status := (readReg s x 29).setWidth 16
    let u := if status.toNat = stAborted then count t 6 0 0xA8 (8 * e.val + 2) else t
    exec (.pst e c) s = .next (postReply u k true
      { status := status, tag := k.hdr.tag, gen := s.par.generation, stamp := s.tide % 2 ^ 63, phase := true
        data := word4 (readReg s x 1) ++ word4 (readReg s x 2) ++ word4 (readReg s x 3) ++ word4 (readReg s x 4) }
      (if k.hdr.resDma then dmaBytes t k.hdr x else [])) := by
  intro x t status u
  have hu : replyWaits u k = false ∧ u.unposted = [] ∧ u.par = s.par ∧ u.tide = s.tide := by
    simp only [u]
    split <;> exact ⟨hfirst, hnone, rfl, rfl⟩
  obtain ⟨hufirst, hunone, hpar, htide⟩ := hu
  rw [← hpar, ← htide, ← Replies.postOrdered_of_none _ _ hufirst hunone hown]
  change execPst e c s = _
  rw [execPst, micro_acts hexec hfetch (by simp [microEncode, uword])]
  simp only [ctxCmd_ahead, hcmd, hending, Option.isSome_none, Option.isNone_none, Bool.false_eq_true, if_false,
    Bool.and_true]
  rfl

/-- FWD to a device that lies behind one port, and whose reply is not awaited yet. -/
theorem exec_fwd {a : Fin 32} {k : Cmd} {p : Nat} (hcmd : ctxCmd s e c = some k)
    (hport : treePort s ((readReg s (advancePc (ctxAt s e c)) a).toNat % 128) = [p])
    (hnew : k.missing.contains ((readReg s (advancePc (ctxAt s e c)) a).toNat % 128) = false)
    (hfetch : fetches (.fwd e c a) s e c) :
    let i := (readReg s (advancePc (ctxAt s e c)) a).toNat % 128
    exec (.fwd e c a) s = .next (putFrame (putCmd (ahead s e c) { k with missing := k.missing ++ [i] }) p
      (.command { k.hdr with chain := BitVec.ofNat 7 i } k.op)) := by
  intro i
  have hindex : fld (readReg s (advancePc (ctxAt s e c)) a) 0 7 = i := by simp [fld, bitsOf, i]
  change execFwd e c a s = _
  rw [execFwd, micro_acts hexec hfetch (by simp [microEncode, uword])]
  have hnonempty : ¬ treePort (ahead s e c) i = [] := by
    intro hempty
    exact List.cons_ne_nil p [] (hport.symm.trans hempty)
  have hports : framePorts (putCmd (ahead s e c) { k with missing := k.missing ++ [i] })
      (.command { k.hdr with chain := BitVec.ofNat 7 i } k.op) = [p] := by
    have hi : (BitVec.ofNat 7 i).toNat = i := by
      rw [BitVec.toNat_ofNat]
      exact Nat.mod_mod _ _
    change treePort s (BitVec.ofNat 7 i).toNat = [p]
    rw [hi, hport]
  simp only [ctxCmd_ahead, hcmd, readReg_ahead, hindex, if_neg hnonempty, hnew, i, Bool.false_eq_true, if_false, send]
  rw [hports]
  rfl

/-- EVT of an ACK field counts in it; of the rest only the host side may change. The name of the field is kept closed:
the kernel would compute with its bits. -/
theorem exec_evt {imm : BitVec 16} {id : Word} (hfetch : fetches (.evt e c imm) s e c)
    (htarget : pid (fld (readReg s (advancePc (ctxAt s e c)) 25) 28 4)
      (fld (readReg s (advancePc (ctxAt s e c)) 25) 16 12) (imm.toNat / 256) (imm.toNat % 256) = id)
    (hack : idOne id = some .ack) :
    ∃ h, exec (.evt e c imm) s =
      .next { setAck (ahead s e c) id (ackBump (ackOf s id)) with host := h } := by
  change ∃ h, execEvt e c imm s = _
  obtain ⟨name, hname⟩ : ∃ f, f = pid := ⟨_, rfl⟩
  rw [← readReg_ahead s e c, ← hname] at htarget
  rw [execEvt, micro_acts hexec hfetch (by simp [microEncode, uword]), ← hname]
  simp only [htarget, hack]
  cases List.find? _ (List.range 6) with
  | none => exact ⟨_, rfl⟩
  | some n => exact ⟨_, congrArg _ (vec0_only _ n)⟩

end words

/-- An armed bake changes nothing but the pending bake. -/
theorem armPending_only (s : State) (e c i : Nat) :
    ∃ p, armPending s e c i = { s with par := { s.par with pendBake := p } } := by
  unfold armPending
  split
  · split
    · exact ⟨_, rfl⟩
    · exact ⟨_, rfl⟩
  · exact ⟨_, rfl⟩

/-- Settles O59: each word acts in the state ahead of it, on the one thing that it names. -/
theorem microwordData : Obligations.MicrowordData := by
  unfold Obligations.MicrowordData
  intro s e c hexec a b imm high code x A B
  have hx : ctxAt (ahead s e c) e c = x := ctxAt_ahead s e c
  refine ⟨fun v => yields_frd hexec a b imm, fun hfetch => ?fwr, fun tray k hcmd htray => ⟨fun p =>
      yields_trd hexec a b high hcmd htray, fun hfetch => ?twr⟩, fun hfetch => ?shw, fun v => yields_hrd hexec a imm,
    yields_hwr hexec a b imm,
    fun k hcmd hown hfirst hnone hending hfetch => ?pst,
    yields_tide hexec a high,
    fun hfetch => ?tarm, fun hfetch => ⟨_, exec_sig hexec hfetch, hx, rfl, rfl⟩,
    fun k p hcmd hport hnew hfetch => ⟨_, exec_fwd hexec hcmd hport hnew hfetch, rfl, rfl, hx, rfl⟩, ?evt⟩
  case fwr => exact ⟨_, exec_fwr hexec hfetch, tabFind_tabSet_same _ _ _, hx, rfl, rfl⟩
  case twr =>
    refine ⟨_, exec_twr hexec hcmd htray hfetch, ?_, rfl, fun m hm => tabGet_tabSet_other _ _ _ _ _ hm⟩
    exact congrArg Tray.entries (tabGet_tabSet_same _ _ _ _)
  case shw => exact ⟨_, exec_shw hexec hfetch, tabFind_tabSet_same _ _ _, rfl, rfl, hx⟩
  case pst =>
    refine ⟨_, _, _, exec_pst hexec hcmd hown hfirst hnone hending hfetch, rfl, rfl, rfl, rfl, fun hdma => ?_, ?_⟩
    · rw [hdma]
      rfl
    · split <;> exact ⟨rfl, rfl⟩
  case tarm =>
    obtain ⟨p, hp⟩ := armPending_only { ahead s e c with par := { s.par with
      comparators := tabSet s.par.comparators B.toNat (A.toNat + 2 ^ 32 * (readReg s x 1).toNat) } } e c
      (A.toNat + 2 ^ 32 * (readReg s x 1).toNat)
    exact ⟨_, (exec_tarm hexec hfetch).trans (congrArg _ hp), tabFind_tabSet_same _ _ _, hx, rfl⟩
  case evt =>
    intro g id hack hfetch
    obtain ⟨h, hnext⟩ := exec_evt hexec hfetch rfl hack
    exact ⟨_, hnext, ackOf_setAck _ _ _, hx, rfl⟩

end Sys2Proof.Microwords
end

section
/-! Events of the channels and of their berths: short-circuit limits, the spare's handover and release, UNPARK and
parking (R44, R51, R109, R134 to R137, R194 to R196). -/

namespace Sys2Proof.Channels

open Sys2Proof Sys2Proof.Machine Sys2Proof.Standing

/-! ### Circuits and berths -/

theorem chanAt_congr {s t : State} (h : t.chan = s.chan) (c : Nat) : chanAt t c = chanAt s c := by
  rw [chanAt, h, chanAt]

theorem berthAt_congr {s t : State} (h : t.berth = s.berth) (b : Nat) : berthAt t b = berthAt s b := by
  rw [berthAt, h, berthAt]

@[simp] theorem chanAt_modChan (s : State) (c : Nat) (f : Chan → Chan) : chanAt (modChan s c f) c = f (chanAt s c) :=
  chanAt_setChan _ _ _

theorem chanAt_modChan_other (s : State) {c k : Nat} (f : Chan → Chan) (h : k ≠ c) :
    chanAt (modChan s c f) k = chanAt s k := chanAt_setChan_other _ _ _ _ h

/-! ### Short-circuit limits (R109, R130) -/

/-- An event that a front-end die counts changes the counts or, while the link is lost, the wing. -/
theorem countFront_only (s : State) (sc i f m : Nat) :
    ∃ a w, countFront s sc i f m = { s with acks := a, wing := w } := by
  unfold countFront
  dsimp only
  generalize (if sc = 2 then berthOfChan i else i) = b
  split
  · exact ⟨_, _, rfl⟩
  · exact ⟨_, _, rfl⟩

/-- What an event on a driver that is on notes in its channel. -/
def limitNoted (s : State) (c act : Nat) : State :=
  modChan (countFront s 2 c 0x14 0) c fun x => { x with
    limitAt := some s.tide, holdNext := if act = 0 then x.holdNext else some true }

theorem chanAt_limitNoted (s : State) (c act : Nat) : chanAt (limitNoted s c act) c =
    { chanAt s c with limitAt := some s.tide, holdNext := if act = 0 then (chanAt s c).holdNext else some true } := by
  obtain ⟨a, w, hcount⟩ := countFront_only s 2 c 0x14 0
  rw [limitNoted, chanAt_modChan, hcount]
  rfl

theorem limitNoted_berth (s : State) (c act : Nat) : (limitNoted s c act).berth = s.berth := by
  obtain ⟨a, w, hcount⟩ := countFront_only s 2 c 0x14 0
  rw [limitNoted, hcount]
  rfl

theorem ackOf_limitNoted {s : State} {c : Nat} (act : Nat)
    (hup : (wingAt s (wingOfBerth (berthOfChan c))).linkDown = false) :
    ackOf (limitNoted s c act) (pid 2 c 0x14 0) = ackBump (ackOf s (pid 2 c 0x14 0)) := by
  have hcount : countFront s 2 c 0x14 0 = count s 2 c 0x14 0 := by simp [countFront, hup]
  rw [limitNoted, hcount]
  exact ackOf_count_same _ _ _ _ _

theorem exec_shortLimitEvent {s u : State} {c : Fin 1088} {act : Nat}
    (hu : catchUp s (quayOfBerth (berthOfChan c)) = u) (hact : liveF u 2 (paramInst u c) 0x10 0 5 2 = act) :
    exec (.shortLimitEvent c) s = .next (if (chanAt u c).driver = .hiz then u
      else if act = 2 then berthsFault (limitNoted u c act) [berthOfChan c] 0x20 c (hwFault 0x20 c)
        (withLeaders (limitNoted u c act) [berthOfChan c])
      else limitNoted u c act) := by
  obtain ⟨a, w, hcount⟩ := countFront_only u 2 c 0x14 0
  have htide : (countFront u 2 c 0x14 0).tide = u.tide := by rw [hcount]
  change execShortLimitEvent c s = _
  rw [execShortLimitEvent, limitNoted, ← htide, ← hact, ← hu]

/-! ### Handover and release (R134 to R138) -/

theorem exec_substOverlap {s : State} {b : Fin 64} (hphase : (berthAt s b).seqPhase = 1 ∨ (berthAt s b).seqPhase = 4) :
    let u := catchUp (reach s ((berthAt s b).seqStart + 256)) (quayOfBerth b)
    let v := modChan u (incoming u b) fun z => { z with connect := z.mode ≠ 0, overlap := true }
    exec (.substOverlap b) s = .next (modBerth (modChan v (outgoing u b) fun z => { z with overlap := true }) b
      fun z => { z with seqPhase := (berthAt s b).seqPhase + 1 }) := by
  intro u v
  change execSubstOverlap b s = _
  rw [execSubstOverlap, if_pos hphase]
  rfl

/-- A path in overlap stays as it is where the overlap of another one, or its own, begins. -/
theorem chanAt_mark_overlap (s : State) (c : Nat) {k : Nat} (h : (chanAt s k).overlap = true) :
    chanAt (modChan s c fun z => { z with overlap := true }) k = chanAt s k := by
  by_cases hk : k = c
  · rw [← hk, chanAt_modChan, ← h]
  · exact chanAt_modChan_other s _ hk

/-- The sources that move with a position are the berth's own, and leave its handover as it is. -/
theorem handover_sources (s : State) (b k : Nat) :
    let t := tmuHandover (acqHandover s b k) b k
    t.tide = s.tide ∧ t.chan = s.chan ∧ (berthAt t b).movedAt = (berthAt s b).movedAt := by
  have hacq : (berthAt (acqHandover s b k) b).movedAt = (berthAt s b).movedAt := by
    rw [acqHandover, modAcq, berthAt_modBerth]
  unfold tmuHandover
  dsimp only
  split
  · refine ⟨rfl, rfl, ?_⟩
    rw [modTmu, berthAt_modBerth]
    exact hacq
  · exact ⟨rfl, rfl, hacq⟩

theorem substCompareMove_moves {s : State} {b : Fin 64} {p : Nat}
    (hdue : ((berthAt s b).seqPhase = 2 ∨ (berthAt s b).seqPhase = 5) ∧ (berthAt s b).movedAt = none)
    (hp : vectorStartFrom s (quayOfBerth b) ((berthAt s b).seqStart + 320) = some p) :
    ∃ t, exec (.substCompareMove b) s = .next t ∧ posTide p % 2 ^ 64 ≤ t.tide ∧
      (berthAt t b).movedAt = some (ceilDiv p (5000 * subUnits)) ∧ t.chan = s.chan := by
  have hexec : exec (.substCompareMove b) s = .next (
      let u := modBerth (reach s (posTide p)) b fun z => { z with movedAt := some (ceilDiv p (5000 * subUnits)) }
      tmuHandover (acqHandover u b (berthAt s b).target) b (berthAt s b).target) := by
    change execSubstCompareMove b s = _
    rw [execSubstCompareMove, if_pos hdue, hp]
  refine ⟨_, hexec, ?_⟩
  dsimp only
  generalize hu : modBerth (reach s (posTide p)) b (fun z => { z with
    movedAt := some (ceilDiv p (5000 * subUnits)) }) = u
  obtain ⟨htide, hchan, hmoved⟩ := handover_sources u b (berthAt s b).target
  subst hu
  refine ⟨?_, hmoved.trans ?_, hchan⟩
  · rw [htide]
    exact Nat.le_max_right _ _
  · rw [berthAt_modBerth]

theorem substCompareMove_waits {s : State} {b : Fin 64}
    (h : ¬(((berthAt s b).seqPhase = 2 ∨ (berthAt s b).seqPhase = 5) ∧ (berthAt s b).movedAt = none) ∨
      vectorStartFrom s (quayOfBerth b) ((berthAt s b).seqStart + 320) = none) :
    exec (.substCompareMove b) s = .next s := by
  change execSubstCompareMove b s = _
  rw [execSubstCompareMove]
  dsimp only
  split
  · next hdue =>
    rw [h.resolve_left (not_not_intro hdue)]
  · rfl

/-- The outgoing circuit as a switch leaves it: off, and open where it is a position's own. -/
def pathOff (o : Nat) (z : Chan) : Chan := { z with
  connect := 1024 ≤ o && z.connect, overlap := false, driver := .hiz, limitAt := none, inClamp := false, lwDelta := [] }

/-- The circuits as a switch leaves them: the outgoing path is off, and the incoming one carries the position alone. -/
def switchCircuits (s : State) (i o : Nat) (handover : Prop) [Decidable handover] : State :=
  let s := modChan (holdMod s (modTick s.tide) o) o (pathOff o)
  let s := if handover then freeze s o else s
  modChan s i fun z => { z with overlap := false }

/-- A berth as a switch leaves it, in its next phase. -/
def switchEnds (phase : Nat) (z : Berth) : Berth := { z with seqPhase := phase, movedAt := none }

/-- A switch at its instant u takes the two circuits to v, and then calibration goes on. -/
theorem exec_substSwitch {s u v : State} {b : Fin 64} {m i o : Nat} (hmoved : (berthAt s b).movedAt = some m)
    (hphase : (berthAt s b).seqPhase = 2 ∨ (berthAt s b).seqPhase = 5)
    (hu : reach s (Nat.max ((berthAt s b).seqStart + 384) (m + 8)) = u) (hi : incoming u b = i) (ho : outgoing u b = o)
    (hv : switchCircuits u i o ((berthAt s b).seqPhase = 2) = v) :
    exec (.substSwitch b) s = .next (if (berthAt s b).seqPhase = 2 then
        calHandedOver (count (modBerth v b (switchEnds 3)) 3 b 0x15 1) b
      else ownMode (calReleased (count (modBerth v b (switchEnds 0)) 3 b 0x15 2) b) o) := by
  subst hv hi ho hu
  change execSubstSwitch b s = _
  rw [execSubstSwitch]
  dsimp only
  rw [hmoved]
  dsimp only
  rw [if_pos hphase]
  rfl

theorem holdMod_only (s : State) (m c : Nat) : ∃ t, holdMod s m c = { s with chan := t } := by
  unfold holdMod
  split
  · exact ⟨_, rfl⟩
  · exact ⟨s.chan, rfl⟩

/-- A circuit that freezes keeps all but its frozen words. -/
theorem chanAt_freeze (s : State) (o : Nat) : ∃ f, chanAt (freeze s o) o = { chanAt s o with frozen := f } :=
  ⟨_, chanAt_modChan _ _ _⟩

/-- A switch leaves the outgoing circuit off, and open where it is a position's own, and ends the overlap of both. -/
theorem switchCircuits_spec (s : State) {i o : Nat} (hio : i ≠ o) (handover : Prop) [Decidable handover] :
    let t := switchCircuits s i o handover
    t.tide = s.tide ∧ t.berth = s.berth ∧ (chanAt t i).overlap = false ∧ (chanAt t o).overlap = false ∧
      (chanAt t o).driver = .hiz ∧ (o < 1024 → (chanAt t o).connect = false) := by
  intro t
  obtain ⟨ch, hheld⟩ := holdMod_only s (modTick s.tide) o
  let v := modChan (holdMod s (modTick s.tide) o) o (pathOff o)
  have hout : ∃ f, chanAt (if handover then freeze v o else v) o = { chanAt v o with frozen := f } := by
    split
    · exact chanAt_freeze v o
    · exact ⟨_, rfl⟩
  obtain ⟨f, hout⟩ := hout
  have hframe : t.tide = s.tide ∧ t.berth = s.berth := by
    have hv : v.tide = s.tide ∧ v.berth = s.berth := by
      simp only [v, hheld]
      exact ⟨rfl, rfl⟩
    change (if handover then freeze v o else v).tide = s.tide ∧ (if handover then freeze v o else v).berth = s.berth
    split <;> exact hv
  have ho : chanAt t o = { chanAt v o with frozen := f } := (chanAt_modChan_other _ _ hio.symm).trans hout
  have hv : chanAt v o = _ := chanAt_modChan _ _ _
  rw [ho, hv]
  refine ⟨hframe.1, hframe.2, ?_, rfl, rfl, fun hown => ?_⟩
  · rw [show chanAt t i = _ from chanAt_modChan _ _ _]
  · simp [pathOff, Nat.not_le.mpr hown]

/-! ### What calibration does at a switch (R386, R392 to R394, R397) -/

/-- What calibration keeps at a switch: circuits, tide, and how far the handover of the berth has come. -/
def switchState (s : State) (b : Nat) : Tab Chan × Nat × Nat × Nat :=
  (s.chan, s.tide, (berthAt s b).seqPhase, (berthAt s b).subst)

theorem switchState_modCal (s : State) (b : Nat) (f : Cal → Cal) : switchState (modCal s b f) b = switchState s b := by
  rw [switchState, modCal, berthAt_modBerth]
  rfl

theorem switchState_completeAll (s : State) (p : Cmd → Bool) (v : Verdict) (b : Nat) :
    switchState (completeAll s p v) b = switchState s b := by
  have hends : onlyEnds s (completeAll s p v) := onlyEnds_foldl _ (fun t c => onlyEnds_complete t c v.1 v.2 []) s _
  rw [hends]
  rfl

theorem switchState_calEndRelief (s : State) (b : Nat) (v : Nat → Verdict) :
    switchState (calEndRelief s b v) b = switchState s b :=
  (switchState_completeAll _ _ _ b).trans (switchState_modCal s b calIdle)

theorem switchState_calSchedule (s : State) (b : Nat) : switchState (calSchedule s b) b = switchState s b := by
  unfold calSchedule
  split <;> rfl

theorem switchState_calReady (s : State) (b step i : Nat) : switchState (calReady s b step i) b = switchState s b := by
  rw [← switchState_modCal s b fun x => { x with step := step, readyAt := some i }, calReady, calOwn]
  split
  · exact switchState_calSchedule _ b
  · rfl

theorem switchState_calHandedOver (s : State) (b : Nat) : switchState (calHandedOver s b) b =
    (s.chan, s.tide, (berthAt s b).seqPhase, if (berthAt s b).cal.purpose = 1 then 2 else 1) := by
  have hcal : calAt s b = (berthAt s b).cal := rfl
  unfold calHandedOver
  dsimp only
  rw [hcal]
  split
  · rw [switchState_calEndRelief, switchState, berthAt_modBerth]
    rfl
  · have hset : switchState (modBerth s b fun y => { y with subst := 1 }) b =
        (s.chan, s.tide, (berthAt s b).seqPhase, 1) := by
      rw [switchState, berthAt_modBerth]
      rfl
    split
    · rw [switchState_calReady, hset]
    · exact hset

/-- A release outside of any run only frees the spare. -/
theorem calReleased_idle {s : State} {b : Nat} (hpurpose : (berthAt s b).cal.purpose = 0)
    (hstep : (berthAt s b).cal.step = 0) (hrun : (berthAt s b).cal.runState = 0) :
    calReleased s b = modBerth s b fun y => { y with
      subst := 0, target := 31, cal := { y.cal with relievedPos := 31 } } := by
  simp [calReleased, calAt, hpurpose, hstep, hrun]

/-- The spare in its own mode: its overlap, the other circuits and the berths stay. -/
theorem ownMode_spec (s : State) (c : Nat) :
    (ownMode s c).berth = s.berth ∧ (chanAt (ownMode s c) c).overlap = (chanAt s c).overlap ∧
      ∀ k, k ≠ c → chanAt (ownMode s c) k = chanAt s k := by
  unfold ownMode
  split
  · exact ⟨rfl, rfl, fun _ _ => rfl⟩
  · refine ⟨rfl, ?_, fun k hk => chanAt_modChan_other s _ hk⟩
    rw [setMode, chanAt_modChan]

/-- The end of a handover. -/
theorem substSwitch_handover {s : State} {b : Fin 64} {m : Nat} (hmoved : (berthAt s b).movedAt = some m)
    (hphase : (berthAt s b).seqPhase = 2) (htarget : (berthAt s b).target < 16)
    (hstart : (berthAt s b).seqStart + 384 < 2 ^ 64) (hm : m + 8 < 2 ^ 64) :
    ∃ t, exec (.substSwitch b) s = .next t ∧ (berthAt t b).seqPhase = 3 ∧
      (berthAt t b).subst = (if (berthAt s b).cal.purpose = 1 then 2 else 1) ∧
      (chanAt t (16 * b.val + (berthAt s b).target)).connect = false ∧
      (chanAt t (16 * b.val + (berthAt s b).target)).driver = .hiz ∧
      (berthAt s b).seqStart + 384 ≤ t.tide ∧ m + 8 ≤ t.tide := by
  generalize hu : reach s (Nat.max ((berthAt s b).seqStart + 384) (m + 8)) = u
  have hub : berthAt u b = berthAt s b := by rw [← hu]; rfl
  have hin : incoming u b = 1024 + b := if_pos (.inr (hub ▸ hphase))
  have hout : outgoing u b = 16 * b + (berthAt s b).target := hub ▸ if_pos (.inr (hub ▸ hphase))
  have hspec := switchCircuits_spec u (i := 1024 + b) (o := 16 * b + (berthAt s b).target) (by omega)
    ((berthAt s b).seqPhase = 2)
  generalize hv : switchCircuits u (1024 + b) (16 * b + (berthAt s b).target) ((berthAt s b).seqPhase = 2) = v at hspec
  obtain ⟨htide, hberth, -, -, hdriver, hconnect⟩ := hspec
  have hexec := exec_substSwitch hmoved (.inl hphase) hu hin hout hv
  rw [if_pos hphase] at hexec
  set w := count (modBerth v b (switchEnds 3)) 3 b 0x15 1
  have hwb : berthAt w b = switchEnds 3 (berthAt s b) := by
    rw [← (berthAt_congr hberth b).trans hub]
    exact berthAt_modBerth _ _ _
  have hstate := switchState_calHandedOver w b
  rw [hwb] at hstate
  simp only [switchState, Prod.mk.injEq] at hstate
  obtain ⟨hchan, htide', hphase', hsubst⟩ := hstate
  have hkeep : chanAt (calHandedOver w b) (16 * b + (berthAt s b).target) =
    chanAt v (16 * b + (berthAt s b).target) := chanAt_congr hchan _
  have hreach : (calHandedOver w b).tide = Nat.max s.tide (Nat.max ((berthAt s b).seqStart + 384) (m + 8)) := by
    rw [htide', show w.tide = u.tide from htide, ← hu, reach_tide, Nat.mod_eq_of_lt (Nat.max_lt.mpr ⟨hstart, hm⟩)]
  refine ⟨_, hexec, hphase', hsubst, ?_, ?_, ?_, ?_⟩
  · rw [hkeep]
    exact hconnect (by omega)
  · rw [hkeep]
    exact hdriver
  · rw [hreach]
    exact (Nat.le_max_left _ _).trans (Nat.le_max_right _ _)
  · rw [hreach]
    exact (Nat.le_max_right _ _).trans (Nat.le_max_right _ _)

/-- The end of a release outside of any run. -/
theorem substSwitch_release {s : State} {b : Fin 64} {m : Nat} (hmoved : (berthAt s b).movedAt = some m)
    (hphase : (berthAt s b).seqPhase = 5) (htarget : (berthAt s b).target < 16)
    (hpurpose : (berthAt s b).cal.purpose = 0) (hstep : (berthAt s b).cal.step = 0)
    (hrun : (berthAt s b).cal.runState = 0) :
    ∃ t, exec (.substSwitch b) s = .next t ∧ (berthAt t b).seqPhase = 0 ∧ (berthAt t b).subst = 0 ∧
      (berthAt t b).target = 31 ∧ (chanAt t (1024 + b.val)).overlap = false ∧
      (chanAt t (16 * b.val + (berthAt s b).target)).overlap = false := by
  have hnot : ¬(berthAt s b).seqPhase = 2 := by omega
  have hpath : ¬((berthAt s b).seqPhase = 1 ∨ (berthAt s b).seqPhase = 2) := by omega
  generalize hu : reach s (Nat.max ((berthAt s b).seqStart + 384) (m + 8)) = u
  have hub : berthAt u b = berthAt s b := by rw [← hu]; rfl
  have hin : incoming u b = 16 * b + (berthAt s b).target := hub ▸ if_neg (hub ▸ hpath)
  have hout : outgoing u b = 1024 + b := if_neg (hub ▸ hpath)
  have hspec := switchCircuits_spec u (i := 16 * b + (berthAt s b).target) (o := 1024 + b) (by omega)
    ((berthAt s b).seqPhase = 2)
  generalize hv : switchCircuits u (16 * b + (berthAt s b).target) (1024 + b) ((berthAt s b).seqPhase = 2) = v at hspec
  obtain ⟨-, hberth, hini, houto, -, -⟩ := hspec
  have hexec := exec_substSwitch hmoved (.inr hphase) hu hin hout hv
  rw [if_neg hnot] at hexec
  set w := count (modBerth v b (switchEnds 0)) 3 b 0x15 2
  have hwb : berthAt w b = switchEnds 0 (berthAt s b) := by
    rw [← (berthAt_congr hberth b).trans hub]
    exact berthAt_modBerth _ _ _
  have hcal : (berthAt w b).cal = (berthAt s b).cal := by rw [hwb]; rfl
  rw [calReleased_idle (by rw [hcal, hpurpose]) (by rw [hcal, hstep]) (by rw [hcal, hrun])] at hexec
  set r := modBerth w b fun y => { y with subst := 0, target := 31, cal := { y.cal with relievedPos := 31 } }
  obtain ⟨hown, hspare, hothers⟩ := ownMode_spec r (1024 + b)
  have hrb : berthAt (ownMode r (1024 + b)) b = { berthAt w b with
      subst := 0, target := 31, cal := { (berthAt w b).cal with relievedPos := 31 } } :=
    (berthAt_congr hown b).trans (berthAt_modBerth _ _ _)
  rw [hwb] at hrb
  refine ⟨_, hexec, congrArg Berth.seqPhase hrb, congrArg Berth.subst hrb, congrArg Berth.target hrb,
    hspare.trans houto, ?_⟩
  rw [hothers _ (by omega)]
  exact hini

/-! ### UNPARK and parking (R44, R51, R194 to R196) -/

/-- Whether each berth runs, and the park that it waits for. -/
def parkState (s : State) (b : Nat) : BRun × Option ParkReq := ((berthAt s b).run, (berthAt s b).park)

theorem parkState_modSp (s : State) (b : Nat) (f : Sp → Sp) : parkState (modSp s b f) = parkState s := by
  funext k
  by_cases hk : k = b
  · rw [hk, parkState, modSp, berthAt_modBerth]
    rfl
  · rw [parkState, modSp, berthAt_modBerth_other s _ hk]
    rfl

theorem parkState_goodEnd (s : State) (b : Nat) : parkState (goodEnd s b) = parkState s :=
  (parkState_modSp _ _ _).trans (parkState_modSp _ _ _)

theorem parkState_pwmAll (s : State) (b : Nat) (l : Pwm) : parkState (pwmAll s b l) = parkState s :=
  forAll_same parkState _ (fun t m => parkState_modSp t m _) s _

theorem parkState_offNow (s : State) (b : Nat) : parkState (offNow s b) = parkState s := by
  unfold offNow
  dsimp only
  split
  · rfl
  · rw [parkState_modSp, parkState_pwmAll, parkState_goodEnd]

theorem parkState_rampStart (s : State) (b target slew : Nat) (fromOff : Bool) :
    parkState (rampStart s b target slew fromOff) = parkState s := by
  rw [rampStart, parkState_modSp]
  split
  · rfl
  · exact parkState_goodEnd s b

theorem parkState_offRamp (s : State) (b : Nat) : parkState (offRamp s b) = parkState s := by
  have hlate : parkState (if rampBusy s b then modSp s b fun x => { x with offAfter := true } else offNow s b) =
      parkState s := by
    split
    · exact parkState_modSp _ _ _
    · exact parkState_offNow s b
  unfold offRamp
  dsimp only
  split
  · rfl
  · rfl
  · exact hlate
  · exact hlate
  · split
    · exact parkState_modSp _ _ _
    · split
      · rfl
      · exact parkState_rampStart _ _ _ _ _

theorem parkState_offOrderly (s : State) (bs : List Nat) : parkState (offOrderly s bs) = parkState s := by
  unfold offOrderly
  split
  · rfl
  · exact forAll_same parkState _ parkState_offRamp s _

theorem parkState_foldl_offOrderly (s : State) (gs : List (List Nat)) :
    parkState (gs.foldl offOrderly s) = parkState s := by
  induction gs generalizing s with
  | nil => rfl
  | cons g gs ih => exact (ih _).trans (parkState_offOrderly s g)

/-- ParkMode is applied to the channels of a berth alone. -/
theorem parkApply_berth (s : State) (hard : Bool) (c : Nat) : (parkApply s hard c).berth = s.berth := rfl

/-- A berth whose orderly park ends is PARKED, or in FAULT. -/
theorem parkFinish_spec {s : State} {b : Nat} {p : ParkReq} (hpark : (berthAt s b).park = some p)
    (happly : p.applyAt.isNone = false) :
    ∃ u, parkFinish s b = settle (offAdvance u) ∧ (berthAt u b).park = none ∧
      (berthAt u b).run = (if (berthAt s b).run = .fault ∨ p.toFault = true then .fault else .parked) := by
  let v := forAll s (chansOfBerth b) fun s c => parkApply s false c
  let w := modBerth v b fun x => { x with
    park := none, run := if x.run = .fault ∨ p.toFault then .fault else .parked }
  have hv : berthAt v b = berthAt s b :=
    berthAt_congr (forAll_same State.berth _ (fun t c => parkApply_berth t false c) s _) b
  have hw : parkState w b = (if (berthAt s b).run = .fault ∨ p.toFault = true then .fault else .parked, none) := by
    rw [parkState, berthAt_modBerth, hv]
  refine ⟨(p.groups.filter fun g => g.contains b && g.all fun k => !parking w k).foldl offOrderly w, ?_, ?_⟩
  · rw [parkFinish, hpark]
    simp only [happly, Bool.false_eq_true, if_false]
    rfl
  · have hstate := (congrFun (parkState_foldl_offOrderly w
      (p.groups.filter fun g => g.contains b && g.all fun k => !parking w k)) b).trans hw
    rw [parkState, Prod.mk.injEq] at hstate
    exact hstate.symm

theorem exec_unparkInstant {s : State} {c : Cmd} {i : Nat} (hfirst : firstUnpark s = some (c, i)) :
    let t := forAll (reach s i) (berthsIn c.hdr.scope.toNat c.hdr.inst.toNat) unparkBerth
    exec .unparkInstant s = .next (completeOk (if 6 ≤ c.hdr.scope.toNat then { t with unparked := true } else t) c
      [(16, 8, i)]) := by
  change execUnparkInstant s = _
  rw [execUnparkInstant, hfirst]

theorem exec_parkModeApply {s : State} {b : Fin 64} {p : ParkReq} {i : Nat} (hpark : (berthAt s b).park = some p)
    (happly : p.applyAt = some i) : exec (.parkModeApply b) s = .next (parkFinish (reach s i) b) := by
  change execParkModeApply b s = _
  simp only [execParkModeApply, hpark, happly]

theorem exec_orderlyParkDeadline {s : State} {b : Fin 64} {p : ParkReq} {i : Nat}
    (hpark : (berthAt s b).park = some p) (happly : p.applyAt = none) (hdeadline : p.deadline = some i) :
    exec (.orderlyParkDeadline b) s = .next (parkBerth (reach s i) b p.toFault p.groups) := by
  have hreach : (berthAt (reach s i) b).park = some p := hpark
  change execOrderlyParkDeadline b s = _
  simp only [execOrderlyParkDeadline, hpark, happly, hdeadline, parkBegin, hreach, Option.isNone_none, if_true]

/-- An event on a driver that is on, where ShortLimit does not ask for FAULT. -/
theorem limitNoted_spec {s : State} {c : Nat} (act : Nat) :
    let t := limitNoted s c act
    (chanAt t c).limitAt = some s.tide ∧ (chanAt t c).driver = (chanAt s c).driver ∧ t.berth = s.berth ∧
      (chanAt t c).holdNext = (if act = 0 then (chanAt s c).holdNext else some true) := by
  intro t
  rw [show chanAt t c = _ from chanAt_limitNoted s c act]
  exact ⟨rfl, rfl, limitNoted_berth s c act, rfl⟩

/-- An overlap closes the incoming path beside the outgoing one. -/
theorem overlap_spec (s : State) (i o : Nat) :
    let t := modChan (modChan s i fun z => { z with connect := z.mode ≠ 0, overlap := true }) o
      fun z => { z with overlap := true }
    (chanAt t i).connect = decide ((chanAt s i).mode ≠ 0) ∧ (chanAt t i).mode = (chanAt s i).mode ∧
      (chanAt t i).overlap = true ∧ (chanAt t o).overlap = true := by
  intro t
  let v := modChan s i fun z => { z with connect := z.mode ≠ 0, overlap := true }
  have hv : chanAt v i = { chanAt s i with connect := (chanAt s i).mode ≠ 0, overlap := true } := chanAt_modChan _ _ _
  have hin : chanAt t i = chanAt v i := chanAt_mark_overlap v o (by rw [hv])
  have hout : chanAt t o = { chanAt v o with overlap := true } := chanAt_modChan _ _ _
  rw [hin, hv, hout]
  exact ⟨rfl, rfl, rfl, rfl⟩

/-- Settles O45, event by event. -/
theorem channelEvents : Obligations.ChannelEvents := by
  unfold Obligations.ChannelEvents
  intro s
  refine ⟨fun c => ?limit, fun b => ?overlap, fun b => ⟨fun hdue p => substCompareMove_moves hdue,
    substCompareMove_waits, ?standing⟩, fun b m hmoved hphase htarget hstart hm => ?handover,
    fun b m hmoved hphase htarget hpurpose hstep hrun => substSwitch_release hmoved hphase htarget hpurpose hstep hrun,
    fun c i => exec_unparkInstant, fun b p i hpark => ⟨fun happly => ⟨exec_parkModeApply hpark happly, ?finish⟩,
    exec_orderlyParkDeadline hpark⟩⟩
  case limit =>
    intro u act
    have hexec : exec (.shortLimitEvent c) s = _ := exec_shortLimitEvent (u := u) (act := act) rfl rfl
    refine ⟨fun hoff => hexec.trans (by rw [if_pos hoff]), fun hon => ?_⟩
    rw [if_neg hon] at hexec
    by_cases hact : act = 2
    · rw [if_pos hact] at hexec
      refine ⟨_, hexec, absurd hact, fun _ => absurd hact, fun _ hrun => ?_⟩
      refine (berthsFault_spec _ _ _ _ _ _).2 _ (List.mem_singleton_self _) ?_
      rwa [berthAt_congr (limitNoted_berth u c act)]
    · rw [if_neg hact] at hexec
      exact ⟨_, hexec, fun _ => limitNoted_spec act, fun hup _ => ackOf_limitNoted act hup, fun h => absurd h hact⟩
  case overlap =>
    refine ⟨fun hphase => ⟨_, exec_substOverlap hphase, by rw [berthAt_modBerth], overlap_spec _ _ _⟩,
      fun hone hfour => ?_⟩
    change execSubstOverlap b s = _
    rw [execSubstOverlap, if_neg (not_or_intro hone hfour)]
  case standing =>
    intro hstill
    simp [vectorStartFrom, hstill]
  case handover =>
    obtain ⟨t, hexec, hnext, hsubst, hconnect, hdriver, htide⟩ := substSwitch_handover hmoved hphase htarget hstart hm
    exact ⟨t, hexec, hnext, hsubst, fun _ => ⟨hconnect, hdriver⟩, htide⟩
  case finish => exact parkFinish_spec (s := reach s i) hpark (by rw [happly]; rfl)

end Sys2Proof.Channels
end

section
/-! Queries and the commands that work on a tray (R78 to R84, R178, R518, R594). -/

namespace Sys2Proof.Parameters

open Sys2Proof Sys2Proof.Machine Sys2Proof.HostCommands

/-! ### Trays (R77) -/

theorem trayAt_congr {s t : State} (h : t.par = s.par) (n : Nat) : trayAt t n = trayAt s n := by
  rw [trayAt, h, trayAt]

@[simp] theorem trayAt_setTray (s : State) (n : Nat) (x : Tray) : trayAt (setTray s n x) n = x :=
  tabGet_tabSet_same _ _ _ _

theorem trayAt_setTray_other (s : State) {n k : Nat} (x : Tray) (h : k ≠ n) :
    trayAt (setTray s n x) k = trayAt s k := tabGet_tabSet_other _ _ _ _ _ h

/-- The end of a command changes no parameter. -/
@[simp] theorem complete_par (s : State) (c : Cmd) (status : Nat) (d result : List Byte) :
    (complete s c status d result).par = s.par := by
  rw [onlyEnds_complete s c status d result]

@[simp] theorem completeOk_par (s : State) (c : Cmd) (fs : List (Nat × Nat × Nat)) :
    (completeOk s c fs).par = s.par := complete_par _ _ _ _ _

@[simp] theorem setTray_baked (s : State) (n : Nat) (x : Tray) : (setTray s n x).par.baked = s.par.baked := rfl
@[simp] theorem setTray_generation (s : State) (n : Nat) (x : Tray) :
    (setTray s n x).par.generation = s.par.generation := rfl

@[simp] theorem trayAt_completeOk (s : State) (c : Cmd) (fs : List (Nat × Nat × Nat)) (n : Nat) :
    trayAt (completeOk s c fs) n = trayAt s n := trayAt_congr (completeOk_par s c fs) n

/-! ### The state in which an operation runs -/

/-- Only a BAKE changes a parameter before it runs. -/
theorem startedState_par_of_not_bake (s : State) (h : Hdr) (k : Nat) {op : HostOp}
    (hop : ∀ i tray chk rel want, op ≠ .bake i tray chk rel want) : (startedState s h op k).par = s.par :=
  (startedState_par s h op k).trans (Acceptance.accepted_par_of_not_bake hop)

theorem quayAt_startedState (s : State) (h : Hdr) (op : HostOp) (k q : Nat) :
    quayAt (startedState s h op k) q = quayAt s q := by
  have hquay : (startedState s h op k).quay = s.quay := by rw [Acceptance.startedState_only, accepted_only]
  rw [quayAt, hquay, quayAt]

/-! ### Queries (R83, R178, R518, R594) -/

/-- Settles O15: each query is performed as it starts, and of what it shows acceptance changes neither a parameter nor a
quay. -/
theorem queryReplies : Obligations.QueryReplies := by
  unfold Obligations.QueryReplies
  intro s h k
  refine ⟨exec_performs, fun hu => ?getState, fun t hu => ?trayStatus, fun hu => ?seqStatus, fun port => exec_performs,
    exec_performs, fun w => exec_performs⟩
  case getState =>
    rw [← startedState_par_of_not_bake s h k (op := .getState) (by simp)]
    exact exec_performs hu
  case trayStatus =>
    rw [← trayAt_congr (startedState_par_of_not_bake s h k (op := .trayStatus t) (by simp))]
    exact exec_performs hu
  case seqStatus =>
    rw [← quayAt_startedState s h .seqStatus k]
    exact exec_performs hu

/-! ### STAGE, TRAY_CLEAR and PROOF (R78, R79, R81, R83, R84) -/

/-- Settles O17: either command writes its own tray alone, and then completes. -/
theorem stageAndClear : Obligations.StageAndClear := by
  unfold Obligations.StageAndClear
  refine fun s h k t => ⟨fun ps hu => ?stage, fun hu => ?trayClear⟩
  case stage =>
    have hpar := startedState_par_of_not_bake s h k (op := .stage t ps) (by simp)
    rw [← trayAt_congr hpar t.toNat]
    refine ⟨_, exec_performs hu, ?_⟩
    simp only [perform, startedCmd_op, performStage]
    exact ⟨by simp, by simp, fun n hn => by simp [trayAt_setTray_other _ _ hn, trayAt_congr hpar], by simp [hpar],
      by simp [hpar]⟩
  case trayClear =>
    have hpar := startedState_par_of_not_bake s h k (op := .trayClear t) (by simp)
    refine ⟨_, exec_performs hu, ?_⟩
    simp only [perform, startedCmd_op, performTrayClear]
    exact ⟨by simp, fun n hn => by simp [trayAt_setTray_other _ _ hn, trayAt_congr hpar], by simp [hpar]⟩

/-- A PROOF that finds no violation (R83). -/
theorem performProof_of_none {s : State} (c : Cmd) {tray : Byte}
    (hnone : proofFail s (trayAt s tray.toNat).entries = none) :
    performProof s c tray = completeOk (setTray s tray.toNat { trayAt s tray.toNat with
      proven := true, provenGen := s.par.generation }) c [(16, 4, (trayAt s tray.toNat).entries.length)] := by
  rw [performProof]
  simp only [hnone]

/-- A PROOF that finds a violation (R84). -/
theorem performProof_of_some {s : State} (c : Cmd) {tray : Byte} {v : Nat × Word}
    (hsome : proofFail s (trayAt s tray.toNat).entries = some v) :
    performProof s c tray = completeV s c (proofFailed v) := by
  rw [performProof]
  simp only [hsome]

/-- Settles O18: the proof rules decide between the mark and PROOF_FAILED, on the trays and the generation that
acceptance has left as they were. -/
theorem proofMarksTray : Obligations.ProofMarksTray := by
  unfold Obligations.ProofMarksTray
  intro s h k t hu
  have hpar := startedState_par_of_not_bake s h k (op := .proof t) (by simp)
  have hexec : exec (.proof h t) s =
      .next (performProof (startedState s h (.proof t) k) (startedCmd s h (.proof t) k) t) := exec_performs hu
  dsimp only
  rw [← trayAt_congr hpar]
  refine ⟨fun hnone => ?marks, fun v hsome => ⟨?fails, hpar⟩⟩
  case marks =>
    rw [performProof_of_none _ hnone] at hexec
    exact ⟨_, hexec, by simp, by simp [hpar], by simp⟩
  case fails => rw [hexec, performProof_of_some _ hsome]

end Sys2Proof.Parameters
end

section
/-! Acknowledgement of ACK fields (R100, R245, R285). -/

namespace Sys2Proof.Acknowledgement

open Sys2Proof Sys2Proof.Machine

/-! ### Edges that a read evaluates (R245) -/

section edges

variable {α : Type} {g : State → α} (hmod : ∀ s b f, g (modTmu s b f) = g s)
  (hcount : ∀ s sc i f m, g (count s sc i f m) = g s)
include hmod hcount

theorem tmuCount_keeps (s : State) (b m : Nat) : g (tmuCount s b m) = g s := by rw [tmuCount, hcount, hmod]

theorem stampStore_keeps (s : State) (b : Nat) (e : TmuEdge) : g (stampStore s b e) = g s := by
  unfold stampStore
  dsimp only
  split
  · exact hmod _ _ _
  · rw [hmod, tmuCount_keeps hmod hcount]

theorem edgeEvaluate_keeps (s : State) (b input edge t : Nat) (prov : Bool) :
    g (edgeEvaluate s b input edge t prov) = g s := by
  have htally := tmuCount_keeps hmod hcount
  unfold edgeEvaluate
  dsimp only
  split
  case h_1 =>
    split
    · split
      · exact hmod _ _ _
      · exact htally _ _ _
    · split
      · split
        · exact hmod _ _ _
        · exact htally _ _ _
      · rfl
  case h_2 =>
    split
    · split <;> exact hmod _ _ _
    · rfl
  case h_3 => split <;> split <;> simp [hmod]
  case h_4 => rfl

theorem edgeAccepted_keeps (s : State) (b : Nat) (e : TmuEdge) : g (edgeAccepted s b e) = g s := by
  unfold edgeAccepted
  dsimp only
  split
  · rw [hmod, tmuCount_keeps hmod hcount, hmod]
  · rw [edgeEvaluate_keeps hmod hcount]
    split <;> split <;> simp [hmod, stampStore_keeps hmod hcount]

theorem tmuTake_keeps (s : State) (b : Nat) (e : TmuEdge) : g (tmuTake s b e) = g s := by
  unfold tmuTake
  dsimp only
  split
  · split
    · split
      · exact tmuCount_keeps hmod hcount _ _ _
      · exact edgeAccepted_keeps hmod hcount _ _ _
    · exact edgeAccepted_keeps hmod hcount _ _ _
  · rfl

/-- What neither a measurement's record nor a count holds, the evaluation of edges keeps. -/
theorem tmuFlush_keeps (s : State) (b : Nat) : g (tmuFlush s b) = g s := by
  have hedges (es : List TmuEdge) (t : State) : g (es.foldl (fun u e => tmuTake u b e) t) = g t := by
    induction es generalizing t with
    | nil => rfl
    | cons e es ih => exact (ih _).trans (tmuTake_keeps hmod hcount t b e)
  unfold tmuFlush
  dsimp only
  rw [hedges]
  split
  · rfl
  · exact hmod _ _ _

end edges

theorem edgesSeen_host (s : State) (id : Word) : (edgesSeen s id).host = s.host := by
  unfold edgesSeen
  split
  · exact tmuFlush_keeps (fun _ _ _ => rfl) (fun _ _ _ _ _ => rfl) s _
  · rfl

/-! ### Acknowledgement (R100, R285) -/

@[simp] theorem ackOf_vec0 (s : State) (n : Nat) (id : Word) : ackOf (vec0 s n) id = ackOf s id := by
  rw [Microwords.vec0_only]
  rfl

theorem catchUp_of_stopped {s : State} {q : Nat} (h : (quayAt s q).running = false) : catchUp s q = s :=
  if_neg (ne_true_of_eq_false h)

/-- What follows an acknowledgement counts no event, unless it brings a running quay up to the present tide. -/
theorem ackOf_ackAfter {s : State} {id : Word}
    (h : idFam id ≠ 0x14 ∨ (quayAt s (quayOfBerth (berthOfChan (idInst id)))).running = false) (k : Word) :
    ackOf (ackAfter s id) k = ackOf s k := by
  have hshort : ackOf (if idFam id = 0x14 && idMem id = 0 && decide (ackPending (ackOf s id) = 0) then
      modChan (catchUp s (quayOfBerth (berthOfChan (idInst id)))) (idInst id) fun x =>
        { x with holdNext := if x.heldHiZ then some false else none } else s) k = ackOf s k := by
    split
    · next hacked =>
      have hfam : idFam id = 0x14 := by simp_all
      rw [catchUp_of_stopped (h.resolve_left (not_not_intro hfam))]
      rfl
    · rfl
  unfold ackAfter
  dsimp only
  split
  · split
    · exact hshort
    · rw [ackOf_vec0, hshort]
  · exact hshort

theorem ackOne_of_accepted {s : State} {id w : Word}
    (h : ackAccepts (ackOf (edgesSeen s (ackHome s id)) (ackHome s id)) w = true) :
    ackOne s id w = (ackAfter (setAck (edgesSeen s (ackHome s id)) (ackHome s id)
      { ackOf (edgesSeen s (ackHome s id)) (ackHome s id) with a := w }) (ackHome s id), true) := if_pos h

theorem ackOne_of_ignored {s : State} {id w : Word}
    (h : ackAccepts (ackOf (edgesSeen s (ackHome s id)) (ackHome s id)) w = false) :
    ackOne s id w = (count (edgesSeen s (ackHome s id)) 6 0 0x02 0, false) := if_neg (ne_true_of_eq_false h)

theorem edgesSeen_of_ne {s : State} {id : Word} (h : idFam id ≠ 0x63) : edgesSeen s id = s := if_neg h

/-- Settles O21: a write is accepted or ignored by `ackAccepts`, on the count of the ID's home as a read finds it. -/
theorem acknowledgeByCount : Obligations.AcknowledgeByCount := by
  unfold Obligations.AcknowledgeByCount
  refine ⟨fun s id w => ⟨rfl, fun hack => ?read, fun hle => ?accepted, fun hgt => ?ignored⟩,
    fun x => ⟨fun hroom => if_neg hroom, fun hfull => if_pos hfull⟩⟩
  case read => rw [readParam, hack]
  case accepted =>
    rw [ackOne_of_accepted (decide_eq_true hle)]
    refine ⟨rfl, rfl, fun hstill => ?_⟩
    rw [ackOf_ackAfter, ackOf_setAck]
    by_cases hfam : idFam (ackHome s id) = 0x14
    · rw [edgesSeen_of_ne (by rw [hfam]; decide)]
      exact hstill
    · exact .inl hfam
  case ignored =>
    rw [ackOne_of_ignored (decide_eq_false (Nat.not_le.mpr hgt))]
    exact ⟨rfl, edgesSeen_host _ _, ackOf_count_other _ _ _ _ _ _, rfl⟩

end Sys2Proof.Acknowledgement
end

section
/-! Fast status blocks and the BAR0 window (R96 to R99, R530 to R534, R543). -/

namespace Sys2Proof.ControlWindow

open Sys2Proof Sys2Proof.Machine

/-! ### Fast status (R96, R97, R532) -/

/-- A block that is due and whose contents have changed, once it is rewritten. -/
theorem fsRewrite_of_due {s : State} {k : FsBlock} (hdue : (fsAt s k).notBefore ≤ s.tide)
    (hchanged : (fsAt s k).words ≠ fsContents s k) :
    fsRewrite s k = { s with fast := tabSet s.fast (fsKey k) { fsAt s k with
      seq := (fsAt s k).seq + 1, notBefore := s.tide + usTc 8, words := fsContents s k } } :=
  if_neg (by simp [hdue, hchanged])

/-- The header of a block that shows the contents of a state carries its generation. -/
theorem fsRead_generation {s t : State} {k : FsBlock} (h : (fsAt t k).words = fsContents s k) :
    fsRead t k 8 = s.par.generation := by
  simp [fsRead, h, fsContents]

/-- Settles O33: the rewrite takes the contents of this instant, which carry the generation. -/
theorem fastStatus : Obligations.FastStatus := by
  unfold Obligations.FastStatus
  intro s k hdue hchanged
  have hblock : fsAt (fsRewrite s k) k = { fsAt s k with
      seq := (fsAt s k).seq + 1, notBefore := s.tide + usTc 8, words := fsContents s k } := by
    rw [fsRewrite_of_due hdue hchanged]
    exact tabGet_tabSet_same _ _ _ _
  refine ⟨fsRewrite s k, rfl, by rw [hblock], by rw [hblock]; rfl, by rw [hblock],
    fsRead_generation (by rw [hblock]), ?_⟩
  rw [fsRewrite_of_due hdue hchanged]
  exact ⟨rfl, rfl, rfl⟩

/-! ### Writes to BAR0 (R531, R534, R543) -/

theorem exec_ackMirrorWrite {s : State} {off : Nat} (w : Word) (hreach : barReach s = true) (hin : off < bar0Size) :
    exec (.ackMirrorWrite off w) s =
      .next (noteDiscard (if off % 4 = 0 then bar0Word (wakeLink s) off w else (wakeLink s, discardAt off))) := by
  change execAckMirrorWrite off w s = _
  rw [execAckMirrorWrite, if_neg (Nat.not_le.mpr hin), Rings.onBar_of_reach hreach]

theorem exec_ackMirrorWrite_word {s : State} {off : Nat} (w : Word) (hreach : barReach s = true) (hin : off < bar0Size)
    (halign : off % 4 = 0) :
    exec (.ackMirrorWrite off w) s = .next (noteDiscard (bar0Word (wakeLink s) off w)) := by
  rw [exec_ackMirrorWrite w hreach hin, if_pos halign]

/-- Beyond the rings' words every word is a mirror's or reserved. -/
theorem bar0Word_of_mirror {off : Nat} (s : State) (w : Word) (hoff : 0x2100 ≤ off) :
    bar0Word s off w = mirrorWrite s off w := by
  rw [bar0Word, if_neg (by omega), if_neg (by omega), if_neg (by omega), if_neg (by omega)]

theorem mirrorWrite_of_ackable {off : Nat} {id : Word} (s : State) (w : Word) (hid : mirrorAt off = some id)
    (hack : ackable id = true) : mirrorWrite s off w = ((ackOne s id w).1, .none) := by
  simp [mirrorWrite, hid, hack]

theorem mirrorWrite_of_discarded {off : Nat} (s : State) (w : Word)
    (hnone : ∀ id, mirrorAt off = some id → ackable id = false) : mirrorWrite s off w = (s, .bar0) := by
  unfold mirrorWrite
  split
  · next id hid => rw [if_neg (ne_true_of_eq_false (hnone id hid))]
  · rfl

theorem exec_bar0Write {s : State} {off : Nat} {data : List Byte} (poisoned : Bool) (hreach : barReach s = true)
    (hin : off + data.length ≤ bar0Size) :
    exec (.bar0Write off data poisoned) s =
      .next (if poisoned then countDiscard (wakeLink s) .bar0 else bar0Access (wakeLink s) off data) := by
  change execBar0Write off data poisoned s = _
  rw [execBar0Write, if_neg (Nat.not_lt.mpr hin), Rings.onBar_of_reach hreach]

/-- An access that is neither an aligned word nor an aligned pair (R531). -/
theorem bar0Access_of_odd {off : Nat} {data : List Byte} (s : State) (hword : ¬(off % 4 = 0 ∧ data.length = 4))
    (hpair : ¬(off % 8 = 0 ∧ data.length = 8)) : bar0Access s off data = countDiscard s (discardAt off) := by
  rw [bar0Access, if_neg (by simpa using hword), if_neg fun h => hpair (by simp_all), if_neg (by simpa using hpair)]

/-! ### Reads of BAR0 (R98, R99) -/

/-- What BAR0 shows does not depend on the link's L1. -/
theorem bar0Value_wakeLink (s : State) (off : Nat) : bar0Value (wakeLink s) off = bar0Value s off := rfl

theorem exec_counterLowRead {s : State} {off len : Nat} (hreach : barReach s = true) (hin : off < bar0Size)
    (hend : off + len ≤ bar0Size) :
    exec (.counterLowRead ⟨off, len⟩) s = .next (bar0Read (wakeLink s) off len) := by
  change execCounterLowRead ⟨off, len⟩ s = _
  rw [execCounterLowRead, if_neg (by simp [hin, hend]), Rings.onBar_of_reach hreach]

theorem bar0Read_word {off : Nat} (s : State) (halign : off % 4 = 0) : bar0Read s off 4 = bar0ReadWord s off :=
  if_pos (by simp [halign])

/-- The low word of a 64-bit quantity is read, and its high word latched. -/
theorem bar0ReadWord_low {s : State} {off : Nat} (hlow : isLow64 off = true) :
    bar0ReadWord s off = readOut { s with host := { s.host with
      latch := tabSet s.host.latch (off + 4) (bar0Value s (off + 4)) } } (leBytes 4 (bar0Value s off).toNat) 0 :=
  if_pos hlow

/-- The word behind a low word is read from the latch. -/
theorem bar0ReadWord_high {s : State} {off : Nat} (hlow : isLow64 off = false) (hfour : 4 ≤ off)
    (hhigh : isLow64 (off - 4) = true) :
    bar0ReadWord s off = readOut s (leBytes 4 (tabGet 0 s.host.latch off).toNat) 0 := by
  rw [bar0ReadWord, if_neg (ne_true_of_eq_false hlow), if_pos ⟨hfour, hhigh⟩]

/-- Any other word is read as it stands. -/
theorem bar0ReadWord_single {s : State} {off : Nat} (hlow : isLow64 off = false)
    (hhigh : 4 ≤ off → isLow64 (off - 4) = false) :
    bar0ReadWord s off = readOut s (leBytes 4 (bar0Value s off).toNat) 0 := by
  rw [bar0ReadWord, if_neg (ne_true_of_eq_false hlow), if_neg fun h => ne_true_of_eq_false (hhigh h.1) h.2]

theorem bar0ReadWord_status (s : State) (off : Nat) : (bar0ReadWord s off).out.status = 0 := by
  unfold bar0ReadWord
  split
  · rfl
  · split <;> rfl

/-- Settles O26, access by access. -/
theorem controlWindow : Obligations.ControlWindow := by
  unfold Obligations.ControlWindow
  intro s off w hreach hoff
  have hin : off < bar0Size := hoff
  refine ⟨⟨_, exec_ackMirrorWrite w hreach hin, rfl⟩, fun id hblock halign hid hack => ?mirror,
    fun hbeyond halign hnone => ⟨?discarded, ?discardedWrite⟩, fun hodd => ?odd,
    fun data hend => ⟨exec_bar0Write true hreach hend, fun hword hpair => ?oddWrite⟩, fun halign => ?word,
    fun halign => ?pair, fun len hend hword hpair => ?oddRead, fun o len hpast => ⟨if_pos ?pastRead, if_pos hpast⟩⟩
  case mirror =>
    rw [exec_ackMirrorWrite_word w hreach hin halign, bar0Word_of_mirror _ w (by omega),
      mirrorWrite_of_ackable _ w hid hack, Rings.noteDiscard_none]
  case discarded =>
    rw [exec_ackMirrorWrite_word w hreach hin halign, bar0Word_of_mirror _ w hbeyond,
      mirrorWrite_of_discarded _ w hnone]
    rfl
  case discardedWrite =>
    rw [Rings.exec_bar0Write_word w hreach halign (by simp only [bar0Size]; omega), bar0Word_of_mirror _ w hbeyond,
      mirrorWrite_of_discarded _ w hnone]
    rfl
  case odd =>
    rw [exec_ackMirrorWrite w hreach hin, if_neg hodd]
    rfl
  case oddWrite =>
    rw [exec_bar0Write false hreach hend, if_neg Bool.false_ne_true, bar0Access_of_odd _ hword hpair]
  case word =>
    refine ⟨_, exec_counterLowRead hreach hin (by simp only [bar0Size]; omega), ?_⟩
    rw [bar0Read_word _ halign]
    refine ⟨bar0ReadWord_status _ _, fun hlow => ?_, fun hlow hfour hhigh => ?_, fun hlow hhigh => ?_⟩
    · rw [bar0ReadWord_low hlow]
      exact ⟨rfl, tabGet_tabSet_same _ _ _ _⟩
    · rw [bar0ReadWord_high hlow hfour hhigh]
      rfl
    · rw [bar0ReadWord_single hlow hhigh]
      rfl
  case pair =>
    rw [exec_counterLowRead hreach hin (by simp only [bar0Size]; omega), bar0Read, if_neg (by simp),
      if_pos (by simp [halign]), bar0Value_wakeLink, bar0Value_wakeLink]
  case oddRead =>
    rw [exec_counterLowRead hreach hin hend, bar0Read, if_neg (by simpa using hword), if_neg (by simpa using hpair)]
  case pastRead =>
    have hbeyond : bar0Size ≤ o := hpast
    simp [hbeyond]

end Sys2Proof.ControlWindow
end

section
/-! Chain bakes: ARM, READY, GO and CANCEL (R92, R93, R363, R384). -/

namespace Sys2Proof.ChainBakes

open Sys2Proof Sys2Proof.Machine

/-! ### What has left stays (R355, R363) -/

theorem mem_sent_sendRaw (s : State) (x : Sent) : x ∈ (sendRaw s x).out.sent :=
  List.mem_append_right _ (List.mem_singleton_self x)

theorem sent_subset_sendRaw (s : State) (x : Sent) : s.out.sent ⊆ (sendRaw s x).out.sent :=
  List.subset_append_left _ _

/-- Where no application takes back what has left, all of them do not. -/
theorem sent_subset_foldl {α : Type} (f : State → α → State) (hf : ∀ s x, s.out.sent ⊆ (f s x).out.sent) (s : State)
    (xs : List α) : s.out.sent ⊆ (xs.foldl f s).out.sent := by
  induction xs generalizing s with
  | nil => exact List.Subset.refl _
  | cons x xs ih => exact List.Subset.trans (hf s x) (ih _)

theorem sent_subset_putFrame (s : State) (p : Nat) (b : FrameBody) : s.out.sent ⊆ (putFrame s p b).out.sent :=
  fun _ => Tides.mem_sent_putFrame p b

theorem sent_subset_sendFrame (s : State) (port : Option Nat) (b : FrameBody) :
    s.out.sent ⊆ (send s (.frame port b)).out.sent := by
  cases port with
  | some p => exact sent_subset_putFrame s p b
  | none =>
    exact forAll_keeps (fun t => s.out.sent ⊆ t.out.sent) _
      (fun t p ht => List.Subset.trans ht (sent_subset_putFrame t p b)) s _ (List.Subset.refl _)

theorem release_out (s : State) (c : Cmd) : (release s c).out = s.out := by
  have hbanks (t : State) : (fillOver t c).out = t.out := by
    unfold fillOver
    split <;> rfl
  unfold release
  dsimp only
  rw [Replies.foldl_freeCtx_only]
  split <;> exact hbanks _

theorem releaseIf_out (s : State) (counted : Bool) (c : Cmd) : (releaseIf s counted c).out = s.out := by
  cases counted with
  | false => rfl
  | true => exact release_out s c

/-- A reply into a ring puts nothing on the chain. -/
theorem postReply_out (s : State) (c : Cmd) (counted : Bool) (r : Reply) (result : List Byte) :
    (postReply s c counted r result).out = s.out := by
  have hrelease := releaseIf_out s counted c
  unfold postReply
  dsimp only
  split
  · exact hrelease
  split
  · rw [writeReply_only]
    exact hrelease
  split
  · exact hrelease
  · rfl

theorem sent_subset_answerChain (s : State) (c : Cmd) (r : Reply) (result : List Byte) :
    s.out.sent ⊆ (answerChain s c r result).out.sent := by
  unfold answerChain
  refine List.Subset.trans ?_ (sent_subset_sendFrame _ _ _)
  split
  · exact List.Subset.refl _
  · exact sent_subset_sendFrame _ _ _

theorem sent_subset_postTo (s : State) (c : Cmd) (counted : Bool) (r : Reply) (result : List Byte) :
    s.out.sent ⊆ (postTo s c counted r result).out.sent := by
  unfold postTo
  split
  · rw [← releaseIf_out s counted c]
    exact sent_subset_answerChain _ _ _ _
  · rw [postReply_out]
    exact List.Subset.refl _

theorem sent_subset_postWaiting (s : State) (u : Unposted) : s.out.sent ⊆ (postWaiting s u).out.sent := by
  unfold postWaiting
  split
  · exact List.Subset.refl _
  · refine List.Subset.trans ?_ (sent_subset_postTo _ _ _ _ _)
    exact List.Subset.refl _

theorem sent_subset_postFollowing (s : State) : s.out.sent ⊆ (postFollowing s).out.sent :=
  forAll_keeps (fun t => s.out.sent ⊆ t.out.sent) _
    (fun t _ ht => List.Subset.trans ht (sent_subset_foldl _ sent_subset_postWaiting t t.unposted)) s _
    (List.Subset.refl _)

theorem sent_subset_postOrdered (s : State) (c : Cmd) (r : Reply) (result : List Byte) :
    s.out.sent ⊆ (postOrdered s c r result).out.sent := by
  unfold postOrdered postInOrder
  split
  · exact List.Subset.refl _
  · exact List.Subset.trans (sent_subset_postTo _ _ _ _ _) (sent_subset_postFollowing _)

theorem sent_subset_finish (s : State) (c : Cmd) (status : Nat) (d result : List Byte) :
    s.out.sent ⊆ (finish s c status d result).out.sent := by
  unfold finish
  dsimp only
  refine List.Subset.trans ?_ (sent_subset_postOrdered _ _ _ _)
  generalize (if status = stOk ∧ c.hdr.defer = true then stOkDeferred else status) = st
  split <;> exact List.Subset.refl _

/-- The end of a command takes back nothing that has left. -/
theorem sent_subset_complete (s : State) (c : Cmd) (status : Nat) (d result : List Byte) :
    s.out.sent ⊆ (complete s c status d result).out.sent := by
  unfold complete
  split
  · exact sent_subset_finish _ _ _ _ _
  · exact List.Subset.refl _

/-! ### A bake that ends without loading (R20, R384) -/

/-- A property that a calibration's record and its own bake keep holds once its steps are ready again. -/
theorem calReadyAgain_keeps (p : State → Prop) (hmod : ∀ s b f, p s → p (modCal s b f))
    (hschedule : ∀ s b, p s → p (calSchedule s b)) {s : State} (h : p s) : p (calReadyAgain s) := by
  have hown (t : State) (b : Nat) (ht : p t) : p (calOwn t b) := by
    unfold calOwn
    split
    · exact hschedule t b ht
    · exact ht
  exact forAll_keeps p _ hown _ _ (forAll_keeps p _ (fun t b ht => hmod t b _ ht) s _ h)

/-- What calibration steps that become ready again may change: the berths, and the pending bake. -/
def onlySchedules (s t : State) : Prop :=
  t = { s with berth := t.berth, par := { s.par with pendBake := t.par.pendBake } }

theorem onlySchedules_trans {s t u : State} (h : onlySchedules s t) (k : onlySchedules t u) : onlySchedules s u := by
  rw [onlySchedules] at h k ⊢
  rw [k, h]

theorem onlySchedules_calSchedule (s : State) (b : Nat) : onlySchedules s (calSchedule s b) := by
  unfold calSchedule
  split <;> rfl

theorem onlySchedules_calReadyAgain (s : State) : onlySchedules s (calReadyAgain s) :=
  calReadyAgain_keeps (onlySchedules s) (fun _ _ _ h => onlySchedules_trans h rfl)
    (fun t b h => onlySchedules_trans h (onlySchedules_calSchedule t b)) rfl

/-- No bake is pending but a calibration's own. -/
def onlyCalBake (s : State) : Prop := ∀ b, s.par.pendBake = some b → b.cal.isSome = true

theorem onlyCalBake_of_none {s : State} (h : s.par.pendBake = none) : onlyCalBake s := by
  intro b hb
  rw [h] at hb
  exact absurd hb nofun

theorem onlyCalBake_calSchedule {s : State} (b : Nat) (h : onlyCalBake s) : onlyCalBake (calSchedule s b) := by
  unfold calSchedule
  split
  · intro p hp
    obtain rfl := Option.some.inj hp
    rfl
  · exact h

/-- A bake that is dropped loads nothing, and only a calibration's own bake can take its place. -/
theorem bakeDrop_spec (s : State) : onlyCalBake (bakeDrop s) ∧ (bakeDrop s).par.baked = s.par.baked ∧
    (bakeDrop s).par.generation = s.par.generation ∧ (bakeDrop s).out = s.out ∧ (bakeDrop s).tide = s.tide := by
  refine ⟨calReadyAgain_keeps onlyCalBake (fun _ _ _ h => h) (fun _ b => onlyCalBake_calSchedule b)
    (onlyCalBake_of_none rfl), ?_⟩
  have hframe := onlySchedules_calReadyAgain
    { s with par := { s.par with pendBake := none, shadow := [], comparators := [] } }
  rw [bakeDrop, hframe]
  exact ⟨rfl, rfl, rfl, rfl⟩

/-- A bake that ends with a fault, of a BAKE of this device or not. -/
theorem bakeFaultEnd_spec (s : State) (p : PendBake) (v : Verdict) :
    let t := bakeFaultEnd s p v
    onlyCalBake t ∧ t.par.generation = s.par.generation ∧ s.out.sent ⊆ t.out.sent ∧ t.tide = s.tide := by
  obtain ⟨hpend, -, hgeneration, hout, htide⟩ := bakeDrop_spec s
  have hsent : s.out.sent ⊆ (bakeDrop s).out.sent := by rw [hout]; exact List.Subset.refl _
  unfold bakeFaultEnd
  dsimp only
  split
  · next c _ =>
    have hpar : (completeV (count (bakeDrop s) 6 0 0x01 4) c v).par = (bakeDrop s).par :=
      Parameters.complete_par _ c v.1 v.2 []
    refine ⟨fun b hb => hpend b (by rwa [hpar] at hb), by rw [hpar, hgeneration],
      List.Subset.trans hsent (sent_subset_complete (count (bakeDrop s) 6 0 0x01 4) c v.1 v.2 []), ?_⟩
    exact (Crossings.complete_tide _ c v.1 v.2 []).trans htide
  · exact ⟨hpend, hgeneration, hsent, htide⟩

/-! ### READY travels up (R92) -/

@[simp] theorem readyUp_par (s : State) : (readyUp s).par = s.par := by
  unfold readyUp
  split
  · split <;> rfl
  · rfl

theorem sent_subset_readyUp (s : State) : s.out.sent ⊆ (readyUp s).out.sent := by
  unfold readyUp
  split
  · split
    · exact sent_subset_sendRaw _ _
    · exact List.Subset.refl _
  · exact List.Subset.refl _

/-- A follower that holds every READY of its ports sends its own. -/
theorem readyUp_sends {s : State} {p : PendBake} (hp : s.par.pendBake = some p) (hchain : p.chain = true)
    (htag : p.tag = none) (hall : p.wanted.all (fun q => p.ready.contains q) = true) :
    Sent.signal (some s.chain.upPort) (.bakeReady (i36Of p.instant)) ∈ (readyUp s).out.sent := by
  have hready : readyUp s = upSignal s (.bakeReady (i36Of p.instant)) := by
    simp only [readyUp, hp, hchain, htag, hall]
    rfl
  rw [hready]
  exact mem_sent_sendRaw _ _

/-! ### BAKE_ARM (R92, R384) -/

/-- A calibration's own bake is withdrawn. -/
def withdrawn (s : State) : State := if calBakePend s then { s with par := { s.par with pendBake := none } } else s

theorem withdrawn_of_cal {s : State} (h : calBakePend s = true) :
    withdrawn s = { s with par := { s.par with pendBake := none } } := if_pos h

theorem withdrawn_of_none {s : State} (h : calBakePend s = false) : withdrawn s = s := if_neg (ne_true_of_eq_false h)

theorem withdrawn_frame (s : State) : (withdrawn s).out = s.out ∧ (withdrawn s).par.generation = s.par.generation ∧
    (withdrawn s).par.baked = s.par.baked := by
  unfold withdrawn
  split <;> exact ⟨rfl, rfl, rfl⟩

/-- A calibration's own bake does not keep a follower from preparing. -/
theorem canPrepare_withdrawn (s : State) (i tray : Nat) : canPrepare (withdrawn s) i tray = canPrepare s i tray := by
  unfold withdrawn
  split
  · next hcal =>
    have huser : userBakePending s = false := by
      unfold calBakePend at hcal
      unfold userBakePending
      split
      · next p hp => simpa [hp] using hcal
      · rfl
    have hnone : userBakePending { s with par := { s.par with pendBake := none } } = false := rfl
    rw [canPrepare, canPrepare, huser, hnone]
    rfl
  · rfl

/-- To copy a SIGNAL down leaves the pending bake. -/
theorem calBakePend_copyDown (s : State) (x : Signal) : calBakePend (copyDown s x) = calBakePend s := rfl

/-- The chain bake that a follower arms, without its GO (R92). -/
def armedBake (s : State) (i tray : Nat) : PendBake :=
  { instant := i, tray := tray, chain := true, go := false, wanted := downPorts s }

/-- A follower that an arm has reached: it has copied it down, and a calibration's own bake is withdrawn. -/
def armCopied (s : State) (i36 tray : Nat) : State := withdrawn (copyDown s (.bakeArm i36 tray))

theorem armCopied_spec (s : State) (i36 tray : Nat) :
    Sent.signal none (.bakeArm i36 tray) ∈ (armCopied s i36 tray).out.sent ∧
      (armCopied s i36 tray).par.generation = s.par.generation ∧ (armCopied s i36 tray).par.baked = s.par.baked := by
  obtain ⟨hout, hgeneration, hbaked⟩ := withdrawn_frame (copyDown s (.bakeArm i36 tray))
  refine ⟨?_, hgeneration, hbaked⟩
  rw [armCopied, hout]
  exact mem_sent_sendRaw _ _

/-- BAKE_ARM at a follower. -/
theorem exec_bakeArm {s : State} (i36 : BitVec 36) (tray : Fin 8) (hfollower : isFollower s = true) :
    exec (.bakeArm i36 tray) s = .next (if canPrepare s (expand36 s i36.toNat) tray.val then
        readyUp { armCopied s i36.toNat tray.val with par := { (armCopied s i36.toNat tray.val).par with
          shadow := [], pendBake := some (armedBake s (expand36 s i36.toNat) tray.val) } }
      else if calBakePend s then calReadyAgain (armCopied s i36.toNat tray.val)
      else armCopied s i36.toNat tray.val) := by
  have hprepare : canPrepare (armCopied s i36.toNat tray.val) (expand36 s i36.toNat) tray.val =
      canPrepare s (expand36 s i36.toNat) tray.val := canPrepare_withdrawn _ _ _
  have hports : downPorts (armCopied s i36.toNat tray.val) = downPorts s := by
    unfold armCopied withdrawn
    split <;> rfl
  rw [← hprepare, armedBake, ← hports]
  change execBakeArm i36 tray s = _
  rw [execBakeArm, hfollower]
  rfl

/-- A follower that can prepare arms the tray and copies the arm down. -/
theorem exec_bakeArm_prepares {s : State} {i36 : BitVec 36} {tray : Fin 8} (hfollower : isFollower s = true)
    (hcan : canPrepare s (expand36 s i36.toNat) tray.val = true) :
    ∃ t, exec (.bakeArm i36 tray) s = .next t ∧
      t.par.pendBake = some (armedBake s (expand36 s i36.toNat) tray.val) ∧
      Sent.signal none (.bakeArm i36.toNat tray.val) ∈ t.out.sent ∧ t.par.generation = s.par.generation ∧
      t.par.baked = s.par.baked := by
  obtain ⟨hcopied, hgeneration, hbaked⟩ := armCopied_spec s i36.toNat tray.val
  have hexec := exec_bakeArm i36 tray hfollower
  rw [if_pos hcan] at hexec
  refine ⟨_, hexec, ?_, sent_subset_readyUp _ hcopied, ?_, ?_⟩
  · rw [readyUp_par]
  · rw [readyUp_par]
    exact hgeneration
  · rw [readyUp_par]
    exact hbaked

/-! ### BAKE_READY, BAKE_GO and BAKE_CANCEL (R92, R93) -/

section named

variable {s : State} {b : PendBake} {i36 : BitVec 36} (hb : s.par.pendBake = some b)
  (hnamed : bakeNamed b i36.toNat = true)
include hb hnamed

/-- READY at the pilot. -/
theorem exec_bakeReady_pilot (p : Fin 4) (hpilot : isFollower s = false) :
    exec (.bakeReady p i36) s = .next (if b.instant < s.tide + 1600 then s
      else { s with par := { s.par with pendBake := some { b with ready := b.ready ++ portDevices s p.val } } }) := by
  change execBakeReady p i36 s = _
  simp [execBakeReady, hb, hnamed, hpilot]

/-- READY at a follower. -/
theorem exec_bakeReady_follower (p : Fin 4) (hfollower : isFollower s = true) :
    exec (.bakeReady p i36) s = .next (if b.ready.contains p.val then s
      else readyUp { s with par := { s.par with pendBake := some { b with ready := b.ready ++ [p.val] } } }) := by
  change execBakeReady p i36 s = _
  simp [execBakeReady, hb, hnamed, hfollower]

theorem exec_bakeGo (hfollower : isFollower s = true) :
    exec (.bakeGo i36) s = .next { copyDown s (.bakeGo i36.toNat) with
      par := { s.par with pendBake := some { b with go := true } } } := by
  have hcopied : (copyDown s (.bakeGo i36.toNat)).par.pendBake = some b := hb
  change execBakeGo i36 s = _
  simp only [execBakeGo, hfollower, hcopied, hnamed]
  rfl

theorem exec_bakeCancel (hfollower : isFollower s = true) :
    exec (.bakeCancel i36) s = .next (bakeDrop (copyDown s (.bakeCancel i36.toNat))) := by
  have hcopied : (copyDown s (.bakeCancel i36.toNat)).par.pendBake = some b := hb
  change execBakeCancel i36 s = _
  simp only [execBakeCancel, hfollower, hcopied, hnamed]
  rfl

end named

/-! ### The pilot's decision (R92, R93) -/

/-- The pilot sends GO where every READY is held in time, and CANCEL otherwise. -/
theorem exec_chainBakeDecision {s : State} {p : PendBake} (hp : s.par.pendBake = some p) (hchain : p.chain = true)
    (hgo : p.go = false) (htag : p.tag.isSome = true) :
    exec .chainBakeDecision s = .next (if p.armed && s.tide + 1600 ≤ p.instant &&
          p.wanted.all fun i => p.ready.contains i then
        { sendRaw s (.signal none (.bakeGo (i36Of p.instant))) with
          par := { s.par with pendBake := some { p with go := true } } }
      else chainCancel (reach s (p.instant - 1600)) p) := by
  change execChainBakeDecision s = _
  simp only [execChainBakeDecision, hp, hchain, hgo, htag]
  rfl

theorem chainCancel_spec (s : State) (p : PendBake) :
    let t := chainCancel s p
    onlyCalBake t ∧ t.par.generation = s.par.generation ∧ t.tide = s.tide ∧
      Sent.signal none (.bakeCancel (i36Of p.instant)) ∈ t.out.sent := by
  obtain ⟨hpend, hgeneration, hsent, htide⟩ := bakeFaultEnd_spec
    (sendRaw s (.signal none (.bakeCancel (i36Of p.instant)))) p
    (hwFault 0x10 (((s.chain.index :: p.wanted).filter fun i => !p.ready.contains i).min?.getD 0))
  exact ⟨hpend, hgeneration, htide, hsent (mem_sent_sendRaw _ _)⟩

/-- Settles O35, SIGNAL by SIGNAL and then the decision. -/
theorem chainBakeSignals : Obligations.ChainBakeSignals := by
  unfold Obligations.ChainBakeSignals
  refine ⟨fun s i36 tray hfollower => ⟨exec_bakeArm_prepares hfollower, fun hcannot hcal => ?silent,
      fun hcannot hcal => ?withdraws⟩,
    fun s p b i36 hb hnamed hpilot => ⟨fun hearly => ?readyAtPilot, fun hlate => ?readyLate⟩,
    fun s p b i36 hb hnamed hfollower => ⟨fun hheld => ?readyAgain, fun hnew => ?readyNew⟩,
    fun s b i36 hb hnamed hfollower => ⟨?go, ?cancel⟩,
    fun s p hp hchain hgo htag => ⟨fun hdecides => ?decidesGo, fun hdecides hrange => ?decidesCancel⟩⟩
  case silent =>
    rw [exec_bakeArm i36 tray hfollower, hcannot, hcal, armCopied,
      withdrawn_of_none ((calBakePend_copyDown _ _).trans hcal)]
    rfl
  case withdraws =>
    rw [exec_bakeArm i36 tray hfollower, hcannot, hcal, armCopied,
      withdrawn_of_cal ((calBakePend_copyDown _ _).trans hcal)]
    rfl
  case readyAtPilot => rw [exec_bakeReady_pilot hb hnamed p hpilot, if_neg (Nat.not_lt.mpr hearly)]
  case readyLate => rw [exec_bakeReady_pilot hb hnamed p hpilot, if_pos hlate]
  case readyAgain => rw [exec_bakeReady_follower hb hnamed p hfollower, if_pos hheld]
  case readyNew =>
    have hchain : b.chain = true := (Bool.and_eq_true_iff.mp hnamed).1
    have hexec := exec_bakeReady_follower hb hnamed p hfollower
    rw [if_neg (ne_true_of_eq_false hnew)] at hexec
    exact ⟨_, hexec, by rw [readyUp_par], fun htag hall =>
      readyUp_sends (p := { b with ready := b.ready ++ [p.val] }) rfl hchain htag hall⟩
  case go => exact ⟨_, exec_bakeGo hb hnamed hfollower, rfl, mem_sent_sendRaw _ _, rfl⟩
  case cancel =>
    obtain ⟨hpend, hbaked, hgeneration, -⟩ := bakeDrop_spec (copyDown s (.bakeCancel i36.toNat))
    exact ⟨_, exec_bakeCancel hb hnamed hfollower, hpend, hbaked, hgeneration⟩
  case decidesGo =>
    have hexec := exec_chainBakeDecision hp hchain hgo htag
    rw [if_pos (by simpa [and_assoc] using hdecides)] at hexec
    exact ⟨_, hexec, rfl, mem_sent_sendRaw _ _⟩
  case decidesCancel =>
    obtain ⟨hpend, hgeneration, htide, hsent⟩ := chainCancel_spec (reach s (p.instant - 1600)) p
    have hexec := exec_chainBakeDecision hp hchain hgo htag
    rw [if_neg (by simpa [and_assoc] using hdecides)] at hexec
    refine ⟨_, hexec, hpend, ?_, hgeneration, hsent⟩
    have hmod : (p.instant - 1600) % 2 ^ 64 = p.instant - 1600 := Nat.mod_eq_of_lt (by omega)
    rw [htide, reach, hmod]
    exact Nat.le_max_right _ _

end Sys2Proof.ChainBakes
end

section
/-! Results of a burst: failing compares, RESULT_DONE, spills of the fail log and of the captures, and the upload's
snapshot and missing parts (R124, R302 to R313). -/

namespace Sys2Proof.Results

open Sys2Proof Sys2Proof.Machine Sys2Proof.Standing Sys2Proof.Crossings Sys2Proof.Channels

/-! ### Fail capture of a berth -/

@[simp] theorem fc_modFc (s : State) (b : Nat) (f : Fc → Fc) :
    (berthAt (modFc s b f) b).fc = f (berthAt s b).fc := by rw [modFc, berthAt_modBerth]

theorem berthAt_modFc_other (s : State) {b k : Nat} (f : Fc → Fc) (h : k ≠ b) :
    berthAt (modFc s b f) k = berthAt s k := berthAt_modBerth_other _ _ h

/-- What spills, outcomes and log entries may change: the berths, the counts and the hold. -/
def OnlyLogs (s t : State) : Prop := t = { s with berth := t.berth, acks := t.acks, hold := t.hold }

theorem OnlyLogs.trans {s t u : State} (h : OnlyLogs s t) (k : OnlyLogs t u) : OnlyLogs s u := by
  rw [OnlyLogs] at h k ⊢
  rw [k, h]

theorem onlyLogs_modFc (s : State) (b : Nat) (f : Fc → Fc) : OnlyLogs s (modFc s b f) := rfl

theorem onlyLogs_forAll {f : State → Nat → State} (hf : ∀ s b, OnlyLogs s (f s b)) (s : State) (bs : List Nat) :
    OnlyLogs s (forAll s bs f) :=
  forAll_keeps (OnlyLogs s) f (fun t b h => h.trans (hf t b)) s bs rfl

/-! ### Spills (R306, R307, R319) -/

theorem spillEntries_only (s : State) (base size first : Nat) (es : List (List Byte)) :
    spillEntries s base size first es = { s with hold := (spillEntries s base size first es).hold } := by
  induction es generalizing s first with
  | nil => rfl
  | cons e es ih =>
    rw [spillEntries, ih]
    rfl

/-- A fail log whose first `n` entries have left the die: with the stack down they leave the total too (log 109). -/
def logSpilt (down : Bool) (n : Nat) (x : Fc) : Fc :=
  if down then setFlag { x with
    log := x.log.drop n, logTotal := x.logTotal - (x.log.take n).length, logRefused := true } fLogLost
  else { x with log := x.log.drop n, logSpilled := x.logSpilled + (x.log.take n).length }

/-- A capture stream whose first `n` entries have left the die. -/
def captureSpilt (down : Bool) (n : Nat) (x : Fc) : Fc :=
  if down then setFlag { x with
    capture := x.capture.drop n, captureTotal := x.captureTotal - (x.capture.take n).length } fCaptureLost
  else { x with capture := x.capture.drop n, captureSpilled := x.captureSpilled + (x.capture.take n).length }

theorem spillLog_only (s : State) (b n : Nat) : ∃ a h, spillLog s b n =
    { modFc s b (logSpilt (stackIsDown s (stackOf (regionBase b))) n) with acks := a, hold := h } := by
  unfold spillLog
  dsimp only
  split
  case isTrue hdown =>
    rw [countN_only, hdown]
    exact ⟨_, _, rfl⟩
  case isFalse hup =>
    rw [countN_only, spillEntries_only, Bool.eq_false_iff.mpr hup]
    exact ⟨_, _, rfl⟩

theorem spillCapture_only (s : State) (b n : Nat) : ∃ a h, spillCapture s b n =
    { modFc s b (captureSpilt (stackIsDown s (stackOf (regionBase b))) n) with acks := a, hold := h } := by
  unfold spillCapture
  dsimp only
  split
  case isTrue hdown =>
    rw [countN_only, hdown]
    exact ⟨_, _, rfl⟩
  case isFalse hup =>
    rw [spillEntries_only, Bool.eq_false_iff.mpr hup]
    exact ⟨_, _, rfl⟩

theorem berth_spillLog (s : State) (b n : Nat) : (spillLog s b n).berth =
    (modFc s b (logSpilt (stackIsDown s (stackOf (regionBase b))) n)).berth := by
  obtain ⟨a, h, hspill⟩ := spillLog_only s b n
  rw [hspill]

theorem onlyLogs_spillLog (s : State) (b n : Nat) : OnlyLogs s (spillLog s b n) := by
  obtain ⟨a, h, hspill⟩ := spillLog_only s b n
  rw [hspill]
  rfl

theorem fc_spillLog (s : State) (b n : Nat) : (berthAt (spillLog s b n) b).fc =
    logSpilt (stackIsDown s (stackOf (regionBase b))) n (berthAt s b).fc := by
  rw [berthAt_congr (berth_spillLog s b n), fc_modFc]

theorem fc_spillCapture (s : State) (b n : Nat) : (berthAt (spillCapture s b n) b).fc =
    captureSpilt (stackIsDown s (stackOf (regionBase b))) n (berthAt s b).fc := by
  obtain ⟨a, h, hspill⟩ := spillCapture_only s b n
  rw [hspill]
  exact fc_modFc s b _

/-- The oldest `n` entries of a fail log leave the die; those that a stack that is down loses leave the total. -/
theorem logSpilt_spec (down : Bool) (n : Nat) (x : Fc) :
    (logSpilt down n x).log = x.log.drop n ∧
      (logSpilt down n x).logTotal = x.logTotal - (if down then (x.log.take n).length else 0) ∧
      (logSpilt down n x).burstNo = x.burstNo := by
  cases down <;> exact ⟨rfl, rfl, rfl⟩

theorem captureSpilt_spec (down : Bool) (n : Nat) (x : Fc) :
    (captureSpilt down n x).capture = x.capture.drop n ∧
      (captureSpilt down n x).captureTotal = x.captureTotal - (if down then (x.capture.take n).length else 0) := by
  cases down <;> exact ⟨rfl, rfl⟩

/-- A spill from the fail log as the log of its berth shows it. -/
theorem spillLog_spec (s : State) (b n : Nat) :
    (berthAt (spillLog s b n) b).fc.log = (berthAt s b).fc.log.drop n ∧
      (berthAt (spillLog s b n) b).fc.logTotal = (berthAt s b).fc.logTotal -
        (if stackIsDown s (stackOf (regionBase b)) then ((berthAt s b).fc.log.take n).length else 0) := by
  rw [fc_spillLog]
  obtain ⟨hlog, htotal, -⟩ := logSpilt_spec (stackIsDown s (stackOf (regionBase b))) n (berthAt s b).fc
  exact ⟨hlog, htotal⟩

theorem spillCapture_spec (s : State) (b n : Nat) :
    (berthAt (spillCapture s b n) b).fc.capture = (berthAt s b).fc.capture.drop n ∧
      (berthAt (spillCapture s b n) b).fc.captureTotal = (berthAt s b).fc.captureTotal -
        (if stackIsDown s (stackOf (regionBase b)) then ((berthAt s b).fc.capture.take n).length else 0) := by
  rw [fc_spillCapture]
  exact captureSpilt_spec _ _ _

/-- A block spills, or what is left of one where no burst's results are open (R306; log 102). -/
theorem exec_failLogSpill {s : State} {b : Fin 64}
    (h : 256 ≤ (berthAt s b).fc.log.length ∨ (quayAt s (quayOfBerth b)).resultsOpen = false) :
    exec (.failLogSpill b) s = .next (spillLog s b 256) := by
  change execFailLogSpill b s = _
  rw [execFailLogSpill, if_pos (by simpa using h)]

theorem exec_failLogSpill_waits {s : State} {b : Fin 64} (hshort : (berthAt s b).fc.log.length < 256)
    (hopen : (quayAt s (quayOfBerth b)).resultsOpen = true) : exec (.failLogSpill b) s = .next s := by
  change execFailLogSpill b s = _
  rw [execFailLogSpill, if_neg (by simp [hopen, hshort])]

/-! ### Failing compares (R302 to R306) -/

/-- An entry for the fail log, taken or refused, counts no failing vector. -/
theorem logEntry_spec (s : State) (b : Nat) (e : List Byte) :
    let t := logEntry s b e
    t = { s with berth := t.berth, acks := t.acks } ∧
      (berthAt t b).fc.failVectors = (berthAt s b).fc.failVectors := by
  unfold logEntry
  dsimp only
  split
  · exact ⟨rfl, by rw [berthAt_count, fc_modFc]; rfl⟩
  split
  · exact ⟨rfl, by rw [berthAt_count, fc_modFc]; rfl⟩
  · exact ⟨rfl, by rw [fc_modFc]⟩

/-- A failing compare counts in its position alone (R303). -/
theorem failOne_spec (b index : Nat) (s : State) (r : PosResult) :
    let t := failOne b index s r
    t = { s with chan := t.chan, berth := t.berth } ∧
      (berthAt t b).fc.failVectors = (berthAt s b).fc.failVectors ∧
      (chanAt t (chanOfPos b r.pos.val)).failCount = bumpSat (chanAt s (chanOfPos b r.pos.val)).failCount ∧
      ∀ c, c ≠ chanOfPos b r.pos.val → chanAt t c = chanAt s c := by
  unfold failOne
  dsimp only
  split
  · exact ⟨rfl, by rw [berthAt_setChan, fc_modFc]; rfl, by rw [chanAt_setChan],
      fun c hc => chanAt_setChan_other _ _ _ _ hc⟩
  · exact ⟨rfl, rfl, by rw [chanAt_setChan], fun c hc => chanAt_setChan_other _ _ _ _ hc⟩

/-- A vector with failing positions counts once, beside the count of each of them (R303, R306). -/
theorem failVector_spec (s : State) (b index : Nat) (seg : Byte) (pass : Nat) (rs : List PosResult) :
    let v := rs.foldl (failOne b index) s
    let t := failVector s b index seg pass rs
    t = { v with berth := t.berth, acks := t.acks } ∧
      (berthAt t b).fc.failVectors = bumpSat (berthAt v b).fc.failVectors := by
  unfold failVector
  dsimp only
  generalize rs.foldl (failOne b index) s = v
  generalize hu : modFc v b _ = u
  have honly : u = { v with berth := u.berth, acks := u.acks } := by
    rw [← hu]
    rfl
  have hcounted : (berthAt u b).fc.failVectors = bumpSat (berthAt v b).fc.failVectors := by
    rw [← hu, fc_modFc]
    dsimp only
    split <;> rfl
  have hlogged (e : List Byte) : logEntry u b e = { v with
      berth := (logEntry u b e).berth, acks := (logEntry u b e).acks } ∧
      (berthAt (logEntry u b e) b).fc.failVectors = bumpSat (berthAt v b).fc.failVectors := by
    obtain ⟨hlog, hsame⟩ := logEntry_spec u b e
    refine ⟨?_, hsame.trans hcounted⟩
    rw [hlog, honly]
  split
  · exact hlogged _
  · split
    · exact hlogged _
    · exact ⟨honly, hcounted⟩
  · exact ⟨honly, hcounted⟩

theorem chanOfPos_ne {j k : Fin 16} (b : Nat) (h : k ≠ j) : chanOfPos b k.val ≠ chanOfPos b j.val := by
  have hval : k.val ≠ j.val := fun he => h (Fin.ext he)
  simp only [chanOfPos, Nat.ne_of_lt k.isLt, Nat.ne_of_lt j.isLt, if_false]
  omega

/-- A compare that fails has a compare code, not one for a masked position or a capture (R107, R302). -/
theorem code_of_fails {r : PosResult} (h : fails r = true) : r.code ≠ 5#4 ∧ r.code ≠ 8#4 := by
  constructor <;> intro hcode <;> simp [fails, hcode] at h

/-- A failing compare whose window has closed, of a vector that has been played. -/
theorem exec_compareResult_fails {s : State} {b : Fin 64} {index : Nat} {seg : Byte} (pass : BitVec 16)
    {r : PosResult} (hopen : (quayAt s (quayOfBerth b)).resultsOpen = true)
    (hmask : natBit (quayAt s (quayOfBerth b)).resultMask (b.val % 4) = true)
    (hplayed : vectorPlayed s (quayOfBerth b) index = true)
    (hseg : (playedEntry s (quayOfBerth b) index).map (·.2) = some seg.toNat) (hdigital : inDigital s b r = true)
    (hfails : fails r = true) (hclosed : windowClosed s b index r = true) :
    exec (.compareResult b index seg pass false [r]) s = .next (failVector
      (noteFails (windowNote s b index [r]) b index false) b index seg pass.toNat [r]) := by
  obtain ⟨hmasked, hcapture⟩ := code_of_fails hfails
  change execCompareResult b index seg pass false [r] s = _
  simp [execCompareResult, hopen, hmask, hplayed, hseg, hdigital, hclosed, hfails, hmasked, hcapture]

/-! ### RESULT_DONE (R309, R310) -/

/-- The bursts that each berth has counted. -/
def burstsOf (s : State) (b : Nat) : Nat := (berthAt s b).fc.burstNo

theorem burstsOf_congr {s t : State} (h : t.berth = s.berth) : burstsOf t = burstsOf s := by
  funext k
  rw [burstsOf, berthAt_congr h, burstsOf]

theorem burstsOf_modFc (s : State) (b : Nat) (f : Fc → Fc)
    (hf : (f (berthAt s b).fc).burstNo = (berthAt s b).fc.burstNo) : burstsOf (modFc s b f) = burstsOf s := by
  funext k
  by_cases hk : k = b
  · rw [hk, burstsOf, fc_modFc, hf, burstsOf]
  · rw [burstsOf, berthAt_modFc_other s f hk, burstsOf]

theorem burstsOf_spillLog (s : State) (b n : Nat) : burstsOf (spillLog s b n) = burstsOf s := by
  obtain ⟨-, -, hsame⟩ := logSpilt_spec (stackIsDown s (stackOf (regionBase b))) n (berthAt s b).fc
  exact (burstsOf_congr (berth_spillLog s b n)).trans (burstsOf_modFc s b _ hsame)

theorem onlyLogs_takeSite (s : State) (q b : Nat) (armed : List Nat) : OnlyLogs s (takeSite s q b armed) := by
  unfold takeSite
  dsimp only
  split <;> rfl

theorem burstsOf_takeSite (s : State) (q b : Nat) (armed : List Nat) :
    burstsOf (takeSite s q b armed) = burstsOf s := by
  unfold takeSite
  dsimp only
  split
  · rfl
  · exact burstsOf_modFc _ _ _ rfl

theorem onlyLogs_takeOutcome (s : State) (q b : Nat) : OnlyLogs s (takeOutcome s q b) := rfl

theorem burstsOf_takeOutcome (s : State) (q b : Nat) : burstsOf (takeOutcome s q b) = burstsOf s := by
  refine burstsOf_modFc _ _ _ ?_
  dsimp only
  split <;> split <;> rfl

/-- A burst's end at one of its berths: it counts, and the berth takes its outcome. -/
def endBurst (q : Nat) (s : State) (b : Nat) : State :=
  takeOutcome (modFc s b fun f => { (if sat32 ≤ f.burstNo then setFlag f fSat else f) with
    burstNo := bumpSat f.burstNo }) q b

/-- What is left of a block of a fail log spills at the end of a burst (log 102). -/
def spillRest (s : State) (b : Nat) : State := if (berthAt s b).fc.log.length < 256 then spillLog s b 256 else s

theorem onlyLogs_spillRest (s : State) (b : Nat) : OnlyLogs s (spillRest s b) := by
  unfold spillRest
  split
  · exact onlyLogs_spillLog s b 256
  · rfl

theorem burstsOf_spillRest (s : State) (b : Nat) : burstsOf (spillRest s b) = burstsOf s := by
  unfold spillRest
  split
  · exact burstsOf_spillLog s b 256
  · rfl

theorem burstsOf_endBurst_same (q : Nat) (s : State) (b : Nat) :
    burstsOf (endBurst q s b) b = bumpSat (burstsOf s b) := by
  rw [endBurst, burstsOf_takeOutcome, burstsOf, fc_modFc, burstsOf]

theorem burstsOf_endBurst_other (q : Nat) (s : State) {b k : Nat} (h : k ≠ b) :
    burstsOf (endBurst q s b) k = burstsOf s k := by
  rw [endBurst, burstsOf_takeOutcome, burstsOf, berthAt_modFc_other s _ h, burstsOf]

theorem burstsOf_endBursts_other (q : Nat) (s : State) {k : Nat} {bs : List Nat} (h : k ∉ bs) :
    burstsOf (forAll s bs (endBurst q)) k = burstsOf s k := by
  induction bs generalizing s with
  | nil => rfl
  | cons b bs ih =>
    obtain ⟨hne, hout⟩ := not_or.mp (mt List.mem_cons.mpr h)
    exact (ih _ hout).trans (burstsOf_endBurst_other q s hne)

/-- Each berth of the burst counts it once. -/
theorem burstsOf_endBursts (q : Nat) (s : State) {k : Nat} {bs : List Nat} (h : k ∈ bs) (hnodup : bs.Nodup) :
    burstsOf (forAll s bs (endBurst q)) k = bumpSat (burstsOf s k) := by
  induction bs generalizing s with
  | nil => exact absurd h List.not_mem_nil
  | cons b bs ih =>
    obtain ⟨hout, hrest⟩ := List.nodup_cons.mp hnodup
    by_cases hk : k = b
    · subst hk
      exact (burstsOf_endBursts_other q _ hout).trans (burstsOf_endBurst_same q s k)
    · have hmem : k ∈ bs := (List.mem_cons.mp h).resolve_left hk
      exact (ih _ hmem hrest).trans (by rw [burstsOf_endBurst_other q s hk])

/-- The berths of a quay that the ended burst was of. -/
def burstBerths (s : State) (q : Nat) : List Nat :=
  (berthsOfQuay q).filter fun b => natBit (quayAt s q).resultMask (b % 4)

theorem nodup_burstBerths (s : State) (q : Nat) : (burstBerths s q).Nodup :=
  List.Nodup.filter _ (by simp [berthsOfQuay])

/-- The results of a burst at its end: outcomes of berths and of sites, and the last blocks of the fail logs. -/
def burstEnded (s : State) (q : Nat) (bs : List Nat) : State :=
  let u := forAll s bs (endBurst q)
  forAll (forAll u (bs.map (leaderOf u)).eraseDups fun s b => takeSite s q b bs) bs spillRest

theorem exec_resultDone {s : State} {q : Fin 16} (hopen : (quayAt s q).resultsOpen = true)
    (hended : (quayAt s q).running = false) : exec (.resultDone q) s = .next
      (modQuay (burstEnded (reach s (resultInstant (quayAt s q))) q (burstBerths s q)) q
        fun y => { y with resultsOpen := false }) := by
  change execResultDone q s = _
  rw [execResultDone, if_pos (by simp [hopen, hended])]
  rfl

theorem onlyLogs_burstEnded (s : State) (q : Nat) (bs : List Nat) : OnlyLogs s (burstEnded s q bs) :=
  ((onlyLogs_forAll (fun t b => (onlyLogs_modFc t b _).trans (onlyLogs_takeOutcome _ q b)) s bs).trans
    (onlyLogs_forAll (fun t b => onlyLogs_takeSite t q b bs) _ _)).trans (onlyLogs_forAll onlyLogs_spillRest _ bs)

theorem burstsOf_burstEnded (s : State) {q k : Nat} {bs : List Nat} (h : k ∈ bs) (hnodup : bs.Nodup) :
    burstsOf (burstEnded s q bs) k = bumpSat (burstsOf s k) := by
  rw [burstEnded, forAll_same burstsOf _ burstsOf_spillRest,
    forAll_same burstsOf _ (fun t b => burstsOf_takeSite t q b bs), burstsOf_endBursts q s h hnodup]

/-! ### The upload (R312, R313) -/

/-- An upload that has no part yet takes this device's at its SnapTide. -/
theorem exec_resultSnapshot {s : State} {c : Cmd} {content : Byte} (halone : s.inflight = [c])
    (hop : c.op = .resultUpload content) (hwork : c.work = .upload [] []) (hown : c.viaChain = false) :
    exec .resultSnapshot s = .next (uploadTake (reach s (snapTide c)) c content) := by
  have hpending : uploadPending s c = some content := by simp [uploadPending, hop, hwork, partTaken, hown]
  change execResultSnapshot s = _
  simp [execResultSnapshot, halone, hpending]

/-- An upload whose missing parts are written as headers, where this device may write (R313; log 29). -/
def partsWritten (s : State) (c : Cmd) (content : Byte) (parts : List (Nat × List Byte)) (waiting : List Nat) :
    State :=
  let u := reach s (snapTide c + usTc 10000)
  if canRequest u then
    writeResult u c.hdr.resultPtr.toNat
      ((uploadBytes (parts ++ waiting.map fun i => (i, missingPart u content i (snapTide c)))).take
        c.hdr.resultLen.toNat)
  else u

theorem exec_resultPartTimeout {s : State} {c : Cmd} {content : Byte} {parts : List (Nat × List Byte)}
    {waiting : List Nat} (halone : s.inflight = [c]) (hop : c.op = .resultUpload content)
    (hwork : c.work = .upload parts waiting) (hmissing : waiting ≠ []) (htaken : partTaken s parts = true) :
    exec .resultPartTimeout s = .next (completeV (partsWritten s c content parts waiting) c
      (hwFault 0x42 ((waiting.min?).getD 0))) := by
  change execResultPartTimeout s = _
  simp [execResultPartTimeout, halone, hop, hwork, hmissing, htaken, partsWritten]

theorem partsWritten_tide (s : State) (c : Cmd) (content : Byte) (parts : List (Nat × List Byte))
    (waiting : List Nat) : (partsWritten s c content parts waiting).tide =
      Nat.max s.tide ((snapTide c + 8000000) % 2 ^ 64) := by
  unfold partsWritten
  dsimp only
  split <;> rfl

theorem partsWritten_hostMem {s : State} (c : Cmd) (content : Byte) (parts : List (Nat × List Byte))
    (waiting : List Nat) (h : canRequest s = true) :
    (partsWritten s c content parts waiting).host.hostMem = memWriteBytes s.host.hostMem c.hdr.resultPtr.toNat
      ((uploadBytes (parts ++ waiting.map fun i => (i, missingPart s content i (snapTide c)))).take
        c.hdr.resultLen.toNat) := by
  have hreach : canRequest (reach s (snapTide c + usTc 10000)) = true := h
  rw [partsWritten, if_pos hreach]
  rfl

/-- Settles O44, event by event. -/
theorem resultEvents : Obligations.ResultEvents := by
  unfold Obligations.ResultEvents
  refine ⟨fun s b index seg pass r hopen hmask hplayed hseg hdigital hfails hclosed => ?compare,
    fun s q hopen hended => ?done,
    fun s b => ⟨fun h => ⟨_, exec_failLogSpill h, spillLog_spec s b 256⟩, exec_failLogSpill_waits,
      ⟨_, rfl, spillCapture_spec s b captureDieEntries⟩⟩,
    fun s c content halone hop => ⟨exec_resultSnapshot halone hop, fun parts waiting hwork hmissing htaken =>
      ⟨_, exec_resultPartTimeout halone hop hwork hmissing htaken, partsWritten_tide _ _ _ _ _,
        partsWritten_hostMem _ _ _ _⟩⟩⟩
  case compare =>
    let v := noteFails (windowNote s b index [r]) b index false
    obtain ⟨honly, hvector⟩ := failVector_spec v b index seg pass.toNat [r]
    obtain ⟨hone, hsame, hposition, hothers⟩ := failOne_spec b index v r
    refine ⟨_, exec_compareResult_fails pass hopen hmask hplayed hseg hdigital hfails hclosed, ?_, ?_, fun k hk => ?_,
      ?_, ?_⟩
    · rw [honly]
      exact hposition
    · exact hvector.trans (congrArg bumpSat hsame)
    · rw [honly]
      exact hothers _ (chanOfPos_ne b hk)
    · rw [honly, List.foldl_cons, hone]
      rfl
    · rw [honly, List.foldl_cons, hone]
      rfl
  case done =>
    let u := burstEnded (reach s (resultInstant (quayAt s q))) q (burstBerths s q)
    have honly : OnlyLogs (reach s (resultInstant (quayAt s q))) u := onlyLogs_burstEnded _ _ _
    have htide : u.tide = Nat.max s.tide (resultInstant (quayAt s q) % 2 ^ 64) := by rw [honly]; rfl
    refine ⟨_, exec_resultDone hopen hended, by rw [modQuay, quayAt_setQuay], ?_, fun b hb hmask => ?_, ?_, ?_⟩
    · exact htide ▸ Nat.le_max_right _ _
    · have hmem : b ∈ burstBerths s q := List.mem_filter.mpr ⟨hb, hmask⟩
      exact burstsOf_burstEnded _ hmem (nodup_burstBerths s q)
    · change u.chan = s.chan
      rw [honly]
      rfl
    · change u.par = s.par
      rw [honly]
      rfl

end Sys2Proof.Results
end

section
/-! Quays over the end of a command: all that it changes of one is which of its banks fill (R145). -/

namespace Sys2Proof.Quays

open Sys2Proof Sys2Proof.Machine

/-! ### Quays without their banks -/

/-- The quays, but for the banks that are filling. -/
def unfilled (s : State) (q : Nat) : Quay := { quayAt s q with filling := [] }

theorem unfilled_congr {s t : State} (h : t.quay = s.quay) : unfilled t = unfilled s := by
  funext q
  rw [unfilled, quayAt, h]
  rfl

/-- The fields of a quay that no end of a command changes. -/
theorem eq_of_unfilled {α : Type} {s t : State} {q : Nat} (h : unfilled t = unfilled s) (field : Quay → α)
    (hfield : ∀ x : Quay, field { x with filling := [] } = field x) : field (quayAt t q) = field (quayAt s q) :=
  calc field (quayAt t q) = field (unfilled t q) := (hfield _).symm
    _ = field (unfilled s q) := by rw [h]
    _ = field (quayAt s q) := hfield _

/-- A table whose entries all change alike, as its default does. -/
theorem tabGet_map {α β : Type} (f : α → β) (d : α) (t : Tab α) (k : Nat) :
    tabGet (f d) (t.map fun e => (e.1, f e.2)) k = f (tabGet d t k) := by
  have hfind : tabFind (t.map fun e => (e.1, f e.2)) k = (tabFind t k).map f := by
    induction t with
    | nil => rfl
    | cons e t ih =>
      simp only [List.map_cons, tabFind, ih]
      split
      · rfl
      · split <;> rfl
  rw [tabGet, hfind, tabGet, Option.getD_map]

theorem unfilled_fillOver (s : State) (c : Cmd) : unfilled (fillOver s c) = unfilled s := by
  unfold fillOver
  split
  · funext q
    have hquay := tabGet_map (fun x : Quay => { x with filling := x.filling.filter fun f => f.2 ≠ c.ord }) {} s.quay q
    exact congrArg (fun x : Quay => { x with filling := [] }) hquay
  · rfl

/-! ### A command that leaves with its reply (R32, R40, R61) -/

theorem unfilled_release (s : State) (c : Cmd) : unfilled (release s c) = unfilled s := by
  unfold release
  dsimp only
  rw [Replies.foldl_freeCtx_only]
  split <;> exact unfilled_fillOver (dropCmd s c.ord) c

theorem unfilled_releaseIf (s : State) (counted : Bool) (c : Cmd) : unfilled (releaseIf s counted c) = unfilled s := by
  cases counted with
  | false => rfl
  | true => exact unfilled_release s c

theorem unfilled_writeReply (s : State) (m : Nat) (irq : Bool) (r : Reply) :
    unfilled (writeReply s m irq r) = unfilled s := by
  rw [writeReply_only]
  rfl

theorem unfilled_postReply (s : State) (c : Cmd) (counted : Bool) (r : Reply) (result : List Byte) :
    unfilled (postReply s c counted r result) = unfilled s := by
  have hrelease := unfilled_releaseIf s counted c
  unfold postReply
  dsimp only
  split
  · exact hrelease
  split
  · exact (unfilled_writeReply _ _ _ _).trans hrelease
  split
  · exact hrelease
  · rfl

theorem unfilled_sendFrame (s : State) (port : Option Nat) (b : FrameBody) :
    unfilled (send s (.frame port b)) = unfilled s := by
  rw [Tides.sendFrame_only]
  rfl

theorem unfilled_answerChain (s : State) (c : Cmd) (r : Reply) (result : List Byte) :
    unfilled (answerChain s c r result) = unfilled s := by
  unfold answerChain
  dsimp only
  rw [unfilled_sendFrame]
  split
  · rfl
  · exact unfilled_sendFrame _ _ _

theorem unfilled_postTo (s : State) (c : Cmd) (counted : Bool) (r : Reply) (result : List Byte) :
    unfilled (postTo s c counted r result) = unfilled s := by
  unfold postTo
  split
  · exact (unfilled_answerChain _ _ _ _).trans (unfilled_releaseIf _ _ _)
  · exact unfilled_postReply _ _ _ _ _

theorem unfilled_postWaiting (s : State) (u : Unposted) : unfilled (postWaiting s u) = unfilled s := by
  unfold postWaiting
  split
  · rfl
  · exact unfilled_postTo _ _ _ _ _

theorem unfilled_postFollowing (s : State) : unfilled (postFollowing s) = unfilled s :=
  forAll_same unfilled _ (fun t _ => List.foldlRecOn (motive := fun u => unfilled u = unfilled t) _ _ rfl
    fun u hu x _ => (unfilled_postWaiting u x).trans hu) s _

theorem unfilled_postOrdered (s : State) (c : Cmd) (r : Reply) (result : List Byte) :
    unfilled (postOrdered s c r result) = unfilled s := by
  unfold postOrdered postInOrder
  split
  · rfl
  · exact (unfilled_postFollowing _).trans (unfilled_postTo _ _ _ _ _)

theorem unfilled_finish (s : State) (c : Cmd) (status : Nat) (d result : List Byte) :
    unfilled (finish s c status d result) = unfilled s := by
  unfold finish
  dsimp only
  rw [unfilled_postOrdered]
  generalize (if status = stOk ∧ c.hdr.defer = true then stOkDeferred else status) = st
  split <;> rfl

/-- The end of a command leaves every quay as it is, but for the banks that the command was filling. -/
theorem unfilled_complete (s : State) (c : Cmd) (status : Nat) (d result : List Byte) :
    unfilled (complete s c status d result) = unfilled s := by
  unfold complete
  split
  · exact unfilled_finish _ _ _ _ _
  · rfl

end Sys2Proof.Quays
end

section
/-! Bursts: how one begins, commits, plays to a boundary, and ends (R145, R153, R157, R160 to R162, R172, R175,
R412). -/

namespace Sys2Proof.Bursts

open Sys2Proof Sys2Proof.Machine Sys2Proof.Standing Sys2Proof.Quays

/-! ### What keeps the quays and the tide -/

/-- The quays and the tide. -/
def clocked (s : State) : Tab Quay × Nat := (s.quay, s.tide)

theorem quayAt_of_clocked {s t : State} (h : clocked t = clocked s) (q : Nat) : quayAt t q = quayAt s q := by
  rw [quayAt, (Prod.mk.inj h).1, quayAt]

theorem tide_of_clocked {s t : State} (h : clocked t = clocked s) : t.tide = s.tide := (Prod.mk.inj h).2

theorem clocked_countN (s : State) (sc i f m n : Nat) : clocked (countN s sc i f m n) = clocked s := by
  rw [Crossings.countN_only]
  rfl

theorem clocked_holdMod (s : State) (m c : Nat) : clocked (holdMod s m c) = clocked s := by
  obtain ⟨t, h⟩ := Channels.holdMod_only s m c
  rw [h]
  rfl

theorem clocked_send (s : State) (x : Sent) : clocked (send s x) = clocked s := by
  match x with
  | .frame port b =>
    rw [Tides.sendFrame_only]
    rfl
  | .signal _ _ | .ackFrame _ _ | .nakFrame _ _ | .credit _ _ _ | .train _ _ | .capability _ _ _ _ _ _ => rfl

/-! ### Measurements that are cut and parks that start (R194, R234, R263) -/

theorem clocked_acqClose (s : State) (b : Nat) (why : CloseWhy) : clocked (acqClose s b why) = clocked s := by
  unfold acqClose
  dsimp only
  split <;> split <;> rfl

theorem clocked_acqEnd (s : State) (b : Nat) : clocked (acqEnd s b) = clocked s := by
  have hmod (t : State) (f : Acq → Acq) : clocked (modAcq t b f) = clocked t := rfl
  unfold acqEnd
  dsimp only
  rw [hmod]
  split
  · exact clocked_acqClose _ _ _
  · split
    · exact clocked_acqClose _ _ _
    · rfl

theorem clocked_tmuFlush (s : State) (b : Nat) : clocked (tmuFlush s b) = clocked s :=
  Acknowledgement.tmuFlush_keeps (fun _ _ _ => rfl) (fun _ _ _ _ _ => rfl) s b

theorem clocked_differences (s : State) (b : Nat) : clocked (differences s b) = clocked s := by
  refine forAll_same clocked _ (fun t i => ?_) s _
  split <;> rfl

theorem clocked_windowClose (s : State) (b : Nat) : clocked (windowClose s b) = clocked s := by
  have hmod (t : State) (f : Tmu → Tmu) : clocked (modTmu t b f) = clocked t := rfl
  have hflush := clocked_tmuFlush s b
  unfold windowClose
  dsimp only
  rw [hmod]
  split
  · rw [clocked_differences]
    split <;> exact hflush
  · split <;> exact hflush

theorem clocked_tmuCut (s : State) (b : Nat) (provisional : Bool) : clocked (tmuCut s b provisional) = clocked s := by
  have hmod (t : State) (f : Tmu → Tmu) : clocked (modTmu t b f) = clocked t := rfl
  unfold tmuCut tmuEnd
  split
  · dsimp only
    rw [hmod, hmod]
    split
    · exact clocked_windowClose s b
    · rfl
  · rfl

theorem clocked_parkStart (s : State) (c : Nat) : clocked (parkStart s c) = clocked s :=
  clocked_holdMod s (modTick s.tide) c

theorem clocked_parkBerth (s : State) (b : Nat) (toFault : Bool) (groups : List (List Nat)) :
    clocked (parkBerth s b toFault groups) = clocked s := by
  have hpark (t : State) : clocked (parkOrderly t b toFault groups) = clocked t :=
    forAll_same clocked _ clocked_parkStart t _
  unfold parkBerth measureCut
  rw [hpark, clocked_tmuCut, clocked_acqEnd]

/-! ### What the end of a burst leaves of its quay -/

/-- A quay but for the banks that fill and its remainder of phase. -/
def bare (x : Quay) : Quay := { x with filling := [], phaseRemain := 0 }

theorem bare_unfilled (s : State) (q : Nat) : bare (unfilled s q) = bare (quayAt s q) := rfl

/-- The fields that are bare show. -/
theorem eq_of_bare {α : Type} {x y : Quay} (h : bare x = bare y) (field : Quay → α)
    (hfield : ∀ x, field (bare x) = field x) : field x = field y := by rw [← hfield x, h, hfield]

/-- What a burst leaves: its quay, bare, the run states of the berths, and the tide. -/
def outcome (q : Nat) (s : State) : Quay × (Nat → BRun) × Nat := (bare (quayAt s q), fun b => (berthAt s b).run, s.tide)

theorem outcome_congr {q : Nat} {s t : State} (hquay : unfilled t q = unfilled s q) (hstand : stands t = stands s)
    (htide : t.tide = s.tide) : outcome q t = outcome q s := by
  have hbare : bare (quayAt t q) = bare (quayAt s q) := by rw [← bare_unfilled, hquay, bare_unfilled]
  have hrun : (fun b => (berthAt t b).run) = fun b => (berthAt s b).run := congrArg Prod.fst hstand
  rw [outcome, hbare, hrun, htide, outcome]

theorem outcome_of_clocked {s t : State} (q : Nat) (hclock : clocked t = clocked s) (hstand : stands t = stands s) :
    outcome q t = outcome q s := by
  obtain ⟨hquay, htide⟩ := Prod.mk.inj hclock
  exact outcome_congr (congrFun (unfilled_congr hquay) q) hstand htide

theorem outcome_complete (q : Nat) (s : State) (c : Cmd) (status : Nat) (d result : List Byte) :
    outcome q (complete s c status d result) = outcome q s :=
  outcome_congr (congrFun (unfilled_complete s c status d result) q) (stands_of_onlyEnds (onlyEnds_complete _ _ _ _ _))
    (Crossings.complete_tide _ _ _ _ _)

theorem outcome_modBerth (q : Nat) (s : State) (b : Nat) (f : Berth → Berth)
    (hf : (f (berthAt s b)).run = (berthAt s b).run) : outcome q (modBerth s b f) = outcome q s :=
  outcome_of_clocked q rfl (stands_modBerth s b f hf)

theorem outcome_forAll (q : Nat) (f : State → Nat → State) (hf : ∀ s n, outcome q (f s n) = outcome q s) (s : State)
    (xs : List Nat) : outcome q (forAll s xs f) = outcome q s := forAll_same (outcome q) f hf s xs

theorem outcome_ite_forAll (q : Nat) (f : State → Nat → State) (hf : ∀ s n, outcome q (f s n) = outcome q s) (p : Prop)
    [Decidable p] (s : State) (xs : List Nat) : outcome q (if p then forAll s xs f else s) = outcome q s := by
  split
  · exact outcome_forAll q f hf s xs
  · rfl

/-! ### Values that load as the burst ends (R45, R74) -/

theorem outcome_modChan (q : Nat) (s : State) (c : Nat) (f : Chan → Chan) : outcome q (modChan s c f) = outcome q s :=
  rfl

theorem outcome_modLane (q : Nat) (s : State) (l : Nat) (f : Lane → Lane) : outcome q (modLane s l f) = outcome q s :=
  rfl

theorem outcome_modPort (q : Nat) (s : State) (p : Nat) (f : Port → Port) : outcome q (modPort s p f) = outcome q s :=
  rfl

theorem outcome_holdMod (q : Nat) (s : State) (m c : Nat) : outcome q (holdMod s m c) = outcome q s := by
  obtain ⟨t, h⟩ := Channels.holdMod_only s m c
  rw [h]
  rfl

theorem outcome_clearDelta (q : Nat) (s : State) (c : Nat) : outcome q (clearDelta s c) = outcome q s :=
  outcome_holdMod q s (modTick s.tide) c

/-- A phase step adds to a remainder alone. -/
theorem outcome_phaseAdd (q : Nat) (s : State) (k : Nat) (v : Int) : outcome q (phaseAdd s k v) = outcome q s := by
  have hphase (r : Int) : outcome q (modQuay s k fun x => { x with phaseRemain := r }) = outcome q s := by
    by_cases hk : q = k
    · subst hk
      rw [outcome, modQuay, quayAt_setQuay]
      rfl
    · rw [outcome, modQuay, quayAt_setQuay_other _ _ _ _ hk]
      rfl
  unfold phaseAdd
  dsimp only
  split
  · split
    · exact hphase _
    · split
      · exact hphase _
      · exact hphase _
  · rfl

theorem outcome_modSp (q : Nat) (s : State) (b : Nat) (f : Sp → Sp) : outcome q (modSp s b f) = outcome q s :=
  outcome_modBerth q s b _ rfl

theorem outcome_blankStart (q : Nat) (s : State) (b : Nat) (m : Mon) : outcome q (blankStart s b m) = outcome q s := by
  unfold blankStart
  split
  · exact outcome_modSp _ _ _ _
  · rfl

theorem outcome_monitorLoad (q : Nat) (s : State) (b : Nat) (old new : Word) :
    outcome q (monitorLoad s b old new) = outcome q s := by
  have hblank (t : State) (p : Bool) (m : Mon) :
      outcome q (if p = true then blankStart t b m else t) = outcome q t := by
    split
    · exact outcome_blankStart _ _ _ _
    · rfl
  unfold monitorLoad
  dsimp only
  rw [hblank, hblank, hblank]

theorem outcome_ovenLost (q : Nat) (s : State) : outcome q (ovenLost s) = outcome q s := by
  unfold ovenLost
  dsimp only
  rw [outcome_forAll q]
  · split <;> rfl
  · intro t b
    split
    · exact outcome_modBerth q t b _ rfl
    · rfl

theorem outcome_laneMaskLoad (q : Nat) (s : State) (p : Nat) (old new : Word) :
    outcome q (laneMaskLoad s p old new) = outcome q s := by
  refine outcome_forAll q _ (fun t l => ?_) s _
  split
  · rw [laneLeave, portSettle, outcome_modPort, outcome_modLane, ctlDrop, outcome_modPort]
  · rfl

/-- A value that loads starts and ends no burst: of a quay it changes the remainder of phase alone, and of a berth never
the run state. -/
theorem outcome_onLoad (q : Nat) (s : State) (id old new : Word) : outcome q (onLoad s id old new) = outcome q s := by
  have hclamp (t : State) (c : Nat) : outcome q (clampEnd t c) = outcome q t := outcome_modChan _ _ _ _
  unfold onLoad
  dsimp only
  split
  case h_1 =>
    split
    · rfl
    · rw [outcome_ite_forAll]
      intro t c
      rw [setMode, outcome_modChan, outcome_clearDelta]
  case h_2 =>
    rw [outcome_ite_forAll, outcome_ite_forAll _ _ hclamp]
    exact fun t c => outcome_modChan _ _ _ _
  case h_3 =>
    split
    · exact outcome_ite_forAll _ _ hclamp _ _ _
    · rw [outcome_forAll, outcome_ite_forAll _ _ hclamp]
      exact fun t c => outcome_modChan _ _ _ _
  case h_4 =>
    split
    · exact outcome_phaseAdd _ _ _ _
    · rfl
  case h_5 =>
    split
    · exact (outcome_modSp _ _ _ _).trans (outcome_monitorLoad _ _ _ _ _)
    · rfl
  case h_6 =>
    split
    · exact outcome_ovenLost _ _
    · rfl
  case h_7 => exact outcome_laneMaskLoad _ _ _ _ _
  case h_8 =>
    split <;> rfl
  case h_9 => rfl

theorem outcome_freeG (q : Nat) (s : State) (k : Nat) : outcome q (freeG s k) = outcome q s :=
  List.foldlRecOn (motive := fun u => outcome q u = outcome q s) _ _ rfl fun u hu _ _ =>
    (outcome_onLoad q u _ _ _).trans hu

/-! ### Commands that end with the burst (R160, R162) -/

/-- A JUMP has set nothing aside. -/
theorem cancel_of_jump {s : State} {c : Cmd} {k : Nat} (v : Verdict) (h : c.work = .jump k) :
    cancel s c v = completeV s c v := by
  rw [cancel, unwind, h]

theorem outcome_jumpsDrop (q : Nat) (s : State) (k : Nat) : outcome q (jumpsDrop s k) = outcome q s := by
  refine List.foldlRecOn (motive := fun u => outcome q u = outcome q s) _ _ rfl fun u hu c hc => ?_
  rw [cancel_of_jump _ (of_decide_eq_true (List.mem_filter.mp hc).2)]
  exact (outcome_complete _ _ _ _ _ _).trans hu

theorem outcome_haltDone (q : Nat) (s : State) (k : Nat) : outcome q (haltDone s k) = outcome q s := by
  refine List.foldlRecOn (motive := fun u => outcome q u = outcome q s) _ _ rfl fun u hu c _ => ?_
  dsimp only
  split
  · split
    · exact (outcome_complete _ _ _ _ _ _).trans hu
    · exact hu
  · exact hu

theorem outcome_settle (q : Nat) (s : State) : outcome q (settle s) = outcome q s := by
  unfold settle
  dsimp only
  rw [outcome_forAll q]
  · refine List.foldlRecOn (motive := fun u => outcome q u = outcome q s) _ _ rfl fun u hu c _ => ?_
    split <;> exact (outcome_complete _ _ _ _ _ _).trans hu
  · intro t z
    split <;> rfl

theorem outcome_parkBegin (q : Nat) (s : State) (b : Nat) :
    outcome q (if parkWaiting s b then parkBegin s b else s) = outcome q s := by
  unfold parkBegin
  split
  · split
    · split
      · exact outcome_of_clocked q (clocked_parkBerth _ _ _ _) (stands_parkBerth _ _ _ _)
      · rfl
    · rfl
  · rfl

/-! ### The end of a burst (R165) -/

/-- A RUNNING berth of a burst that ends is IDLE. -/
def stopRun (s : State) (b : Nat) : State :=
  if (berthAt s b).run = .running then modBerth s b fun y => { y with run := .idle } else s

theorem stopRun_run (s : State) (a b : Nat) : (berthAt (stopRun s a) b).run =
    if b = a ∧ (berthAt s b).run = .running then .idle else (berthAt s b).run := by
  unfold stopRun
  by_cases hb : b = a
  · subst hb
    by_cases hrun : (berthAt s b).run = .running
    · rw [if_pos hrun, if_pos ⟨rfl, hrun⟩, berthAt_modBerth]
    · rw [if_neg hrun, if_neg fun h => hrun h.2]
  · rw [if_neg (c := b = a ∧ _) fun h => hb h.1]
    split
    · rw [berthAt_modBerth_other s _ hb]
    · rfl

theorem forAll_stopRun_stops {bs : List Nat} {b : Nat} (s : State) (h : b ∈ bs ∨ (berthAt s b).run ≠ .running) :
    (berthAt (forAll s bs stopRun) b).run ≠ .running := by
  induction bs generalizing s with
  | nil => exact h.resolve_left (List.not_mem_nil)
  | cons a bs ih =>
    refine ih (stopRun s a) ?_
    rw [stopRun_run]
    by_cases hb : b = a
    · refine .inr ?_
      split
      · simp
      · next hrun => exact fun hr => hrun ⟨hb, hr⟩
    · rw [if_neg fun hr => hb hr.1]
      exact h.imp_left fun hmem => (List.mem_cons.mp hmem).resolve_left hb

/-- A quay whose burst ended with a cause, under a throttle divisor, at a tide. -/
def quayOver (x : Quay) (cause div tide : Nat) : Quay := { x with
  running := false, armed := false, halted := decide (cause ≠ 0), haltCause := cause
  haltIndex := x.vectorIndex, pause := none, redirect := none, committed := none, commitBusy := false
  starving := false, jumps := [], haltReq := none, fifo := 0, fifoBad := none, stream := [], phaseRemain := 0
  stack := [], startAt := none, lwPlaying := false, lwRepeat := false
  gate := if div = 0 then none else some (tide + (div - 1) * (tide - (x.startAt).getD 0)) }

/-- The burst of a quay is over: its quay and its berths, before what waits for its end. -/
def burstOver (s : State) (q cause : Nat) : State :=
  let u := reach s (posTide (quayAt s q).sPos)
  forAll (count (modQuay u q fun x => quayOver x cause (largestDiv u q) u.tide) 4 q 0x36 15) (armedBerths s q) stopRun

theorem burstEnd_eq (s : State) (q cause : Nat) : burstEnd s q cause =
    settle (forAll (haltDone (jumpsDrop (freeG (burstOver s q cause) q) q) q) (berthsOfQuay q)
      fun s b => if parkWaiting s b then parkBegin s b else s) := rfl

theorem clocked_burstOver (s : State) (q cause : Nat) :
    let u := reach s (posTide (quayAt s q).sPos)
    clocked (burstOver s q cause) = clocked (modQuay u q fun x => quayOver x cause (largestDiv u q) u.tide) := by
  refine forAll_same clocked _ (fun t b => ?_) _ _
  unfold stopRun
  split <;> rfl

/-- What waits for the end of a burst takes nothing of it back. -/
theorem outcome_burstEnd (s : State) (q cause : Nat) :
    outcome q (burstEnd s q cause) = outcome q (burstOver s q cause) := by
  rw [burstEnd_eq, outcome_settle, outcome_forAll q _ (outcome_parkBegin q), outcome_haltDone, outcome_jumpsDrop,
    outcome_freeG]

/-- A burst that has ended. -/
theorem burstEnd_spec (s : State) (q cause : Nat) :
    let t := burstEnd s q cause
    (quayAt t q).running = false ∧ (quayAt t q).armed = false ∧ (quayAt t q).halted = decide (cause ≠ 0) ∧
      (quayAt t q).haltCause = cause ∧ (quayAt t q).haltIndex = (quayAt s q).vectorIndex ∧
      (∀ b ∈ armedBerths s q, (berthAt t b).run ≠ .running) ∧ s.tide ≤ t.tide := by
  intro t
  obtain ⟨hquay, hends⟩ := Prod.mk.inj (outcome_burstEnd s q cause)
  obtain ⟨hrun, htide⟩ := Prod.mk.inj hends
  have hclock := clocked_burstOver s q cause
  let u := reach s (posTide (quayAt s q).sPos)
  have hover : quayAt (burstOver s q cause) q = quayOver (quayAt s q) cause (largestDiv u q) u.tide :=
    (quayAt_of_clocked hclock q).trans (quayAt_setQuay _ _ _)
  rw [hover] at hquay
  have hfield {α : Type} (f : Quay → α) (hf : ∀ x, f (bare x) = f x) := eq_of_bare hquay f hf
  refine ⟨hfield Quay.running fun _ => rfl, hfield Quay.armed fun _ => rfl, hfield Quay.halted fun _ => rfl,
    hfield Quay.haltCause fun _ => rfl, hfield Quay.haltIndex fun _ => rfl, fun b hb => ?_, ?_⟩
  · rw [show (berthAt t b).run = _ from congrFun hrun b]
    exact forAll_stopRun_stops _ (.inl hb)
  · have htide : t.tide = _ := htide.trans (tide_of_clocked hclock)
    rw [htide, modQuay, setQuay_tide]
    exact Nat.le_max_left _ _

/-! ### Vectors that play (R109, R118, R119, R163) -/

theorem clocked_holdTake (s : State) (q : Nat) : clocked (holdTake s q) = clocked s := by
  refine forAll_same clocked _ (fun t c => ?_) s _
  rfl

theorem clocked_crowdGen (q n c : Nat) (s : State) (g : Nat) : clocked (crowdGen q n c s g) = clocked s := by
  have hmod (t : State) (f : Chan → Chan) : clocked (modChan t c f) = clocked t := rfl
  unfold crowdGen
  dsimp only
  split
  · rfl
  · rw [hmod, clocked_countN]

theorem clocked_crowdPlay (s : State) (q n : Nat) : clocked (crowdPlay s q n) = clocked s := by
  refine forAll_same clocked _ (fun t c => ?_) s _
  split
  · rfl
  · exact List.foldlRecOn (motive := fun u => clocked u = clocked t) _ _ rfl fun u hu g _ =>
      (clocked_crowdGen q n c u g).trans hu

theorem clocked_playPins (s : State) (q v n : Nat) : clocked (playPins s q v n) = clocked s := by
  refine forAll_same clocked _ (fun t c => ?_) s _
  split
  · rfl
  · split <;> rfl

theorem clocked_reservedPlay (s : State) (q v n : Nat) : clocked (reservedPlay s q v n) = clocked s := by
  unfold reservedPlay
  dsimp only
  split
  · rfl
  · exact clocked_countN _ _ _ _ _ _

theorem clocked_lineRaised (s : State) (l d : Nat) : clocked (lineRaised s l d) = clocked s := by
  have hhold (t : State) : clocked (lineHold t l d) = clocked t := by
    unfold lineHold
    split <;> rfl
  unfold lineRaised
  dsimp only
  split_ifs
  · rfl
  · rw [hhold, clocked_send]
    rfl
  · rw [hhold]
    rfl

theorem clocked_raiseLines (s : State) (kind e : Nat) (p : Word → Bool) :
    clocked (raiseLines s kind e p) = clocked s := by
  unfold raiseLines
  split
  · rfl
  · refine forAll_same clocked _ (fun t l => ?_) s _
    dsimp only
    split
    · split
      · exact clocked_send _ _
      · exact clocked_lineRaised _ _ _
    · rfl

theorem clocked_tmuArmEvent (s : State) (b a : Nat) : clocked (tmuArmEvent s b a) = clocked s := by
  unfold tmuArmEvent
  dsimp only
  split
  · rfl
  · split <;> rfl

/-- Markers act at the berths' measurements and on the trigger lines. -/
theorem clocked_mark (s : State) (q lines index sPos : Nat) : clocked (mark s q lines index sPos) = clocked s := by
  unfold mark
  dsimp only
  split
  · rfl
  · rw [forAll_same clocked, clocked_raiseLines]
    intro t b
    split
    · exact clocked_tmuArmEvent _ _ _
    · rfl

/-! ### A quay that plays on (R155, R157, R171) -/

/-- From s to t quay q plays `n` vectors: it stays as it runs, and so do the request to halt and the tide. -/
structure Plays (q n : Nat) (s t : State) : Prop where
  vectorIndex : (quayAt t q).vectorIndex = (quayAt s q).vectorIndex + n
  running : (quayAt t q).running = (quayAt s q).running
  starving : (quayAt t q).starving = (quayAt s q).starving
  haltReq : (quayAt t q).haltReq = (quayAt s q).haltReq
  tide : t.tide = s.tide

theorem Plays.trans {q m n : Nat} {s t u : State} (h : Plays q m s t) (k : Plays q n t u) : Plays q (m + n) s u where
  vectorIndex := by rw [k.vectorIndex, h.vectorIndex, Nat.add_assoc]
  running := k.running.trans h.running
  starving := k.starving.trans h.starving
  haltReq := k.haltReq.trans h.haltReq
  tide := k.tide.trans h.tide

theorem Plays.of_clocked {s t : State} (q : Nat) (h : clocked t = clocked s) : Plays q 0 s t := by
  have hquay := quayAt_of_clocked h q
  exact ⟨by rw [hquay, Nat.add_zero], by rw [hquay], by rw [hquay], by rw [hquay], tide_of_clocked h⟩

/-- A change of the quay that moves its vectors on by `n`. -/
theorem Plays.of_modQuay {q n : Nat} (s : State) (f : Quay → Quay)
    (hindex : (f (quayAt s q)).vectorIndex = (quayAt s q).vectorIndex + n)
    (hrunning : (f (quayAt s q)).running = (quayAt s q).running)
    (hstarving : (f (quayAt s q)).starving = (quayAt s q).starving)
    (hhalt : (f (quayAt s q)).haltReq = (quayAt s q).haltReq) : Plays q n s (modQuay s q f) := by
  have hquay : quayAt (modQuay s q f) q = f (quayAt s q) := quayAt_setQuay _ _ _
  exact ⟨by rw [hquay, hindex], by rw [hquay, hrunning], by rw [hquay, hstarving], by rw [hquay, hhalt], rfl⟩

theorem plays_advanceQ (s : State) (q n : Nat) : Plays q n s (advanceQ s q n) := by
  unfold advanceQ
  split
  · next hn =>
    rw [hn]
    exact .of_clocked q rfl
  · have hpins := Plays.of_clocked q ((clocked_crowdPlay (holdTake s q) q n).trans (clocked_holdTake s q))
    generalize crowdPlay (holdTake s q) q n = u at hpins
    have hvectors : Plays q n u (advance u q n) := .of_modQuay u (fun _ => _) rfl rfl rfl rfl
    have hset : Plays q 0 (advance u q n) (modQuay (advance u q n) q fun x => { x with lastSet := x.activeSet }) :=
      .of_modQuay _ _ rfl rfl rfl rfl
    simpa using (hpins.trans hvectors).trans hset

/-- Vectors whose data is there. -/
theorem plays_playData (s : State) (q v n : Nat) : Plays q n s (playData s q v n) := by
  have hstart : clocked (if n = 0 then s else holdTake s q) = clocked s := by
    split
    · rfl
    · exact clocked_holdTake s q
  have hpins := Plays.of_clocked q ((clocked_reservedPlay _ q v n).trans ((clocked_playPins _ q v n).trans hstart))
  unfold playData
  dsimp only
  generalize reservedPlay _ q v n = u at hpins
  split
  · have hfifo : Plays q 0 u (modQuay u q fun x => { x with
        fifo := x.fifo - 24 * n, fifoBad := x.fifoBad.map (· - 24 * n), stream := dropRead x.stream (24 * n) }) :=
      .of_modQuay _ _ rfl rfl rfl rfl
    simpa using (hpins.trans hfifo).trans (plays_advanceQ _ q n)
  · simpa using hpins.trans (plays_advanceQ u q n)

theorem plays_playOn {s : State} {q n : Nat} (v : Nat)
    (hdata : segKind s q (quayAt s q).curSeg ≠ 2 ∨ n ≤ fifoVectors (quayAt s q)) : Plays q n s (playOn s q v n) := by
  rw [playOn, if_neg]
  · exact plays_playData s q v n
  · simpa [Nat.not_lt] using not_and_of_not_or_not (hdata.imp id Nat.not_lt.mpr)

/-- The vectors up to a boundary whose data is there. -/
theorem plays_playVectors {s : State} {q n : Nat} (hstarving : (quayAt s q).starving = false)
    (hdata : dataThere s q n = true) : Plays q n s (playVectors s q n) := by
  unfold playVectors
  dsimp only
  split
  · exact plays_advanceQ s q n
  · next hpause =>
    have hrunsOn : (quayAt s q).pause.isSome = false := by simpa [hstarving] using hpause
    refine plays_playOn _ ?_
    simpa [dataThere, hrunsOn] using hdata

theorem plays_passDone (s : State) (q : Nat) : Plays q 0 s (passDone s q) := by
  have hpass : Plays q 0 s (modQuay s q fun x => { x with passes := x.passes + 1, played := 0 }) :=
    .of_modQuay _ _ rfl rfl rfl rfl
  unfold passDone markEnd
  dsimp only
  split
  · exact hpass.trans (.of_clocked q (clocked_mark _ _ _ _ _))
  · exact hpass

theorem plays_playGranules {s : State} {q g : Nat} (hstarving : (quayAt s q).starving = false)
    (hdata : dataThere s q (64 * g - (quayAt s q).played) = true) :
    Plays q (64 * g - (quayAt s q).played) s (playGranules s q g) := by
  have hplays := plays_playVectors hstarving hdata
  unfold playGranules
  dsimp only
  split
  · exact hplays.trans (plays_passDone _ q)
  · exact hplays

/-! ### The rows -/

theorem exec_burstStart {s : State} {q : Fin 16} {i : Nat} (harmed : (quayAt s q).armed = true)
    (hstill : (quayAt s q).running = false) (hstart : (quayAt s q).startAt = some i) :
    exec (.burstStart q) s = .next (if i < gateOf (reach s i) q then
        startDone (setQuay (count (reach s i) 6 0 0xA1 (8 * gateZone (reach s i) q + 5)) q
          { quayAt s q with startAt := none, tokenWait := false }) q true
      else startDone (burstBegin (reach s i) q i) q false) := by
  have hstarts : ((quayAt s q).armed && !(quayAt s q).running) = true := by simp [harmed, hstill]
  change execBurstStart q s = _
  rw [execBurstStart, hstart]
  dsimp only
  rw [if_pos hstarts]
  rfl

theorem exec_successorCommit {s : State} {q : Fin 16} {g : Nat} (hrunning : (quayAt s q).running = true)
    (hstarving : (quayAt s q).starving = false) (hnext : nextSegment s q = some g) :
    let u := reach s (posTide (posAfter s q (64 * (granulesLeft s q - 1) - (quayAt s q).played)) - 160)
    exec (.successorCommit q) s = .next (setQuay u q { quayAt s q with
      committed := some g, commitBusy := bankFilling u q (segBank g) }) := by
  intro u
  change execSuccessorCommit q s = _
  rw [execSuccessorCommit, if_pos (by simp [hrunning, hstarving]), hnext]
  rfl

theorem exec_haltTaken {s : State} {q : Fin 16} {a cause g : Nat} (hhalt : (quayAt s q).haltReq = some (a, cause))
    (hrunning : (quayAt s q).running = true) (hstarving : (quayAt s q).starving = false)
    (hboundary : boundaryFor s q a (granulesLeft s q) = some g)
    (hdata : dataThere s q (64 * g - (quayAt s q).played) = true) :
    exec (.haltTaken q) s = .next (burstEnd (playGranules s q g) q cause) := by
  have hplays := plays_playGranules hstarving hdata
  change execHaltTaken q s = _
  rw [execHaltTaken]
  simp [hhalt, hrunning, hstarving, hboundary, hplays.running, hplays.starving, haltAt]

theorem exec_jumpTaken {s : State} {q : Fin 16} {j : Nat × Nat × Nat} {rest : List (Nat × Nat × Nat)} {g : Nat}
    (hjump : (quayAt s q).jumps = j :: rest) (hrunning : (quayAt s q).running = true)
    (hstarving : (quayAt s q).starving = false) (hhalt : (quayAt s q).haltReq = none)
    (hboundary : boundaryFor s q j.1 (granulesLeft s q) = some g)
    (hdata : dataThere s q (64 * g - (quayAt s q).played) = true) :
    let u := playGranules s q g
    exec (.jumpTaken q) s = .next (jumpTake (reach u (posTide (quayAt u q).sPos)) q
      (if (quayAt s q).pause.isSome && (quayAt s q).redirect.isNone then g else 0)) := by
  have hplays := plays_playGranules hstarving hdata
  change execJumpTaken q s = _
  rw [execJumpTaken]
  simp [hjump, hrunning, hstarving, hboundary, hplays.running, hplays.starving, haltDue, hplays.haltReq, hhalt]

theorem exec_starveHalt {s : State} {q : Fin 16} (hrunning : (quayAt s q).running = true)
    (hstarving : (quayAt s q).starving = true) : exec (.starveHalt q) s =
      .next (burstEnd (advanceQ s q ((64 - (quayAt s q).vectorIndex % 64) % 64)) q 2) := by
  change execStarveHalt q s = _
  rw [execStarveHalt]
  dsimp only
  rw [if_pos (by simp [hrunning, hstarving]), haltAt]

/-- Settles O42, row by row; `plays_playGranules` is how a burst comes to a boundary, `burstEnd_spec` how it ends. -/
theorem burstEvents : Obligations.BurstEvents := by
  unfold Obligations.BurstEvents
  refine ⟨fun s q i harmed hstill hstart => ⟨fun hgate => ?_, fun hgate => ?_⟩,
    fun s q g hrunning hstarving hnext => exec_successorCommit hrunning hstarving hnext,
    fun s q a cause g hhalt hrunning hstarving hboundary hdata =>
      ⟨_, exec_haltTaken hhalt hrunning hstarving hboundary hdata, (plays_playGranules hstarving hdata).vectorIndex⟩,
    fun s q j rest g hjump hrunning hstarving hhalt hboundary hdata =>
      ⟨_, _, exec_jumpTaken hjump hrunning hstarving hhalt hboundary hdata, rfl, ?_, ?_⟩,
    fun s q hrunning hstarving => exec_starveHalt hrunning hstarving, burstEnd_spec⟩
  · rw [exec_burstStart harmed hstill hstart, if_neg (Nat.not_lt.mpr hgate)]
  · rw [exec_burstStart harmed hstill hstart, if_pos hgate]
  · exact (plays_playGranules hstarving hdata).vectorIndex
  · rw [reach_tide, (plays_playGranules hstarving hdata).tide]
    exact Nat.le_max_left _ _

end Sys2Proof.Bursts
end

section
/-! The start token and the trigger lines (R176, R177, R222, R246, R364, R365). -/

namespace Sys2Proof.Tokens

open Sys2Proof Sys2Proof.Machine Sys2Proof.Quays

/-! ### The quays of a list -/

section each

variable {f : Quay → Quay} {g : State → Nat → State} (hown : ∀ s k, quayAt (g s k) k = f (quayAt s k))
  (hother : ∀ s k j, j ≠ k → quayAt (g s k) j = quayAt s j)
include hother

theorem quayAt_forAll_of_notMem {q : Nat} {qs : List Nat} (h : q ∉ qs) (s : State) :
    quayAt (forAll s qs g) q = quayAt s q := by
  induction qs generalizing s with
  | nil => rfl
  | cons k qs ih =>
    obtain ⟨hk, hqs⟩ := not_or.mp fun hmem => h (List.mem_cons.mpr hmem)
    exact (ih hqs (g s k)).trans (hother s k q hk)

include hown

theorem quayAt_forAll_of_mem {q : Nat} {qs : List Nat} (h : q ∈ qs) (hnodup : qs.Nodup) (s : State) :
    quayAt (forAll s qs g) q = f (quayAt s q) := by
  induction qs generalizing s with
  | nil => exact absurd h List.not_mem_nil
  | cons k qs ih =>
    obtain ⟨hk, hqs⟩ := List.nodup_cons.mp hnodup
    rcases List.mem_cons.mp h with rfl | hmem
    · exact (quayAt_forAll_of_notMem hother hk (g s q)).trans (hown s q)
    · have hne : q ≠ k := fun heq => hk (heq ▸ hmem)
      exact (ih hmem hqs (g s k)).trans (congrArg f (hother s k q hne))

end each

/-! ### Quays that wait for the token (R177, R364) -/

theorem lacksToken_iff (s : State) (q : Nat) :
    lacksToken s q = true ↔ (quayAt s q).tokenWait = true ∧ (quayAt s q).startAt = none := by
  simp [lacksToken]

/-- The quays that wait for the token, each once. -/
theorem mem_waiting {s : State} {q : Nat} (hq : q < 16) (h : lacksToken s q = true) :
    q ∈ (List.range 16).filter (lacksToken s) := List.mem_filter.mpr ⟨List.mem_range.mpr hq, h⟩

theorem nodup_waiting (s : State) : ((List.range 16).filter (lacksToken s)).Nodup := List.nodup_range.filter _

/-- A quay has its instant. -/
def instantNamed (i : Nat) (s : State) (q : Nat) : State := modQuay s q fun x => { x with startAt := some i }

/-- A quay waits for its token no more, which counts in TokenLate. -/
def tokenMissed (s : State) (q : Nat) : State :=
  count (modQuay s q fun x => { x with tokenWait := false }) 4 q 0x36 12

/-- A token in time names the instant to each of them. -/
theorem startAt_tokenStart {s : State} {q : Nat} (i : Nat) (hq : q < 16) (h : lacksToken s q = true) :
    (quayAt (tokenStart s i) q).startAt = some i := by
  let u := forAll s ((List.range 16).filter (lacksToken s)) (instantNamed i)
  have hquays : quayAt u q = { quayAt s q with startAt := some i } :=
    quayAt_forAll_of_mem (g := instantNamed i) (f := fun x => { x with startAt := some i })
      (fun _ _ => quayAt_setQuay _ _ _) (fun _ _ _ hne => quayAt_setQuay_other _ _ _ _ hne) (mem_waiting hq h)
      (nodup_waiting s) s
  have hcommands : quayAt (tokenStart s i) q = quayAt u q := by
    refine List.foldlRecOn (motive := fun t => quayAt t q = quayAt u q) _ _ rfl fun t ht c _ => ?_
    split
    · split
      · exact ht
      · exact ht
    · exact ht
  rw [hcommands, hquays]

/-- Without it none of them waits on, or has an instant, and they stay as they are armed. -/
theorem tokenLate_spec {s : State} {q : Nat} (hq : q < 16) (h : lacksToken s q = true) :
    (quayAt (tokenLate s) q).tokenWait = false ∧ (quayAt (tokenLate s) q).startAt = none ∧
      (quayAt (tokenLate s) q).armed = (quayAt s q).armed := by
  obtain ⟨-, hstart⟩ := (lacksToken_iff s q).mp h
  let u := forAll s ((List.range 16).filter (lacksToken s)) tokenMissed
  have hquays : quayAt u q = { quayAt s q with tokenWait := false } :=
    quayAt_forAll_of_mem (g := tokenMissed) (f := fun x => { x with tokenWait := false })
      (fun _ _ => quayAt_setQuay _ _ _) (fun _ _ _ hne => quayAt_setQuay_other _ _ _ _ hne) (mem_waiting hq h)
      (nodup_waiting s) s
  have hcommands : unfilled (tokenLate s) = unfilled u :=
    List.foldlRecOn (motive := fun t => unfilled t = unfilled u) _ _ rfl fun t ht c _ =>
      (unfilled_complete t c _ _ _).trans ht
  have hfield {α : Type} (field : Quay → α) (hfills : ∀ x : Quay, field { x with filling := [] } = field x) :
      field (quayAt (tokenLate s) q) = field { quayAt s q with tokenWait := false } :=
    (eq_of_unfilled hcommands field hfills).trans (congrArg field hquays)
  exact ⟨hfield Quay.tokenWait fun _ => rfl, (hfield Quay.startAt fun _ => rfl).trans hstart,
    hfield Quay.armed fun _ => rfl⟩

/-! ### The rows -/

theorem exec_token {s : State} (i36 : BitVec 36) (hfollower : isFollower s = true) : exec (.token i36) s =
    .next (if s.tide + 192 ≤ expand36 s i36.toNat then
        tokenStart (copyDown s (.token i36.toNat)) (expand36 s i36.toNat)
      else tokenLate (copyDown s (.token i36.toNat))) := by
  change execToken i36 s = _
  rw [execToken, if_neg (by simp [hfollower])]
  rfl

theorem exec_tokenDeadline {s : State} (hfollower : isFollower s = true) :
    exec .tokenDeadline s = .next (tokenLate s) := by
  change execTokenDeadline s = _
  rw [execTokenDeadline, if_pos hfollower]

theorem exec_trigRaise_follower {s : State} (l : Fin 16) (i36 : BitVec 36) (hfollower : isFollower s = true) :
    exec (.trigRaise l i36) s = .next (upSignal s (.trigRaise l.val i36.toNat)) := by
  change execTrigRaise l i36 s = _
  rw [execTrigRaise, if_pos hfollower]

theorem exec_trigRaise_pilot {s : State} (l : Fin 16) (i36 : BitVec 36) (hfollower : isFollower s = false)
    (hpilot : isPilot s = true) :
    exec (.trigRaise l i36) s = .next (lineRaised s l.val (expand36 s i36.toNat)) := by
  change execTrigRaise l i36 s = _
  rw [execTrigRaise, if_neg (ne_true_of_eq_false hfollower), if_pos hpilot]

theorem exec_trigDeliver {s : State} (l : Fin 16) (i36 : BitVec 36) (hfollower : isFollower s = true) :
    exec (.trigDeliver l i36) s =
      .next (lineHold (copyDown s (.trigDeliver l.val i36.toNat)) l.val (expand36 s i36.toNat)) := by
  change execTrigDeliver l i36 s = _
  rw [execTrigDeliver, if_pos hfollower]

/-- The earliest instant that is held for a line. -/
theorem min?_pendTrig {s : State} {l d : Nat} (hmem : (l, d) ∈ s.chain.pendTrig)
    (hleast : ∀ e ∈ s.chain.pendTrig, e.1 = l → d ≤ e.2) :
    ((s.chain.pendTrig.filter fun e => e.1 = l).map (·.2)).min? = some d := by
  rw [List.min?_eq_some_iff]
  refine ⟨List.mem_map.mpr ⟨(l, d), List.mem_filter.mpr ⟨hmem, decide_eq_true rfl⟩, rfl⟩, fun b hb => ?_⟩
  obtain ⟨e, he, rfl⟩ := List.mem_map.mp hb
  obtain ⟨hheld, hline⟩ := List.mem_filter.mp he
  exact hleast e hheld (of_decide_eq_true hline)

theorem exec_trigDeliveryInstant {s : State} {l : Fin 16} {d : Nat} (hmem : (l.val, d) ∈ s.chain.pendTrig)
    (hleast : ∀ e ∈ s.chain.pendTrig, e.1 = l.val → d ≤ e.2) : exec (.trigDeliveryInstant l) s = .next (lineDeliver
      { reach s d with chain := { s.chain with pendTrig := s.chain.pendTrig.erase (l.val, d) } } l.val d) := by
  change execTrigDeliveryInstant l s = _
  rw [execTrigDeliveryInstant, min?_pendTrig hmem hleast]
  rfl

/-- Settles O36: what a token in time does is `startAt_tokenStart`, what a late one or the deadline does
`tokenLate_spec`; a token that is copied down leaves every quay as it is. -/
theorem tokensAndTriggers : Obligations.TokensAndTriggers := by
  unfold Obligations.TokensAndTriggers
  refine ⟨fun s i36 hfollower htime => ⟨_, exec_token i36 hfollower, ?_⟩,
    fun s i36 hfollower hlate => ⟨_, exec_token i36 hfollower, ?_⟩,
    fun s hfollower => ⟨_, exec_tokenDeadline hfollower, fun q hq h => ?_⟩,
    fun s l i36 hfollower => ⟨exec_trigRaise_follower l i36 hfollower, exec_trigDeliver l i36 hfollower⟩,
    fun s l i36 hfollower hpilot => exec_trigRaise_pilot l i36 hfollower hpilot,
    fun s l d hmem hleast => exec_trigDeliveryInstant hmem hleast⟩
  · rw [if_pos htime]
    exact fun q hq h => startAt_tokenStart (s := copyDown s (.token i36.toNat)) _ hq h
  · rw [if_neg (Nat.not_le.mpr hlate)]
    exact fun q hq h => tokenLate_spec (s := copyDown s (.token i36.toNat)) hq h
  · obtain ⟨hwait, -, harmed⟩ := tokenLate_spec hq h
    exact ⟨hwait, harmed⟩

end Sys2Proof.Tokens
end

section
/-! What the device reads itself: data that comes and reads that fail (R145, R318, R537, R543; log 90). -/

namespace Sys2Proof.Reads

open Sys2Proof Sys2Proof.Machine

/-! ### Data (R145, R318; log 90) -/

/-- A read of the hold that succeeds leaves the hold as it is. -/
theorem hold_of_holdRead {s u : State} {a n : Nat} (h : holdRead s a n = (u, none)) : u.hold = s.hold := by
  unfold holdRead at h
  split_ifs at h
  · exact congrArg State.hold (Prod.mk.inj h).1.symm
  · simp at h
  · simp at h
  · split at h
    · simp at h
    · obtain rfl := (Prod.mk.inj h).1
      rw [Crossings.countN_only]

section completion

variable {s : State} {tag : BitVec 16} {c : Cmd} (hreader : readerOf s tag = some c)
include hreader

theorem exec_hostReadCompletion_segLoad (data : List Byte) {bank : Byte} {off len : Word} {src : BitVec 64}
    (hop : c.op = .segLoad bank off src len) :
    exec (.hostReadCompletion tag data) s = .next (segReadDone s c data) := by
  change execHostReadCompletion tag data s = _
  rw [execHostReadCompletion, hreader]
  dsimp only
  rw [hop]

theorem exec_hostReadCompletion_bcastLoad (data : List Byte) {src : BitVec 64} {dest : BitVec 64} {len : Word}
    (hop : c.op = .bcastLoad src dest len) :
    exec (.hostReadCompletion tag data) s = .next (bcastGo s c (padTo len.toNat data)) := by
  change execHostReadCompletion tag data s = _
  rw [execHostReadCompletion, hreader]
  dsimp only
  rw [hop]

/-- A failed read of a command ends it. -/
theorem readFailed_of_command (src : Nat) :
    readFailed s (.inr tag) src = cancel s { c with missing := [] } (hwFault src 0) := by
  rw [readFailed, hreader]

end completion

/-! ### Slot fetches that are lost (R537, R543) -/

/-- A ring whose slot fetch has failed. -/
def fetchLost (s : State) (n : Nat) : State :=
  countDiscard (setSq s n { sqAt s n with enable := false, stalled := false, stallOn := 0 }) (.sq n)

theorem readFailed_of_fetch {s : State} {n : Fin 16} (src : Nat) (hready : ringReady s n.val = true) :
    readFailed s (.inl n) src = fetchLost s n := if_pos hready

theorem sqAt_fetchLost (s : State) (n : Nat) : sqAt (fetchLost s n) n = { sqAt s n with
    enable := false, stalled := false, stallOn := 0, doorbellErr := ackBump (sqAt s n).doorbellErr } := by
  simp [fetchLost, countDiscard]

/-- Settles O31: the reader's operation decides what its data does; every kind of failure is `readFailed`. -/
theorem readCompletions : Obligations.ReadCompletions := by
  unfold Obligations.ReadCompletions
  refine ⟨fun s tag data c hreader => ⟨fun bank off src len hop => ?_, fun src dest len hop => ?_, ?_, ?_, ?_⟩,
    fun s n hready => ?_⟩
  · rw [exec_hostReadCompletion_segLoad hreader data hop]
    refine ⟨fun hhost => ?_, fun hhold u hread => ?_, fun hhold u v hread => ?_⟩
    · simp only [segReadDone, hop, hhost]
      rfl
    · simp only [segReadDone, hop, hhold, hread, hold_of_holdRead hread]
      rfl
    · simp only [segReadDone, hop, hhold, hread]
      rfl
  · exact exec_hostReadCompletion_bcastLoad hreader data hop
  · exact congrArg Host.Outcome.next (readFailed_of_command hreader 0xD0)
  · exact congrArg Host.Outcome.next (readFailed_of_command hreader 0xD1)
  · exact congrArg Host.Outcome.next (readFailed_of_command hreader 0xD2)
  · refine ⟨fetchLost s n, congrArg Host.Outcome.next (readFailed_of_fetch 0xD0 hready),
      congrArg Host.Outcome.next (readFailed_of_fetch 0xD1 hready),
      congrArg Host.Outcome.next (readFailed_of_fetch 0xD2 hready), ?_, rfl, rfl, rfl⟩
    rw [sqAt_fetchLost, sqAt_setSq]

end Sys2Proof.Reads
end

section
/-! Range changes, clamps and samples of the PPMU (R197, R207, R214 to R217). -/

namespace Sys2Proof.Ppmus

open Sys2Proof Sys2Proof.Machine

/-! ### Range changes (R197, R198) -/

/-- A phase of a range change that is due moves the change on, at its instant. -/
theorem rangeStep_of_due {s : State} {c n : Nat} {w : RangeSwitch} (at_ : Nat) (hswitch : (chanAt s c).rangeSw = some w)
    (hstep : w.step = n) :
    rangeStep s c n at_ = setChan (reach s (w.start + at_)) c
      { chanAt s c with rangeSw := some { w with step := n + 1 } } := by
  rw [rangeStep, hswitch]
  exact if_pos hstep

/-- The change that follows one that ends at tide `i`: the one that waits, unless it is to the range now in use
(R198, log 83). -/
def followingSwitch (w : RangeSwitch) (i : Nat) : Option RangeSwitch :=
  match w.queued with
  | some r => if r = w.target then none else some { target := r, start := i }
  | none => none

theorem followingSwitch_of_none {w : RangeSwitch} (i : Nat) (h : w.queued = none) : followingSwitch w i = none := by
  rw [followingSwitch, h]

theorem followingSwitch_of_queued {w : RangeSwitch} {r : Nat} (i : Nat) (h : w.queued = some r) (hr : r ≠ w.target) :
    followingSwitch w i = some { target := r, start := i } := by
  rw [followingSwitch, h]
  exact if_neg hr

/-- The end of a range change: 2 µs after its start the new range is in use. -/
def switchEnded (s : State) (c : Nat) (w : RangeSwitch) : State :=
  let t := reach s (w.start + 1600)
  setChan t c { chanAt s c with range := w.target, rangeSw := followingSwitch w t.tide }

theorem exec_rangeSwEnd {s : State} {c : Fin 1088} {w : RangeSwitch} (hswitch : (chanAt s c).rangeSw = some w)
    (hstep : w.step = 2) : exec (.rangeSwEnd c) s = .next (switchEnded s c w) := by
  change execRangeSwEnd c s = _
  rw [execRangeSwEnd, hswitch]
  exact congrArg Host.Outcome.next (if_pos hstep)

theorem chanAt_switchEnded (s : State) (c : Nat) (w : RangeSwitch) :
    chanAt (switchEnded s c w) c = { chanAt s c with
      range := w.target, rangeSw := followingSwitch w (switchEnded s c w).tide } := chanAt_setChan _ _ _

theorem le_switchEnded_tide (s : State) (c : Nat) (w : RangeSwitch) :
    (w.start + 1600) % 2 ^ 64 ≤ (switchEnded s c w).tide := Nat.le_max_right _ _

/-! ### Clamps (R207) -/

/-- A clamp entry acts on a PPMU that is on in FV or FI alone. -/
theorem exec_ppmuClampEntry (s : State) (c : Fin 1088) : exec (.ppmuClampEntry c) s = .next (
    if (chanAt s c).mode = 3 ∧ funcNow s c < 2 then
      countFront (setChan s c { chanAt s c with inClamp := true }) 2 c 0x51 1
    else s) := by
  change execPpmuClampEntry c s = _
  simp only [execPpmuClampEntry, Bool.and_eq_true, decide_eq_true_eq]
  rfl

/-! ### Samples (R104, R214 to R217) -/

/-- A measurement with one sample more. -/
def withSample (r : PpmuRun) (v : Int) : PpmuRun := { r with
  taken := r.taken + 1, left := r.left - 1, sum := r.sum + v
  least := if r.taken = 0 then v else min r.least v
  most := if r.taken = 0 then v else max r.most v }

/-- What a sample does to a measurement in hand: none while the PPMU is off, and no first one while the range changes
or the position moves; the last one ends the measurement. -/
theorem exec_ppmuSample {s : State} {c : Fin 1088} {r : PpmuRun} (v : Int) (hrun : (chanAt s c).ppmu = some r) :
    exec (.ppmuSample c v) s = .next (
      if (chanAt s (carrier s (berthOfChan c) (posOfChan c))).mode ≠ 3 ∨ r.taken = 0 ∧ ppmuDelayed s c = true then s
      else if r.left - 1 = 0 then ppmuFinish s c (withSample r v)
      else setChan s c { chanAt s c with ppmu := some (withSample r v) }) := by
  change execPpmuSample c v s = _
  rw [execPpmuSample, hrun]
  simp only [Bool.or_eq_true, Bool.and_eq_true, decide_eq_true_eq]
  rfl

theorem exec_ppmuSample_of_delayed {s : State} {c : Fin 1088} {r : PpmuRun} (v : Int)
    (hrun : (chanAt s c).ppmu = some r) (hfirst : r.taken = 0) (hdelayed : ppmuDelayed s c = true) :
    exec (.ppmuSample c v) s = .next s := by
  rw [exec_ppmuSample v hrun, if_pos (.inr ⟨hfirst, hdelayed⟩)]

theorem exec_ppmuSample_of_more {s : State} {c : Fin 1088} {r : PpmuRun} (v : Int)
    (hrun : (chanAt s c).ppmu = some r) (hmode : (chanAt s (carrier s (berthOfChan c) (posOfChan c))).mode = 3)
    (hready : r.taken = 0 → ppmuDelayed s c = false) (hmore : 1 < r.left) :
    exec (.ppmuSample c v) s = .next (setChan s c { chanAt s c with ppmu := some (withSample r v) }) := by
  have htaken : ¬((chanAt s (carrier s (berthOfChan c) (posOfChan c))).mode ≠ 3 ∨
      r.taken = 0 ∧ ppmuDelayed s c = true) := by
    rintro (hoff | ⟨hfirst, hdelayed⟩)
    · exact hoff hmode
    · exact ne_true_of_eq_false (hready hfirst) hdelayed
  rw [exec_ppmuSample v hrun, if_neg htaken, if_neg (by omega)]

/-- Settles O46: the phases of a range change (`rangeStep_of_due`, `exec_rangeSwEnd`), then the clamp and the samples. -/
theorem ppmuEvents : Obligations.PpmuEvents := by
  unfold Obligations.PpmuEvents
  intro s c
  refine ⟨fun w hswitch => ⟨fun hstep => ?_, fun hstep => ?_, fun hstep => ?_⟩,
    fun hmode hforces => ?_, fun hother => ?_, fun r v => exec_ppmuSample_of_delayed v,
    fun r v hrun hmode hready hmore => ?_⟩
  · exact congrArg Host.Outcome.next (rangeStep_of_due 400 hswitch hstep)
  · exact congrArg Host.Outcome.next (rangeStep_of_due 800 hswitch hstep)
  · have hended := chanAt_switchEnded s c w
    refine ⟨switchEnded s c w, exec_rangeSwEnd hswitch hstep, by rw [hended], le_switchEnded_tide s c w,
      fun hnone => ?_, fun r hqueued hr => ?_⟩
    · rw [hended, followingSwitch_of_none _ hnone]
    · rw [hended, followingSwitch_of_queued _ hqueued hr]
  · rw [exec_ppmuClampEntry, if_pos ⟨hmode, hforces⟩]
  · rw [exec_ppmuClampEntry, if_neg (by omega)]
  · exact ⟨_, exec_ppmuSample_of_more v hrun hmode hready hmore, congrArg Chan.ppmu (chanAt_setChan _ _ _), rfl, rfl⟩

end Sys2Proof.Ppmus
end

section
/-! The acquisition engines: base samples, the close of a record and the re-arm, and records in the hold (R219, R221,
R225, R233). -/

namespace Sys2Proof.Acquisition

open Sys2Proof Sys2Proof.Machine Sys2Proof.Standing

/-! ### Updates -/

@[simp] theorem acqAt_modAcq (s : State) (b : Nat) (f : Acq → Acq) : acqAt (modAcq s b f) b = f (acqAt s b) :=
  congrArg Berth.acq (berthAt_modBerth s b _)

@[simp] theorem acqAt_countN (s : State) (sc i f m n b : Nat) : acqAt (countN s sc i f m n) b = acqAt s b := by
  rw [Crossings.countN_only]
  rfl

@[simp] theorem acqAt_holdWrite (s : State) (a b : Nat) (bytes : List Byte) :
    acqAt (holdWrite s a bytes) b = acqAt s b := rfl

/-! ### What the trigger lines leave alone (R365) -/

/-- The berths, circuits, quays and parameters, and the tide. -/
def besideLines (s : State) : Tab Berth × Tab Chan × Tab Quay × Par × Nat :=
  (s.berth, s.chan, s.quay, s.par, s.tide)

theorem besideLines_eq_iff {s t : State} : besideLines t = besideLines s ↔
    t.berth = s.berth ∧ t.chan = s.chan ∧ t.quay = s.quay ∧ t.par = s.par ∧ t.tide = s.tide := by simp [besideLines]

theorem besideLines_lineRaised (s : State) (l d : Nat) : besideLines (lineRaised s l d) = besideLines s := by
  have hhold (t : State) : besideLines (lineHold t l d) = besideLines t := by
    unfold lineHold
    split <;> rfl
  unfold lineRaised
  dsimp only
  split_ifs
  · rfl
  · exact hhold _
  · exact hhold _

theorem besideLines_raiseLines (s : State) (kind e : Nat) (p : Word → Bool) :
    besideLines (raiseLines s kind e p) = besideLines s := by
  unfold raiseLines
  split
  · rfl
  · refine forAll_same besideLines _ (fun t l => ?_) s _
    dsimp only
    split_ifs
    · rfl
    · exact besideLines_lineRaised _ _ _
    · rfl

/-! ### Base samples (R219 to R225) -/

/-- The base samples of an engine, and what stands around the berths: parameters, circuits, quays and the tide. -/
def sampling (s : State) (b : Nat) : Nat × Par × Tab Chan × Tab Quay × Nat :=
  ((acqAt s b).samples, s.par, s.chan, s.quay, s.tide)

theorem sampling_modAcq (s : State) (b : Nat) {f : Acq → Acq} (hf : ∀ x, (f x).samples = x.samples) :
    sampling (modAcq s b f) b = sampling s b := by
  rw [sampling, acqAt_modAcq, hf]
  rfl

@[simp] theorem sampling_count (s : State) (sc i f m b : Nat) : sampling (count s sc i f m) b = sampling s b := rfl

theorem sampling_raiseLines (s : State) (kind e b : Nat) (p : Word → Bool) :
    sampling (raiseLines s kind e p) b = sampling s b := by
  obtain ⟨hberth, hchan, hquay, hpar, htide⟩ := besideLines_eq_iff.mp (besideLines_raiseLines s kind e p)
  rw [sampling, acqAt, Channels.berthAt_congr hberth, hchan, hquay, hpar, htide]
  rfl

@[simp] theorem noteMarks_samples (x : Acq) (j : Int) (m : Nat) : (noteMarks x j m).samples = x.samples := by
  unfold noteMarks
  dsimp only
  split_ifs <;> rfl

@[simp] theorem ringNote_samples (x : Acq) (j : Int) (ms : List Nat) : (ringNote x j ms).samples = x.samples := by
  induction ms generalizing x j with
  | nil => rfl
  | cons m rest ih => rw [ringNote, ih, noteMarks_samples]

theorem sampling_ite {p : Prop} [Decidable p] {t u : State} {b : Nat} {v : Nat × Par × Tab Chan × Tab Quay × Nat}
    (ht : sampling t b = v) (hu : sampling u b = v) : sampling (if p then t else u) b = v := by
  split
  · exact ht
  · exact hu

theorem sampling_postSample (s : State) (b : Nat) (sum : SamplePair) (m : Nat) :
    sampling (postSample s b sum m) b = sampling s b := by
  have hnoted {p : Prop} [Decidable p] {f g : Acq → Acq} (hg : ∀ x, (g x).samples = x.samples)
      (hf : ∀ x, (f x).samples = x.samples) :
      sampling (modAcq (if p then count (modAcq s b f) 3 b 0x57 5 else s) b g) b = sampling s b :=
    (sampling_modAcq _ b hg).trans (sampling_ite (sampling_modAcq s b hf) rfl)
  have hadded (x : Acq) : (noteMarks { x with
      acc := (x.acc.1 + sum.1, x.acc.2 + sum.2), accN := x.accN + 1 } (acqAt s b).post.length m).samples = x.samples :=
    noteMarks_samples _ _ _
  refine sampling_ite rfl (sampling_ite ?begun (sampling_ite ?full ?stored))
  case begun => exact hnoted hadded fun _ => rfl
  case full => refine (sampling_modAcq _ b ?_).trans (hnoted hadded ?_) <;> exact fun _ => rfl
  case stored => refine (sampling_modAcq _ b ?_).trans (hnoted hadded ?_) <;> exact fun _ => rfl

theorem sampling_recordEnd (s : State) (b : Nat) : sampling (recordEnd s b) b = sampling s b :=
  sampling_modAcq s b fun x => by split <;> rfl

theorem sampling_missTrigger (s : State) (b : Nat) : sampling (missTrigger s b) b = sampling s b :=
  sampling_modAcq s b (f := fun x => { x with missed := x.missed + 1 }) fun _ => rfl

/-- The base sample is counted as its instant is reached, whatever else it does. -/
theorem sampling_baseSample {s : State} {b : Nat} (hrunning : (acqAt s b).state ≠ 0) (sum : SamplePair) (events : Nat)
    (clip : Bool) (marker : Option Nat) :
    sampling (baseSample s b sum events clip marker) b = ((acqAt s b).samples + 1, s.par, s.chan, s.quay,
      max s.tide (sampleInstant (acqAt s b) % 2 ^ 64)) := by
  have hcounted {f : Acq → Acq} (hf : ∀ x, (f x).samples = x.samples + 1) :
      sampling (modAcq (reach s (sampleInstant (acqAt s b))) b f) b = ((acqAt s b).samples + 1, s.par, s.chan, s.quay,
        max s.tide (sampleInstant (acqAt s b) % 2 ^ 64)) := by
    rw [sampling, acqAt_modAcq, hf]
    rfl
  unfold baseSample
  rw [if_neg hrunning]
  dsimp only
  split
  case h_1 =>
    refine sampling_ite ?keeps ?triggers
    case keeps => refine (sampling_modAcq _ b ?_).trans (hcounted ?_) <;> exact fun _ => rfl
    case triggers =>
      rw [sampling_recordEnd, sampling_postSample, sampling_raiseLines]
      refine (sampling_modAcq _ b fun x => ?_).trans (hcounted ?_)
      · exact ringNote_samples _ _ _
      · exact fun _ => rfl
  case h_2 =>
    rw [sampling_recordEnd, sampling_postSample]
    exact hcounted fun _ => rfl
  case h_3 =>
    refine sampling_ite (hcounted fun _ => rfl) ?_
    rw [sampling_missTrigger]
    exact hcounted fun _ => rfl

/-! ### Records (R221, R225) -/

/-- A record that has all it can hold begins its re-arm interval. -/
theorem acqAt_recordEnd {s : State} {b : Nat} (h : recordWhole (acqAt s b) = true) :
    acqAt (recordEnd s b) b = { acqAt s b with state := 3, closing := true } := by
  rw [recordEnd, acqAt_modAcq, if_pos h]

/-- A record that is closed with an image: the image waits for the spill, and the next number is open. -/
def closed (x : Acq) (img : List Byte) : Acq := { x with
  unspilled := x.unspilled ++ [(x.nextRecord, img)], nextRecord := x.nextRecord + 1
  early := if x.spilled = 0 then x.early else tabSet x.early x.nextRecord (2 * convCount x.setup * x.spilled)
  left := x.left - 1, post := [], spilled := 0, closing := false }

theorem acqAt_acqClose (s : State) (b : Nat) (why : CloseWhy) :
    acqAt (acqClose s b why) b = closed (acqAt s b) (recordImage s b (acqAt s b) why) := by
  have hcounts (t : State) (p : Prop) [Decidable p] (m : Nat) :
      acqAt (if p then count t 3 b 0x57 m else t) b = acqAt t b := by
    split <;> rfl
  unfold acqClose
  dsimp only
  rw [acqAt_modAcq, hcounts, hcounts]
  rfl

theorem exec_acqRecordClose {s : State} {b : Fin 64} (h : (acqAt s b).closing = true) :
    exec (.acqRecordClose b) s = .next (acqCloseWhole s b) := congrArg Host.Outcome.next (if_pos h)

/-- At the end of the re-arm interval the engine fills its ring for the next record, or is idle where none is left. -/
def rearmed (x : Acq) : Acq :=
  if x.continuous || x.left ≠ 0 then { acqRefill x with events := x.events } else { acqRefill x with state := 0 }

theorem rearmed_ring (x : Acq) : (rearmed x).ring = [] := by
  unfold rearmed
  split <;> rfl

theorem rearmed_state (x : Acq) : (rearmed x).state = if x.continuous = true ∨ x.left ≠ 0 then 1 else 0 := by
  simp only [rearmed, Bool.or_eq_true, decide_eq_true_eq]
  split <;> rfl

theorem exec_acqRearmEnd {s : State} {b : Fin 64} (hinterval : (acqAt s b).state = 3)
    (hclosed : (acqAt s b).closing = false) : exec (.acqRearmEnd b) s = .next (modAcq s b rearmed) := by
  change execAcqRearmEnd b s = _
  rw [execAcqRearmEnd, hinterval, hclosed]
  rfl

/-! ### Records in the hold (R233, R319) -/

/-- Where an image of `n` bytes goes: behind the last, or to the start where it does not fit there. -/
def spillPlace (x : Acq) (n : Nat) : Nat := if acqRegionBytes < x.writeAt + n then 0 else x.writeAt

section spill

variable {s : State} {b no : Nat} {img : List Byte} {rest : List (Nat × List Byte)}
  (holdest : (acqAt s b).unspilled = (no, img) :: rest)
include holdest

theorem acqSpillOne_of_down (hdown : stackIsDown s (stackOf (regionBase b)) = true) : acqSpillOne s b = s := by
  rw [acqSpillOne, holdest]
  exact if_pos hdown

variable (hup : stackIsDown s (stackOf (regionBase b)) = false)
include hup

/-- An image larger than the region takes the place of all records and is not held (log 96). -/
theorem acqAt_acqSpillOne_of_large (hlarge : acqRegionBytes < img.length) :
    acqAt (acqSpillOne s b) b = { acqAt s b with
      unspilled := rest, early := tabErase (acqAt s b).early no, held := [], writeAt := 0 } := by
  rw [acqSpillOne, holdest]
  dsimp only
  rw [if_neg (ne_true_of_eq_false hup), if_pos hlarge, acqAt_modAcq, acqAt_countN, acqAt_modAcq]

/-- An image that the region can take is its newest record, behind those that it leaves. -/
theorem acqAt_acqSpillOne_of_fits (hfits : img.length ≤ acqRegionBytes) : ∃ kept,
    acqAt (acqSpillOne s b) b = { acqAt s b with
      unspilled := rest, early := tabErase (acqAt s b).early no
      held := kept ++ [(no, spillPlace (acqAt s b) img.length, img.length)]
      writeAt := spillPlace (acqAt s b) img.length + img.length } := by
  rw [acqSpillOne, holdest]
  dsimp only
  rw [if_neg (ne_true_of_eq_false hup), if_neg (Nat.not_lt.mpr hfits), acqAt_modAcq, acqAt_holdWrite, acqAt_countN,
    acqAt_modAcq]
  simp only [decide_eq_true_eq]
  exact ⟨_, rfl⟩

end spill

/-- Settles O47: the sample counts whatever it triggers (`sampling_baseSample`), then the record's end, close and re-arm,
and where the spill puts it. -/
theorem acquisitionEvents : Obligations.AcquisitionEvents := by
  unfold Obligations.AcquisitionEvents
  intro s b
  refine ⟨fun hrunning sa sb ev clip mk => ⟨_, rfl, ?samples⟩, fun hwhole => ?ends, fun hclosing => ?closes,
    fun hinterval hclosed => ?rearms, fun no img rest holdest => ⟨fun hdown => ?stays, fun hup => ?spills⟩⟩
  case samples =>
    obtain ⟨hsamples, hpar, hchan, hquay, htide⟩ : _ ∧ _ ∧ _ ∧ _ ∧ _ := by
      simpa only [sampling, Prod.mk.injEq] using sampling_baseSample hrunning (sa, sb) ev.toNat clip (mk.map (·.toNat))
    exact ⟨htide ▸ Nat.le_max_right _ _, hsamples, hpar, hchan, hquay⟩
  case ends =>
    rw [acqAt_recordEnd hwhole]
    exact ⟨rfl, rfl⟩
  case closes =>
    refine ⟨_, exec_acqRecordClose hclosing, ?_⟩
    rw [acqCloseWhole, acqAt_acqClose]
    exact ⟨rfl, rfl, rfl, rfl, List.length_append⟩
  case rearms =>
    refine ⟨_, exec_acqRearmEnd hinterval hclosed, ?_⟩
    rw [acqAt_modAcq]
    exact ⟨rearmed_ring _, rearmed_state _⟩
  case stays => exact congrArg Host.Outcome.next (acqSpillOne_of_down holdest hdown)
  case spills =>
    refine ⟨acqSpillOne s b, rfl, ?_⟩
    rcases Nat.lt_or_ge acqRegionBytes img.length with hlarge | hfits
    · rw [acqAt_acqSpillOne_of_large holdest hup hlarge]
      exact ⟨rfl, fun _ => rfl, fun hfits => absurd hlarge (Nat.not_lt.mpr hfits)⟩
    · obtain ⟨kept, hheld⟩ := acqAt_acqSpillOne_of_fits holdest hup hfits
      rw [hheld]
      exact ⟨rfl, fun hlarge => absurd hlarge (Nat.not_lt.mpr hfits), fun _ => List.getLast?_concat⟩

end Sys2Proof.Acquisition
end

section
/-! The time-measurement units and the GATE inputs: arming, windows and edges (R222, R244 to R247, R250). -/

namespace Sys2Proof.TimeMeasurement

open Sys2Proof Sys2Proof.Machine Sys2Proof.Standing Sys2Proof.Acquisition

/-! ### Updates -/

@[simp] theorem tmuAt_modTmu (s : State) (b : Nat) (f : Tmu → Tmu) : tmuAt (modTmu s b f) b = f (tmuAt s b) :=
  congrArg Berth.tmu (berthAt_modBerth s b _)

@[simp] theorem tmuAt_modAcq (s : State) (b k : Nat) (f : Acq → Acq) : tmuAt (modAcq s k f) b = tmuAt s b := by
  by_cases hk : b = k
  · rw [hk, tmuAt, modAcq, berthAt_modBerth, tmuAt]
  · rw [tmuAt, modAcq, berthAt_modBerth_other s _ hk, tmuAt]

theorem tmuAt_modTmu_other (s : State) {b k : Nat} (f : Tmu → Tmu) (h : b ≠ k) :
    tmuAt (modTmu s k f) b = tmuAt s b := congrArg Berth.tmu (berthAt_modBerth_other s _ h)

/-! ### Arming (R246, R247) -/

section arms

variable {s : State} {b : Nat} (a : Nat)

/-- Where no window is open or scheduled the instant schedules one. -/
theorem tmuArmEvent_of_awaiting (hstate : (tmuAt s b).state = 1) (hnone : (tmuAt s b).pendOpen = none) :
    tmuArmEvent s b a = modTmu s b fun x => { x with pendOpen := some (a + winDelay x) } := by
  simp [tmuArmEvent, hstate, hnone]

/-- In an open window the instant is counted as ignored. -/
theorem tmuArmEvent_of_open (hstate : (tmuAt s b).state = 2) : tmuArmEvent s b a = count s 3 b 0x63 10 := by
  simp [tmuArmEvent, tmuArmed, hstate]

end arms

theorem exec_tmuArmingEvent {s : State} {b : Fin 64} {source : Fin 5} (a : Nat)
    (hsource : (tmuAt s b).source = source.val) :
    exec (.tmuArmingEvent b source a) s = .next (tmuArmEvent s b a) := congrArg Host.Outcome.next (if_pos hsource)

/-! ### Windows (R247, R250) -/

theorem exec_tmuWindowOpen {s : State} {b : Fin 64} {a : Nat} (hstate : (tmuAt s b).state = 1)
    (hdue : (tmuAt s b).pendOpen = some a) :
    exec (.tmuWindowOpen b) s = .next (windowOpen (reach s (a / 5000)) b) := by
  change execTmuWindowOpen b s = _
  simp only [execTmuWindowOpen, hdue]
  exact congrArg Host.Outcome.next (if_pos hstate)

theorem exec_tmuWindowClose {s : State} {b : Fin 64} {a : Nat} (hstate : (tmuAt s b).state = 2)
    (hdue : (tmuAt s b).closeAt = some a) :
    exec (.tmuWindowClose b) s = .next (windowClose (reach s (a / 5000)) b) := by
  change execTmuWindowClose b s = _
  simp only [execTmuWindowClose, hdue]
  exact congrArg Host.Outcome.next (if_pos hstate)

/-- A unit whose window at `a` opens. -/
def opened (x : Tmu) (a : Nat) : Tmu := { x with
  state := 2, windows := x.windows + 1, pendOpen := none, openAt := some a
  closeAt := if winLen x = 0 then none else some (a + winLen x)
  start := none, refAt := none, meas := [] }

theorem tmuAt_windowOpen {s : State} {b a : Nat} (hdue : (tmuAt s b).pendOpen = some a) :
    tmuAt (windowOpen s b) b = opened (tmuAt s b) a := by
  rw [windowOpen, tmuAt_modTmu, hdue]
  rfl

/-! ### What the evaluation of edges leaves alone (R244, R245, R248 to R252) -/

/-- The words of the unit, its windows so far, and the tide. -/
def windowing (s : State) (b : Nat) : List Word × Nat × Nat := ((tmuAt s b).words, (tmuAt s b).windows, s.tide)

/-- An update of the unit that keeps its words and its windows so far. -/
def KeepsWindows (f : Tmu → Tmu) : Prop := ∀ x, (f x).words = x.words ∧ (f x).windows = x.windows

theorem windowing_modTmu (s : State) (b : Nat) {f : Tmu → Tmu} (hf : KeepsWindows f) :
    windowing (modTmu s b f) b = windowing s b := by
  obtain ⟨hwords, hwindows⟩ := hf (tmuAt s b)
  rw [windowing, tmuAt_modTmu, hwords, hwindows]
  rfl

/-- An update that is made under a condition. -/
theorem windowing_modTmu_if {s t : State} {b : Nat} {p : Prop} [Decidable p] {f : Tmu → Tmu} (hf : KeepsWindows f)
    (h : windowing t b = windowing s b) : windowing (if p then modTmu t b f else t) b = windowing s b := by
  split
  · exact (windowing_modTmu t b hf).trans h
  · exact h

@[simp] theorem windowing_tmuCount (s : State) (b m : Nat) : windowing (tmuCount s b m) b = windowing s b :=
  windowing_modTmu s b (f := fun x => { x with counts := tabSet x.counts m (tabGet 0 x.counts m + 1) })
    fun _ => ⟨rfl, rfl⟩

theorem keepsWindows_pairsFlag (f : Nat) (p : Tmu → Nat × Nat → Bool) :
    KeepsWindows fun x => pairsFlag x f (p x) := by
  intro x
  exact List.foldlRecOn (motive := fun y : Tmu => y.words = x.words ∧ y.windows = x.windows) _ _ ⟨rfl, rfl⟩
    fun _ h _ _ => h

@[simp] theorem windowing_stampStore (s : State) (b : Nat) (e : TmuEdge) :
    windowing (stampStore s b e) b = windowing s b := by
  unfold stampStore
  dsimp only
  split
  · exact windowing_modTmu s b fun _ => ⟨rfl, rfl⟩
  · exact (windowing_modTmu _ b (f := fun x => tmuFlag x tStampFull) fun _ => ⟨rfl, rfl⟩).trans
      (windowing_tmuCount s b 9)

@[simp] theorem windowing_edgeEvaluate (s : State) (b input edge t : Nat) (prov : Bool) :
    windowing (edgeEvaluate s b input edge t prov) b = windowing s b := by
  unfold edgeEvaluate
  dsimp only
  split
  case h_1 =>
    split
    · split
      · exact windowing_modTmu s b fun _ => ⟨rfl, rfl⟩
      · exact windowing_tmuCount s b 5
    · split
      · split
        · exact windowing_modTmu s b fun _ => ⟨rfl, rfl⟩
        · exact windowing_tmuCount s b 4
      · rfl
  case h_2 =>
    split
    · split <;> exact windowing_modTmu s b fun _ => ⟨rfl, rfl⟩
    · rfl
  case h_3 => refine windowing_modTmu_if ?_ (windowing_modTmu_if ?_ rfl) <;> exact fun _ => ⟨rfl, rfl⟩
  case h_4 => rfl

@[simp] theorem windowing_edgeAccepted (s : State) (b : Nat) (e : TmuEdge) :
    windowing (edgeAccepted s b e) b = windowing s b := by
  unfold edgeAccepted
  dsimp only
  split
  · rw [windowing_modTmu _ b ?_, windowing_tmuCount, windowing_modTmu _ b ?_]
    · exact fun _ => ⟨rfl, rfl⟩
    · exact fun x => keepsWindows_pairsFlag 4 (fun y => wouldEnter y e.input e.edge) (tmuFlag x tOverrun)
  · rw [windowing_edgeEvaluate]
    have haccepted : windowing (modTmu s b fun x => { x with
        lastAccepted := tabSet x.lastAccepted e.input e.t, queueTide := Nat.max x.queueTide (e.t / 5000)
        queue := Nat.min 64 (queueAt (tmuAt s b) (e.t / 5000) + 1) }) b = windowing s b :=
      windowing_modTmu s b fun _ => ⟨rfl, rfl⟩
    have hflagged := windowing_modTmu_if (p := e.prov = true) (f := fun x => tmuFlag x tProvisional)
      (fun _ => ⟨rfl, rfl⟩) haccepted
    split
    · exact (windowing_stampStore _ b e).trans hflagged
    · exact hflagged

@[simp] theorem windowing_tmuTake (s : State) (b : Nat) (e : TmuEdge) :
    windowing (tmuTake s b e) b = windowing s b := by
  unfold tmuTake
  dsimp only
  split
  · split
    · split
      · exact windowing_tmuCount s b 3
      · exact windowing_edgeAccepted s b e
    · exact windowing_edgeAccepted s b e
  · rfl

@[simp] theorem windowing_tmuFlush (s : State) (b : Nat) : windowing (tmuFlush s b) b = windowing s b := by
  have hedges (es : List TmuEdge) (t : State) :
      windowing (es.foldl (fun u e => tmuTake u b e) t) b = windowing t b :=
    List.foldlRecOn (motive := fun u => windowing u b = windowing t b) _ _ rfl fun u hu e _ =>
      (windowing_tmuTake u b e).trans hu
  unfold tmuFlush
  dsimp only
  rw [hedges]
  split
  · rfl
  · exact windowing_modTmu s b fun _ => ⟨rfl, rfl⟩

@[simp] theorem windowing_differences (s : State) (b : Nat) : windowing (differences s b) b = windowing s b := by
  refine forAll_same (windowing · b) _ (fun t i => ?_) s _
  split
  · exact windowing_modTmu t b fun _ => ⟨rfl, rfl⟩
  · exact windowing_tmuCount t b 7

/-! ### The close of a window (R247, R250) -/

/-- The unit after its window: DONE where that was the last one of its count. -/
def closedWindow (x : Tmu) : Tmu := { x with
  state := if winCount x ≠ 0 && winCount x ≤ x.windows then 3 else 1
  openAt := none, closeAt := none, start := none, refAt := none, meas := [] }

/-- The window closes over a state in which its edges are evaluated. -/
theorem windowClose_closes (s : State) (b : Nat) :
    ∃ u, windowClose s b = modTmu u b closedWindow ∧ windowing u b = windowing s b := by
  unfold windowClose
  refine ⟨_, rfl, ?_⟩
  split <;> split <;> simp

theorem winCount_congr {x y : Tmu} (h : x.words = y.words) : winCount x = winCount y := by
  rw [winCount, tmuWord, h, winCount, tmuWord]

theorem windowClose_spec (s : State) (b : Nat) :
    (tmuAt (windowClose s b) b).state =
        (if winCount (tmuAt s b) ≠ 0 ∧ winCount (tmuAt s b) ≤ (tmuAt s b).windows then 3 else 1) ∧
      (tmuAt (windowClose s b) b).openAt = none ∧ (windowClose s b).tide = s.tide := by
  obtain ⟨u, hcloses, hkeeps⟩ := windowClose_closes s b
  obtain ⟨hwords, hwindows, htide⟩ : _ ∧ _ ∧ _ := by simpa only [windowing, Prod.mk.injEq] using hkeeps
  rw [hcloses, tmuAt_modTmu, ← winCount_congr hwords, ← hwindows]
  exact ⟨by simp [closedWindow], rfl, htide⟩

/-! ### Edges (R242 to R245) -/

theorem exec_tmuEdge_of_absent {s : State} {b : Fin 64} {input : Fin 19} {i : Nat} (edge : Fin 4)
    (h : edgeComes s b input i = false) : exec (.tmuEdge b input edge i) s = .next s :=
  congrArg Host.Outcome.next (if_neg (ne_true_of_eq_false h))

theorem exec_tmuEdge_of_comes {s : State} {b : Fin 64} {input : Fin 19} {i : Nat} (edge : Fin 4)
    (h : edgeComes s b input i = true) :
    exec (.tmuEdge b input edge i) s = .next (tmuEdgeAt (reach s (i / 5000 + 1)) b input edge i) :=
  congrArg Host.Outcome.next (if_pos h)

/-- The waiting edges more than 64 tc before the new one are evaluated in their order, over a state in which the others
wait (log 13). -/
theorem tmuEdgeAt_evaluates (s : State) (b input edge t : Nat) :
    let es := edgeInsert ⟨t, input, edge, !s.clk.ovenOk, fromSpare s b input⟩ (tmuAt s b).pendEdges
    ∃ u, tmuEdgeAt s b input edge t =
        (es.filter fun e => e.t / 5000 < t / 5000 - 64).foldl (fun v e => tmuTake v b e) u ∧
      tmuAt u b = { tmuAt s b with pendEdges := es.filter fun e => decide (t / 5000 - 64 ≤ e.t / 5000) } ∧
      u.tide = s.tide := by
  unfold tmuEdgeAt tmuFlushTo
  dsimp only
  rw [tmuAt_modTmu]
  exact ⟨_, rfl, by rw [tmuAt_modTmu, tmuAt_modTmu], rfl⟩

/-- The mode uses the edge, and it lies in the open window. -/
def taken (x : Tmu) (e : TmuEdge) : Prop :=
  x.state = 2 ∧ inOpenWindow x e.t = true ∧ edgeUsed x e.input e.edge = true

section edge

variable {s : State} {b : Nat} {e : TmuEdge}

theorem tmuTake_of_not_taken (h : ¬taken (tmuAt s b) e) : tmuTake s b e = s := by
  refine if_neg fun htaken => h ?_
  simpa [taken, and_assoc] using htaken

variable (h : taken (tmuAt s b) e)
include h

/-- Less than 160 units after the last accepted edge of its input an edge is only counted. -/
theorem tmuTake_of_close {p : Nat} (hlast : tabFind (tmuAt s b).lastAccepted e.input = some p)
    (hclose : e.t < p + 160) : tmuTake s b e = tmuCount s b 3 := by
  obtain ⟨hstate, hwindow, hused⟩ := h
  simp [tmuTake, hstate, hwindow, hused, hlast, hclose]

theorem tmuTake_of_apart (hapart : ∀ p, tabFind (tmuAt s b).lastAccepted e.input = some p → p + 160 ≤ e.t) :
    tmuTake s b e = edgeAccepted s b e := by
  obtain ⟨hstate, hwindow, hused⟩ := h
  cases hlast : tabFind (tmuAt s b).lastAccepted e.input with
  | none => simp [tmuTake, hstate, hwindow, hused, hlast]
  | some p => simp [tmuTake, hstate, hwindow, hused, hlast, Nat.not_lt.mpr (hapart p hlast)]

end edge

/-! ### GATE inputs (R222, R246) -/

/-- The unit of a berth, the parameters and the tide. -/
def unitState (s : State) (b : Nat) : Tmu × Par × Nat := (tmuAt s b, s.par, s.tide)

theorem unitState_eq_iff {s : State} {b : Nat} {x : Tmu} {p : Par} {i : Nat} :
    unitState s b = (x, p, i) ↔ tmuAt s b = x ∧ s.par = p ∧ s.tide = i := by simp [unitState]

theorem unitState_of_besideLines {s t : State} (h : besideLines t = besideLines s) (b : Nat) :
    unitState t b = unitState s b := by
  obtain ⟨hberth, -, -, hpar, htide⟩ := besideLines_eq_iff.mp h
  rw [unitState, tmuAt, Channels.berthAt_congr hberth, hpar, htide]
  rfl

theorem unitState_acqEvent (s : State) (b k n : Nat) : unitState (acqEvent s k n) b = unitState s b := by
  rw [unitState, acqEvent, tmuAt_modAcq]
  rfl

theorem unitState_tmuArmEvent_other (s : State) {b k : Nat} (a : Nat) (h : k ≠ b) :
    unitState (tmuArmEvent s k a) b = unitState s b := by
  unfold tmuArmEvent
  dsimp only
  split
  · rw [unitState, tmuAt_modTmu_other s _ h.symm]
    rfl
  · split <;> rfl

theorem unitState_tokenStart (s : State) (i b : Nat) : unitState (tokenStart s i) b = unitState s b := by
  have hquays := forAll_same (unitState · b) (fun t q => modQuay t q fun x => { x with startAt := some i })
    (fun _ _ => rfl) s ((List.range 16).filter (lacksToken s))
  refine List.foldlRecOn (motive := fun t => unitState t b = unitState s b) _ _ hquays fun t ht c _ => ?_
  split
  · split <;> exact ht
  · exact ht

theorem unitState_tokenGate (s : State) (g b : Nat) : unitState (tokenGate s g) b = unitState s b := by
  unfold tokenGate tokenEmit
  dsimp only
  split
  · split <;> exact unitState_tokenStart s _ b
  · rfl

/-- An engine whose setup selects this edge of input `g` takes it as an event. -/
def gateEvent (g : Nat) (rising : Bool) (s : State) (k : Nat) : State :=
  let w := setupWord (acqAt s k).setup 2
  if (acqAt s k).state ≠ 0 && fld w 18 2 = g && bit w 20 = !rising then acqEvent s k 4 else s

/-- The unit selects this edge of input `g`. -/
def selectsGate (x : Tmu) (g : Nat) (rising : Bool) : Bool := x.source = 1 && x.gateSel = g && x.gateFall = !rising

/-- What an edge of input `g` does at the berth `k`. -/
def gateSeen (g : Nat) (rising : Bool) (s : State) (k : Nat) : State :=
  let t := gateEvent g rising s k
  if selectsGate (tmuAt t k) g rising then tmuArmEvent t k (5000 * t.tide) else t

/-- The edge comes to every berth; then the trigger lines whose words select it are raised, and a rising one may bring
the start token. -/
theorem exec_gateEdge (g : Fin 4) (rising : Bool) (s : State) : ∃ p : Word → Bool, exec (.gateEdge g rising) s = .next (
    let u := forAll s (List.range 64) (gateSeen g rising)
    let t := raiseLines u 0 u.tide p
    if rising then tokenGate t g else t) := ⟨_, rfl⟩

theorem unitState_gateEvent (g : Nat) (rising : Bool) (s : State) (b k : Nat) :
    unitState (gateEvent g rising s k) b = unitState s b := by
  unfold gateEvent
  dsimp only
  split
  · exact unitState_acqEvent s b k 4
  · rfl

theorem unitState_gateSeen_other (g : Nat) (rising : Bool) (s : State) {b k : Nat} (h : k ≠ b) :
    unitState (gateSeen g rising s k) b = unitState s b := by
  have hevent := unitState_gateEvent g rising s b k
  unfold gateSeen
  dsimp only
  split
  · exact (unitState_tmuArmEvent_other _ _ h).trans hevent
  · exact hevent

/-- A unit that an edge at tide `i` arms. -/
def armedAt (x : Tmu) (i : Nat) : Tmu := { x with pendOpen := some (5000 * i + winDelay x) }

theorem unitState_gateSeen {g : Nat} {rising : Bool} {s : State} {b : Nat}
    (hselects : selectsGate (tmuAt s b) g rising = true) (hstate : (tmuAt s b).state = 1)
    (hnone : (tmuAt s b).pendOpen = none) :
    unitState (gateSeen g rising s b) b = (armedAt (tmuAt s b) s.tide, s.par, s.tide) := by
  obtain ⟨htmu, hpar, htide⟩ := unitState_eq_iff.mp (unitState_gateEvent g rising s b b)
  unfold gateSeen
  dsimp only
  rw [htmu, if_pos hselects, tmuArmEvent_of_awaiting _ (htmu ▸ hstate) (htmu ▸ hnone), unitState, tmuAt_modTmu, htmu,
    htide, ← hpar, ← htide]
  rfl

section visits

variable {α : Type} {look : State → α} {f : State → Nat → State} {b : Nat}
  (hother : ∀ s k, k ≠ b → look (f s k) = look s)
include hother

theorem look_forAll_of_notMem {bs : List Nat} (h : b ∉ bs) (s : State) : look (forAll s bs f) = look s :=
  List.foldlRecOn (motive := fun u => look u = look s) bs f rfl fun u hu k hk =>
    (hother u k fun heq => h (heq ▸ hk)).trans hu

/-- Where berths are visited once each, the visit of one berth alone changes what is seen of it. -/
theorem look_forAll_of_mem {bs : List Nat} (hb : b ∈ bs) (hnodup : bs.Nodup) (s : State) :
    ∃ t, look t = look s ∧ look (forAll s bs f) = look (f t b) := by
  induction bs generalizing s with
  | nil => exact absurd hb List.not_mem_nil
  | cons k bs ih =>
    obtain ⟨hk, hbs⟩ := List.nodup_cons.mp hnodup
    rcases List.mem_cons.mp hb with rfl | hmem
    · exact ⟨s, rfl, look_forAll_of_notMem hother hk (f s b)⟩
    · obtain ⟨t, ht, hvisit⟩ := ih hmem hbs (f s k)
      exact ⟨t, ht.trans (hother s k fun heq => hk (heq ▸ hmem)), hvisit⟩

end visits

/-- An edge that the unit selects arms it from the tide of the edge; the trigger lines and the start token, which the
edge may bring too, leave the unit alone. -/
theorem exec_gateEdge_arms {s : State} {b : Fin 64} {g : Fin 4} {rising : Bool}
    (hselects : selectsGate (tmuAt s b) g rising = true) (hstate : (tmuAt s b).state = 1)
    (hnone : (tmuAt s b).pendOpen = none) :
    ∃ t, exec (.gateEdge g rising) s = .next t ∧ unitState t b = (armedAt (tmuAt s b) s.tide, s.par, s.tide) := by
  obtain ⟨u, hu, hvisit⟩ := look_forAll_of_mem (look := (unitState · b)) (f := gateSeen g rising)
    (fun _ _ => unitState_gateSeen_other g rising _) (List.mem_range.mpr b.isLt) List.nodup_range s
  obtain ⟨htmu, hpar, htide⟩ := unitState_eq_iff.mp hu
  have harmed : unitState (forAll s (List.range 64) (gateSeen g rising)) b =
      (armedAt (tmuAt s b) s.tide, s.par, s.tide) := by
    rw [hvisit, unitState_gateSeen (htmu ▸ hselects) (htmu ▸ hstate) (htmu ▸ hnone), htmu, hpar, htide]
  obtain ⟨p, hexec⟩ := exec_gateEdge g rising s
  refine ⟨_, hexec, ?_⟩
  have hlines (e : Nat) := (unitState_of_besideLines (besideLines_raiseLines _ 0 e p) b).trans harmed
  dsimp only
  split
  · exact (unitState_tokenGate _ g b).trans (hlines _)
  · exact hlines _

/-- Settles O48: arming, the two ends of a window (`windowClose_spec`), edges as they come and as they are taken, and
the GATE inputs (`exec_gateEdge_arms`). -/
theorem timeMeasurementEvents : Obligations.TimeMeasurementEvents := by
  unfold Obligations.TimeMeasurementEvents
  intro s b
  refine ⟨fun source a hsource => ⟨fun hstate hnone => ?arms, fun hstate => ?ignores⟩, fun a hstate hdue => ?opens,
    fun a hstate hdue => ?closes, fun input edge i => ⟨fun habsent => ?absent, fun hcomes => ?comes⟩,
    fun e => ⟨fun hunused => ?unused, fun hused => ⟨fun p hlast hclose => ?close, fun hapart => ?apart⟩⟩,
    fun g rising hsource hgate hfall hstate hnone => ?gate⟩
  case arms =>
    refine ⟨_, (exec_tmuArmingEvent a hsource).trans (congrArg _ (tmuArmEvent_of_awaiting a hstate hnone)), ?_, rfl⟩
    rw [tmuAt_modTmu]
  case ignores => exact (exec_tmuArmingEvent a hsource).trans (congrArg _ (tmuArmEvent_of_open a hstate))
  case opens =>
    refine ⟨_, exec_tmuWindowOpen hstate hdue, ?_⟩
    rw [tmuAt_windowOpen (s := reach s (a / 5000)) hdue]
    exact ⟨rfl, rfl, rfl, Nat.le_max_right _ _⟩
  case closes =>
    obtain ⟨hends, hopen, htide⟩ := windowClose_spec (reach s (a / 5000)) b
    exact ⟨_, exec_tmuWindowClose hstate hdue, hends, hopen, htide ▸ Nat.le_max_right _ _⟩
  case absent => exact exec_tmuEdge_of_absent edge habsent
  case comes =>
    obtain ⟨u, hedge, htmu, htide⟩ := tmuEdgeAt_evaluates (reach s (i / 5000 + 1)) b input edge i
    exact ⟨_, u, exec_tmuEdge_of_comes edge hcomes, hedge, htmu, htide ▸ Nat.le_max_right _ _⟩
  case unused => exact tmuTake_of_not_taken hunused
  case close => exact tmuTake_of_close hused hlast hclose
  case apart => exact tmuTake_of_apart hused hapart
  case gate =>
    have hselects : selectsGate (tmuAt s b) g rising = true := by simp [selectsGate, hsource, hgate, hfall]
    obtain ⟨t, hexec, hunit⟩ := exec_gateEdge_arms hselects hstate hnone
    obtain ⟨htmu, hpar, htide⟩ := unitState_eq_iff.mp hunit
    exact ⟨t, hexec, by rw [htmu]; rfl, hpar, htide⟩

end Sys2Proof.TimeMeasurement
end

section
/-! The clocks over what ends with a lost reference: the ends of commands, measurements, calibrations and bakes, parks,
supplies that ramp down, and chain ports that go down (R42, R234, R263, R354, R367, R384, R476, R484). -/

namespace Sys2Proof.Clocks

open Sys2Proof Sys2Proof.Machine

/-- The clocks but for OvenOk, the tide, and the fault of the device. -/
def clocks (s : State) : Clk × Nat × Option Nat := ({ s.clk with ovenOk := false }, s.tide, s.devFault)

theorem tide_of_clocks {s t : State} (h : clocks t = clocks s) : t.tide = s.tide :=
  congrArg (fun x => x.2.1) h

theorem devFault_of_clocks {s t : State} (h : clocks t = clocks s) : t.devFault = s.devFault :=
  congrArg (fun x => x.2.2) h

/-- A field of the clocks that does not depend on OvenOk. -/
theorem clk_of_clocks {α : Type} {s t : State} (h : clocks t = clocks s) (field : Clk → α)
    (hfield : ∀ x : Clk, field { x with ovenOk := false } = field x) : field t.clk = field s.clk :=
  calc field t.clk = field (clocks t).1 := (hfield _).symm
    _ = field (clocks s).1 := by rw [h]
    _ = field s.clk := hfield _

theorem clocks_foldl {α : Type} (f : State → α → State) (hf : ∀ s x, clocks (f s x) = clocks s) (s : State)
    (xs : List α) : clocks (xs.foldl f s) = clocks s :=
  List.foldlRecOn (motive := fun t => clocks t = clocks s) xs f rfl fun t ht x _ => (hf t x).trans ht

theorem clocks_forAll (f : State → Nat → State) (hf : ∀ s n, clocks (f s n) = clocks s) (s : State) (xs : List Nat) :
    clocks (forAll s xs f) = clocks s := forAll_same clocks f hf s xs

/-! ### Updates -/

@[simp] theorem clocks_count (s : State) (sc i f m : Nat) : clocks (count s sc i f m) = clocks s := rfl
@[simp] theorem clocks_modChan (s : State) (c : Nat) (f : Chan → Chan) : clocks (modChan s c f) = clocks s := rfl
@[simp] theorem clocks_modBerth (s : State) (b : Nat) (f : Berth → Berth) : clocks (modBerth s b f) = clocks s := rfl
@[simp] theorem clocks_modSp (s : State) (b : Nat) (f : Sp → Sp) : clocks (modSp s b f) = clocks s := rfl
@[simp] theorem clocks_modAcq (s : State) (b : Nat) (f : Acq → Acq) : clocks (modAcq s b f) = clocks s := rfl
@[simp] theorem clocks_modTmu (s : State) (b : Nat) (f : Tmu → Tmu) : clocks (modTmu s b f) = clocks s := rfl
@[simp] theorem clocks_modCal (s : State) (b : Nat) (f : Cal → Cal) : clocks (modCal s b f) = clocks s := rfl
@[simp] theorem clocks_modQuay (s : State) (q : Nat) (f : Quay → Quay) : clocks (modQuay s q f) = clocks s := rfl
@[simp] theorem clocks_modTp (s : State) (p : Nat) (f : Tp → Tp) : clocks (modTp s p f) = clocks s := rfl
@[simp] theorem clocks_modLane (s : State) (l : Nat) (f : Lane → Lane) : clocks (modLane s l f) = clocks s := rfl

@[simp] theorem clocks_causeEvent (s : State) (n : Nat) : clocks (causeEvent s n) = clocks s := by
  unfold causeEvent
  dsimp only
  rw [Microwords.vec0_only]
  rfl

@[simp] theorem clocks_holdMod (s : State) (m c : Nat) : clocks (holdMod s m c) = clocks s := by
  obtain ⟨t, h⟩ := Channels.holdMod_only s m c
  rw [h]
  rfl

/-! ### What leaves, and the end of a command (R42, R355) -/

theorem clocks_of_onlyEnds {s t : State} (h : onlyEnds s t) : clocks t = clocks s := by
  rw [h]
  rfl

@[simp] theorem clocks_send (s : State) (x : Sent) : clocks (send s x) = clocks s :=
  clocks_of_onlyEnds (onlyEnds_send s x)

@[simp] theorem clocks_finish (s : State) (c : Cmd) (status : Nat) (d result : List Byte) :
    clocks (finish s c status d result) = clocks s := clocks_of_onlyEnds (onlyEnds_finish _ _ _ _ _)

@[simp] theorem clocks_complete (s : State) (c : Cmd) (status : Nat) (d result : List Byte) :
    clocks (complete s c status d result) = clocks s := clocks_of_onlyEnds (onlyEnds_complete _ _ _ _ _)

@[simp] theorem clocks_completeOk (s : State) (c : Cmd) (fs : List (Nat × Nat × Nat)) :
    clocks (completeOk s c fs) = clocks s := clocks_complete _ _ _ _ _

@[simp] theorem clocks_completeV (s : State) (c : Cmd) (v : Verdict) : clocks (completeV s c v) = clocks s :=
  clocks_complete _ _ _ _ _

@[simp] theorem clocks_completeAll (s : State) (p : Cmd → Bool) (v : Verdict) :
    clocks (completeAll s p v) = clocks s := clocks_foldl _ (fun t c => clocks_completeV t c v) _ _

@[simp] theorem clocks_calSchedule (s : State) (b : Nat) : clocks (calSchedule s b) = clocks s := by
  rw [ChainBakes.onlySchedules_calSchedule]
  rfl

@[simp] theorem clocks_bakeDrop (s : State) : clocks (bakeDrop s) = clocks s := by
  rw [bakeDrop, ChainBakes.onlySchedules_calReadyAgain]
  rfl

@[simp] theorem clocks_dropPending (s : State) (c : Cmd) (status : Nat) :
    clocks (dropPending s c status) = clocks s := by
  unfold dropPending
  split
  · split
    · rw [clocks_count, clocks_bakeDrop]
    · rfl
  · rfl

/-- What a command has set aside is given up. -/
@[simp] theorem clocks_unwind (s : State) (c : Cmd) (status : Nat) : clocks (unwind s c status) = clocks s := by
  unfold unwind
  split
  · split <;> simp
  · exact clocks_forAll _ (fun t q => clocks_modQuay t q _) _ _
  · exact clocks_forAll _ (fun t q => clocks_modQuay t q _) _ _
  · exact clocks_of_onlyEnds (onlyEnds_fillOver s c)
  · exact clocks_forAll _ (fun t q => clocks_modQuay t q _) _ _
  · exact clocks_forAll _ (fun t k => clocks_modChan t k _) _ _
  · exact clocks_dropPending _ _ _
  · rfl

@[simp] theorem clocks_cancel (s : State) (c : Cmd) (v : Verdict) : clocks (cancel s c v) = clocks s := by
  rw [cancel, clocks_completeV, clocks_unwind]

@[simp] theorem clocks_cancelAll (s : State) (p : Cmd → Bool) (v : Verdict) : clocks (cancelAll s p v) = clocks s :=
  clocks_foldl _ (fun t c => clocks_cancel t c v) _ _

theorem clocks_takeInterrupt (s : State) (c : Cmd) (v : Verdict) : clocks (takeInterrupt s c v) = clocks s := by
  unfold takeInterrupt
  dsimp only
  split
  · rfl
  · exact clocks_cancel s c v

theorem clocks_interruptOne (v : Verdict) (s : State) (c : Cmd) : clocks (interruptOne v s c) = clocks s := by
  unfold interruptOne
  dsimp only
  split
  · split
    · exact clocks_takeInterrupt _ _ _
    · rfl
  · exact clocks_cancel s c v

@[simp] theorem clocks_interrupt (s : State) (p : Cmd → Bool) (v : Verdict) : clocks (interrupt s p v) = clocks s :=
  clocks_foldl _ (clocks_interruptOne v) _ _

/-! ### Measurements that are cut (R234, R263) -/

@[simp] theorem clocks_acqClose (s : State) (b : Nat) (why : CloseWhy) : clocks (acqClose s b why) = clocks s := by
  unfold acqClose
  dsimp only
  split <;> split <;> rfl

@[simp] theorem clocks_acqEnd (s : State) (b : Nat) : clocks (acqEnd s b) = clocks s := by
  unfold acqEnd
  dsimp only
  rw [clocks_modAcq]
  split
  · exact clocks_acqClose _ _ _
  · split <;> simp

theorem clocks_differences (s : State) (b : Nat) : clocks (differences s b) = clocks s := by
  refine clocks_forAll _ (fun t i => ?_) _ _
  split <;> rfl

theorem clocks_windowClose (s : State) (b : Nat) : clocks (windowClose s b) = clocks s := by
  have hflush : clocks (tmuFlush s b) = clocks s :=
    Acknowledgement.tmuFlush_keeps (fun _ _ _ => rfl) (fun _ _ _ _ _ => rfl) s b
  unfold windowClose
  dsimp only
  rw [clocks_modTmu]
  split
  · rw [clocks_differences]
    split <;> exact hflush
  · split <;> exact hflush

@[simp] theorem clocks_tmuCut (s : State) (b : Nat) (provisional : Bool) :
    clocks (tmuCut s b provisional) = clocks s := by
  unfold tmuCut tmuEnd
  split
  · dsimp only
    rw [clocks_modTmu, clocks_modTmu]
    split
    · exact clocks_windowClose s b
    · rfl
  · rfl

/-- An armed measurement becomes provisional (R257). -/
def provisional (s : State) (b : Nat) : State :=
  if (tmuAt s b).state ≠ 0 then modTmu s b fun x => tmuFlag x tProvisional else s

/-- A lost oven takes OvenOk, flags measurements, and is told down the chain. -/
theorem ovenLost_only (s : State) :
    ∃ x o, ovenLost s = { s with clk := { s.clk with ovenOk := false }, berth := x, out := o } := by
  have hflags (t : State) : ∃ x, forAll t (List.range 64) provisional = { t with berth := x } := by
    refine forAll_keeps (fun u => ∃ x, u = { t with berth := x }) _ (fun u b hu => ?_) t _ ⟨_, rfl⟩
    unfold provisional
    split
    · obtain ⟨x, rfl⟩ := hu
      exact ⟨_, rfl⟩
    · exact hu
  have hlost (t : State) (ht : ∃ o, t = { s with out := o }) : ∃ x o,
      forAll { t with clk := { t.clk with ovenOk := false } } (List.range 64) provisional =
        { s with clk := { s.clk with ovenOk := false }, berth := x, out := o } := by
    obtain ⟨o, rfl⟩ := ht
    obtain ⟨x, hx⟩ := hflags { s with clk := { s.clk with ovenOk := false }, out := o }
    exact ⟨x, o, hx⟩
  refine hlost (if isPilot s && s.clk.ovenOk then send s (.signal none (.oven false)) else s) ?_
  split <;> exact ⟨_, rfl⟩

@[simp] theorem clocks_ovenLost (s : State) : clocks (ovenLost s) = clocks s := by
  obtain ⟨x, o, h⟩ := ovenLost_only s
  rw [h]
  rfl

/-! ### Calibrations and bakes that end (R384, R484) -/

theorem clocks_calSwitchBack (s : State) (b : Nat) : clocks (calSwitchBack s b) = clocks s := by
  unfold calSwitchBack calSwitch
  dsimp only
  split
  · split <;> rfl
  · rfl

theorem clocks_calReady (s : State) (b step i : Nat) : clocks (calReady s b step i) = clocks s := by
  unfold calReady calOwn
  split
  · exact clocks_calSchedule _ _
  · rfl

theorem clocks_calUndo (s : State) (b : Nat) (v : Option Verdict) : clocks (calUndo s b v) = clocks s := by
  unfold calUndo
  dsimp only
  split
  · rfl
  · split
    · exact (clocks_calReady _ _ _ _).trans (clocks_calSwitchBack s b)
    · split
      · rw [calEndUndone, clocks_completeAll, clocks_modCal]
        split <;> exact clocks_calSwitchBack s b
      · exact clocks_calSwitchBack s b

@[simp] theorem clocks_refLossCal (s : State) (b : Nat) : clocks (refLossCal s b) = clocks s := by
  unfold refLossCal calStop
  split
  · rfl
  · exact (clocks_calUndo _ _ _).trans (clocks_completeAll _ _ _)

@[simp] theorem clocks_bakeFaultEnd (s : State) (p : PendBake) (v : Verdict) :
    clocks (bakeFaultEnd s p v) = clocks s := by
  unfold bakeFaultEnd
  dsimp only
  split <;> simp

@[simp] theorem clocks_refLossBake (s : State) : clocks (refLossBake s) = clocks s := by
  unfold refLossBake
  split
  · split
    · rw [clocks_bakeFaultEnd, clocks_send]
    · rfl
  · rfl

@[simp] theorem clocks_chainUnalign (s : State) : clocks (chainUnalign s) = clocks s := by
  rw [Tides.chainUnalign_only]
  rfl

/-! ### Halts, disarms and parks (R194, R476) -/

@[simp] theorem clocks_haltRequest (s : State) (q cause : Nat) : clocks (haltRequest s q cause) = clocks s := by
  unfold haltRequest
  split <;> rfl

@[simp] theorem clocks_disarm (s : State) (q : Nat) : clocks (disarm s q) = clocks s := by
  refine (clocks_modQuay _ _ _).trans (clocks_forAll _ (fun t b => ?_) _ _)
  split <;> rfl

theorem clocks_leaveArmed (s : State) (b : Nat) : clocks (leaveArmed s b) = clocks s := by
  unfold leaveArmed
  dsimp only
  split
  · split
    · rw [startsWithout, clocks_cancelAll, clocks_disarm, clocks_modQuay]
    · rfl
  · rfl

theorem clocks_parkBerth (s : State) (b : Nat) (toFault : Bool) (groups : List (List Nat)) :
    clocks (parkBerth s b toFault groups) = clocks s := by
  have hstart (t : State) (c : Nat) : clocks (parkStart t c) = clocks t := clocks_holdMod t _ c
  rw [parkBerth, parkOrderly, measureCut]
  rw [clocks_modBerth, clocks_forAll _ hstart, clocks_tmuCut, clocks_acqEnd]

theorem clocks_parkOne (s : State) (b cause wait : Nat) (group : List Nat) :
    clocks (parkOne s b cause wait group) = clocks s := by
  unfold parkOne
  dsimp only
  split
  · rfl
  · split
    · rfl
    · split
      · exact clocks_haltRequest _ _ _
      · rw [clocks_parkBerth, clocks_leaveArmed]

/-! ### Supplies that ramp down (R291) -/

theorem clocks_pwmAll (s : State) (b : Nat) (l : Pwm) : clocks (pwmAll s b l) = clocks s :=
  clocks_forAll _ (fun t m => clocks_modSp t m _) s _

theorem clocks_offNow (s : State) (b : Nat) : clocks (offNow s b) = clocks s := by
  unfold offNow
  dsimp only
  split
  · rfl
  · exact clocks_pwmAll _ _ _

theorem clocks_offRamp (s : State) (b : Nat) : clocks (offRamp s b) = clocks s := by
  have hlate : clocks (if rampBusy s b then modSp s b fun x => { x with offAfter := true } else offNow s b) =
      clocks s := by
    split
    · rfl
    · exact clocks_offNow s b
  have hramp (target slew : Nat) : clocks (rampStart s b target slew false) = clocks s := by
    rw [rampStart, clocks_modSp]
    split <;> rfl
  unfold offRamp
  dsimp only
  split
  · rfl
  · rfl
  · exact hlate
  · exact hlate
  · split
    · rfl
    · split
      · rfl
      · exact hramp _ _

theorem clocks_offOrderly (s : State) (bs : List Nat) : clocks (offOrderly s bs) = clocks s := by
  unfold offOrderly
  split
  · rfl
  · exact clocks_forAll _ clocks_offRamp s _

theorem clocks_settle (s : State) : clocks (settle s) = clocks s := by
  unfold settle
  dsimp only
  rw [clocks_forAll]
  · refine clocks_foldl _ (fun t c => ?_) _ _
    split <;> simp
  · intro t z
    split <;> rfl

/-- The orderly park of the device halts its quays, parks its berths and lets its supplies go off. -/
theorem clocks_refLossPark (s : State) : clocks (refLossPark s) = clocks s := by
  unfold refLossPark
  dsimp only
  have hadvance (t : State) : clocks (offAdvance t) = clocks t := rfl
  rw [clocks_settle, hadvance]
  generalize hu : forAll s (List.range 16) _ = u
  have hquays : clocks u = clocks s := by
    rw [← hu]
    refine clocks_forAll _ (fun t q => ?_) _ _
    split
    · exact clocks_haltRequest t q 5
    · split
      · exact clocks_disarm t q
      · rfl
  have hberths (bs : List Nat) (group : State → List Nat) :
      clocks (forAll u bs fun t b => parkOne t b 5 800 (group t)) = clocks u :=
    clocks_forAll _ (fun t b => clocks_parkOne t b 5 800 _) _ _
  split
  · exact (clocks_offOrderly _ _).trans ((hberths _ _).trans hquays)
  · exact (hberths _ _).trans hquays

/-! ### Sequences and parts of commands (R38, R275) -/

theorem clocks_undoNext (s : State) (c : Cmd) (tag : Nat) : clocks (undoNext s c tag) = clocks s := by
  have hundo (t : State) (b home slew : Nat) (off : Bool) : clocks (undoTo t b home slew off tag) = clocks t := by
    unfold undoTo
    split
    · exact clocks_pwmAll _ _ _
    · rfl
  unfold undoNext
  split
  · split
    · exact hundo _ _ _ _ _
    · exact clocks_completeV _ _ _
  · rfl

theorem clocks_sequenceSettle (s : State) (c : Cmd) : clocks (sequenceSettle s c) = clocks s := by
  unfold sequenceSettle
  split
  · dsimp only
    split
    · split <;> simp
    · rfl
  · rfl

theorem clocks_abortParts (s : State) (c : Cmd) : clocks (abortParts s c) = clocks s := by
  unfold abortParts
  split
  · exact clocks_foldl _ (fun t i => clocks_send t _) _ _
  · rfl

theorem clocks_sequencePart (s : State) (c : Cmd) (status : Nat) (data : List Byte) :
    clocks (sequencePart s c status data) = clocks s := by
  unfold sequencePart
  split
  · split
    · rfl
    · split
      · exact (clocks_undoNext _ _ _).trans (clocks_abortParts _ _)
      · exact clocks_sequenceSettle _ _
  · rfl

theorem clocks_noteTrays (s : State) (op : HostOp) (i status : Nat) : clocks (noteTrays s op i status) = clocks s := by
  unfold noteTrays
  split
  · split <;> rfl
  · rfl

theorem clocks_partReply (s : State) (c : Cmd) (i : Nat) (status : BitVec 16) (data : List Byte) :
    clocks (partReply s c i status data) = clocks s := by
  unfold partReply
  extract_lets k t
  have hpart : clocks t = clocks s := (clocks_sequencePart _ _ _ _).trans (clocks_noteTrays _ _ _ _)
  split
  · split
    · exact (clocks_complete _ _ _ _ _).trans hpart
    · exact hpart
  · exact hpart

theorem clocks_lostReplies (s : State) (i : Nat) : clocks (lostReplies s i) = clocks s := by
  refine clocks_foldl _ (fun t c => ?_) _ _
  split
  · exact clocks_finish _ _ _ _ _
  · exact clocks_partReply _ _ _ _ _

theorem clocks_bcastSettle (s : State) (c : Cmd) : clocks (bcastSettle s c) = clocks s := by
  unfold bcastSettle
  split
  · dsimp only
    split
    · split <;> simp
    · rfl
  · rfl

/-! ### An alignment that has its measurements (R361) -/

theorem clocks_alignCorrect (s : State) (c : Cmd) (ts : List (Nat × Int × Bool)) :
    clocks (alignCorrect s c ts) = clocks s := clocks_foldl _ (fun t _ => clocks_send t _) _ _

theorem clocks_alignEnd (s : State) (c : Cmd) (ts : List (Nat × Int × Bool)) :
    clocks (alignEnd s c ts) = clocks s := by
  unfold alignEnd
  dsimp only
  split
  · exact (clocks_completeV _ _ _).trans (clocks_send _ _)
  · rw [clocks_completeOk, clocks_send]
    exact clocks_foldl _ (fun t i => clocks_send t _) _ _

theorem clocks_alignSettle (s : State) : clocks (alignSettle s) = clocks s := by
  unfold alignSettle
  split
  · rfl
  · split
    · rfl
    · split
      · exact clocks_completeOk _ _ _
      · split
        · rfl
        · split
          · exact clocks_complete _ _ _ _ _
          · split
            · exact clocks_alignCorrect _ _ _
            · split
              · rfl
              · exact clocks_alignEnd _ _ _

/-! ### Ports and subtrees (R354, R367) -/

theorem clocks_chainLost (s : State) (root : Nat) : clocks (chainLost s root) = clocks s := by
  unfold chainLost
  extract_lets +lift gone chain marked replied settled
  split
  · rfl
  · have hreplied : clocks replied = clocks s :=
      (clocks_forAll _ clocks_lostReplies _ _).trans (clocks_causeEvent marked 4)
    have hsettled : clocks settled = clocks replied := by
      dsimp only [settled]
      split
      · exact clocks_bcastSettle _ _
      · rfl
    rw [clocks_alignSettle, hsettled, hreplied]

theorem clocks_laneLeave (s : State) (l : Nat) (st : LaneState) (cause : Nat) :
    clocks (laneLeave s l st cause) = clocks s := rfl

theorem clocks_laneTrain (s : State) (l cause : Nat) : clocks (laneTrain s l cause) = clocks s := rfl

theorem clocks_portDown (s : State) (p : Nat) : clocks (portDown s p) = clocks s := by
  unfold portDown
  extract_lets +lift role root counted trained reset chain granted
  have htrained : clocks trained = clocks s :=
    clocks_forAll _ (fun t l => (clocks_laneTrain _ l 7).trans (clocks_laneLeave t l .train 7)) _ _
  clear_value trained role root
  have hgranted : clocks granted = clocks s := htrained
  split
  · split
    · rw [clocks_alignSettle, clocks_send, hgranted]
    · exact (clocks_chainLost _ _).trans hgranted
  · exact (clocks_alignSettle _).trans hgranted

end Sys2Proof.Clocks
end

section
/-! The oven and LOST over the chain; the loss of a reference, the coast, fallback, recovery and the first lock (R256,
R366, R367, R463 to R484). -/

namespace Sys2Proof.References

open Sys2Proof Sys2Proof.Machine Sys2Proof.Clocks

/-! ### The oven (R256, R257, R366) -/

/-- What a lost oven takes and leaves. -/
theorem ovenLost_spec (s : State) : (ovenLost s).clk.ovenOk = false ∧ (ovenLost s).clk.ovenLevel = s.clk.ovenLevel ∧
    (ovenLost s).acks = s.acks ∧ (ovenLost s).chain = s.chain ∧ (ovenLost s).tide = s.tide := by
  obtain ⟨x, o, h⟩ := ovenLost_only s
  rw [h]
  exact ⟨rfl, rfl, rfl, rfl, rfl⟩

/-- A level that falls: the count, and the oven is lost where it is the device's own. -/
def ovenFallen (s : State) : State :=
  let t := count { s with clk := { s.clk with ovenLevel := false } } 6 0 0x64 1
  if isFollower s then t else ovenLost t

theorem exec_ovenRdyRise {s : State} (h : s.clk.ovenLevel = false) : exec .ovenRdyRise s =
    .next { s with clk := { s.clk with ovenLevel := true, ovenRise := s.tide } } := by
  change execOvenRdyRise s = _
  rw [execOvenRdyRise, if_neg (ne_true_of_eq_false h)]

theorem exec_ovenRdyFall {s : State} (h : s.clk.ovenLevel = true) : exec .ovenRdyFall s = .next (ovenFallen s) := by
  change execOvenRdyFall s = _
  rw [execOvenRdyFall, if_pos h]
  rfl

theorem ovenFallen_spec (s : State) : (ovenFallen s).clk.ovenLevel = false ∧
    ackOf (ovenFallen s) (pid 6 0 0x64 1) = ackBump (ackOf s (pid 6 0 0x64 1)) ∧
    (isFollower s = false → (ovenFallen s).clk.ovenOk = false) := by
  generalize ht : count { s with clk := { s.clk with ovenLevel := false } } 6 0 0x64 1 = t
  have hlevel : t.clk.ovenLevel = false := by rw [← ht]; rfl
  have hcount : ackOf t (pid 6 0 0x64 1) = ackBump (ackOf s (pid 6 0 0x64 1)) := by
    rw [← ht]
    exact ackOf_count_same _ _ _ _ _
  obtain ⟨hlost, hkeeps, hacks, -, -⟩ := ovenLost_spec t
  have hfallen : ovenFallen s = if isFollower s then t else ovenLost t := by rw [← ht, ovenFallen]
  rw [hfallen]
  split
  · next hfollower => exact ⟨hlevel, hcount, fun hpilot => absurd hfollower (ne_true_of_eq_false hpilot)⟩
  · refine ⟨hkeeps.trans hlevel, ?_, fun _ => hlost⟩
    rw [ackOf, hacks]
    exact hcount

/-- The tide at which the oven qualifies, and its signal down the chain. -/
theorem exec_ovenQualified {s : State} (hlevel : s.clk.ovenLevel = true) (href : ovenReference s = true)
    (hpilot : isFollower s = false) :
    ∃ t, exec .ovenQualified s = .next t ∧ t.clk.ovenOk = true ∧ t.tide = Nat.max s.tide (ovenDue s % 2 ^ 64) := by
  change ∃ t, execOvenQualified s = _ ∧ _
  rw [execOvenQualified, if_pos (by simp [hlevel, href, hpilot])]
  refine ⟨_, rfl, rfl, ?_⟩
  dsimp only
  split <;> rfl

/-- A follower notes when OVEN came, and copies it down. -/
def ovenHeard (s : State) (ok : Bool) : State :=
  copyDown { s with chain := { s.chain with ovenAt := s.tide } } (.oven ok)

section follower

variable {s : State} (hfollower : isFollower s = true)
include hfollower

theorem exec_oven_locked (hlocked : s.clk.refState = .locked) : exec (.oven true) s =
    .next { ovenHeard s true with clk := { s.clk with ovenOk := true } } := by
  change execOven true s = _
  rw [execOven, if_neg (by simp [hfollower])]
  exact congrArg _ (if_pos hlocked)

theorem exec_oven_lost : exec (.oven false) s = .next (ovenLost (ovenHeard s false)) := by
  change execOven false s = _
  rw [execOven, if_neg (by simp [hfollower])]
  rfl

theorem exec_ovenTimeout : exec .ovenTimeout s =
    .next (ovenLost (reach s (s.chain.ovenAt + threeMarkers (portAt s s.chain.upPort).rate))) := by
  change execOvenTimeout s = _
  rw [execOvenTimeout, if_pos hfollower]

theorem exec_lost_follower (i : Fin 128) : exec (.lost i) s = .next (upSignal s (.lost i.val)) := by
  change execLost i s = _
  rw [execLost, if_pos hfollower]

end follower

theorem exec_lost_pilot {s : State} (i : Fin 128) (hfollower : isFollower s = false) (hpilot : isPilot s = true) :
    exec (.lost i) s = .next (chainLost s i.val) := by
  change execLost i s = _
  rw [execLost, if_neg (ne_true_of_eq_false hfollower), if_pos hpilot]

theorem exec_followerThermalReport {s : State} (i : Fin 128) (zone : Fin 24) (sensor : Fin 104)
    (hpilot : isPilot s = true) : exec (.followerThermalReport i zone sensor) s = .next (causeEvent s 5) := by
  change execFollowerThermalReport i zone sensor s = _
  rw [execFollowerThermalReport, followerThermal, if_pos hpilot]

/-- Settles O37: an OVEN 1 that comes is taken as it is, an OVEN 0 and the lack of OVEN lose the oven
(`ovenLost_spec`), and LOST goes up. -/
theorem ovenAndLost : Obligations.OvenAndLost := by
  unfold Obligations.OvenAndLost
  refine ⟨fun s hfollower => ⟨fun hlocked => ⟨_, exec_oven_locked hfollower hlocked, rfl, rfl⟩, ?_, ?_,
    exec_lost_follower hfollower⟩, fun s i hfollower hpilot => ⟨exec_lost_pilot i hfollower hpilot,
      fun zone sensor => exec_followerThermalReport i zone sensor hpilot⟩⟩
  · obtain ⟨hlost, -, -, hchain, -⟩ := ovenLost_spec (ovenHeard s false)
    refine ⟨_, exec_oven_lost hfollower, hlost, ?_⟩
    rw [hchain]
    rfl
  · obtain ⟨hlost, -, -, -, htide⟩ :=
      ovenLost_spec (reach s (s.chain.ovenAt + threeMarkers (portAt s s.chain.upPort).rate))
    refine ⟨_, exec_ovenTimeout hfollower, hlost, ?_⟩
    rw [htide]
    exact Nat.le_max_right _ _

/-! ### The loss of the reference (R475 to R477, R484) -/

/-- A declaration up to the start of the coast. -/
def coastBegun (s : State) : State := coastStart (causeEvent (refSelectFail s) 3)

/-- From the start of the coast on, a declaration changes no clock but OvenOk. -/
theorem clocks_refLoss (s : State) : clocks (refLoss s) = clocks (coastBegun s) := by
  unfold refLoss
  extract_lets +lift failed caused coast forced ended ramps cals bake cut oven chain lost parked told
  have hended : clocks ended = clocks coast := (clocks_interrupt _ _ _).trans (clocks_cancelAll _ _ _)
  have hramps : clocks ramps = clocks ended := by
    refine clocks_forAll _ (fun t b => ?_) _ _
    split
    · exact clocks_cancelAll _ _ _
    · rfl
  have hbake : clocks bake = clocks ramps := (clocks_refLossBake _).trans (clocks_forAll _ clocks_refLossCal _ _)
  have hoven : clocks oven = clocks bake :=
    (clocks_ovenLost _).trans (clocks_forAll _ (fun t b => clocks_tmuCut t b true) _ _)
  clear_value oven
  have hlost : clocks lost = clocks oven := by
    dsimp only [lost]
    split <;> rfl
  have hparked : clocks parked = clocks lost := clocks_send _ _
  have htold : clocks told = clocks lost := by
    dsimp only [told]
    split
    · split
      · split
        · exact hparked
        · exact (clocks_chainUnalign _).trans hparked
      · exact (clocks_chainUnalign _).trans hparked
    · rfl
  have hdevice (t : State) : clocks (deviceParked t) = clocks t := rfl
  rw [hdevice, clocks_refLossPark, htold, hlost, hoven, hbake, hramps, hended]
  rfl

theorem refLoss_coasts (s : State) :
    (refLoss s).clk.refState = .coast ∧ (refLoss s).clk.pllLock = false ∧ (refLoss s).unparked = false :=
  ⟨clk_of_clocks (clocks_refLoss s) Clk.refState fun _ => rfl,
    clk_of_clocks (clocks_refLoss s) Clk.pllLock fun _ => rfl, rfl⟩

theorem exec_refLossDeclared {s : State} (h : s.clk.refState = .locked ∨ s.clk.refState = .relock ∨
    (s.clk.refState = .coast ∧ s.clk.unsettled = true)) : exec .refLossDeclared s = .next (refLoss s) := by
  change execRefLossDeclared s = _
  rw [execRefLossDeclared, if_pos h]

/-! ### The coast (R464, R479) -/

/-- CoastMin has ended. -/
def coasted (s : State) (i : Nat) : State := modClk (reach s i) fun x => { x with coastDone := true, coastEnd := none }

theorem exec_coastMinExpiry {s : State} {i : Nat} (hend : s.clk.coastEnd = some i) (hcoast : s.clk.refState = .coast)
    (hdone : s.clk.coastDone = false) : exec .coastMinExpiry s = .next (switchover (coasted s i)) := by
  change execCoastMinExpiry s = _
  rw [execCoastMinExpiry, hend]
  dsimp only
  rw [if_pos (by simp [hcoast, hdone])]
  rfl

/-- The decision at the end of CoastMin: the fallback begins where the device's own oscillator is ready and trimmed,
else it is put off. -/
theorem switchover_spec {s : State} (hcoast : s.clk.refState = .coast) (hdone : s.clk.coastDone = true)
    (hnone : s.clk.fallbackBy = none) :
    (switchover s).tide = s.tide ∧ (switchover s).clk.coastDone = true ∧
      (s.clk.hkSettled = true → s.clk.trimLock = true → (switchover s).clk.fallbackBy = some (s.tide + 1600000)) ∧
      (s.clk.hkSettled = false ∨ s.clk.trimLock = false → (switchover s).clk.unsettled = true) := by
  unfold switchover
  rw [if_pos (by simp [hcoast, hdone, hnone])]
  split
  · next hready =>
    obtain ⟨hsettled, htrim⟩ := Bool.and_eq_true_iff.mp hready
    exact ⟨rfl, hdone, fun _ _ => rfl, by simp [hsettled, htrim]⟩
  · next hready =>
    have hlate (hsettled : s.clk.hkSettled = true) : ¬s.clk.trimLock = true :=
      fun htrim => hready (by simp [hsettled, htrim])
    split
    · next hunsettled => exact ⟨rfl, hdone, fun hsettled htrim => absurd htrim (hlate hsettled), fun _ => hunsettled⟩
    · exact ⟨rfl, hdone, fun hsettled htrim => absurd htrim (hlate hsettled), fun _ => rfl⟩

/-! ### A long coast (R464) -/

/-- A lane in electrical idle. -/
def laneOff (s : State) (l : Nat) : State := modLane s l fun x => { x with state := .off }

/-- After 10 ms of coast the chain ports are down. -/
def portsDown (s : State) (i : Nat) : State :=
  forAll (modClk (reach s i) fun x => { x with coastLong := none }) (List.range 4) fun s p =>
    if 2 ≤ (portAt s p).state then portDown s p else s

/-- And the lanes are in electrical idle. -/
def lanesOff (s : State) (i : Nat) : State := forAll (portsDown s i) (List.range 48) laneOff

/-- The hold stacks are in self-refresh. -/
def selfRefreshed (s : State) : State := { s with hold := { s.hold with selfRefresh := 3 } }

theorem selfRefreshed_tide (s : State) : (selfRefreshed s).tide = s.tide := rfl
theorem selfRefreshed_hold (s : State) : (selfRefreshed s).hold.selfRefresh = 3 := rfl
theorem laneAt_selfRefreshed (s : State) (l : Nat) : laneAt (selfRefreshed s) l = laneAt s l := rfl

theorem exec_coastLongTimeout {s : State} {i : Nat} (hlong : s.clk.coastLong = some i)
    (hcoast : s.clk.refState = .coast) : exec .coastLongTimeout s = .next (selfRefreshed (lanesOff s i)) := by
  change execCoastLongTimeout s = _
  rw [execCoastLongTimeout, hlong]
  dsimp only
  rw [if_pos hcoast]
  unfold selfRefreshed lanesOff portsDown laneOff
  rfl

theorem laneOff_forAll (s : State) {l : Nat} {ls : List Nat} (h : l ∈ ls) (hnodup : ls.Nodup) :
    (laneAt (forAll s ls laneOff) l).state = .off := by
  obtain ⟨t, -, hlane⟩ := TimeMeasurement.look_forAll_of_mem (look := (laneAt · l)) (f := laneOff)
    (fun u k hk => laneAt_setLane_other u k l _ hk.symm) h hnodup s
  rw [show laneAt (forAll s ls laneOff) l = laneAt (laneOff t l) l from hlane, laneOff, modLane, laneAt_setLane]

theorem lanesOff_tide (s : State) (i : Nat) : (lanesOff s i).tide = Nat.max s.tide (i % 2 ^ 64) := by
  have hports : clocks (portsDown s i) = clocks (modClk (reach s i) fun x => { x with coastLong := none }) := by
    refine clocks_forAll _ (fun t p => ?_) _ _
    split
    · exact clocks_portDown t p
    · rfl
  have hlanes : clocks (lanesOff s i) = clocks (portsDown s i) :=
    clocks_forAll _ (fun t l => clocks_modLane t l _) _ _
  exact tide_of_clocks (hlanes.trans hports)

/-! ### Fallback (R478, R481) -/

/-- The PLL runs on the device's own oscillator. -/
def fellBack (s : State) : State := count (modClk (coastReturn s) fun x => { x with refState := .fallback }) 6 0 0xB1 8

theorem exec_fallbackLocked {s : State} (hcoast : s.clk.refState = .coast) (hfallback : s.clk.fallbackBy ≠ none) :
    exec .fallbackLocked s = .next (fellBack s) := by
  change execFallbackLocked s = _
  rw [execFallbackLocked, if_pos (by simp [hcoast, Option.isSome_iff_ne_none, hfallback])]
  rfl

theorem exec_fallbackTimeout {s : State} {i : Nat} (hcoast : s.clk.refState = .coast)
    (hfallback : s.clk.fallbackBy = some i) : exec .fallbackTimeout s =
      .next (deviceFault (modClk (reach s i) fun x => { x with fallbackBy := none }) 0x92 0) := by
  change execFallbackTimeout s = _
  rw [execFallbackTimeout, hfallback]
  exact congrArg _ (if_pos hcoast)

/-- A device without a fault takes the one that befalls it; its deferred commands end. -/
theorem deviceFault_spec {s : State} (src inst : Nat) (hnone : s.devFault = none) :
    (deviceFault s src inst).devFault = some src ∧ (deviceFault s src inst).tide = s.tide := by
  have hno : ¬s.devFault.isSome = true := by simp [hnone]
  have henter : clocks (deviceFault s src inst) = clocks { s with devFault := some src } := by
    rw [deviceFault, if_neg hno, deferredEnd, clocks_cancelAll, devFaultEnter, if_neg hno, clocks_causeEvent]
    rfl
  have htide := tide_of_clocks henter
  exact ⟨devFault_of_clocks henter, htide⟩

/-! ### Recovery (R480, R482) -/

/-- The lost reference has qualified again. -/
def refReturned (s : State) : State := modClk s fun x => { setPresent x x.refSel true with refBack := true }

theorem exec_refQualified {s : State} (h : s.clk.refState = .coast ∨ s.clk.refState = .fallback) :
    exec .refQualified s = .next (if liveF s 6 0 0xB0 0 1 1 = 1 then modClk (refReturned s) fun x => { x with
        refState := .relock, coastEnd := none, coastDone := false, fallbackBy := none, pllLock := false }
      else refReturned s) := by
  change execRefQualified s = _
  rw [execRefQualified, if_pos h]
  rfl

/-- The PLL has locked again. -/
def relocked (s : State) : State := modClk (coastReturn s) fun x => { x with refState := .locked }

theorem exec_relockDone_returned {s : State} (hrelock : s.clk.refState = .relock) (hnone : s.inflight = []) :
    exec .relockDone s = .next (count (relocked s) 6 0 0xB1 4) := by
  change execRelockDone s = _
  rw [execRelockDone, if_pos hrelock, hnone]
  rfl

theorem exec_relockDone_selected {s : State} {c : Cmd} (hrelock : s.clk.refState = .relock) (hone : s.inflight = [c])
    (hphase : c.phase = .running) (hwork : c.work = .refSelect) : exec .relockDone s = .next (refSelectDone s c) := by
  change execRelockDone s = _
  rw [execRelockDone, if_pos hrelock, hone, List.find?_cons_of_pos (by simp [hphase, hwork])]

/-- A REF_SELECT has its reference in use. -/
def refTaken (s : State) (c : Cmd) (r : Nat) : State :=
  let t := modClk (relocked s) fun x => { x with refSel := r, trimSource := trimSourceOf (relocked s) r }
  let t := if r = 1 then t else ovenLost t
  if c.hdr.scope = 7 then chainUnalign t else t

theorem clocks_refTaken (s : State) (c : Cmd) (r : Nat) : clocks (refTaken s c r) =
    clocks (modClk (relocked s) fun x => { x with refSel := r, trimSource := trimSourceOf (relocked s) r }) := by
  unfold refTaken
  extract_lets t u
  have hoven : clocks u = clocks t := by
    dsimp only [u]
    split
    · rfl
    · exact clocks_ovenLost t
  split
  · exact (clocks_chainUnalign u).trans hoven
  · exact hoven

theorem refSelectDone_of_inTime {s : State} {c : Cmd} {r : Byte} (hop : c.op = .refSelect r)
    (htime : s.tide ≤ c.started + 1200000) : refSelectDone s c = completeOk (refTaken s c r.toNat) c [] := by
  rw [refSelectDone, hop]
  exact if_pos htime

theorem refSelectDone_of_late {s : State} {c : Cmd} {r : Byte} (hop : c.op = .refSelect r)
    (hlate : ¬s.tide ≤ c.started + 1200000) : refSelectDone s c = completeV (relocked s) c (hwFault 0x91 0) := by
  rw [refSelectDone, hop]
  exact if_neg hlate

/-- A REF_SELECT that reaches lock leaves the PLL locked: to its reference in time, later to the one before. -/
theorem refSelectDone_spec {s : State} {c : Cmd} {r : Byte} (hop : c.op = .refSelect r) :
    (refSelectDone s c).clk.refState = .locked ∧ (refSelectDone s c).clk.refSel =
      (if s.tide ≤ c.started + 1200000 then r.toNat else s.clk.refSel) := by
  by_cases htime : s.tide ≤ c.started + 1200000
  · have hclocks := (clocks_completeOk _ c []).trans (clocks_refTaken s c r.toNat)
    rw [if_pos htime, refSelectDone_of_inTime hop htime]
    exact ⟨clk_of_clocks hclocks Clk.refState fun _ => rfl, clk_of_clocks hclocks Clk.refSel fun _ => rfl⟩
  · have hclocks := clocks_completeV (relocked s) c (hwFault 0x91 0)
    rw [if_neg htime, refSelectDone_of_late hop htime]
    exact ⟨clk_of_clocks hclocks Clk.refState fun _ => rfl, clk_of_clocks hclocks Clk.refSel fun _ => rfl⟩

/-! ### The first lock (R463) -/

theorem exec_pllLock {s : State} (hqualified : s.boot.refQualified = true) (hnone : s.clk.refState = .none)
    (hgood : refcGood s = true) : exec .pllLock s = .next { (modClk s fun x => { x with
      refState := .locked, pllLock := true, trimSource := trimSourceOf s x.refSel }) with tideOn := true } := by
  change execPllLock s = _
  rw [execPllLock, if_pos (by simp [hqualified, hnone, hgood])]

/-- Settles O54, event by event; a declaration is `refLoss_coasts`, the decision after CoastMin `switchover_spec`, a
long coast `lanesOff_tide` and `laneOff_forAll`, the end of a REF_SELECT `refSelectDone_spec`. -/
theorem referenceEvents : Obligations.ReferenceEvents := by
  unfold Obligations.ReferenceEvents
  intro s
  refine ⟨fun hlevel => ⟨_, exec_ovenRdyRise hlevel, rfl, rfl⟩,
    fun hlevel => ⟨_, exec_ovenRdyFall hlevel, ovenFallen_spec s⟩,
    fun hlevel href hpilot => ?qualifies, fun h => ⟨exec_refLossDeclared h, refLoss_coasts s⟩,
    fun i hend hcoast hdone hnone => ?coastMin, fun i hlong hcoast => ?coastLong,
    fun hcoast hfallback => ⟨_, exec_fallbackLocked hcoast hfallback, rfl, rfl, rfl, ackOf_count_same _ _ _ _ _⟩,
    fun i hcoast hfallback hnone => ?timeout, fun h => ⟨fun hauto => ?relocks, fun hauto => ?waits⟩,
    fun hrelock hnone => ⟨_, exec_relockDone_returned hrelock hnone, rfl, ackOf_count_same _ _ _ _ _⟩,
    fun c r hrelock hone hphase hwork hop =>
      ⟨_, exec_relockDone_selected hrelock hone hphase hwork, refSelectDone_spec hop⟩,
    fun hqualified hnone hgood => ⟨_, exec_pllLock hqualified hnone hgood, rfl, rfl, rfl, rfl⟩⟩
  case qualifies =>
    obtain ⟨t, hexec, hoven, htide⟩ := exec_ovenQualified hlevel href hpilot
    exact ⟨t, hexec, hoven, htide ▸ Nat.le_max_right _ _⟩
  case coastMin =>
    obtain ⟨htide, hends, hfalls, hwaits⟩ := switchover_spec (s := coasted s i) hcoast rfl hnone
    refine ⟨_, exec_coastMinExpiry hend hcoast hdone, ?_, hends, fun hsettled htrim => ?_, hwaits⟩
    · rw [htide]
      exact Nat.le_max_right _ _
    · rw [htide]
      exact hfalls hsettled htrim
  case coastLong =>
    refine ⟨_, exec_coastLongTimeout hlong hcoast, ?_, selfRefreshed_hold _, fun l hl => ?_⟩
    · rw [selfRefreshed_tide, lanesOff_tide]
      exact Nat.le_max_right _ _
    · rw [laneAt_selfRefreshed]
      exact laneOff_forAll (portsDown s i) (List.mem_range.mpr hl) List.nodup_range
  case timeout =>
    obtain ⟨hfault, htide⟩ :=
      deviceFault_spec (s := modClk (reach s i) fun x => { x with fallbackBy := none }) 0x92 0 hnone
    exact ⟨_, exec_fallbackTimeout hcoast hfallback, hfault, htide ▸ Nat.le_max_right _ _⟩
  case relocks =>
    exact ⟨_, (exec_refQualified h).trans (congrArg _ (if_pos hauto)), rfl, rfl, rfl⟩
  case waits =>
    have hno : ¬liveF s 6 0 0xB0 0 1 1 = 1 := by simp [hauto]
    exact ⟨_, (exec_refQualified h).trans (congrArg _ (if_neg hno)), rfl, rfl⟩

end Sys2Proof.References
end

section
/-! Site power controllers: what their updates keep, and the pulses of their phases (R270, R273, R274). -/

namespace Sys2Proof.Supplies

open Sys2Proof Sys2Proof.Machine Sys2Proof.Standing

/-! ### Updates -/

theorem spAt_congr {s t : State} (h : t.berth = s.berth) (b : Nat) : spAt t b = spAt s b :=
  congrArg Berth.sp (Channels.berthAt_congr h b)

@[simp] theorem spAt_reach (s : State) (i b : Nat) : spAt (reach s i) b = spAt s b := rfl

@[simp] theorem spAt_modSp (s : State) (b : Nat) (f : Sp → Sp) : spAt (modSp s b f) b = f (spAt s b) :=
  congrArg Berth.sp (berthAt_modBerth s b _)

theorem spAt_modSp_other (s : State) {b k : Nat} (f : Sp → Sp) (h : b ≠ k) : spAt (modSp s k f) b = spAt s b :=
  congrArg Berth.sp (berthAt_modBerth_other s _ h)

@[simp] theorem modSp_tide (s : State) (b : Nat) (f : Sp → Sp) : (modSp s b f).tide = s.tide := rfl

/-- The tide does not pass below an instant that it has been moved to. -/
theorem le_reach_tide (s : State) (i : Nat) : i % 2 ^ 64 ≤ (reach s i).tide := Nat.le_max_right _ _

/-- An event that the front-end die of a berth counts leaves its controllers alone. -/
theorem countFront_keeps (s : State) (b f m : Nat) : (countFront s 3 b f m).berth = s.berth ∧
    (countFront s 3 b f m).tide = s.tide ∧ (countFront s 3 b f m).par = s.par := by
  obtain ⟨a, w, hcount⟩ := Channels.countFront_only s 3 b f m
  rw [hcount]
  exact ⟨rfl, rfl, rfl⟩

/-- While the link of its wing is up an event crosses at once (R493). -/
theorem ackOf_countFront {s : State} {b : Nat} (f m : Nat) (hup : (wingAt s (wingOfBerth b)).linkDown = false) :
    ackOf (countFront s 3 b f m) (pid 3 b f m) = ackBump (ackOf s (pid 3 b f m)) := by
  have hcount : countFront s 3 b f m = count s 3 b f m := by simp [countFront, hup]
  rw [hcount, ackOf_count_same]

/-! ### Phases -/

@[simp] theorem phaseAt_setPhase (s : State) (b n : Nat) (f : Phase → Phase) :
    phaseAt (spAt (setPhase s b n f) b).phases n = f (phaseAt (spAt s b).phases n) := by
  rw [setPhase, spAt_modSp]
  exact tabGet_tabSet_same _ _ _ _

section pulse

variable {s : State} {b : Fin 64} {n : Fin 4} (hruns : phaseRuns s b n = true)

/-- A pulse that ends: the output is low from the end on. -/
theorem phaseAt_pulseEnd (s : State) (b n off : Nat) : phaseAt (spAt (pulseEnd s b n off) b).phases n =
    { phaseAt (spAt s b).phases n with
      pwm := .low, lastFall := (phaseAt (spAt s b).phases n).setEdge + off } := phaseAt_setPhase _ _ _ _

include hruns

/-- What a cycle edge does to the phase: nothing within the minimum off time. -/
theorem exec_pwmCycleEdge {i : Nat} (hedge : isCycleEdge s b n i = true) (htide : s.tide ≤ i / 8) :
    exec (.pwmCycleEdge b n i) s = .next (
      if (phaseAt (spAt s b).phases n).lastFall ≠ 0 ∧ i < (phaseAt (spAt s b).phases n).lastFall + 256 then
        reach s (i / 8)
      else setPhase (reach s (i / 8)) b n fun x => { x with pwm := .high, setEdge := i }) := by
  change execPwmCycleEdge b n i s = _
  simp only [execPwmCycleEdge, hruns, hedge, htide, Bool.and_eq_true, decide_eq_true_eq]
  rfl

/-- A comparator that trips between the blanking and the maximum duty ends the pulse. -/
theorem exec_peakComparatorTrip {d : Nat} (clamp : Bool) (hhigh : (phaseAt (spAt s b).phases n).pwm = .high)
    (hblank : lebPeriods s b ≤ d) (hduty : d ≤ maxDutyPeriods s b) :
    exec (.peakComparatorTrip b n d clamp) s = .next (
      if clamp then modSp (countFront (pulseEnd s b n d) 3 b 0x6F 7) b fun x => { x with
        limitUntil := (pulseEnd s b n d).tide + 800 }
      else pulseEnd s b n d) := by
  change execPeakComparatorTrip b n d clamp s = _
  rw [execPeakComparatorTrip, if_pos (by simp [hruns, hhigh, hblank, hduty])]
  simp [usTc]

theorem exec_maxDutyTimeout (hhigh : (phaseAt (spAt s b).phases n).pwm = .high) :
    exec (.maxDutyTimeout b n) s = .next (pulseEnd s b n (maxDutyPeriods s b)) := by
  change execMaxDutyTimeout b n s = _
  rw [execMaxDutyTimeout, if_pos (by simp [hruns, hhigh])]

theorem exec_zeroCurrentDetect (hlow : (phaseAt (spAt s b).phases n).pwm = .low)
    (hlight : liveF s 3 (leaderOf s b) 0x68 0 4 1 = 1 ∨ (spAt s (leaderOf s b)).lightForced = true) :
    exec (.zeroCurrentDetect b n) s = .next (setPhase s b n fun x => { x with pwm := .mid }) := by
  change execZeroCurrentDetect b n s = _
  rw [execZeroCurrentDetect, if_pos (by simp [hruns, hlow, hlight])]

/-- A trip that ends a pulse, on the clamp or not: on the clamp the limit is noted and counted. -/
theorem peakComparatorTrip_spec {d : Nat} (clamp : Bool) (hhigh : (phaseAt (spAt s b).phases n).pwm = .high)
    (hblank : lebPeriods s b ≤ d) (hduty : d ≤ maxDutyPeriods s b) :
    ∃ t, exec (.peakComparatorTrip b n d clamp) s = .next t ∧ (phaseAt (spAt t b).phases n).pwm = .low ∧
      (phaseAt (spAt t b).phases n).lastFall = (phaseAt (spAt s b).phases n).setEdge + d ∧
      (clamp = true → (wingAt s (wingOfBerth b)).linkDown = false →
        (spAt t b).limitUntil = t.tide + 800 ∧ ackOf t (pid 3 b 0x6F 7) = ackBump (ackOf s (pid 3 b 0x6F 7))) := by
  refine ⟨_, exec_peakComparatorTrip hruns clamp hhigh hblank hduty, ?_⟩
  have hcounts (hup : (wingAt s (wingOfBerth b)).linkDown = false) :
      ackOf (countFront (pulseEnd s b n d) 3 b 0x6F 7) (pid 3 b 0x6F 7) = ackBump (ackOf s (pid 3 b 0x6F 7)) :=
    ackOf_countFront (s := pulseEnd s b n d) 0x6F 7 hup
  have hphase := phaseAt_pulseEnd s b n d
  generalize pulseEnd s b n d = u at hphase hcounts
  cases clamp with
  | false =>
    rw [if_neg Bool.false_ne_true, hphase]
    exact ⟨rfl, rfl, fun h => absurd h Bool.false_ne_true⟩
  | true =>
    obtain ⟨hberth, htide, -⟩ := countFront_keeps u b 0x6F 7
    rw [if_pos rfl, spAt_modSp, spAt_congr hberth, modSp_tide, htide, hphase]
    exact ⟨rfl, rfl, fun _ hup => ⟨rfl, hcounts hup⟩⟩

end pulse

/-- Settles O51, event by event: the cycle edge (`exec_pwmCycleEdge`), the comparator (`peakComparatorTrip_spec`), the
maximum duty and zero current. -/
theorem pwmEvents : Obligations.PwmEvents := by
  unfold Obligations.PwmEvents
  intro s b n hruns
  refine ⟨fun i hedge htide => ⟨fun hoff => ?rises, fun hwithin hfallen => ?skips⟩,
    fun hhigh => ⟨fun d clamp => peakComparatorTrip_spec hruns clamp hhigh, ?duty⟩, fun hlow hlight => ?zero⟩
  case rises =>
    refine ⟨_, (exec_pwmCycleEdge hruns hedge htide).trans (congrArg _ (if_neg (by omega))), ?_⟩
    rw [phaseAt_setPhase]
    exact ⟨rfl, rfl⟩
  case skips => exact (exec_pwmCycleEdge hruns hedge htide).trans (congrArg _ (if_pos ⟨hfallen, hwithin⟩))
  case duty =>
    refine ⟨_, exec_maxDutyTimeout hruns hhigh, ?_⟩
    rw [phaseAt_pulseEnd]
    exact ⟨rfl, rfl⟩
  case zero =>
    refine ⟨_, exec_zeroCurrentDetect hruns hlow hlight, ?_, rfl⟩
    rw [phaseAt_setPhase]

end Sys2Proof.Supplies
end

section
/-! Site power controllers: starts, ramps, turn-offs and sequences (R276 to R279, R282, R283, R290). -/

namespace Sys2Proof.Ramps

open Sys2Proof Sys2Proof.Machine Sys2Proof.Standing Sys2Proof.Clocks Sys2Proof.Supplies

/-! ### What the outputs, the monitors and the judgement of PowerGood leave of a controller -/

/-- A controller but for its phases, its monitors, its light load, and how long its power has been good. -/
def core (x : Sp) : Sp := { x with
  phases := [], ov := {}, uv := {}, oc := {}, lightForced := false, goodSince := none, hiccupsDone := 0 }

/-- A field of a controller that is none of these. -/
theorem eq_of_core {α : Type} {x y : Sp} (h : core x = core y) (field : Sp → α)
    (hfield : ∀ z : Sp, field (core z) = field z) : field x = field y :=
  calc field x = field (core x) := (hfield x).symm
    _ = field (core y) := by rw [h]
    _ = field y := hfield y

theorem core_setMon (x : Sp) (m : Mon) (y : Monitor) : core (setMon x m y) = core x := by
  cases m <;> rfl

theorem core_lightEnd (x : Sp) : core (lightEnd x) = core x := by
  unfold lightEnd
  split <;> rfl

/-- What an update of one controller leaves of it, it leaves of every controller. -/
theorem view_modSp {α : Type} (view : Sp → α) (s : State) (k b : Nat) (f : Sp → Sp) (hf : ∀ x, view (f x) = view x) :
    view (spAt (modSp s k f) b) = view (spAt s b) := by
  by_cases hk : b = k
  · rw [hk, spAt_modSp, hf]
  · rw [spAt_modSp_other s f hk]

theorem core_pwmAll (s : State) (k b : Nat) (l : Pwm) : core (spAt (pwmAll s k l) b) = core (spAt s b) := by
  refine forAll_same (fun t => core (spAt t b)) _ (fun t m => ?_) s _
  exact view_modSp core t m b _ fun _ => rfl

/-- A controller but for how long its power has been good, and the hiccups that it has had meanwhile (R290). -/
def unjudged (x : Sp) : Sp := { x with goodSince := none, hiccupsDone := 0 }

theorem unjudged_noteGood (s : State) (k b : Nat) : unjudged (spAt (noteGood s k) b) = unjudged (spAt s b) := by
  refine view_modSp unjudged s _ b _ fun x => ?_
  dsimp only
  split
  · split <;> rfl
  · split <;> split <;> rfl

theorem core_noteGood (s : State) (k b : Nat) : core (spAt (noteGood s k) b) = core (spAt s b) := by
  have hcore (x : Sp) : core (unjudged x) = core x := rfl
  rw [← hcore, unjudged_noteGood, hcore]

theorem core_goodEnd (s : State) (k b : Nat) : core (spAt (goodEnd s k) b) = core (spAt s b) :=
  (view_modSp core _ k b (fun x => { x with goodSince := none }) fun _ => rfl).trans (core_noteGood s k b)

theorem core_blankStart (s : State) (k b : Nat) (m : Mon) : core (spAt (blankStart s k m) b) = core (spAt s b) := by
  unfold blankStart
  split
  · exact view_modSp core s k b _ fun x => core_setMon x m _
  · rfl

theorem core_blankAll (s : State) (k b : Nat) : core (spAt (blankAll s k) b) = core (spAt s b) :=
  (core_blankStart _ k b .oc).trans ((core_blankStart _ k b .uv).trans (core_blankStart s k b .ov))

/-! ### What the end of a command leaves of the supplies -/

/-- The berths, with their controllers, and the tide. -/
def supplies (s : State) : Tab Berth × Nat := (s.berth, s.tide)

theorem supplies_of_onlyEnds {s t : State} (h : onlyEnds s t) : supplies t = supplies s := by
  rw [h]
  rfl

theorem berthAt_of_supplies {s t : State} (h : supplies t = supplies s) (b : Nat) : berthAt t b = berthAt s b :=
  Channels.berthAt_congr (congrArg Prod.fst h) b

theorem spAt_of_supplies {s t : State} (h : supplies t = supplies s) (b : Nat) : spAt t b = spAt s b :=
  congrArg Berth.sp (berthAt_of_supplies h b)

theorem tide_of_supplies {s t : State} (h : supplies t = supplies s) : t.tide = s.tide := congrArg Prod.snd h

theorem onlyEnds_putCmd (s : State) (c : Cmd) : onlyEnds s (putCmd s c) := rfl

theorem onlyEnds_sequenceSettle (s : State) (c : Cmd) : onlyEnds s (sequenceSettle s c) := by
  unfold sequenceSettle
  split
  · dsimp only
    split
    · split
      · exact onlyEnds_complete _ _ _ _ _
      · exact onlyEnds_complete _ _ _ _ _
    · rfl
  · rfl

/-- A ramp that ends for no undo ends a command, or an entry of one. -/
theorem onlyEnds_rampReply (s : State) (b : Nat) : onlyEnds s (rampReply s b none) := by
  unfold rampReply
  split
  · exact onlyEnds_complete _ _ _ _ _
  · split
    · rfl
    · dsimp only
      split
      · exact onlyEnds_trans (onlyEnds_putCmd _ _) (onlyEnds_sequenceSettle _ _)
      · next heq => exact absurd heq (by simp)
      · rfl

/-- Entries of sequences that waited for PowerGood get their instant. -/
theorem sequenceGood_only (s : State) : ∃ x, sequenceGood s = { s with inflight := x } := by
  unfold sequenceGood
  refine List.foldlRecOn (motive := fun t : State => ∃ x, t = { s with inflight := x }) s.inflight _
    ⟨s.inflight, rfl⟩ ?_
  rintro t ⟨x, rfl⟩ c -
  split <;> exact ⟨_, rfl⟩

@[simp] theorem supplies_sequenceGood (s : State) : supplies (sequenceGood s) = supplies s := by
  obtain ⟨x, h⟩ := sequenceGood_only s
  rw [h]
  rfl

@[simp] theorem supplies_settle (s : State) : supplies (settle s) = supplies s := by
  unfold settle
  refine (forAll_same supplies _ (fun t z => ?_) _ _).trans (supplies_of_onlyEnds (onlyEnds_foldl _ (fun t c => ?_) s _))
  · split <;> rfl
  · split
    · exact onlyEnds_complete _ _ _ _ _
    · exact onlyEnds_complete _ _ _ _ _

@[simp] theorem supplies_offAdvance (s : State) : supplies (offAdvance s) = supplies s := rfl

theorem tide_pwmAll (s : State) (b : Nat) (l : Pwm) : (pwmAll s b l).tide = s.tide :=
  tide_of_clocks (clocks_pwmAll s b l)

/-! ### The start from OFF (R278) -/

theorem exec_stageReady {s : State} {b : Fin 64} {i : Nat} (vout : Int) (fltLow : Bool)
    (hstate : (spAt s b).state = .starting) (hready : (spAt s b).readyAt = some i) :
    exec (.stageReady b vout fltLow) s = .next (
      if fltLow then action2 (sensed (reach s i) b vout) b 0x33 else stageSwitch (sensed (reach s i) b vout) b vout) := by
  change execStageReady b vout fltLow s = _
  rw [execStageReady, hstate, hready]

/-- The ramp of a start begins at the output on the 25 µV grid. -/
theorem stageSwitch_spec (s : State) (b : Nat) (vout : Int) :
    let t := stageSwitch s b vout
    t.tide = s.tide ∧ (spAt t b).state = .rampUp ∧ (spAt t b).rampFrom = vout.toNat / 25 * 25 ∧
      (spAt t b).acc = 20 * (vout.toNat / 25 * 25) ∧ (spAt t b).readyAt = none := by
  intro t
  dsimp only [t, stageSwitch]
  rw [spAt_modSp, spAt_modSp]
  have hcore := core_lightEnd
  exact ⟨rfl, eq_of_core (hcore _) Sp.state fun _ => rfl, eq_of_core (hcore _) Sp.rampFrom fun _ => rfl,
    eq_of_core (hcore _) Sp.acc fun _ => rfl, eq_of_core (hcore _) Sp.readyAt fun _ => rfl⟩

/-! ### Steps and the target (R276, R279) -/

section ramp

variable {s : State} {b : Fin 64} (hramp : ramping (spAt s b) = true) (hswitches : (spAt s b).enFallAt = none)
include hramp hswitches

theorem exec_rampStep (hsteps : stepsLeft (spAt s b) ≠ 0) : exec (.rampStep b) s =
    .next (modSp (reach s (tick40 (spAt s b).stepAt)) b fun x =>
      lightEnd { x with acc := accStep x, stepAt := tick40 (spAt s b).stepAt }) := by
  change execRampStep b s = _
  rw [execRampStep]
  exact congrArg _ (if_pos (by simp [hramp, hswitches, hsteps]))

theorem rampStep_spec (hsteps : stepsLeft (spAt s b) ≠ 0) :
    ∃ t, exec (.rampStep b) s = .next t ∧ (spAt t b).acc = accStep (spAt s b) ∧
      (spAt t b).stepAt = tick40 (spAt s b).stepAt ∧ tick40 (spAt s b).stepAt % 2 ^ 64 ≤ t.tide := by
  refine ⟨_, exec_rampStep hramp hswitches hsteps, ?_, ?_, le_reach_tide _ _⟩
  · rw [spAt_modSp]
    exact eq_of_core (core_lightEnd _) Sp.acc fun _ => rfl
  · rw [spAt_modSp]
    exact eq_of_core (core_lightEnd _) Sp.stepAt fun _ => rfl

end ramp

/-- The reference stands at its target. -/
def landed (s : State) (b : Nat) (vout : Int) : State :=
  sensed (modSp (reach s (rampEnd (spAt s b))) b fun x =>
    lightEnd { x with acc := accUnits * x.rampTarget, stepAt := rampEnd (spAt s b) }) b vout

theorem landed_spec (s : State) (b : Nat) (vout : Int) :
    let t := landed s b vout
    (spAt t b).acc = 20 * (spAt s b).rampTarget ∧ (spAt t b).vout = vout ∧ (spAt t b).state = (spAt s b).state ∧
      (spAt t b).offAfter = (spAt s b).offAfter := by
  intro t
  dsimp only [t, landed, sensed]
  rw [spAt_modSp, spAt_modSp]
  have hcore := core_lightEnd
  exact ⟨eq_of_core (hcore _) Sp.acc fun _ => rfl, rfl, eq_of_core (hcore _) Sp.state fun _ => rfl,
    eq_of_core (hcore _) Sp.offAfter fun _ => rfl⟩

theorem exec_rampTargetReached {s : State} {b : Fin 64} (vout : Int) (hramp : ramping (spAt s b) = true)
    (hswitches : (spAt s b).enFallAt = none) : exec (.rampTargetReached b vout) s = .next (
      if (spAt s b).rampTarget = 0 then rampZero (landed s b vout) b else rampCommit (landed s b vout) b) := by
  change execRampTargetReached b vout s = _
  rw [execRampTargetReached]
  exact congrArg _ (if_pos (by simp [hramp, hswitches]))

/-- At 0 the enable is to fall 1 µs later. -/
theorem rampZero_spec (s : State) (b : Nat) : (rampZero s b).tide = s.tide ∧
    (spAt (rampZero s b) b).acc = (spAt s b).acc ∧ (spAt (rampZero s b) b).enFallAt = some (s.tide + 800) := by
  refine ⟨tide_pwmAll s b .mid, ?_, ?_⟩
  · rw [rampZero, spAt_modSp]
    exact eq_of_core (core_pwmAll s b b .mid) Sp.acc fun _ => rfl
  · rw [rampZero, spAt_modSp]
    rfl

/-- The commit of an upward ramp arms UV alone. -/
theorem spAt_armUv (s : State) (b : Nat) : (spAt (armUv s b) b).state = (spAt s b).state ∧
    (spAt (armUv s b) b).acc = (spAt s b).acc ∧ (spAt (armUv s b) b).vout = (spAt s b).vout ∧
    (spAt (armUv s b) b).offAfter = (spAt s b).offAfter := by
  rw [armUv, spAt_modSp]
  exact ⟨rfl, rfl, rfl, rfl⟩

/-- A ramp that commits, other than an undo, and for which no turn-off waits: the controller regulates. -/
theorem rampCommit_spec {s : State} {b : Nat} (hundo : (spAt s b).state ≠ .undoing)
    (hoff : (spAt s b).offAfter = false) : (spAt (rampCommit s b) b).state = .on ∧
      (spAt (rampCommit s b) b).acc = (spAt s b).acc ∧ (spAt (rampCommit s b) b).vout = (spAt s b).vout := by
  unfold rampCommit
  extract_lets x undo arm regulated judged
  have hnone : undo = none := if_neg hundo
  clear_value undo
  subst hnone
  have hregulated : (spAt regulated b).state = .on ∧ (spAt regulated b).acc = (spAt s b).acc ∧
      (spAt regulated b).vout = (spAt s b).vout ∧ (spAt regulated b).offAfter = false := by
    dsimp only [regulated]
    rw [spAt_modSp]
    exact ⟨rfl, rfl, rfl, hoff⟩
  clear_value regulated
  have hjudged : (spAt judged b).state = .on ∧ (spAt judged b).acc = (spAt s b).acc ∧
      (spAt judged b).vout = (spAt s b).vout ∧ (spAt judged b).offAfter = false := by
    obtain ⟨hon, hacc, hvout, hafter⟩ := hregulated
    obtain ⟨harmOn, harmAcc, harmVout, harmAfter⟩ := spAt_armUv regulated b
    have hcore := core_noteGood (if arm then armUv regulated b else regulated) b b
    rw [eq_of_core hcore Sp.state fun _ => rfl, eq_of_core hcore Sp.acc fun _ => rfl,
      eq_of_core hcore Sp.vout fun _ => rfl, eq_of_core hcore Sp.offAfter fun _ => rfl]
    split
    · exact ⟨harmOn.trans hon, harmAcc.trans hacc, harmVout.trans hvout, harmAfter.trans hafter⟩
    · exact ⟨hon, hacc, hvout, hafter⟩
  clear_value judged
  obtain ⟨hon, hacc, hvout, hafter⟩ := hjudged
  have hgood : supplies (sequenceGood (rampReply judged b none)) = supplies judged :=
    (supplies_sequenceGood _).trans (supplies_of_onlyEnds (onlyEnds_rampReply judged b))
  have hresume : offResume (sequenceGood (rampReply judged b none)) b = sequenceGood (rampReply judged b none) :=
    if_neg (by simp [spAt_of_supplies hgood, hafter])
  have hend := (supplies_settle (offAdvance (sequenceGood (rampReply judged b none)))).trans hgood
  rw [hresume, spAt_of_supplies hend]
  exact ⟨hon, hacc, hvout⟩

/-- At its target a controller whose enable is not to fall is ON, or its enable falls 1 µs later. -/
theorem rampTargetReached_spec {s : State} {b : Fin 64} (vout : Int) (hramp : ramping (spAt s b) = true)
    (hswitches : (spAt s b).enFallAt = none) :
    ((spAt s b).rampTarget = 0 → ∃ t, exec (.rampTargetReached b vout) s = .next t ∧ (spAt t b).acc = 0 ∧
      (spAt t b).enFallAt = some (t.tide + 800)) ∧
    ((spAt s b).rampTarget ≠ 0 → (spAt s b).state ≠ .undoing → (spAt s b).offAfter = false →
      ∃ t, exec (.rampTargetReached b vout) s = .next t ∧ (spAt t b).state = .on ∧ (spAt t b).vout = vout ∧
        (spAt t b).acc = 20 * (spAt s b).rampTarget) := by
  have hexec := exec_rampTargetReached vout hramp hswitches
  obtain ⟨hacc, hvout, hstate, hafter⟩ := landed_spec s b vout
  generalize landed s b vout = u at hexec hacc hvout hstate hafter
  refine ⟨fun hzero => ?_, fun htarget hundo hoff => ?_⟩
  · obtain ⟨htide, hkept, hfall⟩ := rampZero_spec u b
    refine ⟨_, hexec.trans (congrArg _ (if_pos hzero)), ?_, ?_⟩
    · rw [hkept, hacc, hzero]
    · rw [hfall, htide]
  · obtain ⟨hon, hkept, hsensed⟩ := rampCommit_spec (s := u) (b := b) (by rw [hstate]; exact hundo)
      (by rw [hafter]; exact hoff)
    exact ⟨_, hexec.trans (congrArg _ (if_neg htarget)), hon, hsensed.trans hvout, hkept.trans hacc⟩

/-! ### The fall of the enable (R279, R290) -/

theorem exec_enFallDelay {s : State} {b : Fin 64} {i : Nat} (vout : Int) (hfall : (spAt s b).enFallAt = some i) :
    exec (.enFallDelay b vout) s = .next (enFall (reach s i) b vout) := by
  change execEnFallDelay b vout s = _
  rw [execEnFallDelay, hfall]

theorem spAt_enterOff (s : State) (b : Nat) :
    (spAt (enterOff s b) b).enHigh = false ∧ (spAt (enterOff s b) b).state = .off := by
  rw [enterOff, spAt_modSp]
  exact ⟨rfl, rfl⟩

/-- An enable that falls, of an undo none: HICCUP stays, any other state is OFF then. -/
theorem enFall_spec {s : State} {b : Nat} (vout : Int) (hundo : (spAt s b).state ≠ .undoing) :
    (enFall s b vout).tide = s.tide ∧ (spAt (enFall s b vout) b).enHigh = false ∧
      (spAt (enFall s b vout) b).state = if (spAt s b).state = .hiccup then .hiccup else .off := by
  unfold enFall
  extract_lets x u undo
  have hnone : undo = none := if_neg hundo
  clear_value undo
  subst hnone
  split
  · next hhiccup =>
    rw [spAt_modSp]
    dsimp only [u, sensed]
    rw [spAt_modSp]
    exact ⟨rfl, rfl, hhiccup⟩
  · have hend : supplies (settle (offAdvance (rampReply (enterOff (goodEnd u b) b) b none))) =
        supplies (enterOff (goodEnd u b) b) :=
      (supplies_settle _).trans ((supplies_offAdvance _).trans (supplies_of_onlyEnds (onlyEnds_rampReply _ _)))
    rw [spAt_of_supplies hend, tide_of_supplies hend]
    exact ⟨rfl, spAt_enterOff _ _⟩

/-! ### Starts and commands (R277, R278, R290) -/

theorem clocks_startFromOff (s : State) (b target slew : Nat) : clocks (startFromOff s b target slew) = clocks s := by
  have hblank (t : State) (m : Mon) : clocks (blankStart t b m) = clocks t := by
    unfold blankStart
    split <;> rfl
  rw [startFromOff, blankAll, hblank, hblank, hblank, clocks_modSp, clocks_pwmAll]

/-- A start from OFF toward a target. -/
theorem startFromOff_spec (s : State) (b target slew : Nat) :
    let t := startFromOff s b target slew
    t.tide = s.tide ∧ (spAt t b).state = .starting ∧ (spAt t b).rampTarget = target ∧ (spAt t b).enHigh = true ∧
      (spAt t b).lastTarget = (spAt s b).lastTarget := by
  intro t
  have hcore : core (spAt t b) = core _ := (core_blankAll _ b b).trans (congrArg core (spAt_modSp _ b _))
  have hlast := eq_of_core (core_pwmAll s b b .mid) Sp.lastTarget fun _ => rfl
  exact ⟨tide_of_clocks (clocks_startFromOff s b target slew), eq_of_core hcore Sp.state fun _ => rfl,
    eq_of_core hcore Sp.rampTarget fun _ => rfl, eq_of_core hcore Sp.enHigh fun _ => rfl,
    (eq_of_core hcore Sp.lastTarget fun _ => rfl).trans hlast⟩

theorem exec_hiccupRestart {s : State} {b : Fin 64} {i : Nat} (hstate : (spAt s b).state = .hiccup)
    (hdue : (spAt s b).hiccupAt = some i) : exec (.hiccupRestart b) s =
      .next (startFromOff (reach s i) b (spAt s b).lastTarget (spSlew s b 0)) := by
  change execHiccupRestart b s = _
  rw [execHiccupRestart, hstate, hdue]

/-- A ramp from the present reference toward a target. -/
theorem rampStart_spec (s : State) (b target slew : Nat) (fromOff : Bool) :
    let t := rampStart s b target slew fromOff
    t.tide = s.tide ∧ (spAt t b).rampTarget = target ∧ (spAt t b).lastTarget = (spAt s b).lastTarget := by
  intro t
  dsimp only [t, rampStart]
  rw [spAt_modSp]
  split
  · exact ⟨rfl, rfl, rfl⟩
  · exact ⟨rfl, rfl, eq_of_core (core_goodEnd s b b) Sp.lastTarget fun _ => rfl⟩

/-- A command of a target, from OFF or not. -/
theorem rampCommand_spec (s : State) (b target slew : Nat) :
    let t := rampCommand s b target slew
    t.tide = s.tide ∧ (spAt t b).rampTarget = target ∧ (spAt t b).lastTarget = target := by
  intro t
  dsimp only [t, rampCommand]
  generalize hu : modSp s b (fun x => { x with lastTarget := target }) = u
  have hlast : (spAt u b).lastTarget = target := by
    rw [← hu, spAt_modSp]
  have htide : u.tide = s.tide := by
    rw [← hu]
    rfl
  split
  · obtain ⟨hkept, -, htarget, -, hkeptLast⟩ := startFromOff_spec u b target slew
    exact ⟨hkept.trans htide, htarget, hkeptLast.trans hlast⟩
  · obtain ⟨hkept, htarget, hkeptLast⟩ := rampStart_spec u b target slew false
    exact ⟨hkept.trans htide, htarget, hkeptLast.trans hlast⟩

/-! ### Off groups and sequences (R282, R283) -/

theorem exec_offGroupStart {s : State} {i : Nat} (hleast : leastOf (s.offPlans.filterMap (·.nextAt)) = some i) :
    exec .offGroupStart s = .next (settle (offAdvance (offGroupBegin
      { reach s i with offPlans := s.offPlans.filter fun p => p.nextAt ≠ some i }
      (s.offPlans.filter fun p => p.nextAt = some i)))) := by
  change execOffGroupStart s = _
  rw [execOffGroupStart, hleast]
  rfl

section entry

variable {s : State} {c : Cmd} {e : SeqEntry} {left : List SeqEntry} {started : List SeqRun} {ending : Option Verdict}
  {i : Nat} (hwork : c.work = .sequence (e :: left) started (some i) ending)
  (hown : entryOwn s c.hdr.scope.toNat e = true) (hon : (berthAt s e.berth.toNat).run ≠ .off)
include hwork

theorem sequenceAt_of_waiting (hphase : c.phase = .running) : sequenceAt c = some i := by
  rw [sequenceAt, hphase, hwork]

/-- A controller that does not move, with no other command that could wait for it, does not hold the entry up. -/
theorem sequenceBlocked_alone (halone : s.inflight = [c]) (hstill : ctrlMoves s e.berth.toNat = false) :
    sequenceBlocked (reach s i) c = false := by
  have hmoves : ctrlMoves (reach s i) e.berth.toNat = false := hstill
  have hahead : controllerAhead (reach s i) c e.berth.toNat = false := by simp [controllerAhead, halone]
  rw [sequenceBlocked, hwork]
  simp [hmoves, hahead]

include hown hon

/-- The entry starts: its controller is commanded to its target. -/
theorem onlyEnds_sequenceStart : onlyEnds (rampCommand (reach s i) e.berth.toNat (spTarget e.target.toNat)
    (spSlew s e.berth.toNat 0)) (sequenceStart (reach s i) c) := by
  have hhere : entryOwn (reach s i) c.hdr.scope.toNat e = true := hown
  have hpowered : (berthAt (reach s i) e.berth.toNat).run ≠ .off := hon
  rw [sequenceStart, hwork]
  dsimp only
  rw [if_neg (by simp [hhere]), if_neg hpowered]
  exact onlyEnds_putCmd _ _

/-- With the last entry started and nothing left to ramp the command may end. -/
theorem exec_spSeqEntryStart (halone : s.inflight = [c]) (hphase : c.phase = .running)
    (hstill : ctrlMoves s e.berth.toNat = false) :
    ∃ t, exec .spSeqEntryStart s = .next t ∧ onlyEnds (rampCommand (reach s i) e.berth.toNat (spTarget e.target.toNat)
      (spSlew s e.berth.toNat 0)) t := by
  have hat := sequenceAt_of_waiting hwork hphase
  have hfree := sequenceBlocked_alone hwork halone hstill
  change ∃ t, execSpSeqEntryStart s = _ ∧ _
  simp only [execSpSeqEntryStart, halone, List.filterMap_cons, hat, List.filterMap_nil, List.any_cons, List.any_nil,
    List.filter_cons, List.filter_nil, List.find?_cons, hfree, leastOf, List.foldl_nil, decide_true, Bool.not_false,
    Bool.and_self, Bool.or_false, if_true]
  refine ⟨_, rfl, onlyEnds_trans (onlyEnds_sequenceStart hwork hown hon) ?_⟩
  split
  · exact onlyEnds_sequenceSettle _ _
  · rfl

end entry

/-- An entry of this device's own, whose controller nothing moves, starts at its instant. -/
theorem spSeqEntryStart_spec {s : State} {b : Fin 64} {c : Cmd} {e : SeqEntry} {left : List SeqEntry}
    {started : List SeqRun} {ending : Option Verdict} {i : Nat} (halone : s.inflight = [c])
    (hphase : c.phase = .running) (hwork : c.work = .sequence (e :: left) started (some i) ending)
    (hb : e.berth.toNat = b.val) (hown : entryOwn s c.hdr.scope.toNat e = true) (hon : (berthAt s b).run ≠ .off)
    (hstill : ctrlMoves s b = false) : ∃ t, exec .spSeqEntryStart s = .next t ∧ i % 2 ^ 64 ≤ t.tide ∧
      (spAt t b).rampTarget = spTarget e.target.toNat ∧ (spAt t b).lastTarget = spTarget e.target.toNat := by
  rw [← hb] at hon hstill ⊢
  obtain ⟨t, hexec, honly⟩ := exec_spSeqEntryStart hwork hown hon halone hphase hstill
  obtain ⟨htide, htarget, hlast⟩ :=
    rampCommand_spec (reach s i) e.berth.toNat (spTarget e.target.toNat) (spSlew s e.berth.toNat 0)
  have hend := supplies_of_onlyEnds honly
  refine ⟨t, hexec, ?_, ?_, ?_⟩
  · rw [tide_of_supplies hend, htide]
    exact le_reach_tide s i
  · rw [spAt_of_supplies hend, htarget]
  · rw [spAt_of_supplies hend, hlast]

/-- Settles O49, event by event: the start (`stageSwitch_spec`), the steps and ends of ramps (`rampStep_spec`,
`rampTargetReached_spec`, `enFall_spec`), restarts (`startFromOff_spec`), and the next of a turn-off or a sequence. -/
theorem sitePowerRamps : Obligations.SitePowerRamps := by
  unfold Obligations.SitePowerRamps
  intro s b
  refine ⟨fun i vout hstate hready => ⟨exec_stageReady vout true hstate hready, ?starts⟩, rampStep_spec,
    fun vout hramp hswitches => rampTargetReached_spec vout hramp hswitches, fun i vout hfall hundo => ?falls,
    fun i hstate hdue => ?restarts, fun i => exec_offGroupStart,
    fun c e left started ending i halone hphase hwork hb hown hon hstill =>
      spSeqEntryStart_spec halone hphase hwork hb hown hon hstill⟩
  case starts =>
    obtain ⟨htide, hup, hfrom, hacc, hready'⟩ := stageSwitch_spec (sensed (reach s i) b vout) b vout
    refine ⟨_, exec_stageReady vout false hstate hready, hup, ?_, hfrom, hacc, hready'⟩
    exact (le_reach_tide s i).trans_eq htide.symm
  case falls =>
    obtain ⟨htide, hlow, hend⟩ := enFall_spec (s := reach s i) (b := b) vout hundo
    exact ⟨_, exec_enFallDelay vout hfall, hlow, (le_reach_tide s i).trans_eq htide.symm, hend⟩
  case restarts =>
    obtain ⟨htide, hstarts, htarget, hhigh, -⟩ := startFromOff_spec (reach s i) b (spAt s b).lastTarget (spSlew s b 0)
    exact ⟨_, exec_hiccupRestart hstate hdue, hstarts, htarget, hhigh, (le_reach_tide s i).trans_eq htide.symm⟩

end Sys2Proof.Ramps
end

section
/-! Site power controllers: monitors, stage faults and open sense lines, and the actions that they bring (R286 to R289,
R292, R493). -/

namespace Sys2Proof.PowerFaults

open Sys2Proof Sys2Proof.Machine Sys2Proof.Standing Sys2Proof.Clocks Sys2Proof.Supplies Sys2Proof.Ramps

/-! ### Monitors (R286 to R288) -/

@[simp] theorem monOf_setMon (x : Sp) (m : Mon) (y : Monitor) : monOf (setMon x m y) m = y := by
  cases m <;> rfl

theorem monOf_noteGood (s : State) (k b : Nat) (m : Mon) : monOf (spAt (noteGood s k) b) m = monOf (spAt s b) m := by
  have hmon (x : Sp) : monOf (unjudged x) m = monOf x m := by cases m <;> rfl
  rw [← hmon, unjudged_noteGood, hmon]

/-- A monitor that goes live, or whose level changes: a trip counts, nothing else does. -/
theorem monLive_spec (s : State) (b : Nat) (m : Mon) (level trip : Bool) :
    let t := monLive s b m level trip
    (monOf (spAt t b) m).level = level ∧ (monOf (spAt t b) m).blankEnd = none ∧ t.tide = s.tide ∧
      t.acks = (if trip then countFront s 3 b 0x6F (tripMember m) else s).acks := by
  intro t
  dsimp only [t, monLive]
  generalize hu : (if trip = true then countFront s 3 b 0x6F (tripMember m) else s) = u
  have htide : u.tide = s.tide := by
    rw [← hu]
    split
    · exact (countFront_keeps s b _ _).2.1
    · rfl
  generalize hv : modSp u b _ = v
  have hgood := supplies_sequenceGood (noteGood v b)
  obtain ⟨x, honly⟩ := sequenceGood_only (noteGood v b)
  have hacks : (sequenceGood (noteGood v b)).acks = v.acks := by
    rw [honly]
    rfl
  rw [spAt_of_supplies hgood, tide_of_supplies hgood, hacks, monOf_noteGood, ← hv, spAt_modSp, monOf_setMon]
  exact ⟨rfl, rfl, htide, rfl⟩

section monitor

variable {s : State} {b : Fin 64} {m : Mon} {level : Bool} (hacts : monActs s b m = true)
include hacts

theorem exec_monitorLevelChange (hlive : (monOf (spAt s b) m).blankEnd = none)
    (hchanges : (monOf (spAt s b) m).level ≠ level) :
    exec (.monitorLevelChange b m level) s = .next (monLive s b m level level) := by
  change execMonitorLevelChange b m level s = _
  rw [execMonitorLevelChange]
  exact congrArg _ (if_pos (by simp [hacts, hlive, hchanges]))

/-- A level that changes outside the blanking; a trip counts on its own wing's link (R493). -/
theorem monitorLevelChange_spec (hlive : (monOf (spAt s b) m).blankEnd = none)
    (hchanges : (monOf (spAt s b) m).level ≠ level) :
    ∃ t, exec (.monitorLevelChange b m level) s = .next t ∧ (monOf (spAt t b) m).level = level ∧
      (level = true → (wingAt s (wingOfBerth b)).linkDown = false →
        ackOf t (pid 3 b 0x6F (tripMember m)) = ackBump (ackOf s (pid 3 b 0x6F (tripMember m)))) ∧
      (level = false → t.acks = s.acks) := by
  obtain ⟨hlevel, -, -, hacks⟩ := monLive_spec s b m level level
  refine ⟨_, exec_monitorLevelChange hacts hlive hchanges, hlevel, fun htrip hup => ?_, fun hno => ?_⟩
  · rw [ackOf, hacks, if_pos htrip]
    exact ackOf_countFront _ _ hup
  · rw [hacks, if_neg (ne_true_of_eq_false hno)]

theorem exec_monitorBlankingEnd {i : Nat} (level : Bool) (hblank : (monOf (spAt s b) m).blankEnd = some i) :
    exec (.monitorBlankingEnd b m level) s =
      .next (monLive (reach s i) b m level (level && !(monOf (spAt s b) m).quiet)) := by
  change execMonitorBlankingEnd b m level s = _
  rw [execMonitorBlankingEnd, hblank]
  exact congrArg _ (if_pos hacts)

/-- The end of the filter of a monitor whose level has stayed 1 and which is armed. -/
theorem filterEnd_of_runs {i : Nat} (hfrom : (monOf (spAt s b) m).filterFrom = some i)
    (hruns : filterRuns (spAt s b) m = true) : filterEnd s b m = some (i + filterTime s b m) := by
  rw [filterEnd, if_pos (by simp [hacts, hruns]), hfrom]
  rfl

end monitor

/-! ### Filters that run out (R289, R292) -/

theorem exec_monitorFilterExpiry {s : State} {b : Fin 64} {m : Mon} {e : Nat} (hend : filterEnd s b m = some e) :
    exec (.monitorFilterExpiry b m) s = .next (monAction (filtersDone (reach s e) b (filtersDue s b e)) b
      (filterWins s b (filtersDue s b e) m)) := by
  change execMonitorFilterExpiry b m s = _
  rw [execMonitorFilterExpiry, hend]

/-- A filter that has had its say runs no more, and no other starts. -/
theorem filterFrom_setMon (x : Sp) (m k : Mon) :
    (monOf (setMon x m { monOf x m with filterFrom := none }) k).filterFrom =
      if k = m then none else (monOf x k).filterFrom := by
  cases m <;> cases k <;> rfl

theorem filtersDone_spec (s : State) (b : Nat) (ms : List Mon) :
    (filtersDone s b ms).tide = s.tide ∧ (filtersDone s b ms).par = s.par ∧
      ∀ k, k ∈ ms ∨ (monOf (spAt s b) k).filterFrom = none →
        (monOf (spAt (filtersDone s b ms) b) k).filterFrom = none := by
  induction ms generalizing s with
  | nil => exact ⟨rfl, rfl, by simp [filtersDone]⟩
  | cons m ms ih =>
    obtain ⟨htide, hpar, hdone⟩ := ih (modSp s b fun x => setMon x m { monOf x m with filterFrom := none })
    refine ⟨htide, hpar, fun k hk => hdone k ?_⟩
    rw [spAt_modSp, filterFrom_setMon]
    rcases hk with hmem | hnone
    · rcases List.mem_cons.mp hmem with hkm | hrest
      · exact .inr (if_pos hkm)
      · exact .inl hrest
    · exact .inr (by rw [hnone, ite_self])

/-- A filter that ends alone wins. -/
theorem filterWins_alone (s : State) (b : Nat) {ms : List Mon} {m : Mon} (h : ∀ k ∈ ms, k = m) :
    filterWins s b ms m = m := by
  have hfirst : (ms.head?).getD m = m := by
    cases ms with
    | nil => rfl
    | cons k ms => exact h k List.mem_cons_self
  refine List.foldlRecOn (motive := fun best => best = m) ms _ hfirst fun best hbest k hk => ?_
  rw [hbest, h k hk, ite_self]

/-! ### Stage faults and open sense lines (R289, R292) -/

theorem flagAct_of_noneDue {s : State} {b : Nat} (src rank : Nat) (hnone : filtersDue s b s.tide = []) :
    flagAct s b src rank = if causeWins s b 2 rank then action2 (actTaken s b 2 rank src) b src else s := by
  rw [flagAct, hnone]
  rfl

theorem exec_stageFaultFlag (s : State) (b : Fin 64) : exec (.stageFaultFlag b) s = .next (
    if (berthAt s b).powered then flagAct (countFront s 3 b 0x6F 8) (leaderOf s b) 0x33 0 else s) := rfl

theorem exec_openSenseDetect (s : State) (b : Fin 64) : exec (.openSenseDetect b) s = .next (
    if leaderOf s b = b && switching (spAt s b) then flagAct (countFront s 3 b 0x6F 0x0A) b 0x34 1 else s) := rfl

/-! ### Action 2 (R285, R289) -/

/-- A ramp or a sequence has set nothing aside. -/
theorem unwind_of_ramps {s : State} {c : Cmd} (status : Nat)
    (h : (∃ b, c.work = .ramp b) ∨ ∃ left started i v, c.work = .sequence left started i v) : unwind s c status = s := by
  rcases h with ⟨b, hwork⟩ | ⟨left, started, i, v, hwork⟩
  · rw [unwind, hwork]
  · rw [unwind, hwork]

theorem onlyEnds_rampCut (s : State) (b : Nat) (v : Verdict) : onlyEnds s (rampCut s b v) := by
  refine List.foldlRecOn (motive := fun t => onlyEnds s t) _ _ rfl fun t ht c hc => ?_
  obtain ⟨-, hcut⟩ := List.mem_filter.mp hc
  have hramps : (∃ k, c.work = .ramp k) ∨ ∃ left started i w, c.work = .sequence left started i w := by
    cases hwork : c.work with
    | ramp k => exact .inl ⟨k, rfl⟩
    | sequence left started i w => exact .inr ⟨left, started, i, w, rfl⟩
    | _ => simp [hwork] at hcut
  rw [cancel, unwind_of_ramps _ hramps]
  exact onlyEnds_trans ht (onlyEnds_complete _ _ _ _ _)

/-- A turn-off at once changes controllers alone. -/
theorem offNow_only (s : State) (b : Nat) : ∃ x, offNow s b = { s with berth := x } := by
  have hpwm (t : State) (l : Pwm) : ∃ x, pwmAll t b l = { t with berth := x } := by
    refine forAll_keeps (fun u => ∃ x, u = { t with berth := x }) _ (fun u m hu => ?_) t _ ⟨t.berth, rfl⟩
    obtain ⟨x, rfl⟩ := hu
    exact ⟨_, rfl⟩
  unfold offNow
  dsimp only
  split
  · exact ⟨s.berth, rfl⟩
  · obtain ⟨x, hx⟩ := hpwm (goodEnd s b) .mid
    rw [hx]
    exact ⟨_, rfl⟩

/-- Action 2 puts every berth of the gang that is not OFF into FAULT. -/
theorem action2_faults {s : State} {b m : Nat} (src : Nat) (hm : m ∈ gangOf s b) (hon : (berthAt s m).run ≠ .off) :
    (berthAt (action2 s b src) m).run = .fault := by
  generalize hu : offNow (rampCut s b (hwFault src b)) b = u
  have hcut := onlyEnds_rampCut s b (hwFault src b)
  obtain ⟨x, hoff⟩ := offNow_only (rampCut s b (hwFault src b)) b
  have hgang : gangOf u b = gangOf s b := by
    rw [← hu, hoff, hcut]
    rfl
  have hrun : (berthAt u m).run = (berthAt s m).run := by
    have hkept := congrFun (Channels.parkState_offNow (rampCut s b (hwFault src b)) b) m
    rw [hu] at hkept
    exact (congrArg Prod.fst hkept).trans ((stands_eq_iff.mp (stands_of_onlyEnds hcut)).1 m)
  obtain ⟨-, hfaults⟩ := berthsFault_spec u (gangOf u b) src b (hwFault src b) []
  have hend : supplies (action2 s b src) = supplies (gangFault u b src) := by
    rw [action2, hu]
    exact supplies_settle _
  rw [berthAt_of_supplies hend]
  exact hfaults m (hgang ▸ hm) (hrun ▸ hon)

/-- Settles O50: levels (`monitorLevelChange_spec`, `monLive_spec`), filters (`filtersDone_spec`, `filterWins_alone`), the
flag and the sense line where no filter ends on their edge (`flagAct_of_noneDue`), and action 2 (`action2_faults`). -/
theorem sitePowerFaults : Obligations.SitePowerFaults := by
  unfold Obligations.SitePowerFaults
  intro s b
  refine ⟨fun m level hacts => ⟨monitorLevelChange_spec hacts, fun i hblank => ?blanked, fun i hfrom hruns => ?filtered⟩,
    ⟨fun hdark => ?dark, fun hpowered hnone => ?flag⟩, ⟨fun hother => ?idle, fun hlead hswitches hnone => ?sense⟩,
    fun src m hm hon => action2_faults src hm hon⟩
  case blanked =>
    obtain ⟨hlevel, hlive, htide, -⟩ := monLive_spec (reach s i) b m level (level && !(monOf (spAt s b) m).quiet)
    exact ⟨_, exec_monitorBlankingEnd hacts level hblank, hlevel, hlive, (le_reach_tide s i).trans_eq htide.symm⟩
  case filtered =>
    intro e ms
    obtain ⟨htide, hpar, hdone⟩ := filtersDone_spec (reach s e) b ms
    refine ⟨_, exec_monitorFilterExpiry (filterEnd_of_runs hacts hfrom hruns), (le_reach_tide s e).trans_eq htide.symm,
      hpar, fun k hk => hdone k (.inl hk), fun honly => filterWins_alone s b fun k hk => honly k ?_⟩
    exact of_decide_eq_true (List.mem_filter.mp hk).2
  case dark => rw [exec_stageFaultFlag, if_neg (ne_true_of_eq_false hdark)]
  case flag =>
    rw [exec_stageFaultFlag, if_pos hpowered, flagAct_of_noneDue _ _ hnone]
    exact ⟨fun hwins => congrArg _ (if_pos hwins), fun hloses => congrArg _ (if_neg (ne_true_of_eq_false hloses))⟩
  case idle =>
    rw [exec_openSenseDetect, if_neg]
    rcases hother with hother | hother <;> simp [hother]
  case sense =>
    rw [exec_openSenseDetect, if_pos (by simp [hlead, hswitches]), flagAct_of_noneDue _ _ hnone]
    exact ⟨fun hwins => congrArg _ (if_pos hwins), fun hloses => congrArg _ (if_neg (ne_true_of_eq_false hloses))⟩

end Sys2Proof.PowerFaults
end

section
/-! The hold aperture BAR2: writes into pattern areas and reads of the hold (R318, R319, R322, R543). -/

namespace Sys2Proof.HoldWindow

open Sys2Proof Sys2Proof.Machine

/-! ### An access to BAR2 while both stacks are up (R319, R322) -/

/-- No range touches a stack that is down. -/
theorem no_downStack {s : State} (h0 : stackIsDown s 0 = false) (h1 : stackIsDown s 1 = false) (off n : Nat) :
    (stackIsDown s 0 && touches off n 0 || stackIsDown s 1 && touches off n 1) = false := by
  rw [h0, h1, Bool.false_and, Bool.false_and, Bool.or_false]

section writes

variable {s : State} {off : Nat} {data : List Byte} (hreach : barReach s = true) (hin : off + data.length ≤ bar2Size)
include hreach hin

/-- A write that is poisoned, or not wholly in a pattern area, counts in Bar2Reject. -/
theorem exec_bar2Write_discarded {poisoned : Bool} (h : poisoned = true ∨ rangePattern off data.length = false) :
    exec (.bar2Write off data poisoned) s = .next (count (wakeLink s) 6 0 0x78 3) := by
  change execBar2Write off data poisoned s = _
  rw [execBar2Write, if_neg (Nat.not_lt.mpr hin), Rings.onBar_of_reach hreach]
  exact congrArg _ (if_pos (by simpa using h))

theorem exec_bar2Write_taken (hpattern : rangePattern off data.length = true) (h0 : stackIsDown s 0 = false)
    (h1 : stackIsDown s 1 = false) :
    exec (.bar2Write off data false) s = .next (holdWrite (wakeLink s) off data) := by
  change execBar2Write off data false s = _
  rw [execBar2Write, if_neg (Nat.not_lt.mpr hin), Rings.onBar_of_reach hreach]
  rw [if_neg (by simp [hpattern])]
  exact congrArg _ (if_neg (ne_true_of_eq_false (no_downStack h0 h1 off _)))

end writes

section reads

variable {s : State} {off len : Nat} (hreach : barReach s = true)
include hreach

theorem exec_bar2Read_past (hin : off + len ≤ bar2Size) (hpast : holdSize ≤ off) :
    exec (.bar2Read off len) s = .next (readOut (wakeLink s) (List.replicate len 0) 0) := by
  change execBar2Read off len s = _
  rw [execBar2Read, if_neg (Nat.not_lt.mpr hin), Rings.onBar_of_reach hreach]
  exact congrArg _ (if_pos hpast)

/-- A read within the hold: its ECC decides between the bytes and poisoned data. -/
theorem exec_bar2Read_hold (hlen : 0 < len) (hin : off + len ≤ holdSize) (h0 : stackIsDown s 0 = false)
    (h1 : stackIsDown s 1 = false) :
    exec (.bar2Read off len) s = .next (if (badWord s off len).isSome then
        readOut (count (eccNote (wakeLink s) (stackOf off)) 6 0 0xD1 5) [] 1
      else readOut (countN (wakeLink s) 6 0 0x78 1 (singleErrors s off len)) (memReadBytes s.hold.mem off len) 0) := by
  have hwindow : ¬bar2Size < off + len := Nat.not_lt.mpr (hin.trans (by decide))
  have hinside : ¬0xC00000000 ≤ off := Nat.not_le.mpr (Nat.lt_of_lt_of_le (Nat.lt_add_of_pos_right hlen) hin)
  change execBar2Read off len s = _
  rw [execBar2Read, if_neg hwindow, Rings.onBar_of_reach hreach]
  dsimp only
  rw [if_neg hinside, if_neg (ne_true_of_eq_false (no_downStack (s := wakeLink s) h0 h1 off len))]
  simp only [ne_eq, hlen.ne', not_false_eq_true, decide_true, Bool.true_and]
  rfl

end reads

/-- Settles O27: a write is taken or discarded as its range says, and a read depends on where it lies and on the
ECC of its words. -/
theorem holdAperture : Obligations.HoldAperture := by
  unfold Obligations.HoldAperture
  intro s off data hreach hwf hin
  refine ⟨fun hpattern h0 h1 => ⟨_, exec_bar2Write_taken hreach hin hpattern h0 h1,
      memReadBytes_memWriteBytes _ _ _ hwf, fun a ha => memRead_memWriteBytes_other _ _ _ _ hwf ha,
      rfl, rfl, rfl, rfl, rfl⟩,
    fun hpattern => exec_bar2Write_discarded hreach hin (.inr hpattern),
    exec_bar2Write_discarded hreach hin (.inl rfl), fun len hend hpast => exec_bar2Read_past hreach hend hpast,
    fun len hlen hend h0 h1 => ⟨fun hgood => ?_, fun hbad => ?_⟩⟩
  · rw [exec_bar2Read_hold hreach hlen hend h0 h1, hgood]
    rfl
  · rw [exec_bar2Read_hold hreach hlen hend h0 h1, if_pos hbad]

end Sys2Proof.HoldWindow
end

section
/-! What thermal supervision reads over the acts of a stop: sensors, zones and hold stacks, as commands end, measurements,
calibrations and bakes are cut, berths park, supplies go off, chain ports go down and the reference is lost (R42, R194,
R291, R414 to R418, R476, R484). -/

namespace Sys2Proof.Watched

open Sys2Proof Sys2Proof.Machine

/-- A zone but for whether its stop is complete: STOPPING and STOPPED are one. -/
def stopBegun (x : Zone) : Zone := { x with state := Nat.min 3 x.state }

/-- What supervision goes by: the sensors, the zones as far as they have begun to stop, and the stacks that are down. -/
def watched (s : State) : Tab Sensor × (Nat → Zone) × Nat :=
  (s.therm.sensors, fun z => stopBegun (zoneAt s z), s.hold.stackDown)

section

variable {s t : State} (h : watched t = watched s)
include h

theorem sensors_of_watched : t.therm.sensors = s.therm.sensors := congrArg (·.1) h

theorem stopBegun_of_watched (z : Nat) : stopBegun (zoneAt t z) = stopBegun (zoneAt s z) :=
  congrFun (congrArg (·.2.1) h) z

theorem stackDown_of_watched : t.hold.stackDown = s.hold.stackDown := congrArg (·.2.2) h

end

theorem watched_foldl {α : Type} (f : State → α → State) (hf : ∀ s x, watched (f s x) = watched s) (s : State)
    (xs : List α) : watched (xs.foldl f s) = watched s :=
  List.foldlRecOn (motive := fun t => watched t = watched s) xs f rfl fun t ht x _ => (hf t x).trans ht

theorem watched_forAll (f : State → Nat → State) (hf : ∀ s n, watched (f s n) = watched s) (s : State)
    (xs : List Nat) : watched (forAll s xs f) = watched s := watched_foldl f hf s xs

/-! ### Updates -/

@[simp] theorem watched_count (s : State) (sc i f m : Nat) : watched (count s sc i f m) = watched s := rfl
@[simp] theorem watched_modChan (s : State) (c : Nat) (f : Chan → Chan) : watched (modChan s c f) = watched s := rfl
@[simp] theorem watched_modBerth (s : State) (b : Nat) (f : Berth → Berth) : watched (modBerth s b f) = watched s := rfl
@[simp] theorem watched_modSp (s : State) (b : Nat) (f : Sp → Sp) : watched (modSp s b f) = watched s := rfl
@[simp] theorem watched_modAcq (s : State) (b : Nat) (f : Acq → Acq) : watched (modAcq s b f) = watched s := rfl
@[simp] theorem watched_modTmu (s : State) (b : Nat) (f : Tmu → Tmu) : watched (modTmu s b f) = watched s := rfl
@[simp] theorem watched_modCal (s : State) (b : Nat) (f : Cal → Cal) : watched (modCal s b f) = watched s := rfl
@[simp] theorem watched_modQuay (s : State) (q : Nat) (f : Quay → Quay) : watched (modQuay s q f) = watched s := rfl
@[simp] theorem watched_modTp (s : State) (p : Nat) (f : Tp → Tp) : watched (modTp s p f) = watched s := rfl
@[simp] theorem watched_modLane (s : State) (l : Nat) (f : Lane → Lane) : watched (modLane s l f) = watched s := rfl
@[simp] theorem watched_putCmd (s : State) (c : Cmd) : watched (putCmd s c) = watched s := rfl

@[simp] theorem watched_causeEvent (s : State) (n : Nat) : watched (causeEvent s n) = watched s := by
  unfold causeEvent
  dsimp only
  rw [Microwords.vec0_only]
  rfl

@[simp] theorem watched_holdMod (s : State) (m c : Nat) : watched (holdMod s m c) = watched s := by
  obtain ⟨t, h⟩ := Channels.holdMod_only s m c
  rw [h]
  rfl

/-! ### The end of a command (R42, R444) -/

theorem watched_of_onlyEnds {s t : State} (h : onlyEnds s t) : watched t = watched s := by
  rw [h]
  rfl

@[simp] theorem watched_send (s : State) (x : Sent) : watched (send s x) = watched s :=
  watched_of_onlyEnds (onlyEnds_send s x)

@[simp] theorem watched_finish (s : State) (c : Cmd) (status : Nat) (d result : List Byte) :
    watched (finish s c status d result) = watched s := watched_of_onlyEnds (onlyEnds_finish _ _ _ _ _)

@[simp] theorem watched_complete (s : State) (c : Cmd) (status : Nat) (d result : List Byte) :
    watched (complete s c status d result) = watched s := watched_of_onlyEnds (onlyEnds_complete _ _ _ _ _)

@[simp] theorem watched_completeOk (s : State) (c : Cmd) (fs : List (Nat × Nat × Nat)) :
    watched (completeOk s c fs) = watched s := watched_complete _ _ _ _ _

@[simp] theorem watched_completeV (s : State) (c : Cmd) (v : Verdict) : watched (completeV s c v) = watched s :=
  watched_complete _ _ _ _ _

@[simp] theorem watched_completeAll (s : State) (p : Cmd → Bool) (v : Verdict) :
    watched (completeAll s p v) = watched s := watched_foldl _ (fun t c => watched_completeV t c v) _ _

@[simp] theorem watched_calOwn (s : State) (b : Nat) : watched (calOwn s b) = watched s := by
  unfold calOwn
  split
  · rw [ChainBakes.onlySchedules_calSchedule]
    rfl
  · rfl

@[simp] theorem watched_bakeDrop (s : State) : watched (bakeDrop s) = watched s := by
  rw [bakeDrop, ChainBakes.onlySchedules_calReadyAgain]
  rfl

@[simp] theorem watched_dropPending (s : State) (c : Cmd) (status : Nat) :
    watched (dropPending s c status) = watched s := by
  unfold dropPending
  split
  · split <;> simp
  · rfl

/-- What a command has set aside is given up. -/
@[simp] theorem watched_unwind (s : State) (c : Cmd) (status : Nat) : watched (unwind s c status) = watched s := by
  unfold unwind
  split
  · split <;> simp
  · exact watched_forAll _ (fun t q => watched_modQuay t q _) _ _
  · exact watched_forAll _ (fun t q => watched_modQuay t q _) _ _
  · exact watched_of_onlyEnds (onlyEnds_fillOver s c)
  · exact watched_forAll _ (fun t q => watched_modQuay t q _) _ _
  · exact watched_forAll _ (fun t k => watched_modChan t k _) _ _
  · exact watched_dropPending _ _ _
  · rfl

@[simp] theorem watched_cancel (s : State) (c : Cmd) (v : Verdict) : watched (cancel s c v) = watched s := by
  rw [cancel, watched_completeV, watched_unwind]

@[simp] theorem watched_cancelAll (s : State) (p : Cmd → Bool) (v : Verdict) : watched (cancelAll s p v) = watched s :=
  watched_foldl _ (fun t c => watched_cancel t c v) _ _

theorem watched_interruptOne (v : Verdict) (s : State) (c : Cmd) : watched (interruptOne v s c) = watched s := by
  have htake (u : State) (w : Verdict) : watched (takeInterrupt u c w) = watched u := by
    unfold takeInterrupt
    dsimp only
    split
    · rfl
    · exact watched_cancel u c w
  unfold interruptOne
  dsimp only
  split
  · split
    · exact htake _ _
    · rfl
  · exact watched_cancel s c v

@[simp] theorem watched_interrupt (s : State) (p : Cmd → Bool) (v : Verdict) : watched (interrupt s p v) = watched s :=
  watched_foldl _ (watched_interruptOne v) _ _

/-! ### Measurements that are cut (R234, R263) -/

@[simp] theorem watched_acqEnd (s : State) (b : Nat) : watched (acqEnd s b) = watched s := by
  have hclose (why : CloseWhy) : watched (acqClose s b why) = watched s := by
    unfold acqClose
    dsimp only
    split <;> split <;> rfl
  unfold acqEnd
  dsimp only
  rw [watched_modAcq]
  split
  · exact hclose _
  · split
    · exact hclose _
    · rfl

theorem watched_windowClose (s : State) (b : Nat) : watched (windowClose s b) = watched s := by
  have hflush : watched (tmuFlush s b) = watched s :=
    Acknowledgement.tmuFlush_keeps (fun _ _ _ => rfl) (fun _ _ _ _ _ => rfl) s b
  have hdifferences (t : State) : watched (differences t b) = watched t := by
    refine watched_forAll _ (fun t i => ?_) _ _
    split <;> rfl
  unfold windowClose
  dsimp only
  rw [watched_modTmu]
  split
  · rw [hdifferences]
    split <;> exact hflush
  · split <;> exact hflush

@[simp] theorem watched_tmuCut (s : State) (b : Nat) (provisional : Bool) :
    watched (tmuCut s b provisional) = watched s := by
  unfold tmuCut tmuEnd
  split
  · dsimp only
    rw [watched_modTmu, watched_modTmu]
    split
    · exact watched_windowClose s b
    · rfl
  · rfl

@[simp] theorem watched_ovenLost (s : State) : watched (ovenLost s) = watched s := by
  obtain ⟨x, o, h⟩ := Clocks.ovenLost_only s
  rw [h]
  rfl

/-! ### Calibrations and bakes that end (R384, R397, R484) -/

@[simp] theorem watched_calSwitchBack (s : State) (b : Nat) : watched (calSwitchBack s b) = watched s := by
  unfold calSwitchBack calSwitch
  dsimp only
  split
  · split <;> rfl
  · rfl

@[simp] theorem watched_calUndo (s : State) (b : Nat) (v : Option Verdict) : watched (calUndo s b v) = watched s := by
  unfold calUndo
  dsimp only
  split
  · rfl
  · split
    · simp [calReady]
    · split
      · rw [calEndUndone, watched_completeAll, watched_modCal]
        split <;> simp
      · simp

@[simp] theorem watched_calStop (s : State) (b : Nat) (v : Verdict) : watched (calStop s b v) = watched s := by
  unfold calStop
  split <;> simp

@[simp] theorem watched_refLossBake (s : State) : watched (refLossBake s) = watched s := by
  have hends (t : State) (p : PendBake) (v : Verdict) : watched (bakeFaultEnd t p v) = watched t := by
    unfold bakeFaultEnd
    dsimp only
    split <;> simp
  unfold refLossBake
  split
  · split <;> simp [hends]
  · rfl

@[simp] theorem watched_chainUnalign (s : State) : watched (chainUnalign s) = watched s := by
  rw [Tides.chainUnalign_only]
  rfl

/-! ### Halts, disarms and parks (R51, R194, R414, R415) -/

@[simp] theorem watched_haltRequest (s : State) (q cause : Nat) : watched (haltRequest s q cause) = watched s := by
  unfold haltRequest
  split <;> rfl

@[simp] theorem watched_disarm (s : State) (q : Nat) : watched (disarm s q) = watched s := by
  refine (watched_modQuay _ _ _).trans (watched_forAll _ (fun t b => ?_) _ _)
  split <;> rfl

@[simp] theorem watched_leaveArmed (s : State) (b : Nat) : watched (leaveArmed s b) = watched s := by
  unfold leaveArmed
  dsimp only
  split
  · split <;> simp [startsWithout]
  · rfl

/-- A park begins with the end of the berth's measurements and the start at each of its circuits. -/
theorem watched_parkStarts (s : State) (b : Nat) :
    watched (forAll (measureCut s b) (chansOfBerth b) parkStart) = watched s := by
  have hstart (t : State) (c : Nat) : watched (parkStart t c) = watched t := watched_holdMod t _ c
  rw [watched_forAll _ hstart, measureCut, watched_tmuCut, watched_acqEnd]

@[simp] theorem watched_parkBerth (s : State) (b : Nat) (toFault : Bool) (groups : List (List Nat)) :
    watched (parkBerth s b toFault groups) = watched s := watched_parkStarts s b

@[simp] theorem watched_parkBerthHard (s : State) (b : Nat) : watched (parkBerthHard s b) = watched s := by
  have happly (t : State) (c : Nat) : watched (parkApply t true c) = watched t := rfl
  rw [parkBerthHard, parkHard]
  exact (watched_modBerth _ _ _).trans ((watched_forAll _ happly _ _).trans (watched_parkStarts s b))

@[simp] theorem watched_parkOne (s : State) (b cause wait : Nat) (group : List Nat) :
    watched (parkOne s b cause wait group) = watched s := by
  unfold parkOne
  dsimp only
  split
  · rfl
  · split
    · rfl
    · split <;> simp

@[simp] theorem watched_parkOneHard (s : State) (b cause : Nat) : watched (parkOneHard s b cause) = watched s := by
  unfold parkOneHard
  dsimp only
  split
  · rfl
  · split <;> simp

/-! ### Supplies that go off (R282, R291) -/

@[simp] theorem watched_offNow (s : State) (b : Nat) : watched (offNow s b) = watched s := by
  obtain ⟨x, h⟩ := PowerFaults.offNow_only s b
  rw [h]
  rfl

@[simp] theorem watched_offRamp (s : State) (b : Nat) : watched (offRamp s b) = watched s := by
  have hlate : watched (if rampBusy s b then modSp s b fun x => { x with offAfter := true } else offNow s b) =
      watched s := by
    split <;> simp
  have hramp (target slew : Nat) : watched (rampStart s b target slew false) = watched s := by
    rw [rampStart, watched_modSp]
    split <;> rfl
  unfold offRamp
  dsimp only
  split
  case h_3 | h_4 => exact hlate
  case h_5 =>
    split
    · rfl
    · split
      · rfl
      · exact hramp _ _
  all_goals rfl

@[simp] theorem watched_offOrderly (s : State) (bs : List Nat) : watched (offOrderly s bs) = watched s := by
  unfold offOrderly
  split
  · rfl
  · exact watched_forAll _ watched_offRamp s _

@[simp] theorem watched_offHard (s : State) (bs : List Nat) : watched (offHard s bs) = watched s :=
  watched_forAll _ watched_offNow s _

@[simp] theorem watched_offAdvance (s : State) : watched (offAdvance s) = watched s := rfl

/-- A stop that is complete has begun. -/
theorem watched_stopped {s : State} {z : Nat} (h : stopDone s z = true) :
    watched (modZone s z fun x => { x with state := 4 }) = watched s := by
  have hstate : (zoneAt s z).state = 3 := by simp_all [stopDone]
  have hzones (k : Nat) : stopBegun (zoneAt (modZone s z fun x => { x with state := 4 }) k) =
      stopBegun (zoneAt s k) := by
    by_cases hk : k = z
    · subst hk
      simp [modZone, stopBegun, hstate]
    · rw [modZone, zoneAt_setZone_other s z k _ hk]
  exact Prod.ext rfl (Prod.ext (funext hzones) rfl)

@[simp] theorem watched_settle (s : State) : watched (settle s) = watched s := by
  unfold settle
  refine (watched_forAll _ (fun t z => ?_) _ _).trans (watched_foldl _ (fun t c => ?_) _ _)
  · split
    · next hdone => exact watched_stopped hdone
    · rfl
  · split <;> simp

/-! ### Chain ports that go down (R354, R367, R417) -/

theorem watched_undoNext (s : State) (c : Cmd) (tag : Nat) : watched (undoNext s c tag) = watched s := by
  have hundo (t : State) (b home slew : Nat) (off : Bool) : watched (undoTo t b home slew off tag) = watched t := by
    unfold undoTo
    split
    · exact (watched_modSp _ _ _).trans (watched_forAll _ (fun u m => watched_modSp u m _) _ _)
    · rfl
  unfold undoNext
  split
  · split
    · exact hundo _ _ _ _ _
    · exact watched_completeV _ _ _
  · rfl

theorem watched_sequencePart (s : State) (c : Cmd) (status : Nat) (data : List Byte) :
    watched (sequencePart s c status data) = watched s := by
  have hparts (k : Cmd) : watched (abortParts s k) = watched s := by
    unfold abortParts
    split
    · exact watched_foldl _ (fun t i => watched_send t _) _ _
    · rfl
  unfold sequencePart
  split
  · split
    · rfl
    · split
      · exact (watched_undoNext _ _ _).trans (hparts _)
      · exact watched_of_onlyEnds (Ramps.onlyEnds_sequenceSettle _ _)
  · rfl

/-- The reply to a part of a command that a lost device can give no more. -/
theorem watched_lostReplies (s : State) (i : Nat) : watched (lostReplies s i) = watched s := by
  have htrays (t : State) (op : HostOp) (status : Nat) : watched (noteTrays t op i status) = watched t := by
    unfold noteTrays
    split
    · split <;> rfl
    · rfl
  have hpart (t : State) (c : Cmd) (status : BitVec 16) (data : List Byte) :
      watched (partReply t c i status data) = watched t := by
    unfold partReply
    extract_lets k u
    have hu : watched u = watched t := (watched_sequencePart _ _ _ _).trans (htrays _ _ _)
    split
    · split
      · exact (watched_complete _ _ _ _ _).trans hu
      · exact hu
    · exact hu
  refine watched_foldl _ (fun t c => ?_) _ _
  split
  · exact watched_finish _ _ _ _ _
  · exact hpart _ _ _ _

theorem watched_bcastSettle (s : State) (c : Cmd) : watched (bcastSettle s c) = watched s := by
  unfold bcastSettle
  split
  · dsimp only
    split
    · split <;> simp
    · rfl
  · rfl

theorem watched_alignEnd (s : State) (c : Cmd) (ts : List (Nat × Int × Bool)) :
    watched (alignEnd s c ts) = watched s := by
  unfold alignEnd
  dsimp only
  split
  · exact (watched_completeV _ _ _).trans (watched_send _ _)
  · rw [watched_completeOk, watched_send]
    exact watched_foldl _ (fun t i => watched_send t _) _ _

theorem watched_alignSettle (s : State) : watched (alignSettle s) = watched s := by
  have hcorrect (c : Cmd) (ts : List (Nat × Int × Bool)) : watched (alignCorrect s c ts) = watched s :=
    watched_foldl _ (fun t _ => watched_send t _) _ _
  unfold alignSettle
  split
  · rfl
  · split
    · rfl
    · split
      · exact watched_completeOk _ _ _
      · split
        · rfl
        · split
          · exact watched_complete _ _ _ _ _
          · split
            · exact hcorrect _ _
            · split
              · rfl
              · exact watched_alignEnd _ _ _

theorem watched_chainLost (s : State) (root : Nat) : watched (chainLost s root) = watched s := by
  unfold chainLost
  extract_lets +lift gone chain marked replied settled
  split
  · rfl
  · have hreplied : watched replied = watched s :=
      (watched_forAll _ watched_lostReplies _ _).trans (watched_causeEvent marked 4)
    have hsettled : watched settled = watched replied := by
      dsimp only [settled]
      split
      · exact watched_bcastSettle _ _
      · rfl
    rw [watched_alignSettle, hsettled, hreplied]

theorem watched_portDown (s : State) (p : Nat) : watched (portDown s p) = watched s := by
  unfold portDown
  extract_lets +lift role root counted trained reset chain granted
  have htrain (t : State) (l : Nat) : watched (laneTrain t l 7) = watched t := rfl
  have hleave (t : State) (l : Nat) : watched (laneLeave t l .train 7) = watched t := rfl
  have htrained : watched trained = watched s :=
    watched_forAll _ (fun t l => (htrain _ l).trans (hleave t l)) _ _
  clear_value trained role root
  have hgranted : watched granted = watched s := htrained
  split
  · split
    · rw [watched_alignSettle, watched_send, hgranted]
    · exact (watched_chainLost _ _).trans hgranted
  · exact (watched_alignSettle _).trans hgranted

theorem watched_portsIdle (s : State) : watched (portsIdle s) = watched s := by
  refine (watched_forAll _ (fun t l => watched_modLane t l _) _ _).trans (watched_forAll _ (fun t p => ?_) _ _)
  split
  · exact watched_portDown t p
  · rfl

/-! ### The loss of the reference (R475 to R477, R484) -/

/-- The orderly park of the device halts its quays, parks its berths and lets its supplies go off. -/
theorem watched_refLossPark (s : State) : watched (refLossPark s) = watched s := by
  unfold refLossPark
  dsimp only
  rw [watched_settle, watched_offAdvance]
  generalize hu : forAll s (List.range 16) _ = u
  have hquays : watched u = watched s := by
    rw [← hu]
    refine watched_forAll _ (fun t q => ?_) _ _
    split
    · exact watched_haltRequest t q 5
    · split
      · exact watched_disarm t q
      · rfl
  have hberths (bs : List Nat) (group : State → List Nat) :
      watched (forAll u bs fun t b => parkOne t b 5 800 (group t)) = watched u :=
    watched_forAll _ (fun t b => watched_parkOne t b 5 800 _) _ _
  split
  · exact (watched_offOrderly _ _).trans ((hberths _ _).trans hquays)
  · exact (hberths _ _).trans hquays

theorem watched_refLoss (s : State) : watched (refLoss s) = watched s := by
  unfold refLoss
  extract_lets +lift failed caused coast forced ended ramps cals bake cut oven chain lost parked told
  have hcoast : watched coast = watched s := (watched_causeEvent failed 3).trans (watched_completeAll _ _ _)
  have hended : watched ended = watched coast := (watched_interrupt _ _ _).trans (watched_cancelAll _ _ _)
  have hramps : watched ramps = watched ended := by
    refine watched_forAll _ (fun t b => ?_) _ _
    split
    · exact watched_cancelAll _ _ _
    · rfl
  have hbake : watched bake = watched ramps :=
    (watched_refLossBake _).trans (watched_forAll _ (fun t b => watched_calStop t b _) _ _)
  have hoven : watched oven = watched bake :=
    (watched_ovenLost _).trans (watched_forAll _ (fun t b => watched_tmuCut t b true) _ _)
  clear_value oven
  have hlost : watched lost = watched oven := by
    dsimp only [lost]
    split <;> rfl
  have hparked : watched parked = watched lost := watched_send _ _
  have htold : watched told = watched lost := by
    dsimp only [told]
    split
    · split
      · split
        · exact hparked
        · exact (watched_chainUnalign _).trans hparked
      · exact (watched_chainUnalign _).trans hparked
    · rfl
  have hdevice (t : State) : watched (deviceParked t) = watched t := rfl
  rw [hdevice, watched_refLossPark, htold, hlost, hoven, hbake, hramps, hended, hcoast]

/-! ### Stops (R414 to R418) -/

theorem watched_stopOrderly (s : State) (z : Nat) : watched (stopOrderly s z) = watched s := by
  unfold stopOrderly
  extract_lets bs parked off
  have hparked : watched parked = watched s := watched_forAll _ (fun t b => watched_parkOne t b 6 800000 _) _ _
  have hoff : watched off = watched parked := by
    dsimp only [off]
    split
    · exact watched_offOrderly _ _
    · rfl
  rw [watched_settle, watched_offAdvance, hoff, hparked]

theorem watched_stopImmediate (s : State) (z : Nat) : watched (stopImmediate s z) = watched s := by
  unfold stopImmediate
  extract_lets bs parked
  have hparked : watched parked = watched s := watched_forAll _ (fun t b => watched_parkOneHard t b 6) _ _
  rw [watched_settle, watched_offAdvance, watched_offHard, hparked]

theorem watched_stopCommands (s : State) (z sensor : Nat) : watched (stopCommands s z sensor) = watched s := by
  unfold stopCommands
  extract_lets v bs ended
  have hended : watched ended = watched s := watched_forAll _ (fun t b => watched_calStop t b v) _ _
  split
  · exact (watched_interrupt _ _ _).trans hended
  · split
    · exact (watched_cancelAll _ _ _).trans hended
    · exact (watched_interrupt _ _ _).trans hended

/-- A stop that begins enters its zone; its acts leave all zones as far as they have begun to stop. -/
theorem stopBegin_watched (s : State) (z causes levels : Nat) (fresh : Bool) (t : Option Int) (r : Int) :
    ∃ kind first ttl, watched (stopBegin s z causes levels fresh t r) = watched (modZone s z fun x => { x with
      state := 3, stopKind := kind, stopCause := causes, firstSensor := first, ttlAtStop := ttl }) := by
  unfold stopBegin
  extract_lets first ttl device now entered caused told ended hold idle
  refine ⟨if device then 0 else if now then 2 else 1, first, ttlField ttl, ?_⟩
  have hentered : watched (modZone s z fun x => { x with
      state := 3, stopKind := if device then 0 else if now then 2 else 1, stopCause := causes
      firstSensor := first, ttlAtStop := ttlField ttl }) = watched entered := rfl
  have hcaused : watched caused = watched entered := watched_causeEvent _ _
  have htold : watched told = watched caused := by
    dsimp only [told]
    split
    · exact watched_send _ _
    · rfl
  have hended : watched ended = watched entered :=
    (watched_stopCommands _ _ _).trans (htold.trans hcaused)
  have hhot (n : Nat) : watched { ended with hold := { ended.hold with stackHot := n } } = watched ended := rfl
  have hidle : watched idle = watched ended := (watched_settle _).trans (watched_portsIdle _)
  have hlost (u : State) : watched { u with chain := { u.chain with lost := true } } = watched u := rfl
  rw [hentered, ← hended]
  split
  · exact (watched_settle _).trans (hhot _)
  · split
    · split
      · rw [watched_refLoss, hlost, hidle]
      · exact hidle
    · split
      · exact watched_stopImmediate _ _
      · exact watched_stopOrderly _ _

end Sys2Proof.Watched
end

section
/-! Thermal supervision and the hold stacks: samples, sensors that go bad, zones that begin to stop, and stacks that go
down (R319, R403 to R417). -/

namespace Sys2Proof.Thermal

open Sys2Proof Sys2Proof.Machine Sys2Proof.Watched

theorem sensorAt_of_sensors {s t : State} (h : t.therm.sensors = s.therm.sensors) (j : Nat) :
    sensorAt t j = sensorAt s j := by
  rw [sensorAt, h, sensorAt]

/-- Only the sensors change. -/
def onlySensors (s t : State) : Prop := t = { s with therm := { s.therm with sensors := t.therm.sensors } }

theorem onlySensors_trans {s t u : State} (h : onlySensors s t) (k : onlySensors t u) : onlySensors s u := by
  rw [onlySensors] at h k ⊢
  rw [k, h]

theorem onlySensors_setSensor (s : State) (i : Nat) (x : Sensor) : onlySensors s (setSensor s i x) := rfl

theorem ignored_of_onlySensors {s t : State} (h : onlySensors s t) (j : Nat) : ignored t j = ignored s j := by
  rw [h]
  rfl

/-! ### Samples (R404, R405) -/

theorem onlySensors_samples (s : State) (is : List SensorIn) : onlySensors s (is.foldl takeSample s) :=
  List.foldlRecOn (motive := fun t => onlySensors s t) is takeSample rfl
    fun _ ht _ _ => onlySensors_trans ht (onlySensors_setSensor _ _ _)

theorem sensorAt_takeSample_other (s : State) (i : SensorIn) {j : Nat} (h : j ≠ i.sensor.val) :
    sensorAt (takeSample s i) j = sensorAt s j := sensorAt_setSensor_other _ _ _ _ h

theorem sensorAt_samples_of_notMem (s : State) {is : List SensorIn} {j : Nat} (h : j ∉ is.map (·.sensor.val)) :
    sensorAt (is.foldl takeSample s) j = sensorAt s j :=
  List.foldlRecOn (motive := fun t => sensorAt t j = sensorAt s j) is takeSample rfl fun _ ht i hi =>
    (sensorAt_takeSample_other _ i fun hj => h (List.mem_map.mpr ⟨i, hi, hj.symm⟩)).trans ht

/-- A sensor that is sampled once takes its sample as it was at the start. -/
theorem sensorAt_samples_of_mem (s : State) {is : List SensorIn} {i : SensorIn} (hi : i ∈ is)
    (hnodup : (is.map (·.sensor)).Nodup) : ∃ u, onlySensors s u ∧ sensorAt u i.sensor = sensorAt s i.sensor ∧
      sensorAt (is.foldl takeSample s) i.sensor = sensorAt (takeSample u i) i.sensor := by
  obtain ⟨before, after, rfl⟩ := List.append_of_mem hi
  have honce : i.sensor ∉ before.map (·.sensor) ∧ i.sensor ∉ after.map (·.sensor) := by
    rw [List.map_append, List.map_cons, List.nodup_middle, List.nodup_cons, List.mem_append, not_or] at hnodup
    exact hnodup.1
  have hval {ks : List SensorIn} (h : i.sensor ∉ ks.map (·.sensor)) : i.sensor.val ∉ ks.map (·.sensor.val) :=
    fun hmem => by
      obtain ⟨k, hk, hsame⟩ := List.mem_map.mp hmem
      exact h (List.mem_map.mpr ⟨k, hk, Fin.ext hsame⟩)
  refine ⟨before.foldl takeSample s, onlySensors_samples s before, sensorAt_samples_of_notMem s (hval honce.1), ?_⟩
  rw [List.foldl_append, List.foldl_cons]
  exact sensorAt_samples_of_notMem _ (hval honce.2)

theorem reading_takeSample (s : State) (i : SensorIn) :
    (sensorAt (takeSample s i) i.sensor).reading = some i.reading := by
  rw [takeSample, sensorAt_setSensor]

/-- A sensor that shows open becomes bad, unless it is ignored. -/
theorem badKind_takeSample_opened {s : State} {i : SensorIn} (hgood : (sensorAt s i.sensor).badKind = 0)
    (hheeded : ignored s i.sensor = false) (hopen : i.diag = .opened) :
    (sensorAt (takeSample s i) i.sensor).badKind = 1 := by
  simp [takeSample, sampleKind, hgood, hheeded, hopen]

/-! ### The stuck test (R405) -/

/-- Sensors keep their readings, and bad ones what made them bad. -/
def readingsKept (s t : State) : Prop := onlySensors s t ∧ ∀ j, (sensorAt t j).reading = (sensorAt s j).reading ∧
  ((sensorAt s j).badKind ≠ 0 → (sensorAt t j).badKind = (sensorAt s j).badKind)

theorem readingsKept_refl (s : State) : readingsKept s s := ⟨rfl, fun _ => ⟨rfl, fun _ => rfl⟩⟩

theorem readingsKept_trans {s t u : State} (h : readingsKept s t) (k : readingsKept t u) : readingsKept s u := by
  refine ⟨onlySensors_trans h.1 k.1, fun j => ?_⟩
  obtain ⟨hreading, hbad⟩ := h.2 j
  obtain ⟨kreading, kbad⟩ := k.2 j
  exact ⟨kreading.trans hreading, fun hj => (kbad (hbad hj ▸ hj)).trans (hbad hj)⟩

theorem readingsKept_setSensor {s : State} {i : Nat} {x : Sensor} (hreading : x.reading = (sensorAt s i).reading)
    (hbad : (sensorAt s i).badKind ≠ 0 → x.badKind = (sensorAt s i).badKind) :
    readingsKept s (setSensor s i x) := by
  refine ⟨onlySensors_setSensor s i x, fun j => ?_⟩
  by_cases hj : j = i
  · subst hj
    rw [sensorAt_setSensor]
    exact ⟨hreading, hbad⟩
  · rw [sensorAt_setSensor_other s i j x hj]
    exact ⟨rfl, fun _ => rfl⟩

theorem readingsKept_stuckTest (s : State) (i : Nat) : readingsKept s (stuckTest s i) := by
  unfold stuckTest
  dsimp only
  split
  · split
    · exact readingsKept_setSensor rfl fun _ => rfl
    · split
      · next hstuck => exact readingsKept_setSensor rfl fun hbad => by simp_all
      · exact readingsKept_refl s
  · exact readingsKept_setSensor rfl fun _ => rfl
  · split
    · exact readingsKept_setSensor rfl fun _ => rfl
    · exact readingsKept_refl s

/-! ### THERMAL_SAMPLE (R404 to R416) -/

/-- The samples are in, and the stuck test of each is made. -/
def sampled (s : State) (is : List SensorIn) : State :=
  forAll (is.foldl takeSample s) (is.map (·.sensor.val)) stuckTest

/-- Zones, gates and corrections follow. -/
def supervised (s : State) : State :=
  gatesLift (forAll (forAll s (List.range 24) zoneSample) (List.range 64) calDrift)

theorem exec_thermalSample (s : State) (is : List SensorIn) : exec (.thermalSample is) s =
    .next (if (sampled s is).cold then sampled s is else supervised (sampled s is)) := rfl

theorem readingsKept_sampled (s : State) (is : List SensorIn) :
    readingsKept (is.foldl takeSample s) (sampled s is) :=
  forAll_keeps (readingsKept (is.foldl takeSample s)) _
    (fun t i ht => readingsKept_trans ht (readingsKept_stuckTest t i)) _ _ (readingsKept_refl _)

theorem onlySensors_sampled (s : State) (is : List SensorIn) : onlySensors s (sampled s is) :=
  onlySensors_trans (onlySensors_samples s is) (readingsKept_sampled s is).1

/-- What the sensors show once the samples are in. -/
theorem sampled_spec (s : State) {is : List SensorIn} (hnodup : (is.map (·.sensor)).Nodup) :
    (∀ i ∈ is, (sensorAt (sampled s is) i.sensor).reading = some i.reading) ∧
    (∀ j, j ∉ is.map (·.sensor.val) → (sensorAt (sampled s is) j).reading = (sensorAt s j).reading) ∧
    (∀ i ∈ is, (sensorAt s i.sensor).badKind = 0 → ignored s i.sensor = false → i.diag = .opened →
      (sensorAt (sampled s is) i.sensor).badKind = 1) := by
  obtain ⟨-, hkept⟩ := readingsKept_sampled s is
  refine ⟨fun i hi => ?_, fun j hj => ?_, fun i hi hgood hheeded hopen => ?_⟩
  · obtain ⟨u, -, -, htaken⟩ := sensorAt_samples_of_mem s hi hnodup
    rw [(hkept _).1, htaken, reading_takeSample]
  · rw [(hkept j).1, sensorAt_samples_of_notMem s hj]
  · obtain ⟨u, honly, hsame, htaken⟩ := sensorAt_samples_of_mem s hi hnodup
    have hone : (sensorAt (is.foldl takeSample s) i.sensor).badKind = 1 := by
      rw [htaken]
      exact badKind_takeSample_opened (by rw [hsame, hgood]) (by rw [ignored_of_onlySensors honly, hheeded]) hopen
    rw [(hkept _).2 (by simp [hone]), hone]

/-! ### A zone on a sample (R406 to R418) -/

/-- The levels of a zone on a sample. -/
def sampleLevels (s : State) (z : Nat) : Nat :=
  levelsOf s z (zoneAt s z).fresh (zoneAt s z).levels (zoneTemp s z) (zoneRate s z)

/-- The causes that a zone's sample gives to stop. -/
def sampleCauses (s : State) (z : Nat) : Nat := stopCauses s z (sampleLevels s z) (zoneTemp s z)

/-- The zone shows its sample. -/
def zoneShown (s : State) (z : Nat) : State := modZone s z fun y => { y with
  temp := zoneTemp s z, rate := zoneRate s z, levels := sampleLevels s z, fresh := false
  sensorStop := natBit (sampleCauses s z) 2 }

/-- The zone that is shown takes the state of its levels. -/
def zoneLevelled (s : State) (z : Nat) : State :=
  zoneEnter (modZone (zoneShown s z) z fun y => { y with state := levelState (sampleLevels s z) }) z
    (zoneAt s z).state (levelState (sampleLevels s z))

theorem zoneSample_of_below {s : State} {z : Nat} (hstate : (zoneAt s z).state < 3)
    (hseen : zoneTemp s z ≠ none ∨ (sensorsOf z).any (badHolds s) = true) : zoneSample s z =
      if sampleCauses s z ≠ 0 then stopBegin (zoneShown s z) z (sampleCauses s z) (sampleLevels s z) (zoneAt s z).fresh
        (zoneTemp s z) (zoneRate s z)
      else zoneLevelled s z := by
  have hdark : ¬(decide (zoneTemp s z = none) && !(sensorsOf z).any (badHolds s)) = true := by
    rcases hseen with htemp | hbad
    · simp [htemp]
    · simp [hbad]
  unfold zoneSample
  dsimp only
  rw [if_neg hdark, if_pos hstate]
  rfl

theorem sensors_modZone (s : State) (z : Nat) (f : Zone → Zone) : (modZone s z f).therm.sensors = s.therm.sensors := rfl

/-- A zone that begins to stop has the state and the causes of its stop. -/
theorem stopBegin_spec (s : State) (z causes levels : Nat) (fresh : Bool) (t : Option Int) (r : Int) :
    (stopBegin s z causes levels fresh t r).therm.sensors = s.therm.sensors ∧
      3 ≤ (zoneAt (stopBegin s z causes levels fresh t r) z).state ∧
      (zoneAt (stopBegin s z causes levels fresh t r) z).stopCause = causes := by
  obtain ⟨kind, first, ttl, hwatched⟩ := stopBegin_watched s z causes levels fresh t r
  have hzone := stopBegun_of_watched hwatched z
  rw [modZone, zoneAt_setZone] at hzone
  have hstate : Nat.min 3 (zoneAt (stopBegin s z causes levels fresh t r) z).state = 3 := congrArg Zone.state hzone
  have hcause := congrArg Zone.stopCause hzone
  exact ⟨(sensors_of_watched hwatched).trans (sensors_modZone _ _ _),
    hstate.symm.trans_le (Nat.min_le_right _ _), hcause⟩

/-- A change among the states below STOPPING counts, and changes nothing else. -/
theorem zoneEnter_only (s : State) (z old new : Nat) : ∃ a, zoneEnter s z old new = { s with acks := a } := by
  unfold zoneEnter
  split
  · exact ⟨_, rfl⟩
  · split
    · exact ⟨_, count_only _ _ _ _ _⟩
    · split
      · exact ⟨_, count_only _ _ _ _ _⟩
      · exact ⟨_, rfl⟩

theorem zoneLevelled_spec (s : State) (z : Nat) :
    (zoneAt (zoneLevelled s z) z).state = levelState (sampleLevels s z) ∧
      (zoneLevelled s z).berth = s.berth ∧ (zoneLevelled s z).quay = s.quay := by
  obtain ⟨a, h⟩ := zoneEnter_only
    (modZone (zoneShown s z) z fun y => { y with state := levelState (sampleLevels s z) }) z
    (zoneAt s z).state (levelState (sampleLevels s z))
  have hzone : zoneAt (zoneLevelled s z) z =
      { zoneAt (zoneShown s z) z with state := levelState (sampleLevels s z) } := by
    rw [zoneLevelled, h]
    exact zoneAt_setZone _ _ _
  refine ⟨by rw [hzone], ?_⟩
  rw [zoneLevelled, h]
  exact ⟨rfl, rfl⟩

/-- No act of a zone on a sample changes a sensor. -/
theorem sensors_zoneSample (s : State) (z : Nat) : (zoneSample s z).therm.sensors = s.therm.sensors := by
  unfold zoneSample
  extract_lets x t r levels causes shown new
  have hshown : shown.therm.sensors = s.therm.sensors := rfl
  split
  · rfl
  · split
    · split
      · exact (stopBegin_spec _ _ _ _ _ _ _).1.trans hshown
      · obtain ⟨a, h⟩ := zoneEnter_only (modZone shown z fun y => { y with state := new }) z x.state new
        rw [h]
        rfl
    · split
      · rw [escalate, sensors_of_watched (watched_stopImmediate _ z), sensors_modZone, hshown]
      · exact hshown

theorem sensors_supervised (s : State) : (supervised s).therm.sensors = s.therm.sensors := by
  have hgates (t : State) : watched (gatesLift t) = watched t := watched_forAll _ (fun u q => watched_modQuay u q _) _ _
  have hdrift (t : State) (b : Nat) : watched (calDrift t b) = watched t := by
    unfold calDrift
    split
    · exact watched_forAll _ (fun u c => watched_modChan u c _) _ _
    · rfl
  have hzones : (forAll s (List.range 24) zoneSample).therm.sensors = s.therm.sensors :=
    forAll_same (fun t => t.therm.sensors) zoneSample sensors_zoneSample s _
  rw [supervised, sensors_of_watched (hgates _), sensors_of_watched (watched_forAll _ hdrift _ _), hzones]

/-! ### HOLD_STACK_DOWN (R319) -/

/-- The commands that address a stack end as it goes down. -/
def stackLost (s : State) (k : Nat) : State :=
  interrupt { s with hold := { s.hold with stackDown := Nat.lor s.hold.stackDown (2 ^ k) } } (addressesStack
    { s with hold := { s.hold with stackDown := Nat.lor s.hold.stackDown (2 ^ k) } } k) (hwFault 0x41 k)

theorem exec_holdStackDown {s : State} {k : Fin 2} (hup : natBit s.hold.stackDown k = false) :
    exec (.holdStackDown k) s = .next (if (stackLost s k).hold.stackDown = 3 then deviceFault (stackLost s k) 0x41 k
      else stackLost s k) := by
  change execHoldStackDown k s = _
  rw [execHoldStackDown, if_neg (ne_true_of_eq_false hup)]
  rfl

theorem stackLost_spec (s : State) (k : Nat) :
    (stackLost s k).hold.stackDown = Nat.lor s.hold.stackDown (2 ^ k) ∧ (stackLost s k).devFault = s.devFault :=
  ⟨stackDown_of_watched (watched_interrupt _ _ _), Clocks.devFault_of_clocks (Clocks.clocks_interrupt _ _ _)⟩

theorem watched_deviceFault (s : State) (src inst : Nat) : watched (deviceFault s src inst) = watched s := by
  unfold deviceFault devFaultEnter
  split
  · rfl
  · exact (watched_cancelAll _ _ _).trans (watched_causeEvent _ _)

/-- Settles O53: what the sensors show (`sampled_spec`) is kept by all that supervision does (`sensors_supervised`), a
zone below STOPPING decides by its causes (`zoneSample_of_below`), and both stacks down fault the device. -/
theorem thermalEvents : Obligations.ThermalEvents := by
  unfold Obligations.ThermalEvents
  refine ⟨fun s is hnodup => ?samples, fun s z _ hstate hseen => ?zones, fun s k hup => ?down⟩
  case samples =>
    have honly := onlySensors_sampled s is
    have hcold : (sampled s is).cold = s.cold := by rw [honly]
    obtain ⟨hreads, hothers, hopened⟩ := sampled_spec s hnodup
    refine ⟨_, exec_thermalSample s is, ?_⟩
    generalize ht : (if (sampled s is).cold then sampled s is else supervised (sampled s is)) = t
    have hsensors (j : Nat) : sensorAt t j = sensorAt (sampled s is) j := by
      refine sensorAt_of_sensors ?_ j
      rw [← ht]
      split
      · rfl
      · exact sensors_supervised _
    refine ⟨fun i hi => by rw [hsensors, hreads i hi], fun j hj => by rw [hsensors, hothers j hj], fun hc => ?_,
      fun i hi hgood hheeded hopen => by rw [hsensors, hopened i hi hgood hheeded hopen]⟩
    rw [← ht, if_pos (hcold.trans hc), honly]
    exact ⟨rfl, rfl, rfl⟩
  case zones =>
    have hdecides := zoneSample_of_below hstate hseen
    refine ⟨fun hstop => ?_, fun hgo => ?_⟩
    · rw [hdecides, if_pos (show sampleCauses s z ≠ 0 from hstop)]
      exact (stopBegin_spec _ _ _ _ _ _ _).2
    · rw [hdecides, if_neg (not_not.mpr (show sampleCauses s z = 0 from hgo))]
      exact zoneLevelled_spec s z
  case down =>
    obtain ⟨hdown, hfault⟩ := stackLost_spec s k
    refine ⟨_, exec_holdStackDown hup, ?_⟩
    split
    · refine ⟨(stackDown_of_watched (watched_deviceFault _ _ _)).trans hdown, fun _ hnone => ?_⟩
      exact (References.deviceFault_spec 0x41 k (hfault.trans hnone)).1
    · next hone => exact ⟨hdown, fun hboth => absurd hboth hone⟩

end Sys2Proof.Thermal
end

section
/-! The encoding of microwords (R431, R433, R434). -/

namespace Sys2Proof.MicrowordEncoding

open Sys2Proof Sys2Proof.Machine

/-! ### A word and its fields -/

theorem toNat_append_eq {m n : Nat} (x : BitVec m) (y : BitVec n) :
    (x ++ y).toNat = x.toNat * 2 ^ n + y.toNat := by
  rw [BitVec.toNat_append, Nat.shiftLeft_eq, Nat.mul_comm, Nat.two_pow_add_eq_or_of_lt y.isLt]

theorem toNat_microWord (op : BitVec 6) (a b : Fin 32) (imm : BitVec 16) :
    (microWord op a b imm).toNat = ((op.toNat * 32 + a.val) * 32 + b.val) * 65536 + imm.toNat := by
  rw [microWord, toNat_append_eq, toNat_append_eq, toNat_append_eq]
  rfl

theorem toNat_microOp (w : BitVec 32) : (microOp w).toNat = w.toNat / 2 ^ 26 := by
  rw [microOp, BitVec.extractLsb'_toNat, Nat.shiftRight_eq_div_pow]
  omega

theorem val_microA (w : BitVec 32) : (microA w).val = w.toNat / 2 ^ 21 % 32 := by
  rw [microA, BitVec.val_toFin, BitVec.extractLsb'_toNat, Nat.shiftRight_eq_div_pow]

theorem val_microB (w : BitVec 32) : (microB w).val = w.toNat / 2 ^ 16 % 32 := by
  rw [microB, BitVec.val_toFin, BitVec.extractLsb'_toNat, Nat.shiftRight_eq_div_pow]

theorem toNat_microImm (w : BitVec 32) : (microImm w).toNat = w.toNat % 65536 := by
  rw [microImm, BitVec.extractLsb'_toNat, Nat.shiftRight_zero]

@[simp] theorem microOp_microWord (op : BitVec 6) (a b : Fin 32) (imm : BitVec 16) :
    microOp (microWord op a b imm) = op := by
  apply BitVec.eq_of_toNat_eq
  rw [toNat_microOp, toNat_microWord]
  omega

@[simp] theorem microA_microWord (op : BitVec 6) (a b : Fin 32) (imm : BitVec 16) :
    microA (microWord op a b imm) = a := by
  apply Fin.ext
  rw [val_microA, toNat_microWord]
  omega

@[simp] theorem microB_microWord (op : BitVec 6) (a b : Fin 32) (imm : BitVec 16) :
    microB (microWord op a b imm) = b := by
  apply Fin.ext
  rw [val_microB, toNat_microWord]
  omega

@[simp] theorem microImm_microWord (op : BitVec 6) (a b : Fin 32) (imm : BitVec 16) :
    microImm (microWord op a b imm) = imm := by
  apply BitVec.eq_of_toNat_eq
  rw [toNat_microImm, toNat_microWord]
  omega

theorem microWord_fields (w : BitVec 32) : microWord (microOp w) (microA w) (microB w) (microImm w) = w := by
  apply BitVec.eq_of_toNat_eq
  rw [toNat_microWord, toNat_microOp, val_microA, val_microB, toNat_microImm]
  omega

theorem exists_microWord (w : BitVec 32) : ∃ op a b imm, w = microWord op a b imm :=
  ⟨_, _, _, _, (microWord_fields w).symm⟩

theorem readIf_eq_some {unused : Bool} {i j : Instr} : readIf unused i = some j ↔ unused = true ∧ i = j := by
  cases unused <;> simp [readIf]

/-! ### Immediates that hold less than 16 bits, written and read -/

theorem shiftImm_read {imm : BitVec 16} (h : imm.toNat < 32) : BitVec.ofNat 16 (imm.toNat % 32) = imm := by
  rw [Nat.mod_eq_of_lt h, BitVec.ofNat_toNat, BitVec.setWidth_eq]

theorem immBit_read {imm : BitVec 16} (h : imm.toNat < 2) : immBit (imm.getLsbD 0) = imm := by
  obtain h0 | h1 : imm.toNat = 0 ∨ imm.toNat = 1 := by omega
  · obtain rfl : imm = 0#16 := BitVec.eq_of_toNat_eq h0
    rfl
  · obtain rfl : imm = 1#16 := BitVec.eq_of_toNat_eq h1
    rfl

theorem waitImm_read {imm : BitVec 16} (h : imm.toNat < 512) :
    BitVec.ofNat 16 ((imm.setWidth 8).toNat + if imm.getLsbD 8 then 256 else 0) = imm := by
  apply BitVec.eq_of_toNat_eq
  have hbit : imm.getLsbD 8 = decide (256 ≤ imm.toNat) := by
    rw [BitVec.getLsbD, Nat.testBit_eq_decide_div_mod_eq]
    congr 1
    simp only [eq_iff_iff]
    omega
  rw [hbit, BitVec.toNat_ofNat, BitVec.toNat_setWidth]
  split <;> simp_all <;> omega

theorem byteImm_read {imm : BitVec 16} (h : imm.toNat < 256) : (imm.setWidth 8).setWidth 16 = imm := by
  apply BitVec.eq_of_toNat_eq
  rw [BitVec.toNat_setWidth, BitVec.toNat_setWidth]
  omega

theorem condition_read {a : Fin 32} (h : a.val < 14) : (Fin.ofNat 14 a.val).castLE (by decide) = a := by
  apply Fin.ext
  simp [Nat.mod_eq_of_lt h]

theorem immBit_toNat_le (v : Bool) : (immBit v).toNat ≤ 1 := by cases v <;> decide

theorem immBit_getLsbD (v : Bool) : (immBit v).getLsbD 0 = v := by cases v <;> rfl

theorem waitImm_toNat (cond : Byte) (inv : Bool) :
    (BitVec.ofNat 16 (cond.toNat + if inv then 256 else 0)).toNat = cond.toNat + if inv then 256 else 0 := by
  rw [BitVec.toNat_ofNat]
  cases inv <;> simp <;> omega

theorem waitImm_getLsbD (cond : Byte) (inv : Bool) :
    (BitVec.ofNat 16 (cond.toNat + if inv then 256 else 0)).getLsbD 8 = inv := by
  rw [BitVec.getLsbD, waitImm_toNat, Nat.testBit_eq_decide_div_mod_eq]
  cases inv <;> simp <;> omega

theorem waitImm_lt (cond : Byte) (inv : Bool) : cond.toNat + (if inv then 256 else 0) < 512 := by
  have := cond.isLt
  split <;> omega

theorem waitImm_cond (cond : Byte) (inv : Bool) :
    BitVec.ofNat 8 (cond.toNat + if inv then 256 else 0) = cond := by
  apply BitVec.eq_of_toNat_eq
  rw [BitVec.toNat_ofNat]
  split <;> omega

theorem op_eq_ofNat {op : BitVec 6} {n : Nat} (h : op.toNat = n) : op = BitVec.ofNat 6 n := by
  rw [← h, BitVec.ofNat_toNat, BitVec.setWidth_eq]

/-- Settles O9: a word is its four fields, and each operation of the table is written back with them. -/
theorem microwordUnique : Obligations.MicrowordUnique := by
  intro e c w i h
  obtain ⟨op, a, b, imm, rfl⟩ := exists_microWord w
  simp only [microDecode, microOp_microWord, microA_microWord, microB_microWord, microImm_microWord] at h
  split at h
  rotate_left 38
  · cases h
  all_goals
    rename_i _ hop
    obtain rfl := op_eq_ofNat hop
    simp only [readIf_eq_some, Bool.and_eq_true, decide_eq_true_eq, Option.some.injEq] at h
  case h_11 | h_12 =>
    obtain ⟨⟨rfl, himm⟩, rfl⟩ := h
    simp [microEncode, microCtxOf, shiftImm_read himm]
  case h_16 =>
    obtain ⟨⟨rfl, hcond⟩, rfl⟩ := h
    exact ⟨congrArg (fun v => some (microWord 17 v 0 imm)) (condition_read hcond), rfl⟩
  case h_22 | h_23 =>
    obtain ⟨himm, rfl⟩ := h
    exact ⟨congrArg (fun v => some (microWord _ a b v)) (immBit_read himm), rfl⟩
  case h_28 =>
    obtain ⟨himm, rfl⟩ := h
    exact ⟨congrArg (fun v => some (microWord 32 a b v)) (waitImm_read himm), rfl⟩
  case h_33 =>
    obtain ⟨⟨rfl, himm⟩, rfl⟩ := h
    exact ⟨congrArg (fun v => some (microWord 40 a 0 v)) (immBit_read himm), rfl⟩
  case h_35 =>
    obtain ⟨⟨rfl, himm⟩, rfl⟩ := h
    simp [microEncode, microCtxOf, byteImm_read himm]
  case h_1 | h_18 | h_27 | h_29 | h_30 | h_31 =>
    obtain ⟨⟨⟨rfl, rfl⟩, rfl⟩, rfl⟩ := h
    exact ⟨rfl, rfl⟩
  case h_20 | h_21 | h_26 =>
    subst h
    exact ⟨rfl, rfl⟩
  case h_15 | h_17 | h_32 | h_36 | h_37 | h_38 =>
    obtain ⟨⟨rfl, rfl⟩, rfl⟩ := h
    exact ⟨rfl, rfl⟩
  all_goals
    obtain ⟨rfl, rfl⟩ := h
    exact ⟨rfl, rfl⟩

/-- Settles O8, by the operation: the fields of its word are its operands, and those it does not use are 0. -/
theorem microwordRoundTrip : Obligations.MicrowordRoundTrip := by
  intro i e c w hw hc
  cases i
  case fault cause =>
    cases cause
    case microword => cases hw; cases hc; simp [microDecode, readIf]
    all_goals cases hw
  case shl n | shr n =>
    cases hw; cases hc
    have hn : (BitVec.ofNat 16 n.val).toNat = n.val := Nat.mod_eq_of_lt (by omega)
    simp [microDecode, readIf, hn]
  case br => cases hw; cases hc; simp [microDecode, readIf]
  case trd | twr | tide =>
    cases hw; cases hc
    simp [microDecode, readIf, immBit_toNat_le, immBit_getLsbD, -BitVec.getLsbD_eq_getElem]
  case wait cond inv =>
    cases hw; cases hc
    simp [microDecode, readIf, waitImm_toNat, waitImm_getLsbD, waitImm_lt, waitImm_cond,
      -BitVec.getLsbD_eq_getElem, -BitVec.toNat_ofNat]
  case sig code =>
    cases hw; cases hc
    have hcode : code.toNat % 65536 < 256 := by omega
    simp [microDecode, readIf, hcode]
  case nopMicroword | mov | ldi | ldh | add | addi | sub | and | or | xor | cmp | cmpi | jmp | call | ret | switch
      | frd | fwr | shw | hrd | hwr | pst | poll | commit | endc | prog | tarm | fwd | evt =>
    cases hw; cases hc; simp [microDecode, readIf]
  all_goals cases hw

/-- Settles O10, by reading the nine words. -/
theorem microwordWords : Obligations.MicrowordWords := by
  unfold Obligations.MicrowordWords
  decide

/-- Settles O5: `State.reset` holds no byte, no command and no count. -/
theorem resetState : Obligations.ResetState := by
  refine ⟨⟨rfl, rfl, fun q => rfl⟩, rfl, rfl, rfl, rfl, rfl, fun b => rfl, fun id => ?_⟩
  simp [State.reset, ackOf, ackPending, tabGet, tabFind]

end Sys2Proof.MicrowordEncoding
end

section
/-! What the end of a command does not reach: a value that none of its parts changes is as before (R32, R40, R42, R61,
R444). -/

namespace Sys2Proof.CommandEnds

open Sys2Proof Sys2Proof.Machine

variable {β : Type}

/-- A value of the state that the end of a command does not reach: replies and their rings, the commands in flight and
their contexts, the banks that fill, what leaves over the chain, and the two counts of an end. -/
structure BlindToEnds (g : State → β) : Prop where
  host : ∀ t x, g { t with host := x } = g t
  chain : ∀ t x, g { t with chain := x } = g t
  out : ∀ t x, g { t with out := x } = g t
  inflight : ∀ t x, g { t with inflight := x } = g t
  unposted : ∀ t x, g { t with unposted := x } = g t
  quay : ∀ t x, g { t with quay := x } = g t
  ctx : ∀ t e k x, (ctxAt t e k).busy = true → g (setCtx t e k x) = g t
  dropped : ∀ t, g (count t 6 0 0xD1 1) = g t
  aborted : ∀ t e, g (count t 6 0 0xA8 (8 * e + 2)) = g t

/-- A value that no step of a fold changes is as before. -/
theorem foldl_same {α : Type} (g : State → β) (f : State → α → State) (hf : ∀ s x, g (f s x) = g s) (s : State)
    (xs : List α) : g (xs.foldl f s) = g s := by
  induction xs generalizing s with
  | nil => rfl
  | cons x xs ih => exact (ih _).trans (hf s x)

section ends

variable {g : State → β} (hg : BlindToEnds g)
include hg

theorem same_fillOver (s : State) (c : Cmd) : g (fillOver s c) = g s := by
  unfold fillOver
  split
  · exact hg.quay _ _
  · rfl

theorem same_freeCtx (s : State) (c : Cmd) (e k : Nat) : g (freeCtx s c e k) = g s := by
  unfold freeCtx
  split
  · next hbusy => exact hg.ctx _ _ _ _ hbusy.1
  · rfl

theorem same_releaseIf (s : State) (counted : Bool) (c : Cmd) : g (releaseIf s counted c) = g s := by
  have hfill : g (fillOver (dropCmd s c.ord) c) = g s := (same_fillOver hg _ c).trans (hg.inflight s _)
  unfold releaseIf release
  split
  · dsimp only
    rw [foldl_same g _ fun t (p : Nat × Nat) => same_freeCtx hg t c p.1 p.2]
    split
    · exact hfill
    · exact (hg.host _ _).trans hfill
  · rfl

theorem same_dropReply (s : State) (m : Nat) : g (dropReply s m) = g s :=
  (hg.host (count s 6 0 0xD1 1) _).trans (hg.dropped s)

theorem same_writeReply (s : State) (m : Nat) (irq : Bool) (r : Reply) : g (writeReply s m irq r) = g s := by
  rw [writeReply_only]
  exact hg.host s _

theorem same_postReply (s : State) (c : Cmd) (counted : Bool) (r : Reply) (result : List Byte) :
    g (postReply s c counted r result) = g s := by
  have hrelease := same_releaseIf hg s counted c
  unfold postReply
  dsimp only
  split
  · exact (same_dropReply hg _ _).trans hrelease
  · split
    · exact (same_writeReply hg _ _ _ _).trans ((hg.host _ _).trans hrelease)
    · split
      · exact (same_dropReply hg _ _).trans hrelease
      · exact (hg.host (dropCmd s c.ord) _).trans (hg.inflight s _)

theorem same_putFrame (s : State) (p : Nat) (b : FrameBody) : g (putFrame s p b) = g s :=
  (hg.out { s with chain := (putFrame s p b).chain } (putFrame s p b).out).trans (hg.chain s _)

theorem same_send (s : State) (x : Sent) : g (send s x) = g s := by
  match x with
  | .frame (some p) b => exact same_putFrame hg s p b
  | .frame none b => exact forAll_same g _ (fun t p => same_putFrame hg t p b) s _
  | .signal _ _ | .ackFrame _ _ | .nakFrame _ _ | .credit _ _ _ | .train _ _ | .capability _ _ _ _ _ _ =>
    exact hg.out s _

theorem same_postTo (s : State) (c : Cmd) (counted : Bool) (r : Reply) (result : List Byte) :
    g (postTo s c counted r result) = g s := by
  unfold postTo answerChain
  split
  · refine (same_send hg _ _).trans (Eq.trans ?_ (same_releaseIf hg s counted c))
    split
    · rfl
    · exact same_send hg _ _
  · exact same_postReply hg _ _ _ _ _

theorem same_postWaiting (s : State) (u : Unposted) : g (postWaiting s u) = g s := by
  unfold postWaiting
  split
  · rfl
  · exact (same_postTo hg _ _ _ _ _).trans (hg.unposted s _)

theorem same_postOrdered (s : State) (c : Cmd) (r : Reply) (result : List Byte) :
    g (postOrdered s c r result) = g s := by
  unfold postOrdered postInOrder postFollowing
  split
  · exact (hg.unposted (dropCmd s c.ord) _).trans (hg.inflight s _)
  · refine (forAll_same g _ (fun t _ => foldl_same g _ (same_postWaiting hg) t t.unposted) _ _).trans ?_
    exact same_postTo hg s c true r result

theorem same_finish (s : State) (c : Cmd) (status : Nat) (d result : List Byte) :
    g (finish s c status d result) = g s := by
  unfold finish
  dsimp only
  generalize (if status = stOk ∧ c.hdr.defer = true then stOkDeferred else status) = st
  refine (same_postOrdered hg _ _ _ _).trans ?_
  split
  · exact hg.aborted s _
  · rfl

/-- The end of a command. -/
theorem same_complete (s : State) (c : Cmd) (status : Nat) (d result : List Byte) :
    g (complete s c status d result) = g s := by
  unfold complete
  split
  · exact same_finish hg _ _ _ _ _
  · exact hg.inflight s _

theorem same_completeV (s : State) (c : Cmd) (v : Verdict) : g (completeV s c v) = g s := same_complete hg s c _ _ _

end ends

/-- A value that an early end of a command does not reach either: what the command has set aside is given back. -/
structure BlindToCancels (g : State → β) : Prop extends BlindToEnds g where
  chan : ∀ t x, g { t with chan := x } = g t
  berth : ∀ t x, g { t with berth := x } = g t
  par : ∀ t x, g { t with par := x } = g t
  tp : ∀ t x, g { t with tp := x } = g t
  bakeEnd : ∀ t m, m = 4 ∨ m = 5 → g (count t 6 0 0x01 m) = g t

section cancels

variable {g : State → β} (hg : BlindToCancels g)
include hg

theorem same_calSchedule (s : State) (b : Nat) : g (calSchedule s b) = g s := by
  unfold calSchedule
  split
  · exact hg.par s _
  · rfl

theorem same_bakeDrop (s : State) : g (bakeDrop s) = g s :=
  ChainBakes.calReadyAgain_keeps (fun t => g t = g s) (fun t _ _ h => (hg.berth t _).trans h)
    (fun t b h => (same_calSchedule hg t b).trans h) (hg.par s _)

theorem same_dropPending (s : State) (c : Cmd) (status : Nat) : g (dropPending s c status) = g s := by
  unfold dropPending
  split
  · split
    · refine (hg.bakeEnd _ _ ?_).trans (same_bakeDrop hg s)
      split
      · exact .inl rfl
      · exact .inr rfl
    · rfl
  · rfl

/-- What a command has set aside is given back. -/
theorem same_unwind (s : State) (c : Cmd) (status : Nat) : g (unwind s c status) = g s := by
  have hquays (f : Quay → Quay) (qs : List Nat) : g (forAll s qs fun t q => modQuay t q f) = g s :=
    forAll_same g _ (fun t _ => hg.quay t _) s qs
  unfold unwind
  split
  · split
    · exact hg.tp s _
    · exact same_dropPending hg _ _ _
    · rfl
  · exact hquays _ _
  · exact hquays _ _
  · exact same_fillOver hg.toBlindToEnds s c
  · exact hquays _ _
  · exact forAll_same g _ (fun t _ => hg.chan t _) s _
  · exact same_dropPending hg _ _ _
  · rfl

theorem same_cancel (s : State) (c : Cmd) (v : Verdict) : g (cancel s c v) = g s :=
  (same_completeV hg.toBlindToEnds _ _ _).trans (same_unwind hg s c _)

theorem same_bakeFaultEnd (s : State) (p : PendBake) (v : Verdict) : g (bakeFaultEnd s p v) = g s := by
  unfold bakeFaultEnd
  dsimp only
  split
  · exact (same_completeV hg.toBlindToEnds _ _ _).trans ((hg.bakeEnd _ 4 (.inl rfl)).trans (same_bakeDrop hg s))
  · exact same_bakeDrop hg s

end cancels

end Sys2Proof.CommandEnds
end

section
/-! Engine faults (R446, R447): what is recorded of one stays through the ends of the commands that it ends. -/

namespace Sys2Proof.EngineFaults

open Sys2Proof Sys2Proof.Machine CommandEnds

/-- The count of engine faults of an engine (R458). -/
def faultCount (e : Nat) : Word := pid 6 0 0xA8 (8 * e + 5)

/-- The engines but for their contexts, and their counts of engine faults. -/
def engineSide (s : State) : (Nat → Eng) × (Fin 5 → Ack) :=
  (fun e => { engAt s e with ctxs := [] }, fun e => ackOf s (faultCount e))

theorem toNat_faultCount (e : Fin 5) : (faultCount e).toNat % 8 = 5 := by
  simp [faultCount, pid]
  omega

theorem engineSide_count {s : State} {sc i f m : Nat} (h : ∀ e : Fin 5, faultCount e ≠ pid sc i f m) :
    engineSide (count s sc i f m) = engineSide s := by
  unfold engineSide
  congr 1
  funext e
  exact ackOf_count_other _ _ _ _ _ _ (h e)

theorem engineSide_setCtx (s : State) (e k : Nat) (x : Ctx) : engineSide (setCtx s e k x) = engineSide s := by
  unfold engineSide
  congr 1
  funext e'
  by_cases he : e' = e
  · subst he
    simp [setCtx]
  · rw [setCtx, engAt, setEng, tabGet_tabSet_other _ _ _ _ _ he, engAt]

theorem blind_engineSide : BlindToCancels engineSide where
  host _ _ := rfl
  chain _ _ := rfl
  out _ _ := rfl
  inflight _ _ := rfl
  unposted _ _ := rfl
  quay _ _ := rfl
  ctx t e k x _ := engineSide_setCtx t e k x
  dropped _ := engineSide_count (by decide)
  aborted t e := engineSide_count fun e' h => by
    have h5 := toNat_faultCount e'
    rw [h] at h5
    simp [pid] at h5
    omega
  chan _ _ := rfl
  berth _ _ := rfl
  par _ _ := rfl
  tp _ _ := rfl
  bakeEnd t m hm := by
    refine engineSide_count ?_
    rcases hm with rfl | rfl <;> decide

/-- No context of an engine stands: none can be freed. -/
def noContexts (e : Nat) (s : State) : Prop := (engAt s e).ctxs = []

theorem blind_noContexts (e : Nat) : BlindToCancels (noContexts e) where
  host _ _ := rfl
  chain _ _ := rfl
  out _ _ := rfl
  inflight _ _ := rfl
  unposted _ _ := rfl
  quay _ _ := rfl
  ctx t e' k x hbusy := by
    unfold noContexts
    by_cases he : e = e'
    · subst he
      have hsome : (engAt t e).ctxs ≠ [] := fun hnone => by
        rw [ctxAt, hnone] at hbusy
        cases hbusy
      have hset : tabSet (engAt t e).ctxs k x ≠ [] := fun hnone => by
        have hfound : tabFind (tabSet (engAt t e).ctxs k x) k = some x := tabFind_tabSet_same _ _ _
        rw [hnone] at hfound
        cases hfound
      simp [setCtx, hsome, hset]
    · rw [setCtx, engAt, setEng, tabGet_tabSet_other _ _ _ _ _ he, engAt]
  dropped _ := rfl
  aborted _ _ := rfl
  chan _ _ := rfl
  berth _ _ := rfl
  par _ _ := rfl
  tp _ _ := rfl
  bakeEnd _ _ _ := rfl

theorem blind_devFault : BlindToCancels State.devFault where
  host _ _ := rfl
  chain _ _ := rfl
  out _ _ := rfl
  inflight _ _ := rfl
  unposted _ _ := rfl
  quay _ _ := rfl
  ctx _ _ _ _ _ := rfl
  dropped _ := rfl
  aborted _ _ := rfl
  chan _ _ := rfl
  berth _ _ := rfl
  par _ _ := rfl
  tp _ _ := rfl
  bakeEnd _ _ _ := rfl

section ends

variable {β : Type} {g : State → β} (hg : BlindToCancels g)
include hg

theorem same_faultEnd (v : Verdict) (s : State) (c : Cmd) : g (faultEnd v s c) = g s := by
  unfold faultEnd
  split
  · exact same_completeV hg.toBlindToEnds _ _ _
  · exact same_completeV hg.toBlindToEnds _ _ _
  · split
    · rfl
    · exact same_cancel hg _ _ _
  · exact same_cancel hg _ _ _

theorem same_rampHold (s : State) (b : Nat) : g (rampHold s b) = g s := by
  unfold rampHold
  split
  · exact hg.berth s _
  · rfl

theorem same_disabledEnd (s : State) (e : Nat) : g (disabledEnd s e) = g s := by
  refine foldl_same g _ (fun t c => ?_) s _
  unfold endDisabled
  split
  · split
    · exact same_bakeFaultEnd hg _ _ _
    · exact same_completeV hg.toBlindToEnds _ _ _
  · exact same_cancel hg _ _ _

/-- The device enters FAULT: its deferred commands end. -/
theorem same_deviceFault (s : State) (src inst : Nat) (henter : g (devFaultEnter s src inst) = g s) :
    g (deviceFault s src inst) = g s := by
  unfold deviceFault deferredEnd cancelAll
  split
  · rfl
  · exact (foldl_same g _ (fun t c => same_cancel hg t c _) _ _).trans henter

end ends

theorem engineSide_devFaultEnter (s : State) (src inst : Nat) :
    engineSide (devFaultEnter s src inst) = engineSide s := by
  unfold devFaultEnter
  split
  · rfl
  · have hcount (t : State) : engineSide (causeEvent t 0) = engineSide (count t 6 0 0xD1 7) := by
      change engineSide (vec0 (count t 6 0 0xD1 7) 0) = _
      rw [Microwords.vec0_only]
      rfl
    exact (hcount _).trans (engineSide_count (by decide))

/-- A fault as it is recorded, before its commands end. -/
def faultNoted (s : State) (e code addr : Nat) : State :=
  let s := count s 6 0 0xA8 (8 * e + 5)
  setEng s e { engAt s e with
    faultTides := recentFaults s e, lastFaultCode := code, lastFaultAddr := addr
    state := if e < 4 ∧ 3 ≤ (recentFaults s e).length then 2 else 1 }

/-- The commands of the engine have ended; its ramps hold, or the device is in FAULT. -/
def faultEnded (s : State) (e code addr : Nat) : State :=
  let u := faultNoted s e code addr
  let v := (cmdsWhere u fun c =>
      (c.engine = e || (enginesFor u c).contains e) && (c.phase = .running || c.phase = .commit)).foldl
    (faultEnd (hwFault (0x80 + code) e)) u
  if e < 4 then forAll v (berthsOfWing e) rampHold else deviceFault v (0x80 + code) 4

theorem engineFault_eq (s : State) (e code addr : Nat) :
    let u := setEng (faultEnded s e code addr) e { engAt (faultEnded s e code addr) e with ctxs := [] }
    engineFault s e code addr =
      if e < 4 ∧ 3 ≤ (recentFaults (count s 6 0 0xA8 (8 * e + 5)) e).length then disabledEnd u e else u := by
  simp only [engineFault, faultEnded, faultNoted, decide_eq_true_eq]

theorem engineSide_faultEnded (s : State) (e code addr : Nat) :
    engineSide (faultEnded s e code addr) = engineSide (faultNoted s e code addr) := by
  have hfold (u : State) (cs : List Cmd) (v : Verdict) : engineSide (cs.foldl (faultEnd v) u) = engineSide u :=
    foldl_same engineSide _ (fun t c => same_faultEnd blind_engineSide v t c) u cs
  unfold faultEnded
  dsimp only
  split
  · exact (forAll_same engineSide _ (same_rampHold blind_engineSide) _ _).trans (hfold _ _ _)
  · exact (same_deviceFault blind_engineSide _ _ _ (engineSide_devFaultEnter _ _ _)).trans (hfold _ _ _)

/-- What is recorded of an engine stands once its commands have ended. -/
theorem engineSide_engineFault (s : State) (e code addr : Nat) :
    engineSide (engineFault s e code addr) = engineSide (faultNoted s e code addr) := by
  have hcleared (u : State) : engineSide (setEng u e { engAt u e with ctxs := [] }) = engineSide u := by
    unfold engineSide
    congr 1
    funext e'
    by_cases he : e' = e
    · subst he
      simp
    · rw [engAt, setEng, tabGet_tabSet_other _ _ _ _ _ he, engAt]
  rw [engineFault_eq, ← engineSide_faultEnded]
  split
  · exact (same_disabledEnd blind_engineSide _ _).trans (hcleared _)
  · exact hcleared _

theorem engAt_faultNoted (s : State) (e code addr : Nat) :
    engAt (faultNoted s e code addr) e = { engAt s e with
      faultTides := recentFaults s e, lastFaultCode := code, lastFaultAddr := addr
      state := if e < 4 ∧ 3 ≤ (recentFaults s e).length then 2 else 1 } := tabGet_tabSet_same _ _ _ _

/-- Of the engine that faults, its contexts apart, what was recorded stands. -/
theorem engAt_engineFault (s : State) (e code addr : Nat) :
    { engAt (engineFault s e code addr) e with ctxs := [] } =
      { engAt (faultNoted s e code addr) e with ctxs := [] } :=
  congrFun (congrArg Prod.fst (engineSide_engineFault s e code addr)) e

theorem lastFault_engineFault (s : State) (e code addr : Nat) :
    (engAt (engineFault s e code addr) e).lastFaultCode = code ∧
      (engAt (engineFault s e code addr) e).lastFaultAddr = addr := by
  have h := engAt_engineFault s e code addr
  rw [engAt_faultNoted] at h
  exact ⟨congrArg Eng.lastFaultCode h, congrArg Eng.lastFaultAddr h⟩

/-- The contexts of an engine are cleared by its fault. -/
theorem ctxs_engineFault (s : State) (e code addr : Nat) : (engAt (engineFault s e code addr) e).ctxs = [] := by
  have hcleared (u : State) : noContexts e (setEng u e { engAt u e with ctxs := [] }) :=
    congrArg Eng.ctxs (tabGet_tabSet_same _ _ _ _)
  rw [engineFault_eq]
  split
  · exact (same_disabledEnd (blind_noContexts e) _ e).mpr (hcleared _)
  · exact hcleared _

/-- An engine fault is counted for its engine. -/
theorem counted_engineFault (s : State) (e : Fin 5) (code addr : Nat) :
    ackOf (engineFault s e code addr) (faultCount e) = ackBump (ackOf s (faultCount e)) :=
  (congrFun (congrArg Prod.snd (engineSide_engineFault s e code addr)) e).trans (ackOf_count_same _ _ _ _ _)

/-- A fault of CE4 puts the device in FAULT; the engine stands until it restarts. -/
theorem engineFault_ce4 {s : State} (code addr : Nat) (hnone : s.devFault = none) :
    (engineFault s 4 code addr).devFault = some (0x80 + code) ∧ (engAt (engineFault s 4 code addr) 4).state = 1 := by
  have hstate := congrArg Eng.state (engAt_engineFault s 4 code addr)
  refine ⟨?_, hstate.trans (congrArg Eng.state (engAt_faultNoted s 4 code addr))⟩
  have hfold (u : State) (cs : List Cmd) (v : Verdict) : (cs.foldl (faultEnd v) u).devFault = u.devFault :=
    foldl_same State.devFault _ (fun t c => same_faultEnd blind_devFault v t c) u cs
  have hended : (faultEnded s 4 code addr).devFault = some (0x80 + code) := by
    unfold faultEnded
    dsimp only
    rw [if_neg (by omega)]
    exact (References.deviceFault_spec _ _ ((hfold (faultNoted s 4 code addr) _ _).trans hnone)).1
  rw [engineFault_eq, if_neg (by omega)]
  exact hended

end Sys2Proof.EngineFaults
end

section
/-! Registers, moves, arithmetic, logic and control flow of a context (R432 to R434). -/

namespace Sys2Proof.MicrowordRows

open Sys2Proof Sys2Proof.Machine Microwords EngineFaults

/-! ### Registers -/

theorem writeReg_readOnly (x : Ctx) (v : Word) : writeReg x 0 v = x ∧ writeReg x 30 v = x := ⟨rfl, rfl⟩

theorem readReg_writeReg (s : State) (x : Ctx) {r : Nat} (v : Word) (hlow : r < 30) (hzero : r ≠ 0) :
    readReg s (writeReg x r v) r = v := by
  have hr30 : r ≠ 30 := by omega
  have hr31 : r ≠ 31 := by omega
  simp [readReg, writeReg, hzero, hr30, hr31]

/-- The state code of a command's target does not depend on the engines. -/
theorem branchHolds_ahead (s : State) (e c : Nat) (x : Ctx) (k : Nat) :
    branchHolds (ahead s e c) e c x k = branchHolds s e c x k := by
  have hchanged : targetChanged (ahead s e c) e c = targetChanged s e c := by
    rw [targetChanged, ctxCmd_ahead, ctxAt_ahead, targetChanged]
    rfl
  unfold branchHolds
  rw [hchanged]

theorem goto_imm (x : Ctx) (imm : BitVec 16) : goto x imm.toNat = { x with pc := imm.toNat } := by
  rw [goto, Nat.mod_eq_of_lt imm.isLt]

section words

variable {s : State} {e : Fin 5} {c : Fin 16} (hexec : canExecute s e c)
include hexec

/-- NOP acts on nothing. -/
theorem yields_nop : Yields (.nopMicroword e c) s e c (advancePc (ctxAt s e c)) := by
  intro hfetch
  refine ⟨ahead s e c, ?_, ctxOnly_ahead s e c⟩
  change execNopMicroword e c s = _
  rw [execNopMicroword, micro_acts hexec hfetch (by simp [microEncode, uword])]

theorem yields_call (imm : BitVec 16) (hroom : (advancePc (ctxAt s e c)).stack.length < 8) :
    let x := advancePc (ctxAt s e c)
    Yields (.call e c imm) s e c { x with stack := x.pc :: x.stack, pc := imm.toNat } := by
  intro x hfetch
  refine ⟨setCtx (ahead s e c) e c { x with stack := x.pc :: x.stack, pc := imm.toNat }, ?_,
    ctxOnly_setCtx (ctxOnly_ahead s e c) _⟩
  change execCall e c imm s = _
  rw [execCall, micro_acts hexec hfetch (by simp [microEncode, uword]), if_neg (by omega), goto_imm]

theorem exec_call_full {imm : BitVec 16} (hfull : 8 ≤ (advancePc (ctxAt s e c)).stack.length)
    (hfetch : fetches (.call e c imm) s e c) : exec (.call e c imm) s =
      .next (engineFault (ahead s e c) e 3 (((advancePc (ctxAt s e c)).pc + 65535) % 65536)) := by
  change execCall e c imm s = _
  rw [execCall, micro_acts hexec hfetch (by simp [microEncode, uword]), if_pos hfull]

theorem yields_ret {p : Nat} {rest : List Nat} (hstack : (advancePc (ctxAt s e c)).stack = p :: rest) (hp : p < 65536) :
    Yields (.ret e c) s e c { advancePc (ctxAt s e c) with stack := rest, pc := p } := by
  intro hfetch
  refine ⟨setCtx (ahead s e c) e c { advancePc (ctxAt s e c) with stack := rest, pc := p }, ?_,
    ctxOnly_setCtx (ctxOnly_ahead s e c) _⟩
  change execRet e c s = _
  rw [execRet, micro_acts hexec hfetch (by simp [microEncode, uword])]
  simp only [hstack, goto, Nat.mod_eq_of_lt hp]

theorem yields_jmp (imm : BitVec 16) :
    Yields (.jmp e c imm) s e c { advancePc (ctxAt s e c) with pc := imm.toNat } := by
  rw [← goto_imm]
  exact yields_microCtx (i := .jmp e c imm) hexec rfl (by simp [microEncode, uword])

theorem yields_br (k : Fin 14) (imm : BitVec 16) :
    let x := advancePc (ctxAt s e c)
    Yields (.br e c k imm) s e c (if branchHolds s e c x k then { x with pc := imm.toNat } else x) := by
  intro x
  rw [← goto_imm, ← branchHolds_ahead]
  have hword : microEncode (.br e c k imm) = some (uword 0x11 k 0 imm.toNat) := by
    have hk : (k.castLE (by decide) : Fin 32) = Fin.ofNat 32 k := Fin.ext (Nat.mod_eq_of_lt (by omega)).symm
    rw [microEncode, uword, hk, BitVec.ofNat_toNat, BitVec.setWidth_eq]
    rfl
  exact yields_microCtx (i := .br e c k imm) hexec rfl hword

theorem yields_switch (b : Fin 32) (imm : BitVec 16) :
    let x := advancePc (ctxAt s e c)
    Yields (.switch e c b imm) s e c { x with pc := (imm.toNat + (readReg s x b).toNat % 256) % 65536 } := by
  intro x
  have hlow : fld (readReg s x b) 0 8 = (readReg s x b).toNat % 256 := by simp [fld, bitsOf]
  rw [← hlow]
  exact yields_microCtx (i := .switch e c b imm) hexec rfl (by simp [microEncode, uword])

theorem exec_ret_empty (hempty : (advancePc (ctxAt s e c)).stack = []) (hfetch : fetches (.ret e c) s e c) :
    exec (.ret e c) s =
      .next (engineFault (ahead s e c) e 3 (((advancePc (ctxAt s e c)).pc + 65535) % 65536)) := by
  change execRet e c s = _
  rw [execRet, micro_acts hexec hfetch (by simp [microEncode, uword])]
  simp only [hempty]

end words

/-- Settles O58: a microword of its context alone yields what its row writes; CALL and RET go to an engine fault where
the stack does not hold. -/
theorem microwordArithmetic : Obligations.MicrowordArithmetic := by
  unfold Obligations.MicrowordArithmetic
  intro s e c hexec a b imm n x A B I flags sub add
  have hword {op : Nat} (i : Instr) (f : Ctx → Word → Word → Ctx)
      (hi : exec i s = .next (microCtx s e c (uword op a b 0) fun t y => f y (readReg t y a) (readReg t y b)))
      (henc : microEncode i = some (microWord (BitVec.ofNat 6 op) a b 0)) : Yields i s e c (f x A B) :=
    yields_microCtx hexec hi (henc.trans (by simp [uword]))
  have himm {op : Nat} (i : Instr) (f : Ctx → Word → Ctx)
      (hi : exec i s = .next (microCtx s e c (uword op a 0 imm.toNat) fun t y => f y (readReg t y a)))
      (henc : microEncode i = some (microWord (BitVec.ofNat 6 op) a 0 imm)) : Yields i s e c (f x A) :=
    yields_microCtx hexec hi (henc.trans (by simp [uword]))
  have hshift {op : Nat} (i : Instr) (f : Ctx → Word → Ctx)
      (hi : exec i s = .next (microCtx s e c (uword op a 0 n) fun t y => f y (readReg t y a)))
      (henc : microEncode i = some (microWord (BitVec.ofNat 6 op) a 0 (BitVec.ofNat 16 n))) :
      Yields i s e c (f x A) :=
    yields_microCtx hexec hi (henc.trans (by simp [uword]))
  refine ⟨rfl, rfl, writeReg_readOnly x, fun v r hlow hzero => readReg_writeReg s x v hlow hzero, yields_nop hexec,
    ?mov, ?ldi, ?ldh, ?add, ?addi, ?sub, ?cmp, ?cmpi, ?and, ?or, ?xor, ?shl, ?shr,
    yields_jmp hexec imm, fun k => yields_br hexec k imm,
    yields_switch hexec b imm, yields_call hexec imm,
    fun hfull hfetch => ⟨_, exec_call_full hexec hfull hfetch, (lastFault_engineFault _ _ _ _).1⟩,
    fun p rest hstack hp => yields_ret hexec hstack hp,
    fun hempty hfetch => ⟨_, exec_ret_empty hexec hempty hfetch, (lastFault_engineFault _ _ _ _).1⟩⟩
  case mov => exact hword (.mov e c a b) (fun y _ q => writeReg y a q) rfl rfl
  case ldi => exact himm (.ldi e c a imm) (fun y _ => writeReg y a (imm.setWidth 32)) rfl rfl
  case ldh =>
    exact himm (.ldh e c a imm)
      (fun y p => writeReg y a (BitVec.ofNat 32 (imm.toNat * 65536 + p.toNat % 65536))) rfl rfl
  case add => exact hword (.add e c a b) (fun y p q => addFlags (writeReg y a (p + q)) p q) rfl rfl
  case addi => exact himm (.addi e c a imm) (fun y p => addFlags (writeReg y a (p + I)) p I) rfl rfl
  case sub => exact hword (.sub e c a b) (fun y p q => subFlags (writeReg y a (p - q)) p q) rfl rfl
  case cmp => exact hword (.cmp e c a b) (fun y p q => subFlags y p q) rfl rfl
  case cmpi => exact himm (.cmpi e c a imm) (fun y p => subFlags y p I) rfl rfl
  case and => exact hword (.and e c a b) (fun y p q => setZN (writeReg y a (p &&& q)) (p &&& q)) rfl rfl
  case or => exact hword (.or e c a b) (fun y p q => setZN (writeReg y a (p ||| q)) (p ||| q)) rfl rfl
  case xor => exact hword (.xor e c a b) (fun y p q => setZN (writeReg y a (p ^^^ q)) (p ^^^ q)) rfl rfl
  case shl => exact hshift (.shl e c a n) (fun y p => writeReg y a (p <<< n.val)) rfl rfl
  case shr => exact hshift (.shr e c a n) (fun y p => writeReg y a (p >>> n.val)) rfl rfl

end Sys2Proof.MicrowordRows
end

section
/-! The host side of the device: the SMBus target (R422, R584), the configuration space (R528, R552), Bus Master Enable,
the D-states and the replies that are held (R540, R542), and the link that falls and comes up (R525, R544, R552). -/

namespace Sys2Proof.HostSideRows

open Sys2Proof Sys2Proof.Machine CommandEnds

/-! ### The SMBus target -/

/-- Where VDD_AON is up the target answers. -/
theorem smbAnswer_of_aon {s : State} (haon : s.boot.aonOn = true) (n v : Nat) :
    smbAnswer s n v = readOut s (leBytes n v) 0 := if_pos haon

/-- Out of COLD the thermal codes answer too. -/
theorem smbThermal_of_warm {s : State} (haon : s.boot.aonOn = true) (hwarm : s.cold = false) (n v : Nat) :
    smbThermal s n v = readOut s (leBytes n v) 0 := by
  rw [smbThermal, hwarm]
  exact smbAnswer_of_aon haon n v

/-- Settles O34: each code is a thermal code or a code of the always-on domain. -/
theorem smbusCodes : Obligations.SmbusCodes := by
  intro s haon
  have answers {n v w : Nat} (h : v = w) :
      (.next (smbAnswer s n v) : Host.Outcome State Fault Refusal) = .next (readOut s (leBytes n w) 0) := by
    rw [smbAnswer_of_aon haon, h]
  refine ⟨fun hwarm z => ?_, fun hcold => ?_, answers rfl, answers rfl, answers rfl, fun a => congrArg _ (if_pos haon)⟩
  · have thermal (n v : Nat) :
        (.next (smbThermal s n v) : Host.Outcome State Fault Refusal) = .next (readOut s (leBytes n v) 0) := by
      rw [smbThermal_of_warm haon hwarm]
    exact ⟨thermal _ _, thermal _ _, thermal _ _, thermal _ _, thermal _ _, thermal _ _, answers (by rw [hwarm]; rfl),
      answers (by rw [hwarm]; rfl), answers rfl, congrArg _ (if_pos (by rw [haon, hwarm]; rfl))⟩
  · exact ⟨answers (if_pos hcold), answers (if_pos hcold), answers (if_pos hcold), congrArg _ (if_pos hcold)⟩

/-! ### The configuration space -/

/-- A request that reaches the function is answered with retry status until CE4 has started. -/
theorem exec_configRequest {s : State} {reg : Nat} (w : Option Word) (hup : s.host.linkUp = true) (hreg : reg < 4096)
    (halign : reg % 4 = 0) :
    exec (.configRequest reg w) s = .next (
      if s.cold || !s.boot.fusesRead then readOut (wakeLink s) [] 2
      else match w with
        | some v => readOut (cfgWrite (wakeLink s) reg v) [] 0
        | none => readOut (wakeLink s) (leBytes 4 (cfgRead (wakeLink s) reg).toNat) 0) := by
  have hwoken : (!(wakeLink s).host.linkUp) = false := by simp [wakeLink, hup]
  change execConfigRequest reg w s = _
  rw [execConfigRequest, if_neg (by omega), if_pos hup]
  dsimp only
  rw [hwoken]
  rfl

/-! ### What the replies that are held change as they end (R540) -/

/-- The end of a command changes nothing of the data plane. -/
theorem dataPlane_of_onlyEnds {s t : State} (h : onlyEnds s t) :
    t.par = s.par ∧ t.berth = s.berth ∧ t.chan = s.chan ∧ t.hold = s.hold ∧ t.tide = s.tide := by
  rw [h]
  exact ⟨rfl, rfl, rfl, rfl, rfl⟩

theorem onlyEnds_dropHeld (s : State) (h : HeldReply) : onlyEnds s (dropHeld s h) :=
  onlyEnds_trans (onlyEnds_releaseIf _ _ _) (onlyEnds_dropReply _ _)

theorem onlyEnds_postHeld (s : State) (h : HeldReply) : onlyEnds s (postHeld s h) := by
  unfold postHeld
  split
  · exact onlyEnds_trans (onlyEnds_releaseIf _ _ _) (onlyEnds_trans (onlyEnds_writeResult _ _ _)
      (onlyEnds_writeReply _ _ _ _))
  · exact onlyEnds_dropHeld _ _

theorem onlyEnds_heldOut (s : State) (p : HeldReply → Bool) {f : State → HeldReply → State}
    (hf : ∀ t h, onlyEnds t (f t h)) : onlyEnds s (heldOut s p f) :=
  onlyEnds_trans (t := { s with host := { s.host with heldReplies := s.host.heldReplies.filter fun h => !p h } }) rfl
    (onlyEnds_foldl f hf _ _)

theorem onlyEnds_dropLate (s : State) : onlyEnds s (dropLate s) := onlyEnds_heldOut s _ onlyEnds_dropHeld

theorem onlyEnds_msixFlush (s : State) : onlyEnds s (msixFlush s) := by
  refine onlyEnds_foldl _ (fun t v => ?_) s _
  split <;> rfl

theorem onlyEnds_flushHeld (s : State) : onlyEnds s (flushHeld s) := by
  unfold flushHeld
  split
  · rfl
  · exact onlyEnds_trans (onlyEnds_trans (onlyEnds_dropLate s) (onlyEnds_heldOut _ _ onlyEnds_postHeld))
      (onlyEnds_msixFlush _)

/-! ### What the end of a held reply leaves of the host side -/

/-- What a held reply leaves as it ends: the link, its power state, the replies that are held, and the chain. -/
def hostFrame (s : State) : Bool × Bool × Nat × List HeldReply × Chain :=
  (s.host.linkUp, s.host.busMaster, s.host.dState, s.host.heldReplies, s.chain)

section

variable {s : State} {up on : Bool} {d : Nat} {hs : List HeldReply} {x : Chain} (h : hostFrame s = (up, on, d, hs, x))
include h

theorem busMaster_of_hostFrame : s.host.busMaster = on := congrArg (fun x => x.2.1) h

theorem heldReplies_of_hostFrame : s.host.heldReplies = hs := congrArg (fun x => x.2.2.2.1) h

theorem chain_of_hostFrame : s.chain = x := congrArg (fun x => x.2.2.2.2) h

end

theorem hostFrame_msixRaise (s : State) (v : Nat) : hostFrame (msixRaise s v) = hostFrame s := by
  unfold msixRaise
  split <;> rfl

theorem hostFrame_writeReply (s : State) (m : Nat) (irq : Bool) (r : Reply) :
    hostFrame (writeReply s m irq r) = hostFrame s := by
  unfold writeReply
  dsimp only
  split
  · exact hostFrame_msixRaise _ _
  · rfl

/-- A value that the banks, the commands in flight, the contexts and the submission rings do not reach stays as a
command leaves. -/
theorem release_same {β : Type} (g : State → β) (hquay : ∀ t x, g { t with quay := x } = g t)
    (hcmds : ∀ t x, g { t with inflight := x } = g t) (heng : ∀ t x, g { t with eng := x } = g t)
    (hsq : ∀ t x, g { t with host := { t.host with sq := x } } = g t) (s : State) (c : Cmd) :
    g (release s c) = g s := by
  have hfree (t : State) (p : Nat × Nat) : g (freeCtx t c p.1 p.2) = g t := by
    unfold freeCtx
    split
    · exact heng t _
    · rfl
  have hfill : g (fillOver (dropCmd s c.ord) c) = g s := by
    unfold fillOver
    split
    · exact (hquay _ _).trans (hcmds s _)
    · exact hcmds s _
  unfold release
  dsimp only
  rw [foldl_same g _ hfree]
  split
  · exact hfill
  · exact (hsq _ _).trans hfill

theorem hostFrame_releaseIf (s : State) (counted : Bool) (c : Cmd) :
    hostFrame (releaseIf s counted c) = hostFrame s := by
  unfold releaseIf
  split
  · exact release_same hostFrame (fun _ _ => rfl) (fun _ _ => rfl) (fun _ _ => rfl) (fun _ _ => rfl) s c
  · rfl

theorem hostFrame_dropHeld (s : State) (h : HeldReply) : hostFrame (dropHeld s h) = hostFrame s :=
  hostFrame_releaseIf s h.counted h.cmd

theorem hostFrame_postHeld (s : State) (h : HeldReply) : hostFrame (postHeld s h) = hostFrame s := by
  unfold postHeld
  split
  · exact (hostFrame_writeReply _ _ _ _).trans (hostFrame_releaseIf s h.counted h.cmd)
  · exact hostFrame_dropHeld s h

theorem hostFrame_heldOut (s : State) (p : HeldReply → Bool) {f : State → HeldReply → State}
    (hf : ∀ t h, hostFrame (f t h) = hostFrame t) : hostFrame (heldOut s p f) =
      (s.host.linkUp, s.host.busMaster, s.host.dState, s.host.heldReplies.filter fun h => !p h, s.chain) :=
  foldl_same hostFrame f hf _ _

theorem hostFrame_dropLate (s : State) : hostFrame (dropLate s) = (s.host.linkUp, s.host.busMaster, s.host.dState,
    s.host.heldReplies.filter fun h => !decide (h.due + replyHold s ≤ s.tide), s.chain) :=
  hostFrame_heldOut s (fun h => decide (h.due + replyHold s ≤ s.tide)) hostFrame_dropHeld

theorem hostFrame_msixFlush (s : State) : hostFrame (msixFlush s) = hostFrame s := by
  unfold msixFlush
  refine foldl_same hostFrame _ (fun u v => ?_) s _
  split <;> rfl

/-- What is held is posted or dropped; the power state and the chain stay. -/
theorem hostFrame_flushHeld {s : State} (hcan : canRequest s = true) :
    hostFrame (flushHeld s) = (s.host.linkUp, s.host.busMaster, s.host.dState, [], s.chain) := by
  have hdrop := hostFrame_dropLate s
  have hpost := hostFrame_heldOut (dropLate s) (fun _ => true) hostFrame_postHeld
  have hnone (hs : List HeldReply) : hs.filter (fun _ => !true) = [] := by simp
  rw [flushHeld, if_neg (by simp [hcan]), hostFrame_msixFlush, hpost, hnone]
  simp only [hostFrame, Prod.mk.injEq] at hdrop ⊢
  exact ⟨hdrop.1, hdrop.2.1, hdrop.2.2.1, trivial, hdrop.2.2.2.2⟩

/-- Bus Master Enable and the chain stay whether anything may leave or not. -/
theorem flushHeld_busMaster (s : State) :
    (flushHeld s).host.busMaster = s.host.busMaster ∧ (flushHeld s).chain = s.chain := by
  by_cases hcan : canRequest s = true
  · have h := hostFrame_flushHeld hcan
    exact ⟨busMaster_of_hostFrame h, chain_of_hostFrame h⟩
  · rw [flushHeld, if_pos (by simp [hcan])]
    exact ⟨rfl, rfl⟩

theorem setBusMaster_busMaster (s : State) (on : Bool) : (setBusMaster s on).host.busMaster = on := by
  unfold setBusMaster
  dsimp only
  split
  · exact (flushHeld_busMaster _).1
  · rfl

/-- The vendor and device IDs (R528). -/
theorem cfgRead_ids {s : State} : leBytes 4 (cfgRead s 0).toNat = [0x6A#8, 0x1F#8, 0x10#8, 0x64#8] := by
  have h : cfgRead s 0 = 0x64101F6A#32 := by
    simp only [cfgRead]
    decide
  rw [h]
  decide

/-- A write of the command register. -/
theorem cfgWrite_command (s : State) (v : Word) : (cfgWrite s 4 v).host.busMaster = v.getLsbD 2 := by
  unfold cfgWrite
  dsimp only
  split
  · exact setBusMaster_busMaster _ _
  · next h => exact (not_not.1 (not_and.1 h rfl)).symm

/-- Settles O28: the command register is the one whose write reaches Bus Master Enable. -/
theorem configuration : Obligations.Configuration := by
  intro s w hup
  refine ⟨fun hfuses reg hreg halign => ?_, fun hwarm hfuses => ⟨?_, fun v =>
    ⟨_, exec_configRequest (some v) hup (by decide) (by decide), ?_⟩⟩⟩
  · rw [exec_configRequest w hup hreg halign, if_pos (by simp [hfuses])]
  · rw [exec_configRequest none hup (by decide) (by decide), if_neg (by simp [hwarm, hfuses])]
    exact congrArg (fun b => Host.Outcome.next (readOut (wakeLink s) b 0)) cfgRead_ids
  · rw [if_neg (by simp [hwarm, hfuses])]
    exact ⟨cfgWrite_command _ v, rfl⟩

/-! ### Bus Master Enable, D-states and the replies that are held -/

/-- A reply that has been held long enough is dropped. -/
theorem dropLate_late {s : State} {h : HeldReply} (hheld : s.host.heldReplies = [h])
    (hlate : h.due + replyHold s ≤ s.tide) :
    dropLate s = dropHeld { s with host := { s.host with heldReplies := [] } } h := by
  simp [dropLate, heldOut, hheld, hlate]

/-- A reply that has not is held on. -/
theorem dropLate_timely {s : State} {h : HeldReply} (hheld : s.host.heldReplies = [h])
    (htimely : s.tide < h.due + replyHold s) : dropLate s = s := by
  have hkept : { s with host := { s.host with heldReplies := [h] } } = s := by rw [← hheld]
  simpa [dropLate, heldOut, hheld, htimely] using hkept

/-- Without a reply that is held there is none to post. -/
theorem heldOut_none {s : State} (p : HeldReply → Bool) (f : State → HeldReply → State)
    (hheld : s.host.heldReplies = []) : heldOut s p f = s := by
  have hkept : { s with host := { s.host with heldReplies := [] } } = s := by rw [← hheld]
  simpa [heldOut, hheld] using hkept

/-- Settles O29: the replies held pass through `dropLate` and `postHeld`, which change what the end of a command
changes. -/
theorem powerStates : Obligations.PowerStates := by
  refine ⟨fun s hup => ⟨?_, ?_, ?_, fun hd3 => ?_, ?_, rfl, fun h rest hheld => ?_, fun u hu => ?_⟩,
    fun s hno => if_pos (by rw [hno]; rfl), fun s hcan =>
      ⟨heldOut (dropLate s) (fun _ => true) postHeld, ?_, ?_, ?_⟩, ?_⟩
  · exact congrArg _ (if_pos hup)
  · exact congrArg _ (if_pos hup)
  · exact congrArg _ (if_pos hup)
  · exact congrArg _ (if_pos (by simp [hup, hd3]))
  · exact congrArg _ (if_pos hup)
  · change execReplyHoldExpiry s = _
    rw [execReplyHoldExpiry, hheld]
    rfl
  · obtain rfl : flushHeld { s with host := { s.host with busMaster := true } } = u :=
      Host.Outcome.next.inj ((congrArg _ (if_pos hup)).symm.trans hu)
    obtain ⟨hpar, hberth, hchan, hhold, htide⟩ := dataPlane_of_onlyEnds (onlyEnds_flushHeld _)
    exact ⟨hpar, hberth, hchan, hhold, (flushHeld_busMaster _).2, htide⟩
  · exact if_neg (by simp [hcan])
  · have hposted := heldReplies_of_hostFrame (hostFrame_heldOut (dropLate s) (fun _ => true) hostFrame_postHeld)
    simpa using hposted
  · intro h hheld
    refine ⟨fun hlate => ?_, fun htimely => ?_⟩
    · have hdropped := dropLate_late hheld hlate
      rw [hdropped, heldOut_none _ _ (heldReplies_of_hostFrame (hostFrame_dropHeld _ h))]
    · rw [dropLate_timely hheld htimely]
      simp [heldOut, hheld]
  · intro s c counted r result m hon hlegal hno hhold t
    have ht : t = { dropCmd s c.ord with host := { s.host with
        heldReplies := s.host.heldReplies ++ [⟨c, counted, m, r, s.tide, result⟩] } } := by
      simp [t, m, postReply, hon, hlegal, hno, hhold, dropCmd]
    rw [ht]
    exact ⟨rfl, rfl, rfl, rfl⟩

/-! ### The link falls, is held in reset, and comes up -/

theorem hostLinkLost_up {s : State} (hup : s.host.linkUp = true) :
    let v := s.host.heldReplies.foldl dropHeld (count s 6 0 0xD1 2)
    hostLinkLost s = { v with host := { v.host with
      sq := v.host.sq.map fun e => (e.1, { e.2 with enable := false, stalled := false, stallOn := 0 })
      rq := v.host.rq.map fun e => (e.1, { e.2 with enable := false })
      heldReplies := [], linkUp := false, speed := 0, width := 0, reversed := false, busMaster := false
      dState := 0, msixEn := false, funcMask := false, inL1 := false, config := []
      msix := v.host.msix.map fun e => (e.1, { e.2 with masked := true, pending := false }) } } :=
  if_neg (by simp [hup])

/-- Of the counts a reply that is dropped changes that of dropped replies alone. -/
theorem ackOf_dropHeld (s : State) (h : HeldReply) :
    ackOf (dropHeld s h) (pid 6 0 0xD1 2) = ackOf s (pid 6 0 0xD1 2) := by
  have hrelease : (releaseIf s h.counted h.cmd).acks = s.acks := by
    unfold releaseIf
    split
    · exact release_same State.acks (fun _ _ => rfl) (fun _ _ => rfl) (fun _ _ => rfl) (fun _ _ => rfl) s h.cmd
    · rfl
  have hdrop : ackOf (dropHeld s h) (pid 6 0 0xD1 2) = ackOf (releaseIf s h.counted h.cmd) (pid 6 0 0xD1 2) :=
    ackOf_count_other _ _ _ _ _ _ (by decide)
  rw [hdrop, ackOf, hrelease, ackOf]

/-- Settles O30: the replies held are dropped one by one, and then the rings and the link fall. -/
theorem linkLossAndTraining : Obligations.LinkLossAndTraining := by
  refine ⟨?_, fun s => rfl, fun s speed width rev hmay hspeed hwidth hmax => ?_,
    fun s hup => ⟨congrArg _ (if_pos hup), congrArg _ (if_pos hup)⟩⟩
  · intro s hup v
    have hv : onlyEnds s v := onlyEnds_trans (t := count s 6 0 0xD1 2) rfl (onlyEnds_foldl _ onlyEnds_dropHeld _ _)
    obtain ⟨hpar, hberth, hchan, hhold, htide⟩ := dataPlane_of_onlyEnds hv
    have hchain : v.chain = s.chain := chain_of_hostFrame (foldl_same hostFrame _ hostFrame_dropHeld _ _)
    refine ⟨hostLinkLost s, rfl, rfl, ?_⟩
    rw [hostLinkLost_up hup]
    refine ⟨rfl, rfl, rfl, rfl, rfl, rfl, ?_, ?_, rfl, rfl, fun hheld => ?_, hpar, hberth, hchan,
      hchain, hhold, htide⟩
    · intro e he
      obtain ⟨e', -, rfl⟩ := List.mem_map.1 he
      exact ⟨rfl, rfl⟩
    · refine (foldl_same (fun u => ackOf u (pid 6 0 0xD1 2)) _ ackOf_dropHeld _ _).trans ?_
      exact ackOf_count_same _ _ _ _ _
    · dsimp only [v]
      rw [hheld]
      exact ⟨rfl, rfl⟩
  · refine congrArg _ (if_pos ?_)
    simp [hmay, hspeed, hwidth, hmax]

end Sys2Proof.HostSideRows
end

section
/-! Safe points, waits, phases and engine faults of a context (R435 to R447). -/

namespace Sys2Proof.MicrowordPhases

open Sys2Proof Sys2Proof.Machine Microwords EngineFaults

/-! ### Safe points (R438 to R440) -/

/-- A safe point that its context fetches and executes acts in the state ahead. -/
theorem microSafe_acts {i : Instr} {s : State} {e c : Nat} {w : Word} {f : State → State}
    (hexec : canExecuteSafe s e c) (hfetch : fetches i s e c) (hword : microEncode i = some w) :
    microSafe s e c w f = f (ahead s e c) := by
  obtain ⟨w', hw', hdelivers⟩ := hfetch
  obtain rfl : w = w' := Option.some.inj (hword.symm.trans hw')
  obtain ⟨hready, hfault⟩ := hexec
  rw [microSafe, if_pos hready, hfault]
  exact if_pos hdelivers

/-- The state after a safe point of the context ahead. -/
def rested (s : State) (e c : Nat) : State := safePoint (ahead s e c) e c

@[simp] theorem ctxAt_rested (s : State) (e c : Nat) :
    ctxAt (rested s e c) e c = { advancePc (ctxAt s e c) with sinceSafe := 0, safeAt := s.tide } := by
  have hnoted : ctxAt (noteGap (ahead s e c) e c) e c = advancePc (ctxAt s e c) := by
    rw [← ctxAt_ahead]
    simp [noteGap, ctxAt]
  rw [rested, safePoint, ctxAt_modCtx, hnoted]
  rfl

theorem rested_keeps (s : State) (e c : Nat) :
    (rested s e c).inflight = s.inflight ∧ (rested s e c).par = s.par := by
  simp [rested, safePoint, noteGap, ahead, takeTurn, modCtx, setCtx]

@[simp] theorem ctxCmd_rested (s : State) (e c : Nat) : ctxCmd (rested s e c) e c = ctxCmd s e c := by
  rw [ctxCmd, ctxAt_rested, ctxCmd]
  rfl

/-- The gap that ends at a safe point is kept if it is the largest (R440). -/
theorem maxSafeGap_rested (s : State) (e c : Nat) : (engAt (rested s e c) e).maxSafeGap =
    Nat.max (engAt s e).maxSafeGap ((s.tide - (advancePc (ctxAt s e c)).safeAt) * 5 / 4) := by
  have hengine : (engAt (ahead s e c) e).maxSafeGap = (engAt s e).maxSafeGap := by
    simp [ahead, takeTurn, modCtx, setCtx]
  have hgap : gapNs (ahead s e c) (ctxAt (ahead s e c) e c) = (s.tide - (advancePc (ctxAt s e c)).safeAt) * 5 / 4 := by
    rw [ctxAt_ahead]
    rfl
  rw [← hengine, ← hgap]
  simp [rested, safePoint, noteGap, modCtx, setCtx]

/-- With nothing pending a safe point takes nothing. -/
theorem takePending_none {s : State} {e c : Nat} (hint : (ctxAt s e c).interrupt = false)
    (habort : (ctxAt s e c).abort = false) : takePending s e c = (s, false) := by
  unfold takePending
  dsimp only
  split
  · rfl
  · simp [hint, habort]

/-- The routine of a command that has nothing in the data plane. -/
theorem ctxCmd_place {s : State} {e c : Nat} {k : Cmd} (h : ctxCmd s e c = some k) : k.engine = e ∧ k.context = c := by
  have := List.find?_some h
  simp at this
  exact ⟨this.1.2, this.2⟩

theorem takePending_interrupt {s : State} {e c : Nat} {k : Cmd} (hcmd : ctxCmd s e c = some k) (hwork : k.work = .none)
    (hhandled : (ctxAt s e c).handled = false) (hint : (ctxAt s e c).interrupt = true) :
    takePending s e c = (enterHandler s e c (if (ctxAt s e c).phase = .prepare then
      some (((ctxAt s e c).held).getD abortedByEvent) else none), true) := by
  obtain ⟨rfl, rfl⟩ := ctxCmd_place hcmd
  simp [takePending, hcmd, hhandled, hint, takeInterrupt, routineOnly, hwork]

theorem takePending_abort {s : State} {e c : Nat} {k : Cmd} (hcmd : ctxCmd s e c = some k) (hwork : k.work = .none)
    (hhandled : (ctxAt s e c).handled = false) (hint : (ctxAt s e c).interrupt = false)
    (habort : (ctxAt s e c).abort = true) :
    takePending s e c = (enterHandler s e c (some (abortedBy (ctxAt s e c).abortTag)), true) := by
  obtain ⟨rfl, rfl⟩ := ctxCmd_place hcmd
  simp [takePending, hcmd, hhandled, hint, habort, takeAbort, routineOnly, hwork]

/-- The handler that a context enters, in the phase that it has reached. -/
structure InHandler (s t : State) (e c : Nat) (phase : RPhase) (ending : Option Verdict) : Prop where
  handled : (ctxAt t e c).handled = true
  address : (ctxAt t e c).pc < 0x4000
  phase : (ctxAt t e c).phase = phase
  ending : (ctxAt t e c).ending = ending
  inflight : t.inflight = s.inflight
  par : t.par = s.par

theorem enterHandler_spec (s : State) (e c : Nat) (ending : Option Verdict) :
    InHandler s (enterHandler s e c ending) e c (ctxAt s e c).phase ending := by
  have hctx : ctxAt (enterHandler s e c ending) e c = { ctxAt s e c with
      pc := (Config.freeWord s.freeCtr).toNat % 0x4000, handled := true, ending := ending, wait := none
      timedOut := (ctxAt s e c).timedOut || (ctxAt s e c).wait.isSome, sinceSafe := 0, safeAt := s.tide } :=
    ctxAt_setCtx _ _ _ _
  constructor
  case inflight => rfl
  case par => rfl
  all_goals rw [hctx]
  exact Nat.mod_lt _ (by decide)

theorem wait_word (e : Fin 5) (c : Fin 16) (a b : Fin 32) (cond : Byte) (inv : Bool) :
    microEncode (.wait e c a b cond inv) = some (uword 0x20 a b (cond.toNat + 256 * inv.toNat)) := by
  cases inv <;> simp [microEncode, uword]

section safe

variable {s : State} {e : Fin 5} {c : Fin 16} (hexec : canExecuteSafe s e c)
include hexec

theorem exec_poll (hfetch : fetches (.poll e c) s e c) :
    exec (.poll e c) s = .next (takePending (rested s e c) e c).1 := by
  change execPoll e c s = _
  rw [execPoll, microSafe_acts hexec hfetch (by simp [microEncode, uword])]
  rfl

theorem exec_poll_interrupt (hfetch : fetches (.poll e c) s e c) {k : Cmd} (hcmd : ctxCmd s e c = some k)
    (hwork : k.work = .none) (hhandled : (advancePc (ctxAt s e c)).handled = false)
    (hint : (advancePc (ctxAt s e c)).interrupt = true) :
    ∃ t, exec (.poll e c) s = .next t ∧ InHandler s t e c (advancePc (ctxAt s e c)).phase
      (if (advancePc (ctxAt s e c)).phase = .prepare then
        some (((advancePc (ctxAt s e c)).held).getD abortedByEvent) else none) := by
  have htaken := takePending_interrupt ((ctxCmd_rested s e c).trans hcmd) hwork
    (by rw [ctxAt_rested]; exact hhandled) (by rw [ctxAt_rested]; exact hint)
  have hin := enterHandler_spec (rested s e c) e c (if (ctxAt (rested s e c) e c).phase = .prepare then
    some (((ctxAt (rested s e c) e c).held).getD abortedByEvent) else none)
  rw [ctxAt_rested] at hin htaken
  refine ⟨_, (exec_poll hexec hfetch).trans (congrArg (fun r => Host.Outcome.next r.1) htaken), ?_⟩
  exact ⟨hin.handled, hin.address, hin.phase, hin.ending, hin.inflight.trans (rested_keeps s e c).1,
    hin.par.trans (rested_keeps s e c).2⟩

theorem exec_poll_abort (hfetch : fetches (.poll e c) s e c) {k : Cmd} (hcmd : ctxCmd s e c = some k)
    (hwork : k.work = .none) (hhandled : (advancePc (ctxAt s e c)).handled = false)
    (hint : (advancePc (ctxAt s e c)).interrupt = false) (habort : (advancePc (ctxAt s e c)).abort = true) :
    ∃ t, exec (.poll e c) s = .next t ∧ InHandler s t e c (advancePc (ctxAt s e c)).phase
      (some (abortedBy (advancePc (ctxAt s e c)).abortTag)) := by
  have htaken := takePending_abort ((ctxCmd_rested s e c).trans hcmd) hwork
    (by rw [ctxAt_rested]; exact hhandled) (by rw [ctxAt_rested]; exact hint) (by rw [ctxAt_rested]; exact habort)
  have hin := enterHandler_spec (rested s e c) e c (some (abortedBy (ctxAt (rested s e c) e c).abortTag))
  rw [ctxAt_rested] at hin htaken
  refine ⟨_, (exec_poll hexec hfetch).trans (congrArg (fun r => Host.Outcome.next r.1) htaken), ?_⟩
  exact ⟨hin.handled, hin.address, hin.phase, hin.ending, hin.inflight.trans (rested_keeps s e c).1,
    hin.par.trans (rested_keeps s e c).2⟩

theorem exec_commit (hfetch : fetches (.commit e c) s e c)
    (hnone : takePending (rested s e c) e c = (rested s e c, false)) :
    let t := modCtx (rested s e c) e c fun x => { x with phase := .commit, inCommit := true, commitAt := s.tide }
    exec (.commit e c) s = .next (match ctxCmd t e c with
      | some k => putCmd t { k with phase := .commit }
      | none => t) := by
  change execCommit e c s = _
  rw [execCommit, microSafe_acts hexec hfetch (by simp [microEncode, uword])]
  have hsafe : takePending (safePoint (ahead s e c) e c) e c = (rested s e c, false) := hnone
  simp only [hsafe, Bool.false_eq_true, if_false]
  rfl

/-- A WAIT whose condition or timeout is reserved is an undefined operation (log 35). -/
theorem exec_wait_undefined {a b : Fin 32} {cond : Byte} {inv : Bool}
    (hdef : waitDefined cond.toNat (readReg s (advancePc (ctxAt s e c)) b) = false)
    (hfetch : fetches (.wait e c a b cond inv) s e c) : exec (.wait e c a b cond inv) s =
      .next (engineFault (ahead s e c) e 1 (((advancePc (ctxAt s e c)).pc + 65535) % 65536)) := by
  change execWait e c a b cond inv s = _
  rw [execWait, microSafe_acts hexec hfetch (wait_word e c a b cond inv)]
  simp only [ctxAt_ahead, readReg_ahead, hdef, Bool.not_false, if_true]

/-- The state in which a context waits: outside its commit the WAIT is a safe point. -/
def beforeWait (s : State) (e c : Nat) : State :=
  if safePhase (advancePc (ctxAt s e c)) then rested s e c else ahead s e c

theorem exec_wait {a b : Fin 32} {cond : Byte} {inv : Bool}
    (hdef : waitDefined cond.toNat (readReg s (advancePc (ctxAt s e c)) b) = true)
    (hnone : takePending (rested s e c) e c = (rested s e c, false))
    (hfetch : fetches (.wait e c a b cond inv) s e c) :
    let x := advancePc (ctxAt s e c)
    exec (.wait e c a b cond inv) s =
      .next (modCtx (takeTurn (beforeWait s e c) e c true) e c fun y => { y with
        timedOut := false, wait := some ⟨cond.toNat, inv, readReg s x a,
          some (s.tide + ceilDiv (4 * (readReg s x b).toNat) 5), false⟩ }) := by
  intro x
  have hsafe : takePending (safePoint (ahead s e c) e c) e c = (rested s e c, false) := hnone
  change execWait e c a b cond inv s = _
  rw [execWait, microSafe_acts hexec hfetch (wait_word e c a b cond inv), beforeWait]
  simp only [ctxAt_ahead, readReg_ahead, hdef, hsafe, Bool.not_true, Bool.false_eq_true, if_false]
  split <;> rfl

end safe

/-- A context that waits. -/
theorem wait_modCtx (s : State) (e c : Nat) (w : WaitFor) :
    let t := modCtx s e c fun y => { y with timedOut := false, wait := some w }
    (ctxAt t e c).wait = some w ∧ (ctxAt t e c).timedOut = false := by
  intro t
  rw [ctxAt_modCtx]
  exact ⟨rfl, rfl⟩

/-- A context that enters its commit. -/
theorem ctxAt_committed {s : State} {e c : Nat} {i : Nat} {x : Ctx} (hctx : ctxAt s e c = x) :
    let t := modCtx s e c fun x => { x with phase := .commit, inCommit := true, commitAt := i }
    ctxAt (match ctxCmd t e c with
      | some k => putCmd t { k with phase := .commit }
      | none => t) e c = { x with phase := .commit, inCommit := true, commitAt := i } := by
  intro t
  have ht : ctxAt t e c = { x with phase := .commit, inCommit := true, commitAt := i } := by
    rw [← hctx]
    exact ctxAt_modCtx _ _ _ _
  split
  · exact ht
  · exact ht

/-! ### WAITs that end (R435, R436) -/

theorem dmaDrain_eng (s : State) (e c : Nat) : (dmaDrain s e c).eng = s.eng ∧ (dmaDrain s e c).tide = s.tide := by
  unfold dmaDrain
  split
  · dsimp only
    split <;> exact ⟨rfl, rfl⟩
  · exact ⟨rfl, rfl⟩

/-- A context goes on after its WAIT; nothing else changes. -/
theorem waitOver_spec (s : State) (e c : Nat) (timedOut : Bool) :
    (ctxAt (waitOver s e c timedOut) e c).wait = none ∧ (ctxAt (waitOver s e c timedOut) e c).timedOut = timedOut ∧
      (waitOver s e c timedOut).tide = s.tide := by
  rw [waitOver, ctxAt_modCtx]
  exact ⟨rfl, rfl, rfl⟩

section wake

variable {s : State} {e : Fin 5} {c : Fin 16} {w : WaitFor} (hwait : (ctxAt s e c).wait = some w)
  (hruns : (engAt s e).state = 0)
include hwait hruns

theorem exec_waitWake : exec (.waitWake e c) s = .next (
    if waitShown s w ≠ w.invert then waitOver (if w.cond = 9 then dmaDrain s e c else s) e c false
    else if w.cond = 2 ∧ w.invert = false then waitOver (reach s (waitTide s w)) e c false
    else s) := by
  change execWaitWake e c s = _
  simp [execWaitWake, hwait, hruns]

theorem exec_waitTimeout : exec (.waitTimeout e c) s =
    .next (waitOver (count (reach s ((w.until_).getD s.tide)) 6 0 0xA8 (8 * e + 4)) e c true) := by
  change execWaitTimeout e c s = _
  simp [execWaitTimeout, hwait, hruns]

end wake

theorem reach_le (s : State) (i : Nat) : i % 2 ^ 64 ≤ (reach s i).tide := Nat.le_max_right _ _

/-! ### Engine faults and restarts (R446, R447) -/

/-- The code of an engine fault by its cause. -/
def causeCode (cause : EngCause) : Nat :=
  match cause with
  | .undefinedOp => 1
  | .parity => 2
  | .microword _ => 7

theorem exec_fault {s : State} {e : Fin 5} {c : Fin 16} {cause : EngCause} (hready : ctxReady s e c = true)
    (hdelivers : deliversFault s e (ctxAt s e c) cause = true) :
    exec (.fault e c cause) s = .next (engineFault s e (causeCode cause) (ctxAt s e c).pc) := by
  have hact : (ctxReady s e c && deliversFault s e (ctxAt s e c) cause) = true := by rw [hready, hdelivers]; rfl
  cases cause <;> exact congrArg _ (if_pos hact)

theorem exec_engineRestart {s : State} {e : Fin 5} (hdown : (engAt s e).state = 1) :
    exec (.engineRestart e) s = .next (setEng s e { engAt s e with state := 0, ctxs := [] }) :=
  congrArg Host.Outcome.next (if_pos hdown)

theorem progPhase_eq (x : Ctx) : progPhase x = if x.phase = .prepare then .progress
    else if x.phase = .progress ∧ x.handled = true ∧ x.abort = true then .undo else x.phase := by
  simp [progPhase, and_assoc]

/-- Settles O60. -/
theorem microwordPhases : Obligations.MicrowordPhases := by
  unfold Obligations.MicrowordPhases
  intro s e c a b imm cond inv x
  refine ⟨fun hexec => ⟨?endc, ?prog⟩, fun hexec hint habort => ?quiet,
    fun k hexec hhandled hcmd hwork hfetch => ?pending,
    fun w hwait hruns => ?waits, fun cause hready hdelivers => ?fault, fun hdown => ?restart⟩
  case endc => exact yields_microCtx (i := .endc e c) hexec rfl (by simp [microEncode, uword])
  case prog =>
    rw [← progPhase_eq]
    exact yields_microCtx (i := .prog e c imm) hexec rfl (by simp [microEncode, uword])
  case quiet =>
    have hnone : takePending (rested s e c) e c = (rested s e c, false) :=
      takePending_none (by rw [ctxAt_rested]; exact hint) (by rw [ctxAt_rested]; exact habort)
    refine ⟨fun hfetch => ⟨_, exec_poll hexec hfetch, ?_⟩, fun hfetch => ⟨_, exec_commit hexec hfetch hnone, ?_⟩,
      fun hdef hfetch => ⟨_, exec_wait hexec hdef hnone hfetch, wait_modCtx _ _ _ _⟩,
      fun hdef hfetch => ⟨_, exec_wait_undefined hexec hdef hfetch, (lastFault_engineFault _ _ _ _).1⟩⟩
    · rw [hnone]
      exact ⟨ctxAt_rested s e c, maxSafeGap_rested s e c, rfl⟩
    · exact ctxAt_committed (ctxAt_rested s e c)
  case pending =>
    refine ⟨fun hint => ?_, fun hint habort => ?_⟩
    · obtain ⟨t, hnext, hin⟩ := exec_poll_interrupt hexec hfetch hcmd hwork hhandled hint
      exact ⟨t, hnext, hin.handled, hin.address, hin.phase, hin.ending, hin.inflight, hin.par⟩
    · obtain ⟨t, hnext, hin⟩ := exec_poll_abort hexec hfetch hcmd hwork hhandled hint habort
      exact ⟨t, hnext, hin.handled, hin.address, hin.phase, hin.ending, hin.inflight, hin.par⟩
  case waits =>
    refine ⟨fun hshown => ?_, fun hshown h2 hinv => ?_, fun hshown hother => ?_, ?_⟩
    · obtain ⟨hended, htimely, htide⟩ := waitOver_spec (if w.cond = 9 then dmaDrain s e c else s) e c false
      refine ⟨_, (exec_waitWake hwait hruns).trans (congrArg _ (if_pos hshown)), hended, htimely, htide.trans ?_⟩
      split
      · exact (dmaDrain_eng s e c).2
      · rfl
    · obtain ⟨hended, htimely, htide⟩ := waitOver_spec (reach s (waitTide s w)) e c false
      refine ⟨_, (exec_waitWake hwait hruns).trans (congrArg _ ((if_neg (not_not.2 hshown)).trans
        (if_pos ⟨h2, hinv⟩))), hended, htimely, ?_⟩
      rw [htide]
      exact reach_le _ _
    · refine (exec_waitWake hwait hruns).trans (congrArg _ ((if_neg (not_not.2 hshown)).trans (if_neg ?_)))
      rintro ⟨h2, hinv⟩
      rcases hother with hother | hother
      · exact hother h2
      · exact absurd (hother.symm.trans hinv) (by decide)
    · obtain ⟨hended, hlate, htide⟩ :=
        waitOver_spec (count (reach s ((w.until_).getD s.tide)) 6 0 0xA8 (8 * e + 4)) e c true
      refine ⟨_, exec_waitTimeout hwait hruns, hended, hlate, fun i hi => ?_, ackOf_count_same _ _ _ _ _⟩
      rw [htide, hi]
      exact reach_le s i
  case fault =>
    obtain ⟨hcode, haddr⟩ := lastFault_engineFault s e (causeCode cause) (ctxAt s e c).pc
    refine ⟨_, exec_fault hready hdelivers, ?_, haddr, ctxs_engineFault _ _ _ _, ?_, counted_engineFault s e _ _⟩
    · cases cause <;> exact hcode
    · rintro rfl hnone
      rw [hcode]
      exact engineFault_ce4 _ _ hnone
  case restart =>
    refine ⟨_, exec_engineRestart hdown, ?_⟩
    simp

end Sys2Proof.MicrowordPhases
end

section
/-! Every row of the block keeps the queue and the canonical form of the memories (O2 to O4): one rule per function
of the model that answers a state. A state `s` that is reached from `s₀` carries `Keeps s₀ s`; the rule of a function
hands it on, so the rule of a row is the composition that the row's definition spells out. -/

namespace Sys2Proof.Keeping

open Sys2Proof Sys2Proof.Machine Quays

/-- What no row changes: the queue as it was, and memories in canonical form if they were. -/
structure Keeps (s₀ s : State) : Prop where
  pending : s.pending = s₀.pending
  memories : memoriesWf s₀ → memoriesWf s

/-- An outcome whose state, if it has one, keeps the queue and the memories. -/
def KeepsNext (s₀ : State) (o : Host.Outcome State Fault Refusal) : Prop := ∀ t, o = .next t → Keeps s₀ t

variable {s₀ s : State}

theorem keeps_refl (s : State) : Keeps s s := ⟨rfl, id⟩

/-- A change of parts that are neither the queue nor a memory. -/
theorem Keeps.same (hs : Keeps s₀ s) {t : State} (hpending : t.pending = s.pending) (hhold : t.hold.mem = s.hold.mem)
    (hhost : t.host.hostMem = s.host.hostMem) (hquay : t.quay = s.quay) : Keeps s₀ t where
  pending := hpending.trans hs.pending
  memories hwf := by
    obtain ⟨hm, hh, hq⟩ := hs.memories hwf
    exact ⟨hhold ▸ hm, hhost ▸ hh, fun q => by rw [quayAt, hquay]; exact hq q⟩

/-- A change of the memories that keeps their canonical form. -/
theorem Keeps.write (hs : Keeps s₀ s) {t : State} (hpending : t.pending = s.pending)
    (hwrite : memoriesWf s → memoriesWf t) : Keeps s₀ t :=
  ⟨hpending.trans hs.pending, fun hwf => hwrite (hs.memories hwf)⟩

theorem next (hs : Keeps s₀ s) : KeepsNext s₀ (.next s) := by
  rintro t ⟨⟩
  exact hs

theorem nextFault {f : Fault} : KeepsNext s₀ (.fault f) := fun _ h => nomatch h

theorem keeps_ite {c : Prop} [Decidable c] {a b : State} (ha : Keeps s₀ a) (hb : Keeps s₀ b) :
    Keeps s₀ (if c then a else b) := by split <;> assumption

theorem keeps_iteFst {α : Type} {c : Prop} [Decidable c] {a b : State × α} (ha : Keeps s₀ a.1) (hb : Keeps s₀ b.1) :
    Keeps s₀ (if c then a else b).1 := by split <;> assumption

theorem next_ite {c : Prop} [Decidable c] {a b : Host.Outcome State Fault Refusal} (ha : KeepsNext s₀ a)
    (hb : KeepsNext s₀ b) : KeepsNext s₀ (if c then a else b) := by split <;> assumption

theorem keeps_foldl {α : Type} {f : State → α → State} {xs : List α} (hf : ∀ u x, Keeps s₀ u → Keeps s₀ (f u x))
    (hs : Keeps s₀ s) : Keeps s₀ (xs.foldl f s) := by
  induction xs generalizing s with
  | nil => exact hs
  | cons x xs ih => exact ih (hf s x hs)

theorem keeps_foldlFst {α β : Type} {f : State × β → α → State × β} {xs : List α} {p : State × β}
    (hf : ∀ u x, Keeps s₀ u.1 → Keeps s₀ (f u x).1) (hs : Keeps s₀ p.1) : Keeps s₀ (xs.foldl f p).1 := by
  induction xs generalizing p with
  | nil => exact hs
  | cons x xs ih => exact ih (hf p x hs)

/-- A quay takes contents whose segment store is in canonical form if its own was. -/
theorem keeps_quayWrite {q : Nat} {x : Quay} (hs : Keeps s₀ s)
    (hx : memWf (quayAt s q).seg = true → memWf x.seg = true) :
    Keeps s₀ (setQuay s q x) := by
  refine hs.write rfl fun ⟨hm, hh, hq⟩ => ⟨hm, hh, fun k => ?_⟩
  by_cases hk : k = q
  · subst hk
    rw [quayAt_setQuay]
    exact hx (hq k)
  · rw [quayAt_setQuay_other _ _ _ _ hk]
    exact hq k

theorem memWf_freeMem (n : Nat) : memWf (freeMem n) = true := memWriteBytes_wf _ _ _ rfl

theorem keeps_setSq {n x} (hs : Keeps s₀ s) : Keeps s₀ (setSq s n x) := hs.same rfl rfl rfl rfl

theorem keeps_setRq {m x} (hs : Keeps s₀ s) : Keeps s₀ (setRq s m x) := hs.same rfl rfl rfl rfl

theorem keeps_stall {n cause} (hs : Keeps s₀ s) : Keeps s₀ (stall s n cause) :=
  keeps_ite (keeps_setSq hs) (keeps_ite (keeps_setRq (keeps_setSq hs)) (keeps_setSq hs))

theorem keeps_trial {es} (hs : Keeps s₀ s) : Keeps s₀ (trial s es) := hs.same rfl rfl rfl rfl

theorem keeps_reserveReply {m} (hs : Keeps s₀ s) : Keeps s₀ (reserveReply s m) := keeps_setRq hs

theorem keeps_wakeLink (hs : Keeps s₀ s) : Keeps s₀ (wakeLink s) := hs.same rfl rfl rfl rfl

theorem keeps_headPast {n} (hs : Keeps s₀ s) : Keeps s₀ (headPast s n) := keeps_setSq (keeps_wakeLink hs)

theorem keeps_dropCmd {ord} (hs : Keeps s₀ s) : Keeps s₀ (dropCmd s ord) := hs.same rfl rfl rfl rfl

theorem keeps_forAll {xs f} (hs : Keeps s₀ s) (hf : ∀ u n, Keeps s₀ u → Keeps s₀ (f u n)) :
    Keeps s₀ (forAll s xs f) := forAll_keeps _ f hf s xs hs

theorem keeps_setPort {p x} (hs : Keeps s₀ s) : Keeps s₀ (setPort s p x) := hs.same rfl rfl rfl rfl

theorem keeps_portSend {p} (hs : Keeps s₀ s) : Keeps s₀ (portSend s p) :=
  (keeps_setPort (p := p)
    (x := (drainPort (activeLanes s p).length (portAt s p).queue.length (portAt s p)).1) hs).same rfl rfl rfl rfl

theorem keeps_modPort {p f} (hs : Keeps s₀ s) : Keeps s₀ (modPort s p f) := keeps_setPort hs

theorem keeps_putFrame {p body} (hs : Keeps s₀ s) : Keeps s₀ (putFrame s p body) := keeps_portSend (keeps_modPort hs)

theorem keeps_sendRaw {x} (hs : Keeps s₀ s) : Keeps s₀ (sendRaw s x) := hs.same rfl rfl rfl rfl

theorem keeps_send {x} (hs : Keeps s₀ s) : Keeps s₀ (send s x) := by
  unfold send
  split
  · exact keeps_putFrame hs
  · exact keeps_forAll hs (fun _ _ hs => keeps_putFrame hs)
  · exact keeps_sendRaw hs

theorem keeps_answerChain {c r result} (hs : Keeps s₀ s) : Keeps s₀ (answerChain s c r result) := by
  unfold answerChain
  dsimp only
  exact keeps_send (keeps_ite hs (keeps_send hs))

/-- Every quay takes contents whose segment store is in canonical form if its own was. -/
theorem keeps_quayMap {f : Quay → Quay} (hs : Keeps s₀ s) (hdefault : f {} = {})
    (hf : ∀ x, memWf x.seg = true → memWf (f x).seg = true) :
    Keeps s₀ { s with quay := s.quay.map fun e => (e.1, f e.2) } := by
  refine hs.write rfl fun ⟨hm, hh, hq⟩ => ⟨hm, hh, fun q => ?_⟩
  have hmap : quayAt { s with quay := s.quay.map fun e => (e.1, f e.2) } q = f (quayAt s q) := by
    have h := tabGet_map f {} s.quay q
    rw [hdefault] at h
    exact h
  rw [hmap]
  exact hf _ (hq q)

theorem keeps_fillOver {c} (hs : Keeps s₀ s) : Keeps s₀ (fillOver s c) :=
  keeps_ite (keeps_quayMap (f := fun x => { x with filling := x.filling.filter fun f => f.2 ≠ c.ord }) hs rfl
    fun _ h => h) hs

theorem keeps_setEng {e x} (hs : Keeps s₀ s) : Keeps s₀ (setEng s e x) := hs.same rfl rfl rfl rfl

theorem keeps_setCtx {e c x} (hs : Keeps s₀ s) : Keeps s₀ (setCtx s e c x) := keeps_setEng hs

theorem keeps_freeCtx {c e k} (hs : Keeps s₀ s) : Keeps s₀ (freeCtx s c e k) := keeps_ite (keeps_setCtx hs) hs

theorem keeps_release {c} (hs : Keeps s₀ s) : Keeps s₀ (release s c) :=
  keeps_foldl (fun _ _ hs => keeps_freeCtx hs) (keeps_ite (keeps_fillOver (keeps_dropCmd hs)) (keeps_setSq
    (keeps_fillOver (keeps_dropCmd hs))))

theorem keeps_releaseIf {counted c} (hs : Keeps s₀ s) : Keeps s₀ (releaseIf s counted c) :=
  keeps_ite (keeps_release hs) hs

theorem keeps_setAck {id x} (hs : Keeps s₀ s) : Keeps s₀ (setAck s id x) := hs.same rfl rfl rfl rfl

theorem keeps_count {sc i f m} (hs : Keeps s₀ s) : Keeps s₀ (count s sc i f m) := keeps_setAck hs

theorem keeps_dropReply {m} (hs : Keeps s₀ s) : Keeps s₀ (dropReply s m) := keeps_setRq (keeps_count hs)

theorem keeps_setMsix {v x} (hs : Keeps s₀ s) : Keeps s₀ (setMsix s v x) := hs.same rfl rfl rfl rfl

theorem keeps_msixRaise {v} (hs : Keeps s₀ s) : Keeps s₀ (msixRaise s v) :=
  keeps_ite (keeps_setMsix (keeps_wakeLink hs)) (keeps_setMsix hs)

theorem keeps_writeReply {m irq x} (hs : Keeps s₀ s) : Keeps s₀ (writeReply s m irq x) := by
  unfold writeReply
  have hwritten : Keeps s₀ { s with host := { s.host with
      rqMem := tabSet s.host.rqMem (rqKey m (rqAt s m).tail) { x with phase := (rqAt s m).phase }
      hostMem := memWriteBytes s.host.hostMem ((rqAt s m).base.toNat + 32 * (rqAt s m).tail)
        (replyBytes { x with phase := (rqAt s m).phase }) } } :=
    hs.write rfl fun ⟨hm, hh, hq⟩ => ⟨hm, memWriteBytes_wf _ _ _ hh, hq⟩
  exact keeps_ite (keeps_msixRaise (keeps_setRq hwritten)) (keeps_setRq hwritten)

theorem keeps_writeResult {a bytes} (hs : Keeps s₀ s) : Keeps s₀ (writeResult s a bytes) :=
  hs.write rfl fun ⟨hm, hh, hq⟩ => ⟨hm, memWriteBytes_wf _ _ _ hh, hq⟩

theorem keeps_postReply {c counted r result} (hs : Keeps s₀ s) : Keeps s₀ (postReply s c counted r result) :=
  keeps_ite (keeps_dropReply (keeps_releaseIf hs)) (keeps_ite (keeps_writeReply (keeps_writeResult
    (keeps_releaseIf hs))) (keeps_ite (keeps_dropReply (keeps_releaseIf hs))
      ((keeps_dropCmd (ord := c.ord) hs).same rfl rfl rfl rfl)))

theorem keeps_postTo {c counted r result} (hs : Keeps s₀ s) : Keeps s₀ (postTo s c counted r result) :=
  keeps_ite (keeps_answerChain (keeps_releaseIf hs)) (keeps_postReply hs)

theorem keeps_postWaiting {u} (hs : Keeps s₀ s) : Keeps s₀ (postWaiting s u) :=
  keeps_ite hs (keeps_postTo (hs.same rfl rfl rfl rfl))

theorem keeps_postFollowing (hs : Keeps s₀ s) : Keeps s₀ (postFollowing s) :=
  keeps_forAll hs (fun _ _ hs => keeps_foldl (fun _ _ hs => keeps_postWaiting hs) hs)

theorem keeps_postInOrder {c counted r result} (hs : Keeps s₀ s) : Keeps s₀ (postInOrder s c counted r result) :=
  keeps_ite ((keeps_dropCmd (ord := c.ord) hs).same rfl rfl rfl rfl) (keeps_postFollowing (keeps_postTo hs))

theorem keeps_answerRejected {h op v viaChain} (hs : Keeps s₀ s) : Keeps s₀ (answerRejected s h op v viaChain) :=
  keeps_ite (keeps_postInOrder (hs.same rfl rfl rfl rfl)) (keeps_postTo (hs.same rfl rfl rfl rfl))

theorem keeps_reject {h op v} (hs : Keeps s₀ s) : Keeps s₀ (reject s h op v) :=
  keeps_answerRejected (keeps_reserveReply (keeps_headPast hs))

theorem keeps_pendOf {c} (hs : Keeps s₀ s) : Keeps s₀ (pendOf s c) := by
  unfold pendOf
  dsimp only
  split
  · exact hs.same rfl rfl rfl rfl
  · exact hs

theorem keeps_enter {h op viaChain} (hs : Keeps s₀ s) : Keeps s₀ (enter s h op viaChain).1 :=
  keeps_ite (keeps_pendOf (hs.same rfl rfl rfl rfl)) (hs.same rfl rfl rfl rfl)

theorem keeps_putCmd {c} (hs : Keeps s₀ s) : Keeps s₀ (putCmd s c) := hs.same rfl rfl rfl rfl

theorem keeps_forwardOne {c} (hs : Keeps s₀ s) : Keeps s₀ (forwardOne s c) := by
  unfold forwardOne
  dsimp only
  exact keeps_send (keeps_putCmd hs)

theorem keeps_calSchedule {b} (hs : Keeps s₀ s) : Keeps s₀ (calSchedule s b) := by
  unfold calSchedule
  dsimp only
  split
  · exact hs.same rfl rfl rfl rfl
  · exact hs

theorem keeps_calOwn {b} (hs : Keeps s₀ s) : Keeps s₀ (calOwn s b) := keeps_ite (keeps_calSchedule hs) hs

theorem keeps_calReschedule (hs : Keeps s₀ s) : Keeps s₀ (calReschedule s) :=
  keeps_forAll hs (fun _ _ hs => keeps_calOwn hs)

theorem keeps_setBerth {b x} (hs : Keeps s₀ s) : Keeps s₀ (setBerth s b x) := hs.same rfl rfl rfl rfl

theorem keeps_modBerth {b f} (hs : Keeps s₀ s) : Keeps s₀ (modBerth s b f) := keeps_setBerth hs

theorem keeps_modCal {b f} (hs : Keeps s₀ s) : Keeps s₀ (modCal s b f) := keeps_modBerth hs

theorem keeps_calReadyAgain (hs : Keeps s₀ s) : Keeps s₀ (calReadyAgain s) :=
  keeps_calReschedule (keeps_forAll hs (fun _ _ hs => keeps_modCal hs))

theorem keeps_bakeDrop (hs : Keeps s₀ s) : Keeps s₀ (bakeDrop s) := keeps_calReadyAgain (hs.same rfl rfl rfl rfl)

theorem keeps_postOrdered {c r result} (hs : Keeps s₀ s) : Keeps s₀ (postOrdered s c r result) := keeps_postInOrder hs

theorem keeps_finish {c status d result} (hs : Keeps s₀ s) : Keeps s₀ (finish s c status d result) :=
  keeps_postOrdered (keeps_ite (keeps_count hs) hs)

theorem keeps_complete {c status d result} (hs : Keeps s₀ s) : Keeps s₀ (complete s c status d result) :=
  keeps_ite (keeps_finish hs) (keeps_putCmd hs)

theorem keeps_completeV {c v} (hs : Keeps s₀ s) : Keeps s₀ (completeV s c v) := keeps_complete hs

theorem keeps_bakeFaultEnd {p v} (hs : Keeps s₀ s) : Keeps s₀ (bakeFaultEnd s p v) := by
  unfold bakeFaultEnd
  dsimp only
  split
  · exact keeps_completeV (keeps_count (keeps_bakeDrop hs))
  · exact keeps_bakeDrop hs

theorem keeps_setTp {p x} (hs : Keeps s₀ s) : Keeps s₀ (setTp s p x) := hs.same rfl rfl rfl rfl

theorem keeps_modTp {p f} (hs : Keeps s₀ s) : Keeps s₀ (modTp s p f) := keeps_setTp hs

theorem keeps_dropPending {c status} (hs : Keeps s₀ s) : Keeps s₀ (dropPending s c status) := by
  unfold dropPending
  split
  · exact keeps_ite (keeps_count (keeps_bakeDrop hs)) hs
  · exact hs

theorem keeps_setQuay {q x} (hs : Keeps s₀ s) (hx : x.seg = (quayAt s q).seg) : Keeps s₀ (setQuay s q x) :=
  keeps_quayWrite hs fun h => by rw [hx]; exact h

theorem keeps_modQuay {q f} (hs : Keeps s₀ s) (hf : ∀ x, (f x).seg = x.seg) : Keeps s₀ (modQuay s q f) :=
  keeps_setQuay hs (hf _)

theorem keeps_setChan {c x} (hs : Keeps s₀ s) : Keeps s₀ (setChan s c x) := hs.same rfl rfl rfl rfl

theorem keeps_modChan {c f} (hs : Keeps s₀ s) : Keeps s₀ (modChan s c f) := keeps_setChan hs

theorem keeps_unwind {c status} (hs : Keeps s₀ s) : Keeps s₀ (unwind s c status) := by
  unfold unwind
  split
  · split
    · exact keeps_modTp hs
    · exact keeps_dropPending hs
    · exact hs
  · exact keeps_forAll hs (fun _ _ hs => keeps_modQuay hs fun _ => rfl)
  · exact keeps_forAll hs (fun _ _ hs => keeps_modQuay hs fun _ => rfl)
  · exact keeps_fillOver hs
  · exact keeps_forAll hs (fun _ _ hs => keeps_modQuay hs fun _ => rfl)
  · exact keeps_forAll hs (fun _ _ hs => keeps_modChan hs)
  · exact keeps_dropPending hs
  · exact hs

theorem keeps_cancel {c v} (hs : Keeps s₀ s) : Keeps s₀ (cancel s c v) := keeps_completeV (keeps_unwind hs)

theorem keeps_endDisabled {c e} (hs : Keeps s₀ s) : Keeps s₀ (endDisabled s c e) := by
  unfold endDisabled
  split
  · exact keeps_ite (keeps_bakeFaultEnd hs) (keeps_completeV hs)
  · exact keeps_cancel hs

theorem keeps_completeOk {c fs} (hs : Keeps s₀ s) : Keeps s₀ (completeOk s c fs) := keeps_complete hs

theorem keeps_forwardAll {c} (hs : Keeps s₀ s) : Keeps s₀ (forwardAll s c).1 :=
  keeps_putCmd (keeps_foldl (fun _ _ hs => keeps_send hs) hs)

theorem keeps_performNop {c} (hs : Keeps s₀ s) : Keeps s₀ (performNop s c) := keeps_completeOk hs

theorem keeps_performIdentify {c} (hs : Keeps s₀ s) : Keeps s₀ (performIdentify s c) := keeps_complete hs

theorem keeps_performGetState {c} (hs : Keeps s₀ s) : Keeps s₀ (performGetState s c) := keeps_completeOk hs

theorem keeps_freezeMembers {c ms} (hs : Keeps s₀ s) : Keeps s₀ (freezeMembers s c ms) := keeps_modChan hs

theorem keeps_holdMod {m c} (hs : Keeps s₀ s) : Keeps s₀ (holdMod s m c) := keeps_ite (keeps_modChan hs) hs

theorem keeps_parkStart {c} (hs : Keeps s₀ s) : Keeps s₀ (parkStart s c) := by
  unfold parkStart
  dsimp only
  exact keeps_modChan (keeps_freezeMembers (keeps_holdMod hs))

theorem keeps_setMode {c m d} (hs : Keeps s₀ s) : Keeps s₀ (setMode s c m d) := keeps_modChan hs

theorem keeps_parkApply {hard c} (hs : Keeps s₀ s) : Keeps s₀ (parkApply s hard c) := by
  unfold parkApply
  dsimp only
  exact keeps_modChan (keeps_setMode hs)

theorem keeps_parkHard {b} (hs : Keeps s₀ s) : Keeps s₀ (parkHard s b) :=
  keeps_forAll (keeps_forAll hs (fun _ _ hs => keeps_parkStart hs)) (fun _ _ hs => keeps_parkApply hs)

theorem keeps_modTmu {b f} (hs : Keeps s₀ s) : Keeps s₀ (modTmu s b f) := keeps_modBerth hs

theorem keeps_tmuCount {b m} (hs : Keeps s₀ s) : Keeps s₀ (tmuCount s b m) := keeps_count (keeps_modTmu hs)

theorem keeps_stampStore {b e} (hs : Keeps s₀ s) : Keeps s₀ (stampStore s b e) :=
  keeps_ite (keeps_modTmu hs) (keeps_modTmu (keeps_tmuCount hs))

theorem keeps_edgeEvaluate {b input edge t prov} (hs : Keeps s₀ s) : Keeps s₀ (edgeEvaluate s b input edge t
    prov) := by
  unfold edgeEvaluate
  dsimp only
  split
  · refine keeps_ite ?_ (keeps_ite ?_ hs)
    · split
      · exact keeps_modTmu hs
      · exact keeps_tmuCount hs
    · split
      · exact keeps_modTmu hs
      · exact keeps_tmuCount hs
  · refine keeps_ite ?_ hs
    split <;> exact keeps_modTmu hs
  · exact keeps_ite (keeps_modTmu (keeps_ite (keeps_modTmu hs) hs)) (keeps_ite (keeps_modTmu hs) hs)
  · exact hs

theorem keeps_edgeAccepted {b e} (hs : Keeps s₀ s) : Keeps s₀ (edgeAccepted s b e) :=
  keeps_ite (keeps_modTmu (keeps_tmuCount (keeps_modTmu hs))) (keeps_edgeEvaluate (keeps_ite (keeps_stampStore
    (keeps_ite (keeps_modTmu (keeps_modTmu hs)) (keeps_modTmu hs))) (keeps_ite (keeps_modTmu (keeps_modTmu hs))
    (keeps_modTmu hs))))

theorem keeps_tmuTake {b e} (hs : Keeps s₀ s) : Keeps s₀ (tmuTake s b e) := by
  unfold tmuTake
  dsimp only
  refine keeps_ite ?_ hs
  split
  · exact keeps_ite (keeps_tmuCount hs) (keeps_edgeAccepted hs)
  · exact keeps_edgeAccepted hs

theorem keeps_tmuFlush {b} (hs : Keeps s₀ s) : Keeps s₀ (tmuFlush s b) :=
  keeps_foldl (fun _ _ hs => keeps_tmuTake hs) (keeps_ite hs (keeps_modTmu hs))

theorem keeps_differences {b} (hs : Keeps s₀ s) : Keeps s₀ (differences s b) := by
  unfold differences
  dsimp only
  refine keeps_forAll hs (fun _ _ hs => ?_)
  split
  · exact keeps_modTmu hs
  · exact keeps_tmuCount hs

theorem keeps_windowClose {b} (hs : Keeps s₀ s) : Keeps s₀ (windowClose s b) := by
  unfold windowClose
  dsimp only
  exact keeps_modTmu (keeps_ite (keeps_differences (keeps_ite (keeps_tmuCount (keeps_tmuFlush hs))
    (keeps_tmuFlush hs))) (keeps_ite (keeps_tmuCount (keeps_tmuFlush hs)) (keeps_tmuFlush hs)))

theorem keeps_tmuEnd {b} (hs : Keeps s₀ s) : Keeps s₀ (tmuEnd s b) :=
  keeps_ite (keeps_modTmu (keeps_ite (keeps_windowClose hs) hs)) hs

theorem keeps_tmuCut {b provisional} (hs : Keeps s₀ s) : Keeps s₀ (tmuCut s b provisional) :=
  keeps_ite (keeps_modTmu (keeps_tmuEnd hs)) hs

theorem keeps_modAcq {b f} (hs : Keeps s₀ s) : Keeps s₀ (modAcq s b f) := keeps_modBerth hs

theorem keeps_acqClose {b why} (hs : Keeps s₀ s) : Keeps s₀ (acqClose s b why) := by
  unfold acqClose
  dsimp only
  exact keeps_modAcq (keeps_ite (keeps_count (keeps_ite (keeps_count hs) hs)) (keeps_ite (keeps_count hs) hs))

theorem keeps_acqCloseWhole {b} (hs : Keeps s₀ s) : Keeps s₀ (acqCloseWhole s b) := keeps_acqClose hs

theorem keeps_acqEnd {b} (hs : Keeps s₀ s) : Keeps s₀ (acqEnd s b) := by
  unfold acqEnd
  dsimp only
  exact keeps_modAcq (keeps_ite (keeps_acqCloseWhole hs) (keeps_ite (keeps_acqClose hs) hs))

theorem keeps_measureCut {b} (hs : Keeps s₀ s) : Keeps s₀ (measureCut s b) := keeps_tmuCut (keeps_acqEnd hs)

theorem keeps_parkBerthHard {b} (hs : Keeps s₀ s) : Keeps s₀ (parkBerthHard s b) := by
  unfold parkBerthHard
  dsimp only
  exact keeps_modBerth (keeps_parkHard (keeps_measureCut hs))

theorem keeps_haltRequest {q cause} (hs : Keeps s₀ s) : Keeps s₀ (haltRequest s q cause) :=
  keeps_ite (keeps_modQuay hs fun _ => rfl) hs

theorem keeps_disarm {q} (hs : Keeps s₀ s) : Keeps s₀ (disarm s q) := by
  unfold disarm
  dsimp only
  exact keeps_modQuay (keeps_forAll hs (fun _ _ hs => keeps_ite (keeps_modBerth hs) hs)) fun _ => rfl

theorem keeps_cancelAll {p v} (hs : Keeps s₀ s) : Keeps s₀ (cancelAll s p v) :=
  keeps_foldl (fun _ _ hs => keeps_cancel hs) hs

theorem keeps_startsWithout {v} (hs : Keeps s₀ s) : Keeps s₀ (startsWithout s v) := keeps_cancelAll hs

theorem keeps_leaveArmed {b} (hs : Keeps s₀ s) : Keeps s₀ (leaveArmed s b) :=
  keeps_ite (keeps_ite (keeps_startsWithout (keeps_disarm (keeps_modQuay hs fun _ => rfl))) (keeps_modQuay hs
    fun _ => rfl)) hs

theorem keeps_parkOneHard {b cause} (hs : Keeps s₀ s) : Keeps s₀ (parkOneHard s b cause) :=
  keeps_ite hs (keeps_ite (keeps_parkBerthHard (keeps_haltRequest hs)) (keeps_parkBerthHard (keeps_leaveArmed
    hs)))

theorem keeps_afterParks {bs} (hs : Keeps s₀ s) : Keeps s₀ (afterParks s bs) :=
  keeps_forAll hs (fun _ _ hs => keeps_parkOneHard hs)

theorem keeps_enterHandler {e k ending} (hs : Keeps s₀ s) : Keeps s₀ (enterHandler s e k ending) :=
  keeps_setCtx (hs.same rfl rfl rfl rfl)

theorem keeps_takeInterrupt {c v} (hs : Keeps s₀ s) : Keeps s₀ (takeInterrupt s c v) :=
  keeps_ite (keeps_enterHandler hs) (keeps_cancel hs)

theorem keeps_interruptOne {v c} (hs : Keeps s₀ s) : Keeps s₀ (interruptOne v s c) :=
  keeps_ite (keeps_ite (keeps_takeInterrupt (keeps_setCtx hs)) (keeps_setCtx hs)) (keeps_cancel hs)

theorem keeps_parkInterrupt {bs} (hs : Keeps s₀ s) : Keeps s₀ (parkInterrupt s bs) :=
  keeps_foldl (fun _ _ hs => keeps_interruptOne hs) hs

theorem keeps_deviceParked (hs : Keeps s₀ s) : Keeps s₀ (deviceParked s) := hs.same rfl rfl rfl rfl

theorem keeps_sequenceSettle {c} (hs : Keeps s₀ s) : Keeps s₀ (sequenceSettle s c) := by
  unfold sequenceSettle
  dsimp only
  split
  · refine keeps_ite ?_ hs
    split
    · exact keeps_completeV hs
    · exact keeps_completeOk hs
  · exact hs

theorem keeps_sequenceStop {bs v} (hs : Keeps s₀ s) : Keeps s₀ (sequenceStop s bs v) := by
  unfold sequenceStop
  dsimp only
  refine keeps_foldl (fun _ _ hs => ?_) hs
  split
  · exact keeps_sequenceSettle (keeps_putCmd hs)
  · exact hs

theorem keeps_setZone {z x} (hs : Keeps s₀ s) : Keeps s₀ (setZone s z x) := hs.same rfl rfl rfl rfl

theorem keeps_modZone {z f} (hs : Keeps s₀ s) : Keeps s₀ (modZone s z f) := keeps_setZone hs

theorem keeps_settle (hs : Keeps s₀ s) : Keeps s₀ (settle s) := by
  unfold settle
  dsimp only
  refine keeps_forAll (keeps_foldl (fun _ _ hs => ?_) hs) (fun _ _ hs => keeps_ite (keeps_modZone hs) hs)
  split <;> exact keeps_completeOk hs

theorem keeps_offAdvance (hs : Keeps s₀ s) : Keeps s₀ (offAdvance s) := hs.same rfl rfl rfl rfl

theorem keeps_parkJoin {b wait group} (hs : Keeps s₀ s) : Keeps s₀ (parkJoin s b wait group) := keeps_modBerth hs

theorem keeps_parkOrderly {b toFault groups} (hs : Keeps s₀ s) : Keeps s₀ (parkOrderly s b toFault groups) := by
  unfold parkOrderly
  dsimp only
  exact keeps_modBerth (keeps_forAll hs (fun _ _ hs => keeps_parkStart hs))

theorem keeps_parkBerth {b toFault groups} (hs : Keeps s₀ s) : Keeps s₀ (parkBerth s b toFault groups) :=
  keeps_parkOrderly (keeps_measureCut hs)

theorem keeps_parkOne {b cause wait group} (hs : Keeps s₀ s) : Keeps s₀ (parkOne s b cause wait group) :=
  keeps_ite (keeps_parkJoin hs) (keeps_ite hs (keeps_ite (keeps_haltRequest (keeps_modBerth hs))
    (keeps_parkBerth (keeps_leaveArmed hs))))

theorem keeps_rampCut {b v} (hs : Keeps s₀ s) : Keeps s₀ (rampCut s b v) := keeps_cancelAll hs

theorem keeps_modSp {b f} (hs : Keeps s₀ s) : Keeps s₀ (modSp s b f) := keeps_modBerth hs

theorem keeps_pwmAll {b l} (hs : Keeps s₀ s) : Keeps s₀ (pwmAll s b l) :=
  keeps_forAll hs (fun _ _ hs => keeps_modSp hs)

theorem keeps_noteGood {b} (hs : Keeps s₀ s) : Keeps s₀ (noteGood s b) := by
  unfold noteGood
  dsimp only
  exact keeps_modSp hs

theorem keeps_goodEnd {b} (hs : Keeps s₀ s) : Keeps s₀ (goodEnd s b) := keeps_modSp (keeps_noteGood hs)

theorem keeps_offNow {b} (hs : Keeps s₀ s) : Keeps s₀ (offNow s b) :=
  keeps_ite hs (keeps_modSp (keeps_pwmAll (keeps_goodEnd hs)))

theorem keeps_offHard {bs} (hs : Keeps s₀ s) : Keeps s₀ (offHard s bs) :=
  keeps_forAll hs (fun _ _ hs => keeps_offNow hs)

theorem keeps_performPark {c mode} (hs : Keeps s₀ s) : Keeps s₀ (performPark s c mode) :=
  keeps_ite (keeps_settle (keeps_offAdvance (keeps_forAll (keeps_sequenceStop (keeps_ite (keeps_deviceParked
    (keeps_putCmd (keeps_parkInterrupt hs))) (keeps_putCmd (keeps_parkInterrupt hs)))) (fun _ _ hs =>
    keeps_parkOne hs)))) (keeps_settle (keeps_offAdvance (keeps_offHard (keeps_forAll (keeps_foldl (fun _ _ hs
    => keeps_rampCut hs) (keeps_ite (keeps_deviceParked (keeps_putCmd (keeps_parkInterrupt hs))) (keeps_putCmd
    (keeps_parkInterrupt hs)))) (fun _ _ hs => keeps_parkOneHard hs)))))

theorem keeps_performUnpark {c instant} (hs : Keeps s₀ s) : Keeps s₀ (performUnpark s c instant) :=
  keeps_ite (keeps_completeV hs) (keeps_putCmd hs)

theorem keeps_completeState {c} (hs : Keeps s₀ s) : Keeps s₀ (completeState s c) := keeps_completeOk hs

theorem keeps_parkTemp {b} (hs : Keeps s₀ s) : Keeps s₀ (parkTemp s b) := keeps_ite (keeps_modCal hs) hs

theorem keeps_blankStart {b m} (hs : Keeps s₀ s) : Keeps s₀ (blankStart s b m) := keeps_ite (keeps_modSp hs) hs

theorem keeps_blankAll {b} (hs : Keeps s₀ s) : Keeps s₀ (blankAll s b) :=
  keeps_blankStart (keeps_blankStart (keeps_blankStart hs))

theorem keeps_berthOn {b} (hs : Keeps s₀ s) : Keeps s₀ (berthOn s b) :=
  keeps_ite (keeps_blankAll (keeps_modBerth (keeps_forAll hs (fun _ _ hs => keeps_parkStart (keeps_modChan
    hs))))) (keeps_modBerth (keeps_forAll hs (fun _ _ hs => keeps_parkStart (keeps_modChan hs))))

theorem keeps_crossbarOpen {b} (hs : Keeps s₀ s) : Keeps s₀ (crossbarOpen s b) := keeps_modBerth hs

theorem keeps_chanOff {c} (hs : Keeps s₀ s) : Keeps s₀ (chanOff s c) := keeps_modChan hs

theorem keeps_berthOff {b} (hs : Keeps s₀ s) : Keeps s₀ (berthOff s b) := by
  unfold berthOff
  dsimp only
  exact keeps_modBerth (keeps_crossbarOpen (keeps_forAll hs (fun _ _ hs => keeps_chanOff hs)))

theorem keeps_performBerthPower {c on} (hs : Keeps s₀ s) : Keeps s₀ (performBerthPower s c on) :=
  keeps_completeState (keeps_ite (keeps_parkTemp (keeps_berthOn hs)) (keeps_berthOff hs))

theorem keeps_calReady {b step at_} (hs : Keeps s₀ s) : Keeps s₀ (calReady s b step at_) :=
  keeps_calOwn (keeps_modCal hs)

theorem keeps_calResume {b} (hs : Keeps s₀ s) : Keeps s₀ (calResume s b) := keeps_ite (keeps_calReady hs) hs

theorem keeps_clearBerth {b} (hs : Keeps s₀ s) : Keeps s₀ (clearBerth s b) :=
  keeps_calResume (keeps_ite (keeps_modSp (keeps_pwmAll (keeps_modBerth hs))) (keeps_modBerth hs))

theorem keeps_performClearFault {c} (hs : Keeps s₀ s) : Keeps s₀ (performClearFault s c) :=
  keeps_completeState (keeps_ite (keeps_deviceParked (hs.same rfl rfl rfl rfl)) (keeps_forAll hs (fun _ _ hs =>
    keeps_clearBerth hs)))

theorem keeps_abortLate {t} (hs : Keeps s₀ s) : Keeps s₀ (abortLate s t).1 := keeps_count hs

theorem keeps_abortBake {t tag} (hs : Keeps s₀ s) : Keeps s₀ (abortBake s t tag).1 := by
  unfold abortBake
  dsimp only
  split
  · exact keeps_abortLate hs
  · exact keeps_iteFst (keeps_abortLate hs) (keeps_iteFst (keeps_abortLate hs) (keeps_iteFst (keeps_abortLate
      hs) (keeps_cancel (keeps_ite (keeps_send hs) hs))))

theorem keeps_undoTo {b home slew off tag} (hs : Keeps s₀ s) : Keeps s₀ (undoTo s b home slew off tag) :=
  keeps_ite (keeps_modSp (keeps_pwmAll hs)) (keeps_modSp hs)

theorem keeps_undoBegin {b tag} (hs : Keeps s₀ s) : Keeps s₀ (undoBegin s b tag) := keeps_undoTo hs

theorem keeps_abortRamp {t b tag} (hs : Keeps s₀ s) : Keeps s₀ (abortRamp s t b tag).1 :=
  keeps_iteFst hs (keeps_iteFst (keeps_abortLate hs) (keeps_undoBegin hs))

theorem keeps_undoNext {c tag} (hs : Keeps s₀ s) : Keeps s₀ (undoNext s c tag) := by
  unfold undoNext
  dsimp only
  split
  · split
    · exact keeps_undoTo (keeps_putCmd hs)
    · exact keeps_completeV hs
  · exact hs

theorem keeps_abortSequence {t started tag} (hs : Keeps s₀ s) : Keeps s₀ (abortSequence s t started tag).1 := by
  unfold abortSequence
  dsimp only
  split
  · exact hs
  · dsimp only
    exact keeps_undoNext (keeps_putCmd hs)

theorem keeps_abortParts {t} (hs : Keeps s₀ s) : Keeps s₀ (abortParts s t) :=
  keeps_ite (keeps_foldl (fun _ _ hs => keeps_send hs) hs) hs

theorem keeps_calSwitch {b k opened} (hs : Keeps s₀ s) : Keeps s₀ (calSwitch s b k opened) :=
  keeps_ite (keeps_modChan hs) hs

theorem keeps_calSwitchBack {b} (hs : Keeps s₀ s) : Keeps s₀ (calSwitchBack s b) := keeps_ite (keeps_calSwitch hs) hs

theorem keeps_completeAll {p v} (hs : Keeps s₀ s) : Keeps s₀ (completeAll s p v) :=
  keeps_foldl (fun _ _ hs => keeps_completeV hs) hs

theorem keeps_calEndUndone {b} (hs : Keeps s₀ s) : Keeps s₀ (calEndUndone s b) := keeps_completeAll (keeps_modCal hs)

theorem keeps_calUndo {b v} (hs : Keeps s₀ s) : Keeps s₀ (calUndo s b v) :=
  keeps_ite hs (keeps_ite (keeps_calReady (keeps_modCal (keeps_calSwitchBack hs))) (keeps_ite
    (keeps_calEndUndone (keeps_ite (keeps_modBerth (keeps_modCal (keeps_calSwitchBack hs))) (keeps_modCal
    (keeps_calSwitchBack hs)))) (keeps_modCal (keeps_modCal (keeps_calSwitchBack hs)))))

theorem keeps_calAbort {c b tag} (hs : Keeps s₀ s) : Keeps s₀ (calAbort s c b tag).1 :=
  keeps_iteFst (keeps_completeV hs) (keeps_iteFst hs (keeps_iteFst (keeps_calUndo hs) (keeps_calUndo hs)))

theorem keeps_reliefAbort {b tag} (hs : Keeps s₀ s) : Keeps s₀ (reliefAbort s b tag).1 :=
  keeps_iteFst hs (keeps_calUndo hs)

theorem keeps_abortWork {t tag} (hs : Keeps s₀ s) : Keeps s₀ (abortWork s t tag).1 := by
  unfold abortWork
  dsimp only
  split
  · exact keeps_abortRamp hs
  · exact keeps_abortSequence (keeps_abortParts hs)
  · exact keeps_iteFst (keeps_abortLate (keeps_calAbort hs)) (keeps_calAbort hs)
  · exact keeps_iteFst (keeps_abortLate (keeps_reliefAbort hs)) (keeps_reliefAbort hs)
  · exact keeps_iteFst (keeps_abortLate (keeps_reliefAbort hs)) (keeps_reliefAbort hs)
  · dsimp only
    exact keeps_completeV hs
  · exact keeps_cancel (keeps_abortParts hs)

theorem keeps_takeAbort {t tag} (hs : Keeps s₀ s) : Keeps s₀ (takeAbort s t tag) :=
  keeps_ite (keeps_enterHandler hs) (keeps_abortWork hs)

theorem keeps_abortRoutine {t tag} (hs : Keeps s₀ s) : Keeps s₀ (abortRoutine s t tag) :=
  keeps_ite hs (keeps_ite (keeps_takeAbort (keeps_setCtx hs)) (keeps_setCtx hs))

theorem keeps_abortTarget {t tag} (hs : Keeps s₀ s) : Keeps s₀ (abortTarget s t tag).1 := by
  unfold abortTarget
  split
  · exact keeps_iteFst (keeps_abortLate hs) (keeps_abortBake hs)
  · split
    · exact keeps_cancel hs
    · exact keeps_abortLate hs
    · exact keeps_iteFst (keeps_abortRoutine hs) (keeps_abortWork hs)

theorem keeps_performAbort {c tag} (hs : Keeps s₀ s) : Keeps s₀ (performAbort s c tag) := by
  unfold performAbort
  dsimp only
  split
  · exact keeps_completeOk hs
  · exact keeps_completeOk (keeps_abortTarget hs)

theorem keeps_deferredEnd {p} (hs : Keeps s₀ s) : Keeps s₀ (deferredEnd s p) := keeps_cancelAll hs

theorem keeps_interrupt {p v} (hs : Keeps s₀ s) : Keeps s₀ (interrupt s p v) :=
  keeps_foldl (fun _ _ hs => keeps_interruptOne hs) hs

theorem keeps_resetInterrupt {sc i ord} (hs : Keeps s₀ s) : Keeps s₀ (resetInterrupt s sc i ord) :=
  keeps_deferredEnd (keeps_interrupt hs)

theorem keeps_resetBerth {b} (hs : Keeps s₀ s) : Keeps s₀ (resetBerth s b) := by
  unfold resetBerth
  extract_lets s1 s2 s3
  have h2 : Keeps s₀ s2 := keeps_forAll (keeps_crossbarOpen (keeps_modBerth hs)) fun _ _ hs => keeps_modChan hs
  clear_value s2
  have h3 : Keeps s₀ s3 := h2.same rfl rfl rfl rfl
  exact keeps_ite h3 (keeps_berthOn h3)

theorem keeps_resetEnd {c} (hs : Keeps s₀ s) : Keeps s₀ (resetEnd s c) := keeps_finish (keeps_unwind hs)

theorem keeps_rampHold {b} (hs : Keeps s₀ s) : Keeps s₀ (rampHold s b) := keeps_ite (keeps_modSp hs) hs

theorem keeps_resetEngine {c e} (hs : Keeps s₀ s) : Keeps s₀ (resetEngine c s e) :=
  keeps_setEng (keeps_forAll hs (fun _ _ hs => keeps_rampHold hs))

theorem keeps_chainUnalign (hs : Keeps s₀ s) : Keeps s₀ (chainUnalign s) :=
  ((keeps_ite (keeps_send hs) (keeps_ite (keeps_send hs) hs))).same rfl rfl rfl rfl

theorem keeps_ovenLost (hs : Keeps s₀ s) : Keeps s₀ (ovenLost s) :=
  keeps_forAll ((keeps_ite (keeps_send hs) hs).same rfl rfl rfl rfl) (fun _ _ hs => keeps_ite (keeps_modTmu hs)
    hs)

theorem keeps_resetDevice {c} (hs : Keeps s₀ s) : Keeps s₀ (resetDevice s c) := by
  unfold resetDevice
  extract_lets sel s1 off chain clk mc boot s2 s3
  have h1 : Keeps s₀ s1 := keeps_chainUnalign hs
  clear_value s1
  have h2 : Keeps s₀ s2 := (keeps_quayMap (f := fun x => { haltCause := x.haltCause }) h1 rfl
    fun _ _ => rfl).same rfl rfl rfl rfl
  have h3 : Keeps s₀ s3 := keeps_ite (keeps_ovenLost h2) h2
  exact keeps_forAll h3 fun _ _ hs => keeps_count hs

theorem keeps_performReset {c type engines} (hs : Keeps s₀ s) : Keeps s₀ (performReset s c type engines) := by
  unfold performReset
  dsimp only
  split
  · exact keeps_forAll (keeps_resetInterrupt (keeps_putCmd (hs.same rfl rfl rfl rfl))) (fun _ _ hs =>
      keeps_resetBerth hs)
  · exact keeps_resetInterrupt (keeps_putCmd (hs.same rfl rfl rfl rfl))
  · exact keeps_forAll (keeps_foldl (fun _ _ hs => keeps_resetEnd hs) (keeps_putCmd (hs.same rfl rfl rfl rfl)))
      (fun _ _ hs => keeps_resetEngine hs)
  · exact keeps_resetDevice (keeps_foldl (fun _ _ hs => keeps_resetEnd hs) (keeps_putCmd (hs.same rfl rfl rfl
      rfl)))

theorem keeps_setTray {n x} (hs : Keeps s₀ s) : Keeps s₀ (setTray s n x) := hs.same rfl rfl rfl rfl

theorem keeps_performStage {c tray ps} (hs : Keeps s₀ s) : Keeps s₀ (performStage s c tray ps) :=
  keeps_completeOk (keeps_setTray hs)

theorem keeps_performProof {c tray} (hs : Keeps s₀ s) : Keeps s₀ (performProof s c tray) := by
  unfold performProof
  dsimp only
  split
  · exact keeps_completeV hs
  · exact keeps_completeOk (keeps_setTray hs)

theorem keeps_performBake {c} (hs : Keeps s₀ s) : Keeps s₀ (performBake s c) := by
  unfold performBake
  dsimp only
  split
  · exact hs
  · exact keeps_putCmd (keeps_ite (keeps_send (hs.same rfl rfl rfl rfl)) (hs.same rfl rfl rfl rfl))

theorem keeps_edgesSeen {id} (hs : Keeps s₀ s) : Keeps s₀ (edgesSeen s id) := keeps_ite (keeps_tmuFlush hs) hs

theorem keeps_performRead {c sel ids} (hs : Keeps s₀ s) : Keeps s₀ (performRead s c sel ids) := keeps_complete hs

theorem keeps_performTrayClear {c tray} (hs : Keeps s₀ s) : Keeps s₀ (performTrayClear s c tray) :=
  keeps_completeOk (keeps_setTray hs)

theorem keeps_performTrayStatus {c tray} (hs : Keeps s₀ s) : Keeps s₀ (performTrayStatus s c tray) :=
  keeps_completeOk hs

theorem keeps_advance {q n} (hs : Keeps s₀ s) : Keeps s₀ (advance s q n) := keeps_setQuay hs rfl

theorem keeps_countN {sc i f m n} (hs : Keeps s₀ s) : Keeps s₀ (countN s sc i f m n) := by
  induction n generalizing s with
  | zero => exact hs
  | succ n ih => exact ih (keeps_count hs)

theorem keeps_crowdGen {q n c g} (hs : Keeps s₀ s) : Keeps s₀ (crowdGen q n c s g) :=
  keeps_ite (keeps_modChan hs) (keeps_modChan (keeps_countN hs))

theorem keeps_crowdPlay {q n} (hs : Keeps s₀ s) : Keeps s₀ (crowdPlay s q n) :=
  keeps_forAll hs (fun _ _ hs => keeps_ite hs (keeps_foldl (fun _ _ hs => keeps_crowdGen hs) hs))

theorem keeps_holdTake {q} (hs : Keeps s₀ s) : Keeps s₀ (holdTake s q) :=
  keeps_forAll hs (fun _ _ hs => keeps_modChan hs)

theorem keeps_advanceQ {q n} (hs : Keeps s₀ s) : Keeps s₀ (advanceQ s q n) :=
  keeps_ite hs (keeps_modQuay (keeps_advance (keeps_crowdPlay (keeps_holdTake hs))) fun _ => rfl)

theorem keeps_reservedPlay {q v n} (hs : Keeps s₀ s) : Keeps s₀ (reservedPlay s q v n) :=
  keeps_ite hs (keeps_countN hs)

theorem keeps_playPins {q v n} (hs : Keeps s₀ s) : Keeps s₀ (playPins s q v n) := by
  unfold playPins
  dsimp only
  refine keeps_forAll hs (fun _ _ hs => ?_)
  split
  · exact hs
  · split
    · exact keeps_modChan hs
    · exact hs

theorem keeps_playData {q v n} (hs : Keeps s₀ s) : Keeps s₀ (playData s q v n) :=
  keeps_advanceQ (keeps_ite (keeps_modQuay (keeps_reservedPlay (keeps_playPins (keeps_ite hs (keeps_holdTake
    hs)))) fun _ => rfl) (keeps_reservedPlay (keeps_playPins (keeps_ite hs (keeps_holdTake hs)))))

theorem keeps_reach {i} (hs : Keeps s₀ s) : Keeps s₀ (reach s i) := hs.same rfl rfl rfl rfl

theorem keeps_clearDelta {c} (hs : Keeps s₀ s) : Keeps s₀ (clearDelta s c) := keeps_modChan (keeps_holdMod hs)

theorem keeps_clampEnd {c} (hs : Keeps s₀ s) : Keeps s₀ (clampEnd s c) := keeps_modChan hs

theorem keeps_rangeLoad {c r} (hs : Keeps s₀ s) : Keeps s₀ (rangeLoad s c r) := keeps_modChan hs

theorem keeps_phaseAdd {q v} (hs : Keeps s₀ s) : Keeps s₀ (phaseAdd s q v) :=
  keeps_ite (keeps_ite (keeps_count (keeps_modQuay hs fun _ => rfl)) (keeps_ite (keeps_count (keeps_modQuay hs
    fun _ => rfl)) (keeps_modQuay hs fun _ => rfl))) hs

theorem keeps_monitorLoad {b old new} (hs : Keeps s₀ s) : Keeps s₀ (monitorLoad s b old new) :=
  keeps_ite (keeps_blankStart (keeps_ite (keeps_blankStart (keeps_ite (keeps_blankStart hs) hs)) (keeps_ite
    (keeps_blankStart hs) hs))) (keeps_ite (keeps_blankStart (keeps_ite (keeps_blankStart hs) hs)) (keeps_ite
    (keeps_blankStart hs) hs))

theorem keeps_setLane {l x} (hs : Keeps s₀ s) : Keeps s₀ (setLane s l x) := hs.same rfl rfl rfl rfl

theorem keeps_modLane {l f} (hs : Keeps s₀ s) : Keeps s₀ (modLane s l f) := keeps_setLane hs

theorem keeps_portSettle {p} (hs : Keeps s₀ s) : Keeps s₀ (portSettle s p) := by
  unfold portSettle
  dsimp only
  exact keeps_modPort hs

theorem keeps_laneLeave {l st cause} (hs : Keeps s₀ s) : Keeps s₀ (laneLeave s l st cause) :=
  keeps_portSettle (keeps_modLane hs)

theorem keeps_ctlDrop {p l} (hs : Keeps s₀ s) : Keeps s₀ (ctlDrop s p l) := keeps_modPort hs

theorem keeps_laneMaskLoad {p old new} (hs : Keeps s₀ s) : Keeps s₀ (laneMaskLoad s p old new) :=
  keeps_forAll hs (fun _ _ hs => keeps_ite (keeps_laneLeave (keeps_ctlDrop hs)) hs)

theorem keeps_zoneFresh {z} (hs : Keeps s₀ s) : Keeps s₀ (zoneFresh s z) := keeps_modZone hs

theorem keeps_onLoad {id old new} (hs : Keeps s₀ s) : Keeps s₀ (onLoad s id old new) := by
  unfold onLoad
  dsimp only
  split
  · exact keeps_ite hs (keeps_ite (keeps_forAll hs (fun _ _ hs => keeps_setMode (keeps_clearDelta hs))) hs)
  · exact keeps_ite (keeps_forAll (keeps_ite (keeps_forAll hs (fun _ _ hs => keeps_clampEnd hs)) hs) (fun _ _
      hs => keeps_modChan hs)) (keeps_ite (keeps_forAll hs (fun _ _ hs => keeps_clampEnd hs)) hs)
  · exact keeps_ite (keeps_ite (keeps_forAll hs (fun _ _ hs => keeps_clampEnd hs)) hs) (keeps_forAll (keeps_ite
      (keeps_forAll hs (fun _ _ hs => keeps_clampEnd hs)) hs) (fun _ _ hs => keeps_rangeLoad hs))
  · exact keeps_ite (keeps_phaseAdd hs) hs
  · exact keeps_ite (keeps_noteGood (keeps_monitorLoad hs)) hs
  · exact keeps_ite (keeps_ovenLost hs) hs
  · exact keeps_laneMaskLoad hs
  · exact keeps_ite (keeps_zoneFresh hs) hs
  · exact hs

theorem keeps_loadFreed (hs : Keeps s₀ s) : Keeps s₀ (loadFreed s) :=
  keeps_foldl (fun _ _ hs => keeps_onLoad hs) (hs.same rfl rfl rfl rfl)

theorem keeps_freeG {q} (hs : Keeps s₀ s) : Keeps s₀ (freeG s q) := keeps_loadFreed (hs.same rfl rfl rfl rfl)

theorem keeps_jumpsDrop {q} (hs : Keeps s₀ s) : Keeps s₀ (jumpsDrop s q) := keeps_cancelAll hs

theorem keeps_haltDone {q} (hs : Keeps s₀ s) : Keeps s₀ (haltDone s q) := by
  unfold haltDone
  dsimp only
  refine keeps_foldl (fun _ _ hs => ?_) hs
  split
  · exact keeps_ite (keeps_completeOk hs) (keeps_putCmd hs)
  · exact hs

theorem keeps_parkBegin {b} (hs : Keeps s₀ s) : Keeps s₀ (parkBegin s b) := by
  unfold parkBegin
  split
  · exact keeps_ite (keeps_parkBerth hs) hs
  · exact hs

theorem keeps_burstEnd {q cause} (hs : Keeps s₀ s) : Keeps s₀ (burstEnd s q cause) :=
  keeps_settle (keeps_forAll (keeps_haltDone (keeps_jumpsDrop (keeps_freeG (keeps_forAll (keeps_count
    (keeps_modQuay (keeps_reach hs) fun _ => rfl)) (fun _ _ hs => keeps_ite (keeps_modBerth hs) hs))))) (fun _
    _ hs => keeps_ite (keeps_parkBegin hs) hs))

theorem keeps_haltAt {q cause} (hs : Keeps s₀ s) : Keeps s₀ (haltAt s q cause) := keeps_burstEnd hs

theorem keeps_starveAt {q cause index} (hs : Keeps s₀ s) : Keeps s₀ (starveAt s q cause index) :=
  keeps_ite (keeps_haltAt (keeps_count (keeps_modQuay hs fun _ => rfl))) (keeps_count (keeps_modQuay hs fun _
    => rfl))

theorem keeps_playOn {q v n} (hs : Keeps s₀ s) : Keeps s₀ (playOn s q v n) :=
  keeps_ite (keeps_starveAt (keeps_reach (keeps_playData hs))) (keeps_playData hs)

theorem keeps_playVectors {q n} (hs : Keeps s₀ s) : Keeps s₀ (playVectors s q n) :=
  keeps_ite (keeps_advanceQ hs) (keeps_playOn hs)

theorem keeps_catchUp {q} (hs : Keeps s₀ s) : Keeps s₀ (catchUp s q) := keeps_ite (keeps_playVectors hs) hs

theorem keeps_vec0 {n} (hs : Keeps s₀ s) : Keeps s₀ (vec0 s n) := keeps_ite (keeps_msixRaise hs) hs

theorem keeps_ackAfter {id} (hs : Keeps s₀ s) : Keeps s₀ (ackAfter s id) := by
  unfold ackAfter
  dsimp only
  split
  · exact keeps_ite (keeps_ite (keeps_modChan (keeps_catchUp hs)) hs) (keeps_vec0 (keeps_ite (keeps_modChan
      (keeps_catchUp hs)) hs))
  · exact keeps_ite (keeps_modChan (keeps_catchUp hs)) hs

theorem keeps_ackOne {id w} (hs : Keeps s₀ s) : Keeps s₀ (ackOne s id w).1 :=
  keeps_iteFst (keeps_ackAfter (keeps_setAck (keeps_edgesSeen hs))) (keeps_count (keeps_edgesSeen hs))

theorem keeps_performAckWrite {c ps} (hs : Keeps s₀ s) : Keeps s₀ (performAckWrite s c ps) :=
  keeps_completeOk (keeps_foldlFst (fun _ _ hs => keeps_ackOne hs) hs)

theorem keeps_performSegLoad {c bank} (hs : Keeps s₀ s) : Keeps s₀ (performSegLoad s c bank) := by
  unfold performSegLoad
  dsimp only
  split
  · exact keeps_completeV hs
  · exact keeps_putCmd (keeps_forAll hs (fun _ _ hs => keeps_modQuay hs fun _ => rfl))

theorem keeps_modFc {b f} (hs : Keeps s₀ s) : Keeps s₀ (modFc s b f) := keeps_modBerth hs

theorem keeps_clearResults {b} (hs : Keeps s₀ s) : Keeps s₀ (clearResults s b) := by
  unfold clearResults
  dsimp only
  exact keeps_modFc (keeps_forAll hs (fun _ _ hs => keeps_modChan hs))

theorem keeps_armQuay {q entry mask tset} (hs : Keeps s₀ s) : Keeps s₀ (armQuay s q entry mask tset) :=
  keeps_forAll (keeps_modQuay hs fun _ => rfl) (fun _ _ hs => keeps_ite (keeps_clearResults (keeps_modBerth
    hs)) (keeps_modBerth hs))

theorem keeps_armAll {c qs entry mask tset} (hs : Keeps s₀ s) : Keeps s₀ (armAll s c qs entry mask tset) :=
  keeps_ite (keeps_completeV (keeps_forAll hs (fun _ _ hs => keeps_modQuay hs fun _ => rfl)))
    (keeps_completeState (keeps_forAll (keeps_forAll hs (fun _ _ hs => keeps_modQuay hs fun _ => rfl)) (fun _ _
    hs => keeps_armQuay hs)))

theorem keeps_performArm {c entry mask tset} (hs : Keeps s₀ s) : Keeps s₀ (performArm s c entry mask tset) :=
  keeps_ite (keeps_armAll hs) (keeps_putCmd (keeps_forAll hs (fun _ _ hs => keeps_modQuay hs fun _ => rfl)))

theorem keeps_tokenStart {i} (hs : Keeps s₀ s) : Keeps s₀ (tokenStart s i) := by
  unfold tokenStart
  dsimp only
  refine keeps_foldl (fun _ _ hs => ?_) (keeps_forAll hs (fun _ _ hs => keeps_modQuay hs fun _ => rfl))
  split
  · exact keeps_ite (keeps_putCmd hs) hs
  · exact hs

theorem keeps_tokenEmit {e} (hs : Keeps s₀ s) : Keeps s₀ (tokenEmit s e) :=
  keeps_ite (keeps_send (keeps_tokenStart hs)) (keeps_tokenStart hs)

theorem keeps_performStart {c mode source instant} (hs : Keeps s₀ s) : Keeps s₀ (performStart s c mode source
    instant) :=
  keeps_ite (keeps_putCmd (keeps_forAll hs (fun _ _ hs => keeps_modQuay hs fun _ => rfl))) (keeps_ite
    (keeps_tokenEmit (keeps_putCmd (keeps_forAll hs (fun _ _ hs => keeps_modQuay hs fun _ => rfl))))
    (keeps_putCmd (keeps_forAll hs (fun _ _ hs => keeps_modQuay hs fun _ => rfl))))

theorem keeps_performHalt {c} (hs : Keeps s₀ s) : Keeps s₀ (performHalt s c) :=
  keeps_ite (keeps_completeOk hs) (keeps_forAll (keeps_putCmd hs) (fun _ _ hs => keeps_haltRequest hs))

theorem keeps_performJump {c target} (hs : Keeps s₀ s) : Keeps s₀ (performJump s c target) :=
  keeps_putCmd (keeps_modQuay hs fun _ => rfl)

theorem keeps_performDisarm {c} (hs : Keeps s₀ s) : Keeps s₀ (performDisarm s c) := by
  unfold performDisarm
  dsimp only
  split
  · exact keeps_completeV hs
  · exact keeps_completeState (keeps_forAll hs (fun _ _ hs => keeps_disarm hs))

theorem keeps_performClearHalt {c} (hs : Keeps s₀ s) : Keeps s₀ (performClearHalt s c) :=
  keeps_completeState (keeps_forAll hs (fun _ _ hs => keeps_modQuay hs fun _ => rfl))

theorem keeps_performSeqStatus {c} (hs : Keeps s₀ s) : Keeps s₀ (performSeqStatus s c) := keeps_completeOk hs

theorem keeps_performPpmu {c slow samples} (hs : Keeps s₀ s) : Keeps s₀ (performPpmu s c slow samples) := by
  unfold performPpmu
  dsimp only
  split
  · exact keeps_complete hs
  · exact keeps_putCmd (keeps_forAll hs (fun _ _ hs => keeps_modChan hs))

theorem keeps_performAcqArm {c setup pre post} (hs : Keeps s₀ s) : Keeps s₀ (performAcqArm s c setup pre post) :=
  keeps_ite (keeps_completeOk (keeps_acqEnd hs)) (keeps_completeOk (keeps_modAcq hs))

theorem keeps_causeEvent {n} (hs : Keeps s₀ s) : Keeps s₀ (causeEvent s n) := keeps_vec0 (keeps_setAck hs)

theorem keeps_devFaultEnter {src inst} (hs : Keeps s₀ s) : Keeps s₀ (devFaultEnter s src inst) :=
  keeps_ite hs (keeps_causeEvent (hs.same rfl rfl rfl rfl))

theorem keeps_eccNote {k} (hs : Keeps s₀ s) : Keeps s₀ (eccNote s k) :=
  keeps_ite (keeps_devFaultEnter ((keeps_count hs).same rfl rfl rfl rfl)) ((keeps_count hs).same rfl rfl rfl
    rfl)

theorem keeps_holdRead {a n} (hs : Keeps s₀ s) : Keeps s₀ (holdRead s a n).1 := by
  unfold holdRead
  refine keeps_iteFst hs (keeps_iteFst hs (keeps_iteFst hs ?_))
  split
  · exact keeps_eccNote hs
  · exact keeps_countN hs

theorem keeps_performAcqRead {c n} (hs : Keeps s₀ s) : Keeps s₀ (performAcqRead s c n) := by
  unfold performAcqRead
  dsimp only
  split
  · exact keeps_complete hs
  · split
    · next x _ =>
      have hread := keeps_holdRead (a := acqRegion c.hdr.inst.toNat + x.2.1) (n := x.2.2) hs
      split <;> rename_i hres <;> rw [hres] at hread
      · exact keeps_completeV hread
      · exact keeps_complete hread
    · exact keeps_completeV hs

theorem keeps_performTmuArm {c mode source gate fall mark line} (hs : Keeps s₀ s) : Keeps s₀ (performTmuArm s c
    mode source gate fall mark line) :=
  keeps_ite (keeps_completeOk (keeps_tmuEnd (keeps_tmuFlush hs))) (keeps_completeOk (keeps_modTmu (keeps_tmuEnd
    (keeps_tmuFlush hs))))

theorem keeps_performTmuRead {c} (hs : Keeps s₀ s) : Keeps s₀ (performTmuRead s c) :=
  keeps_complete (keeps_tmuFlush hs)

theorem keeps_holdReadAll {rs} (hs : Keeps s₀ s) : Keeps s₀ (holdReadAll s rs).1 := by
  unfold holdReadAll
  refine keeps_foldlFst (fun _ _ hs => ?_) hs
  split
  · exact hs
  · exact keeps_holdRead hs

theorem keeps_uploadRead {mask bs} (hs : Keeps s₀ s) : Keeps s₀ (uploadRead s mask bs).1 :=
  keeps_iteFst hs (keeps_holdReadAll hs)

theorem keeps_takePart {mask sc i} (hs : Keeps s₀ s) : Keeps s₀ (takePart s mask sc i).1 := by
  have hread := keeps_uploadRead (mask := mask) (bs := berthsIn sc i) hs
  unfold takePart
  dsimp only
  split <;> rename_i hres <;> rw [hres] at hread
  · exact hread
  · exact keeps_ite (keeps_forAll hread fun _ _ hs => keeps_clearResults hs) hread

theorem keeps_uploadSettle {c} (hs : Keeps s₀ s) : Keeps s₀ (uploadSettle s c) := by
  unfold uploadSettle
  split
  · exact keeps_ite (keeps_complete hs) hs
  · exact hs

theorem keeps_uploadTake {c mask} (hs : Keeps s₀ s) : Keeps s₀ (uploadTake s c mask) := by
  have hpart := keeps_takePart (mask := mask) (sc := c.hdr.scope.toNat) (i := c.hdr.inst.toNat) hs
  unfold uploadTake
  split
  · split <;> rename_i hres <;> rw [hres] at hpart
    · exact keeps_completeV hpart
    · exact keeps_uploadSettle (keeps_putCmd hpart)
  · exact hs

theorem keeps_performUpload {c mask} (hs : Keeps s₀ s) : Keeps s₀ (performUpload s c mask) :=
  keeps_ite (keeps_putCmd hs) (keeps_uploadTake (keeps_putCmd hs))

theorem keeps_performFailLogRead {c first count} (hs : Keeps s₀ s) :
    Keeps s₀ (performFailLogRead s c first count) := by
  unfold performFailLogRead
  dsimp only
  split <;> rename_i hres <;> have hread := congrArg Prod.fst hres <;> subst hread
  · exact keeps_completeV (keeps_holdReadAll hs)
  · exact keeps_complete (keeps_holdReadAll hs)

theorem keeps_startFromOff {b target slew} (hs : Keeps s₀ s) : Keeps s₀ (startFromOff s b target slew) :=
  keeps_blankAll (keeps_modSp (keeps_pwmAll hs))

theorem keeps_rampStart {b target slew fromOff} (hs : Keeps s₀ s) : Keeps s₀ (rampStart s b target slew fromOff) :=
  keeps_modSp (keeps_ite hs (keeps_goodEnd hs))

theorem keeps_rampCommand {b target slew} (hs : Keeps s₀ s) : Keeps s₀ (rampCommand s b target slew) :=
  keeps_ite (keeps_startFromOff (keeps_modSp hs)) (keeps_rampStart (keeps_modSp hs))

theorem keeps_performSpRamp {c target slew} (hs : Keeps s₀ s) : Keeps s₀ (performSpRamp s c target slew) :=
  keeps_rampCommand (keeps_putCmd hs)

theorem keeps_performSpSequence {c es} (hs : Keeps s₀ s) : Keeps s₀ (performSpSequence s c es) := keeps_putCmd hs

theorem keeps_offRamp {b} (hs : Keeps s₀ s) : Keeps s₀ (offRamp s b) := by
  unfold offRamp
  dsimp only
  split
  · exact hs
  · exact hs
  · exact keeps_ite (keeps_modSp hs) (keeps_offNow hs)
  · exact keeps_ite (keeps_modSp hs) (keeps_offNow hs)
  · exact keeps_ite (keeps_modSp hs) (keeps_ite hs (keeps_rampStart hs))

theorem keeps_offOrderly {bs} (hs : Keeps s₀ s) : Keeps s₀ (offOrderly s bs) := by
  unfold offOrderly
  dsimp only
  split
  · exact hs
  · exact ((keeps_forAll hs (fun _ _ hs => keeps_offRamp hs))).same rfl rfl rfl rfl

theorem keeps_performSpOff {c mode} (hs : Keeps s₀ s) : Keeps s₀ (performSpOff s c mode) :=
  keeps_settle (keeps_offAdvance (keeps_ite (keeps_offOrderly (keeps_putCmd hs)) (keeps_offHard (keeps_putCmd
    hs))))

theorem keeps_performSpStatus {c} (hs : Keeps s₀ s) : Keeps s₀ (performSpStatus s c) := keeps_completeOk hs

theorem keeps_setRoles {topology x up} (hs : Keeps s₀ s) : Keeps s₀ (setRoles s topology x up) :=
  keeps_forAll hs (fun _ _ hs => keeps_modPort hs)

theorem keeps_enumFinish {c rs} (hs : Keeps s₀ s) : Keeps s₀ (enumFinish s c rs) := by
  unfold enumFinish
  extract_lets topology rs' good out devices chain s1 s2 s3 chain' s4 s5
  have h1 : Keeps s₀ s1 := hs.same rfl rfl rfl rfl
  have h2 : Keeps s₀ s2 := keeps_foldl (fun _ _ hs => keeps_send hs) h1
  have h3 : Keeps s₀ s3 := keeps_foldl (fun _ _ hs => keeps_send hs) h2
  have h4 : Keeps s₀ s4 := keeps_send (h3.same rfl rfl rfl rfl)
  exact keeps_completeOk (keeps_countN h4)

theorem keeps_enumSettle (hs : Keeps s₀ s) : Keeps s₀ (enumSettle s) := by
  unfold enumSettle
  split
  · exact keeps_ite (keeps_enumFinish hs) hs
  · exact hs

theorem keeps_performChainEnum {c} (hs : Keeps s₀ s) : Keeps s₀ (performChainEnum s c) :=
  keeps_ite (keeps_completeOk (keeps_ite hs (hs.same rfl rfl rfl rfl))) (keeps_enumSettle (keeps_putCmd
    (keeps_send (keeps_setRoles (hs.same rfl rfl rfl rfl)))))

theorem keeps_performChainStatus {c} (hs : Keeps s₀ s) : Keeps s₀ (performChainStatus s c) :=
  keeps_ite (keeps_completeOk hs) (keeps_completeOk hs)

theorem keeps_performLaneTest {c lane} (hs : Keeps s₀ s) : Keeps s₀ (performLaneTest s c lane) :=
  keeps_laneLeave (keeps_putCmd hs)

theorem keeps_performLaneBitslip {c lane count} (hs : Keeps s₀ s) : Keeps s₀ (performLaneBitslip s c lane count) :=
  keeps_ite (keeps_completeOk (keeps_modLane hs)) (keeps_putCmd (keeps_modLane hs))

theorem keeps_holdWrite {a bytes} (hs : Keeps s₀ s) : Keeps s₀ (holdWrite s a bytes) :=
  hs.write rfl fun ⟨hm, hh, hq⟩ => ⟨memWriteBytes_wf _ _ _ hm, hh, hq⟩

theorem keeps_bcastFrames {addr n bytes} (hs : Keeps s₀ s) : Keeps s₀ (bcastFrames s addr n bytes) := by
  induction n generalizing s addr bytes with
  | zero => exact hs
  | succ n ih => exact keeps_ite (keeps_send hs) (ih (keeps_send hs))

theorem keeps_bcastSettle {c} (hs : Keeps s₀ s) : Keeps s₀ (bcastSettle s c) := by
  unfold bcastSettle
  dsimp only
  split
  · refine keeps_ite ?_ hs
    split
    · exact keeps_completeV hs
    · exact keeps_completeOk hs
  · exact hs

theorem keeps_bcastGo {c bytes} (hs : Keeps s₀ s) : Keeps s₀ (bcastGo s c bytes) := by
  unfold bcastGo
  dsimp only
  split
  · exact keeps_bcastSettle (keeps_putCmd (keeps_bcastFrames (keeps_ite ((keeps_ite hs (keeps_holdWrite
      hs)).same rfl rfl rfl rfl) (keeps_count ((keeps_ite hs (keeps_holdWrite hs)).same rfl rfl rfl rfl)))))
  · exact hs

theorem keeps_performBcastLoad {c source len} (hs : Keeps s₀ s) : Keeps s₀ (performBcastLoad s c source len) := by
  unfold performBcastLoad
  dsimp only
  refine keeps_ite ?_ (keeps_putCmd hs)
  split <;> rename_i hres <;> have hread := congrArg Prod.fst hres <;> subst hread
  · exact keeps_completeV (keeps_holdRead (keeps_putCmd hs))
  · exact keeps_bcastGo (keeps_holdRead (keeps_putCmd hs))

theorem keeps_alignCorrect {c ts} (hs : Keeps s₀ s) : Keeps s₀ (alignCorrect s c ts) := by
  unfold alignCorrect
  extract_lets instant s1 s2
  have h1 : Keeps s₀ s1 := hs.same rfl rfl rfl rfl
  have h2 : Keeps s₀ s2 := keeps_foldl (fun _ _ hs => keeps_send hs) h1
  exact keeps_putCmd (h2.same rfl rfl rfl rfl)

theorem keeps_alignEnd {c ts} (hs : Keeps s₀ s) : Keeps s₀ (alignEnd s c ts) :=
  keeps_ite (keeps_completeV (keeps_send (hs.same rfl rfl rfl rfl))) (keeps_completeOk (keeps_send (keeps_foldl
    (fun _ _ hs => keeps_send hs) (hs.same rfl rfl rfl rfl))))

theorem keeps_alignSettle (hs : Keeps s₀ s) : Keeps s₀ (alignSettle s) := by
  unfold alignSettle
  split
  · exact hs
  · refine keeps_ite hs (keeps_ite (keeps_completeOk hs) (keeps_ite hs ?_))
    split
    · exact keeps_complete hs
    · exact keeps_ite (keeps_alignCorrect hs) (keeps_ite hs (keeps_alignEnd hs))

theorem keeps_setMeas {p x} (hs : Keeps s₀ s) : Keeps s₀ (setMeas s p x) := hs.same rfl rfl rfl rfl

theorem keeps_measStart (hs : Keeps s₀ s) : Keeps s₀ (measStart s) :=
  keeps_forAll hs (fun _ _ hs => keeps_send (keeps_setMeas hs))

theorem keeps_performTideAlign {c} (hs : Keeps s₀ s) : Keeps s₀ (performTideAlign s c) :=
  keeps_alignSettle (keeps_measStart (keeps_putCmd (keeps_iteFst hs (keeps_forwardAll hs))))

theorem keeps_calJoin {b items ks} (hs : Keeps s₀ s) : Keeps s₀ (calJoin s b items ks) := keeps_modCal hs

theorem keeps_spareMeasure {b} (hs : Keeps s₀ s) : Keeps s₀ (spareMeasure s b) := keeps_modBerth hs

theorem keeps_calSkip {b n reason} (hs : Keeps s₀ s) : Keeps s₀ (calSkip s b n reason) :=
  keeps_count (keeps_modCal hs)

theorem keeps_calEnd {b} (hs : Keeps s₀ s) : Keeps s₀ (calEnd s b) := keeps_completeAll (keeps_modCal hs)

theorem keeps_calClose {b} (hs : Keeps s₀ s) : Keeps s₀ (calClose s b) :=
  keeps_ite (keeps_modCal hs) (keeps_ite (keeps_calEnd (keeps_modCal (keeps_forAll hs (fun _ _ hs =>
    keeps_calSkip hs)))) (keeps_calReady (keeps_modCal (keeps_modCal (keeps_forAll hs (fun _ _ hs =>
    keeps_calSkip hs))))))

theorem keeps_calTail {b} (hs : Keeps s₀ s) : Keeps s₀ (calTail s b) := by
  unfold calTail
  split
  · exact keeps_ite (keeps_calClose (keeps_calSkip (keeps_modCal hs))) (keeps_ite (keeps_modBerth (keeps_modCal
      hs)) (keeps_calClose (keeps_calSkip (keeps_modCal hs))))
  · exact keeps_calClose hs

theorem keeps_calPositions {b ks from_ released} (hs : Keeps s₀ s) :
    Keeps s₀ (calPositions s b ks from_ released) := by
  induction ks generalizing s with
  | nil => exact keeps_ite (keeps_modCal hs) (keeps_calTail (keeps_modCal hs))
  | cons k rest ih =>
    exact keeps_ite (ih (keeps_calSkip hs)) (keeps_ite (ih (keeps_calSkip hs))
      (keeps_ite (keeps_calSwitch (keeps_modCal hs)) (keeps_calReady (keeps_modCal hs))))

theorem keeps_calStart {b items source positions} (hs : Keeps s₀ s) : Keeps s₀ (calStart s b items source
    positions) :=
  keeps_ite (keeps_spareMeasure (keeps_modCal hs)) (keeps_ite (keeps_calPositions (keeps_ite (keeps_calSkip
    (keeps_modCal hs)) (keeps_modCal hs))) (keeps_ite (keeps_modCal (keeps_modCal hs)) (keeps_calTail
    (keeps_modCal (keeps_modCal hs)))))

theorem keeps_performCalRun {c items positions} (hs : Keeps s₀ s) : Keeps s₀ (performCalRun s c items positions) :=
  keeps_ite (keeps_calJoin (keeps_putCmd hs)) (keeps_calStart (keeps_putCmd hs))

theorem keeps_performCalSave {c} (hs : Keeps s₀ s) : Keeps s₀ (performCalSave s c) :=
  keeps_complete (hs.same rfl rfl rfl rfl)

theorem keeps_restoreImage {image} (hs : Keeps s₀ s) : Keeps s₀ (restoreImage s image) :=
  keeps_foldl (fun _ _ hs => keeps_modCal hs) hs

theorem keeps_performCalRestore {c image} (hs : Keeps s₀ s) : Keeps s₀ (performCalRestore s c image) :=
  keeps_completeOk (keeps_restoreImage hs)

theorem keeps_performRelieve {c} (hs : Keeps s₀ s) : Keeps s₀ (performRelieve s c) :=
  keeps_ite (keeps_calReady (keeps_modCal (keeps_putCmd hs))) (keeps_spareMeasure (keeps_modCal (keeps_putCmd
    hs)))

theorem keeps_performUnrelieve {c} (hs : Keeps s₀ s) : Keeps s₀ (performUnrelieve s c) := by
  unfold performUnrelieve
  dsimp only
  exact keeps_modCal (keeps_putCmd hs)

theorem keeps_performCalStatus {c} (hs : Keeps s₀ s) : Keeps s₀ (performCalStatus s c) :=
  keeps_ite (keeps_completeOk hs) (keeps_completeOk hs)

theorem keeps_modClk {f} (hs : Keeps s₀ s) : Keeps s₀ (modClk s f) := hs.same rfl rfl rfl rfl

theorem keeps_freqUnlock (hs : Keeps s₀ s) : Keeps s₀ (freqUnlock s) := hs.same rfl rfl rfl rfl

theorem keeps_refSelectGo {c r} (hs : Keeps s₀ s) : Keeps s₀ (refSelectGo s c r) := by
  unfold refSelectGo
  extract_lets s1 s2
  have h1 : Keeps s₀ s1 := keeps_freqUnlock (keeps_ovenLost hs)
  clear_value s1
  have h2 : Keeps s₀ s2 := keeps_modClk (h1.same rfl rfl rfl rfl)
  exact keeps_ite (keeps_completeOk hs) (keeps_ite (keeps_completeV hs)
    (keeps_ite (keeps_completeV (hs.same rfl rfl rfl rfl)) (keeps_putCmd h2)))

theorem keeps_performRefSelect {c r} (hs : Keeps s₀ s) : Keeps s₀ (performRefSelect s c r) :=
  keeps_ite (keeps_completeOk hs) (keeps_ite (keeps_putCmd (keeps_forwardAll hs)) (keeps_refSelectGo hs))

theorem keeps_freqReply {c inst kind flags} (hs : Keeps s₀ s) : Keeps s₀ (freqReply s c inst kind flags) :=
  keeps_completeOk (hs.same rfl rfl rfl rfl)

theorem keeps_performFreqMeasure {c inst kind gate} (hs : Keeps s₀ s) : Keeps s₀ (performFreqMeasure s c inst
    kind gate) :=
  keeps_ite (keeps_putCmd hs) (keeps_freqReply hs)

theorem keeps_performThermRead {c first count} (hs : Keeps s₀ s) : Keeps s₀ (performThermRead s c first count) :=
  keeps_complete hs

theorem keeps_setSensor {i x} (hs : Keeps s₀ s) : Keeps s₀ (setSensor s i x) := hs.same rfl rfl rfl rfl

theorem keeps_clearTrial {z} (hs : Keeps s₀ s) : Keeps s₀ (clearTrial s z) := by
  unfold clearTrial
  dsimp only
  exact keeps_modZone (keeps_forAll hs (fun _ _ hs => keeps_setSensor hs))

theorem keeps_gatesLift (hs : Keeps s₀ s) : Keeps s₀ (gatesLift s) :=
  keeps_forAll hs (fun _ _ hs => keeps_modQuay hs fun _ => rfl)

theorem keeps_zoneEnter {z old new} (hs : Keeps s₀ s) : Keeps s₀ (zoneEnter s z old new) :=
  keeps_ite hs (keeps_ite (keeps_count hs) (keeps_ite (keeps_count hs) hs))

theorem keeps_stopEnd {z} (hs : Keeps s₀ s) : Keeps s₀ (stopEnd s z) :=
  keeps_ite (((keeps_gatesLift (keeps_zoneEnter (keeps_modZone hs)))).same rfl rfl rfl rfl) (keeps_gatesLift
    (keeps_zoneEnter (keeps_modZone hs)))

theorem keeps_performThermClear {c z} (hs : Keeps s₀ s) : Keeps s₀ (performThermClear s c z) :=
  keeps_ite (keeps_completeOk hs) (keeps_ite (keeps_completeV hs) (keeps_completeOk (keeps_stopEnd
    (keeps_clearTrial hs))))

theorem keeps_performClockMode {c mask kind run sleep deep} (hs : Keeps s₀ s) : Keeps s₀ (performClockMode s c
    mask kind run sleep deep) :=
  keeps_completeOk (keeps_forAll hs (fun _ _ hs => keeps_modClk hs))

theorem keeps_performTpXfer {c p} (hs : Keeps s₀ s) : Keeps s₀ (performTpXfer s c p) := keeps_putCmd (keeps_modTp hs)

theorem keeps_performTpStatus {c p} (hs : Keeps s₀ s) : Keeps s₀ (performTpStatus s c p) := keeps_completeOk hs

theorem keeps_mcOffered {source result} (hs : Keeps s₀ s) : Keeps s₀ (mcOffered s source result) :=
  hs.same rfl rfl rfl rfl

theorem keeps_patchEngines {b mask} (hs : Keeps s₀ s) : Keeps s₀ (patchEngines s b mask) :=
  ((keeps_forAll hs (fun _ _ hs => keeps_setEng hs))).same rfl rfl rfl rfl

theorem keeps_performPatch {c mask b} (hs : Keeps s₀ s) : Keeps s₀ (performPatch s c mask b) := by
  unfold performPatch
  dsimp only
  split
  · exact keeps_completeV (keeps_mcOffered hs)
  · exact keeps_ite (keeps_ite (keeps_completeOk ((((keeps_patchEngines (keeps_mcOffered hs)).same rfl rfl rfl
      rfl)).same rfl rfl rfl rfl)) (keeps_completeV (keeps_mcOffered ((keeps_patchEngines (keeps_mcOffered
      hs)).same rfl rfl rfl rfl)))) (keeps_completeOk (keeps_patchEngines (keeps_mcOffered hs)))

theorem keeps_performMcVersion {c} (hs : Keeps s₀ s) : Keeps s₀ (performMcVersion s c) := keeps_completeOk hs

theorem keeps_performFuseRead {c w} (hs : Keeps s₀ s) : Keeps s₀ (performFuseRead s c w) := keeps_completeOk hs

theorem keeps_perform {c} (hs : Keeps s₀ s) : Keeps s₀ (perform s c) := by
  unfold perform
  split
  · exact keeps_performNop hs
  · exact keeps_performIdentify hs
  · exact keeps_performGetState hs
  · exact keeps_performPark hs
  · exact keeps_performUnpark hs
  · exact keeps_performBerthPower hs
  · exact keeps_performClearFault hs
  · exact keeps_performAbort hs
  · exact keeps_performReset hs
  · exact keeps_performStage hs
  · exact keeps_performProof hs
  · exact keeps_performBake hs
  · exact keeps_performRead hs
  · exact keeps_performTrayClear hs
  · exact keeps_performTrayStatus hs
  · exact keeps_performAckWrite hs
  · exact keeps_performSegLoad hs
  · exact keeps_performArm hs
  · exact keeps_performStart hs
  · exact keeps_performHalt hs
  · exact keeps_performJump hs
  · exact keeps_performDisarm hs
  · exact keeps_performClearHalt hs
  · exact keeps_performSeqStatus hs
  · exact keeps_performPpmu hs
  · exact keeps_performAcqArm hs
  · exact keeps_performAcqRead hs
  · exact keeps_performTmuArm hs
  · exact keeps_performTmuRead hs
  · exact keeps_performUpload hs
  · exact keeps_performFailLogRead hs
  · exact keeps_performSpRamp hs
  · exact keeps_performSpSequence hs
  · exact keeps_performSpOff hs
  · exact keeps_performSpStatus hs
  · exact keeps_performChainEnum hs
  · exact keeps_performChainStatus hs
  · exact keeps_performLaneTest hs
  · exact keeps_performLaneBitslip hs
  · exact keeps_performBcastLoad hs
  · exact keeps_performTideAlign hs
  · exact keeps_performCalRun hs
  · exact keeps_performCalSave hs
  · exact keeps_performCalRestore hs
  · exact keeps_performRelieve hs
  · exact keeps_performUnrelieve hs
  · exact keeps_performCalStatus hs
  · exact keeps_performRefSelect hs
  · exact keeps_performFreqMeasure hs
  · exact keeps_performThermRead hs
  · exact keeps_performThermClear hs
  · exact keeps_performClockMode hs
  · exact keeps_performTpXfer hs
  · exact keeps_performTpStatus hs
  · exact keeps_performPatch hs
  · exact keeps_performMcVersion hs
  · exact keeps_performFuseRead hs

theorem keeps_runHere {c} (hs : Keeps s₀ s) : Keeps s₀ (runHere s c) :=
  keeps_ite (keeps_completeV hs) (keeps_perform hs)

theorem keeps_snapSend {c} (hs : Keeps s₀ s) : Keeps s₀ (snapSend s c) := by
  unfold snapSend
  split
  · exact keeps_send hs
  · exact hs

theorem keeps_run {c} (hs : Keeps s₀ s) : Keeps s₀ (run s c) :=
  keeps_ite (keeps_completeOk hs) (keeps_ite (keeps_runHere (keeps_snapSend (keeps_forwardAll (keeps_putCmd
    hs)))) (keeps_runHere hs))

theorem keeps_startIn {c k} (hs : Keeps s₀ s) : Keeps s₀ (startIn s c k) :=
  keeps_run (keeps_putCmd (keeps_foldl (fun _ _ hs => keeps_setEng hs) hs))

theorem keeps_tryStart {c} (hs : Keeps s₀ s) : Keeps s₀ (tryStart s c) := by
  unfold tryStart
  refine keeps_ite hs (keeps_ite (keeps_ite hs (keeps_forwardOne hs)) ?_)
  split
  · exact keeps_endDisabled hs
  · refine keeps_ite ?_ hs
    split
    · exact keeps_startIn hs
    · exact hs

theorem keeps_accept {h op} (hs : Keeps s₀ s) : Keeps s₀ (accept s h op) :=
  keeps_tryStart (keeps_enter (keeps_setSq (keeps_reserveReply (keeps_headPast hs))))

theorem keeps_takeSlot {slot par h op} (hs : Keeps s₀ s) : Keeps s₀ (takeSlot s slot par h op) := by
  unfold takeSlot
  dsimp only
  refine keeps_ite hs (keeps_ite (keeps_stall hs) ?_)
  split
  · exact keeps_reject hs
  · split
    · exact keeps_accept hs
    · exact keeps_stall hs

theorem keeps_readOut {bytes status} (hs : Keeps s₀ s) : Keeps s₀ (readOut s bytes status) := hs.same rfl rfl rfl rfl

theorem keeps_barLost (hs : Keeps s₀ s) : Keeps s₀ (barLost s) := keeps_readOut hs

theorem keeps_onBar {f} (hs : Keeps s₀ s) (hf : ∀ u, Keeps s₀ u → Keeps s₀ (f u)) : Keeps s₀ (onBar s f) :=
  keeps_ite (hf _ (keeps_wakeLink hs)) (keeps_barLost hs)

theorem keeps_countDiscard {d} (hs : Keeps s₀ s) : Keeps s₀ (countDiscard s d) := by
  unfold countDiscard
  dsimp only
  split
  · exact hs
  · exact keeps_count hs
  · exact keeps_setSq hs
  · exact keeps_setRq hs

theorem keeps_noteDiscard {r : State × Discard} (hs : Keeps s₀ r.1) : Keeps s₀ (noteDiscard r) := keeps_countDiscard hs

theorem keeps_tailDoorbell {n w} (hs : Keeps s₀ s) : Keeps s₀ (tailDoorbell s n w).1 :=
  keeps_iteFst (keeps_setSq hs) hs

theorem keeps_headDoorbell {m w} (hs : Keeps s₀ s) : Keeps s₀ (headDoorbell s m w).1 :=
  keeps_iteFst (keeps_setRq hs) hs

theorem keeps_sqDesc {n base enable log2 reply} (hs : Keeps s₀ s) : Keeps s₀ (sqDesc s n base enable log2 reply).1 :=
  keeps_iteFst hs (keeps_setSq hs)

theorem keeps_rqDesc {m base enable log2 vector cnt time} (hs : Keeps s₀ s) : Keeps s₀ (rqDesc s m base enable
    log2 vector cnt time).1 :=
  keeps_iteFst hs (keeps_setRq hs)

theorem keeps_ringAck {x w} {put : Ack → State} (hs : Keeps s₀ s) (hput : ∀ a, Keeps s₀ (put a)) :
    Keeps s₀ (ringAck s x w put) := keeps_ite (hput _) (keeps_count hs)

theorem keeps_sqDescWord {n k w} (hs : Keeps s₀ s) : Keeps s₀ (sqDescWord s n k w).1 := by
  unfold sqDescWord
  dsimp only
  split
  · exact keeps_sqDesc hs
  · exact keeps_sqDesc hs
  · exact keeps_sqDesc hs
  · exact keeps_ringAck hs (fun _ => keeps_setSq hs)
  · exact keeps_ringAck hs (fun _ => keeps_setSq hs)
  · exact hs

theorem keeps_rqDescWord {m k w} (hs : Keeps s₀ s) : Keeps s₀ (rqDescWord s m k w).1 := by
  unfold rqDescWord
  dsimp only
  split
  · exact keeps_rqDesc hs
  · exact keeps_rqDesc hs
  · exact keeps_rqDesc hs
  · exact keeps_rqDesc hs
  · exact keeps_ringAck hs (fun _ => keeps_setRq hs)
  · exact keeps_ringAck hs (fun _ => keeps_setRq hs)
  · exact hs

theorem keeps_mirrorWrite {off w} (hs : Keeps s₀ s) : Keeps s₀ (mirrorWrite s off w).1 := by
  unfold mirrorWrite
  split
  · exact keeps_iteFst (keeps_ackOne hs) hs
  · exact hs

theorem keeps_bar0Word {off w} (hs : Keeps s₀ s) : Keeps s₀ (bar0Word s off w).1 :=
  keeps_iteFst (keeps_sqDescWord hs) (keeps_iteFst (keeps_rqDescWord hs) (keeps_iteFst (keeps_iteFst
    (keeps_tailDoorbell hs) hs) (keeps_iteFst (keeps_iteFst (keeps_headDoorbell hs) hs) (keeps_mirrorWrite
    hs))))

theorem keeps_bar0ReadWord {off} (hs : Keeps s₀ s) : Keeps s₀ (bar0ReadWord s off) :=
  keeps_ite (keeps_readOut (hs.same rfl rfl rfl rfl)) (keeps_ite (keeps_readOut hs) (keeps_readOut hs))

theorem keeps_bar0Read {off len} (hs : Keeps s₀ s) : Keeps s₀ (bar0Read s off len) :=
  keeps_ite (keeps_bar0ReadWord hs) (keeps_ite (keeps_readOut hs) (keeps_readOut hs))

theorem keeps_rqDescPair {m k a b} (hs : Keeps s₀ s) : Keeps s₀ (rqDescPair s m k a b).1 :=
  keeps_iteFst (keeps_rqDesc hs) (keeps_rqDesc hs)

theorem keeps_bar0Access {off data} (hs : Keeps s₀ s) : Keeps s₀ (bar0Access s off data) :=
  keeps_ite (keeps_noteDiscard (keeps_bar0Word hs)) (keeps_ite (keeps_noteDiscard (keeps_rqDescPair hs))
    (keeps_ite (keeps_countDiscard (keeps_bar0Word (keeps_bar0Word hs))) (keeps_countDiscard hs)))

theorem keeps_execBar2Read {off len} (hs : Keeps s₀ s) : KeepsNext s₀ (execBar2Read off len s) :=
  next_ite nextFault (next (keeps_onBar hs fun u hs => keeps_ite (keeps_readOut hs) (keeps_ite
    ((keeps_readOut (bytes := freeRead u len) (status := 0) hs).same rfl rfl rfl rfl)
    (keeps_ite (keeps_readOut (keeps_count (keeps_eccNote hs))) (keeps_readOut (keeps_countN hs))))))

theorem keeps_msixFlush (hs : Keeps s₀ s) : Keeps s₀ (msixFlush s) :=
  keeps_foldl (fun _ _ hs => keeps_ite (keeps_setMsix hs) hs) hs

theorem keeps_heldOut {p f} (hs : Keeps s₀ s) (hf : ∀ u x, Keeps s₀ u → Keeps s₀ (f u x)) : Keeps s₀ (heldOut s p f) :=
  keeps_foldl hf (hs.same rfl rfl rfl rfl)

theorem keeps_dropHeld {h} (hs : Keeps s₀ s) : Keeps s₀ (dropHeld s h) := keeps_dropReply (keeps_releaseIf hs)

theorem keeps_dropLate (hs : Keeps s₀ s) : Keeps s₀ (dropLate s) := keeps_heldOut hs (fun _ _ hs => keeps_dropHeld hs)

theorem keeps_postHeld {h} (hs : Keeps s₀ s) : Keeps s₀ (postHeld s h) :=
  keeps_ite (keeps_writeReply (keeps_writeResult (keeps_releaseIf hs))) (keeps_dropHeld hs)

theorem keeps_flushHeld (hs : Keeps s₀ s) : Keeps s₀ (flushHeld s) :=
  keeps_ite hs (keeps_msixFlush (keeps_heldOut (keeps_dropLate hs) (fun _ _ hs => keeps_postHeld hs)))

theorem keeps_setBusMaster {on} (hs : Keeps s₀ s) : Keeps s₀ (setBusMaster s on) :=
  keeps_ite (keeps_flushHeld (hs.same rfl rfl rfl rfl)) (hs.same rfl rfl rfl rfl)

theorem keeps_cfgWrite {reg w} (hs : Keeps s₀ s) : Keeps s₀ (cfgWrite s reg w) :=
  keeps_ite (keeps_setBusMaster (hs.same rfl rfl rfl rfl)) (hs.same rfl rfl rfl rfl)

theorem keeps_execConfigRequest {reg write} (hs : Keeps s₀ s) : KeepsNext s₀ (execConfigRequest reg write s) :=
    by
  unfold execConfigRequest
  dsimp only
  refine next_ite (nextFault) (next (keeps_ite (keeps_readOut (keeps_ite (keeps_wakeLink hs) hs)) (keeps_ite
    (keeps_readOut (keeps_ite (keeps_wakeLink hs) hs)) ?_)))
  split
  · exact keeps_readOut (keeps_cfgWrite (keeps_ite (keeps_wakeLink hs) hs))
  · exact keeps_readOut (keeps_ite (keeps_wakeLink hs) hs)

theorem keeps_takeBytes {n slot block} (hs : Keeps s₀ s) : Keeps s₀ (takeBytes s n slot block) := by
  unfold takeBytes
  dsimp only
  split
  · exact keeps_takeSlot hs
  · exact keeps_ite hs (keeps_ite (keeps_stall hs) (keeps_reject hs))

theorem keeps_execCommandDispatch {e} (hs : Keeps s₀ s) : KeepsNext s₀ (execCommandDispatch e s) := by
  unfold execCommandDispatch
  refine next ?_
  split
  · exact keeps_tryStart hs
  · exact hs

theorem keeps_execDeferredCommandStart (hs : Keeps s₀ s) : KeepsNext s₀ (execDeferredCommandStart s) := by
  unfold execDeferredCommandStart
  dsimp only
  refine next ?_
  split
  · exact hs
  · split
    · exact keeps_completeV (hs.same rfl rfl rfl rfl)
    · exact keeps_tryStart (hs.same rfl rfl rfl rfl)

theorem keeps_faultEnd {v c} (hs : Keeps s₀ s) : Keeps s₀ (faultEnd v s c) := by
  unfold faultEnd
  split
  · exact keeps_completeV hs
  · exact keeps_completeV hs
  · exact keeps_ite hs (keeps_cancel hs)
  · exact keeps_cancel hs

theorem keeps_deviceFault {src inst} (hs : Keeps s₀ s) : Keeps s₀ (deviceFault s src inst) :=
  keeps_ite hs (keeps_deferredEnd (keeps_devFaultEnter hs))

theorem keeps_disabledEnd {e} (hs : Keeps s₀ s) : Keeps s₀ (disabledEnd s e) :=
  keeps_foldl (fun _ _ hs => keeps_endDisabled hs) hs

theorem keeps_engineFault {e code addr} (hs : Keeps s₀ s) : Keeps s₀ (engineFault s e code addr) :=
  keeps_ite (keeps_disabledEnd (keeps_setEng (keeps_ite (keeps_forAll (keeps_foldl (fun _ _ hs =>
    keeps_faultEnd hs) (keeps_setEng (keeps_count hs))) (fun _ _ hs => keeps_rampHold hs)) (keeps_deviceFault
    (keeps_foldl (fun _ _ hs => keeps_faultEnd hs) (keeps_setEng (keeps_count hs))))))) (keeps_setEng
    (keeps_ite (keeps_forAll (keeps_foldl (fun _ _ hs => keeps_faultEnd hs) (keeps_setEng (keeps_count hs)))
    (fun _ _ hs => keeps_rampHold hs)) (keeps_deviceFault (keeps_foldl (fun _ _ hs => keeps_faultEnd hs)
    (keeps_setEng (keeps_count hs))))))

theorem keeps_noteGap {e c} (hs : Keeps s₀ s) : Keeps s₀ (noteGap s e c) := keeps_setEng hs

theorem keeps_takeTurn {e c yields} (hs : Keeps s₀ s) : Keeps s₀ (takeTurn s e c yields) := keeps_setEng hs

theorem keeps_modCtx {e c f} (hs : Keeps s₀ s) : Keeps s₀ (modCtx s e c f) := keeps_setCtx hs

theorem keeps_micro {e c w f} (hs : Keeps s₀ s) (hf : ∀ u x, Keeps s₀ u → Keeps s₀ (f u x)) :
    Keeps s₀ (micro s e c w f) := by
  unfold micro
  refine keeps_ite ?_ hs
  split
  · exact keeps_engineFault (keeps_noteGap hs)
  · exact keeps_ite (hf _ _ (keeps_takeTurn (keeps_modCtx hs))) hs

theorem keeps_microCtx {e c w f} (hs : Keeps s₀ s) : Keeps s₀ (microCtx s e c w f) :=
  keeps_micro hs (fun _ _ hs => keeps_setCtx hs)

theorem keeps_logic {e c op a b f} (hs : Keeps s₀ s) : Keeps s₀ (logic s e c op a b f) := keeps_microCtx hs

theorem keeps_execRet {e c} (hs : Keeps s₀ s) : KeepsNext s₀ (execRet e c s) := by
  unfold execRet
  refine next (keeps_micro hs (fun _ _ hs => ?_))
  split
  · exact keeps_engineFault hs
  · exact keeps_setCtx hs

theorem keeps_execFrd {e c a b imm} (hs : Keeps s₀ s) : KeepsNext s₀ (execFrd e c a b imm s) := by
  unfold execFrd
  refine next (keeps_micro hs fun _ _ hs => ?_)
  extract_lets s1
  have h1 : Keeps s₀ s1 := keeps_takeTurn hs
  split
  · exact keeps_setCtx h1
  · exact keeps_setCtx (h1.same rfl rfl rfl rfl)

theorem keeps_execTrd {e c a b value} (hs : Keeps s₀ s) : KeepsNext s₀ (execTrd e c a b value s) := by
  unfold execTrd
  refine next (keeps_micro hs (fun _ _ hs => ?_))
  split
  · exact keeps_setCtx hs
  · exact keeps_setCtx (hs.same rfl rfl rfl rfl)

theorem keeps_execTwr {e c a b value} (hs : Keeps s₀ s) : KeepsNext s₀ (execTwr e c a b value s) := by
  unfold execTwr
  dsimp only
  refine next (keeps_micro hs (fun _ _ hs => ?_))
  split
  · exact keeps_setTray hs
  · exact hs

theorem keeps_execHrd {e c a imm} (hs : Keeps s₀ s) : KeepsNext s₀ (execHrd e c a imm s) := by
  unfold execHrd
  dsimp only
  refine next (keeps_micro hs (fun _ _ hs => ?_))
  split
  · exact keeps_setCtx hs
  · exact keeps_setCtx (hs.same rfl rfl rfl rfl)

theorem keeps_execPst {e c} (hs : Keeps s₀ s) : KeepsNext s₀ (execPst e c s) := by
  unfold execPst
  dsimp only
  refine next (keeps_micro hs (fun _ _ hs => ?_))
  split
  · exact hs
  · exact keeps_postOrdered (keeps_ite (keeps_count (keeps_ite (keeps_unwind hs) hs)) (keeps_ite (keeps_unwind
      hs) hs))

theorem keeps_microSafe {e c w f} (hs : Keeps s₀ s) (hf : ∀ u, Keeps s₀ u → Keeps s₀ (f u)) :
    Keeps s₀ (microSafe s e c w f) := by
  unfold microSafe
  refine keeps_ite ?_ hs
  split
  · exact keeps_engineFault (keeps_noteGap hs)
  · exact keeps_ite (hf _ (keeps_takeTurn (keeps_modCtx hs))) hs

theorem keeps_takePending {e c} (hs : Keeps s₀ s) : Keeps s₀ (takePending s e c).1 := by
  unfold takePending
  dsimp only
  split
  · exact hs
  · exact keeps_iteFst hs (keeps_iteFst (keeps_takeInterrupt hs) (keeps_iteFst (keeps_takeAbort hs) hs))

theorem keeps_safePoint {e c} (hs : Keeps s₀ s) : Keeps s₀ (safePoint s e c) := keeps_modCtx (keeps_noteGap hs)

theorem keeps_execWait {e c a b cond invert} (hs : Keeps s₀ s) : KeepsNext s₀ (execWait e c a b cond invert s) :=
  next (keeps_microSafe hs (fun _ hs => keeps_ite (keeps_engineFault hs) (keeps_ite (keeps_iteFst
    (keeps_takePending (keeps_safePoint hs)) hs) (keeps_modCtx (keeps_takeTurn (keeps_iteFst (keeps_takePending
    (keeps_safePoint hs)) hs))))))

theorem keeps_waitOver {e c timedOut} (hs : Keeps s₀ s) : Keeps s₀ (waitOver s e c timedOut) := keeps_modCtx hs

theorem keeps_dmaDrain {e c} (hs : Keeps s₀ s) : Keeps s₀ (dmaDrain s e c) := by
  unfold dmaDrain
  dsimp only
  split
  · exact keeps_ite hs (keeps_writeResult hs)
  · exact hs

theorem keeps_execWaitWake {e c} (hs : Keeps s₀ s) : KeepsNext s₀ (execWaitWake e c s) := by
  unfold execWaitWake
  refine next ?_
  split
  · exact hs
  · exact keeps_ite hs (keeps_ite (keeps_waitOver (keeps_ite (keeps_dmaDrain hs) hs)) (keeps_ite
      (keeps_waitOver (keeps_reach hs)) hs))

theorem keeps_execWaitTimeout {e c} (hs : Keeps s₀ s) : KeepsNext s₀ (execWaitTimeout e c s) := by
  unfold execWaitTimeout
  refine next ?_
  split
  · exact hs
  · exact keeps_ite hs (keeps_waitOver (keeps_count (keeps_reach hs)))

theorem keeps_execCommit {e c} (hs : Keeps s₀ s) : KeepsNext s₀ (execCommit e c s) := by
  unfold execCommit
  dsimp only
  refine next (keeps_microSafe hs (fun _ hs => keeps_ite (keeps_takePending (keeps_safePoint hs)) ?_))
  split
  · exact keeps_putCmd (keeps_modCtx (keeps_takePending (keeps_safePoint hs)))
  · exact keeps_modCtx (keeps_takePending (keeps_safePoint hs))

theorem keeps_armPending {e c i} (hs : Keeps s₀ s) : Keeps s₀ (armPending s e c i) := by
  unfold armPending
  dsimp only
  split
  · exact keeps_ite (hs.same rfl rfl rfl rfl) hs
  · exact hs

theorem keeps_execFwd {e c a} (hs : Keeps s₀ s) : KeepsNext s₀ (execFwd e c a s) := by
  unfold execFwd
  dsimp only
  refine next (keeps_micro hs (fun _ _ hs => ?_))
  split
  · exact hs
  · exact keeps_ite hs (keeps_send (keeps_putCmd hs))

/-- The name of the field is kept closed: the kernel would compute with its bits. -/
theorem keeps_execEvt {e c imm} (hs : Keeps s₀ s) : KeepsNext s₀ (execEvt e c imm s) := by
  unfold execEvt
  obtain ⟨name, hname⟩ : ∃ f, f = pid := ⟨_, rfl⟩
  rw [← hname]
  dsimp only
  refine next (keeps_micro hs fun _ _ hs => ?_)
  split
  · split
    · exact keeps_vec0 (keeps_setAck hs)
    · exact keeps_setAck hs
  · exact hs

theorem keeps_calStop {b v} (hs : Keeps s₀ s) : Keeps s₀ (calStop s b v) :=
  keeps_ite hs (keeps_calUndo (keeps_completeAll hs))

theorem keeps_stopCommands {z sensor} (hs : Keeps s₀ s) : Keeps s₀ (stopCommands s z sensor) :=
  keeps_ite (keeps_interrupt (keeps_forAll hs (fun _ _ hs => keeps_calStop hs))) (keeps_ite (keeps_cancelAll
    (keeps_forAll hs (fun _ _ hs => keeps_calStop hs))) (keeps_interrupt (keeps_forAll hs (fun _ _ hs =>
    keeps_calStop hs))))

theorem keeps_laneTrain {l cause} (hs : Keeps s₀ s) : Keeps s₀ (laneTrain s l cause) := by
  unfold laneTrain
  dsimp only
  exact keeps_modLane hs

theorem keeps_sequencePart {c status data} (hs : Keeps s₀ s) : Keeps s₀ (sequencePart s c status data) := by
  unfold sequencePart
  dsimp only
  split
  · exact keeps_ite hs (keeps_ite (keeps_undoNext (keeps_putCmd (keeps_abortParts hs))) (keeps_sequenceSettle
      (keeps_putCmd hs)))
  · exact hs

theorem keeps_noteTrays {op i status} (hs : Keeps s₀ s) : Keeps s₀ (noteTrays s op i status) := by
  unfold noteTrays
  dsimp only
  split
  · exact keeps_ite (hs.same rfl rfl rfl rfl) hs
  · exact hs

theorem keeps_partReply {c i status data} (hs : Keeps s₀ s) : Keeps s₀ (partReply s c i status data) := by
  unfold partReply
  dsimp only
  split
  · split
    · exact keeps_complete (keeps_sequencePart (keeps_noteTrays (keeps_putCmd hs)))
    · exact keeps_sequencePart (keeps_noteTrays (keeps_putCmd hs))
  · exact keeps_sequencePart (keeps_noteTrays (keeps_putCmd hs))

theorem keeps_lostReplies {i} (hs : Keeps s₀ s) : Keeps s₀ (lostReplies s i) :=
  keeps_foldl (fun _ _ hs => keeps_ite (keeps_finish hs) (keeps_partReply hs)) hs

theorem keeps_chainLost {root} (hs : Keeps s₀ s) : Keeps s₀ (chainLost s root) := by
  unfold chainLost
  dsimp only
  refine keeps_ite hs (keeps_alignSettle ?_)
  split
  · exact keeps_bcastSettle (keeps_forAll (keeps_causeEvent (hs.same rfl rfl rfl rfl)) (fun _ _ hs =>
      keeps_lostReplies hs))
  · exact keeps_forAll (keeps_causeEvent (hs.same rfl rfl rfl rfl)) (fun _ _ hs => keeps_lostReplies hs)

theorem keeps_portDown {p} (hs : Keeps s₀ s) : Keeps s₀ (portDown s p) := by
  unfold portDown
  extract_lets role root s1 s2 s3 chain s4
  clear_value role root
  have h2 : Keeps s₀ s2 := keeps_forAll (keeps_count hs) fun _ _ hs => keeps_laneTrain (keeps_laneLeave hs)
  have h3 : Keeps s₀ s3 := keeps_modPort h2
  have h4 : Keeps s₀ s4 := h3.same rfl rfl rfl rfl
  split
  · exact keeps_ite (keeps_alignSettle (keeps_send h4)) (keeps_chainLost h4)
  · exact keeps_alignSettle h4

theorem keeps_portsIdle (hs : Keeps s₀ s) : Keeps s₀ (portsIdle s) :=
  keeps_forAll (keeps_forAll hs (fun _ _ hs => keeps_ite (keeps_portDown hs) hs)) (fun _ _ hs => keeps_modLane
    hs)

theorem keeps_refSelectFail (hs : Keeps s₀ s) : Keeps s₀ (refSelectFail s) := keeps_completeAll hs

theorem keeps_coastStart (hs : Keeps s₀ s) : Keeps s₀ (coastStart s) := keeps_modClk (keeps_freqUnlock hs)

theorem keeps_refLossCal {b} (hs : Keeps s₀ s) : Keeps s₀ (refLossCal s b) := keeps_calStop hs

theorem keeps_refLossBake (hs : Keeps s₀ s) : Keeps s₀ (refLossBake s) := by
  unfold refLossBake
  split
  · exact keeps_ite (keeps_bakeFaultEnd (keeps_send hs)) hs
  · exact hs

theorem keeps_refLossPark (hs : Keeps s₀ s) : Keeps s₀ (refLossPark s) :=
  keeps_settle (keeps_offAdvance (keeps_ite (keeps_offOrderly (keeps_forAll (keeps_forAll hs (fun _ _ hs =>
    keeps_ite (keeps_haltRequest hs) (keeps_ite (keeps_disarm hs) hs))) (fun _ _ hs => keeps_parkOne hs)))
    (keeps_forAll (keeps_forAll hs (fun _ _ hs => keeps_ite (keeps_haltRequest hs) (keeps_ite (keeps_disarm hs)
    hs))) (fun _ _ hs => keeps_parkOne hs))))

theorem keeps_refLoss (hs : Keeps s₀ s) : Keeps s₀ (refLoss s) := by
  unfold refLoss
  extract_lets s1 s2 s3 s4 s5 s6 s7 s8 s9 s10 chain s11 s12 s13
  have h5 : Keeps s₀ s5 :=
    keeps_interrupt (keeps_cancelAll (keeps_coastStart (keeps_causeEvent (keeps_refSelectFail hs))))
  have h6 : Keeps s₀ s6 := keeps_forAll h5 fun _ _ hs => keeps_ite (keeps_rampCut hs) hs
  have h9 : Keeps s₀ s9 := keeps_forAll (keeps_refLossBake (keeps_forAll h6 fun _ _ hs => keeps_refLossCal hs))
    fun _ _ hs => keeps_tmuCut hs
  have h10 : Keeps s₀ s10 := keeps_ovenLost h9
  clear_value s10
  have h11 : Keeps s₀ s11 := keeps_ite (h10.same rfl rfl rfl rfl) h10
  have h12 : Keeps s₀ s12 := keeps_send h11
  have h13 : Keeps s₀ s13 := by
    refine keeps_ite ?_ h11
    split
    · exact keeps_ite h12 (keeps_chainUnalign h12)
    · exact keeps_chainUnalign h12
  exact keeps_deviceParked (keeps_refLossPark h13)

theorem keeps_stopImmediate {z} (hs : Keeps s₀ s) : Keeps s₀ (stopImmediate s z) :=
  keeps_settle (keeps_offAdvance (keeps_offHard (keeps_forAll hs (fun _ _ hs => keeps_parkOneHard hs))))

theorem keeps_stopOrderly {z} (hs : Keeps s₀ s) : Keeps s₀ (stopOrderly s z) :=
  keeps_settle (keeps_offAdvance (keeps_ite (keeps_offOrderly (keeps_forAll hs (fun _ _ hs => keeps_parkOne
    hs))) (keeps_forAll hs (fun _ _ hs => keeps_parkOne hs))))

theorem keeps_stopBegin {z causes levels fresh t r} (hs : Keeps s₀ s) :
    Keeps s₀ (stopBegin s z causes levels fresh t r) := by
  unfold stopBegin
  extract_lets first ttl device now s1 s2 s3 s4 hold s5
  have h2 : Keeps s₀ s2 := keeps_causeEvent (keeps_count (keeps_modZone hs))
  have h3 : Keeps s₀ s3 := keeps_ite (keeps_send h2) h2
  have h4 : Keeps s₀ s4 := keeps_stopCommands h3
  have h5 : Keeps s₀ s5 := keeps_settle (keeps_portsIdle h4)
  clear_value s5 s4
  split
  · exact keeps_settle (h4.same rfl rfl rfl rfl)
  · split
    · exact keeps_ite (keeps_refLoss (h5.same rfl rfl rfl rfl)) h5
    · exact keeps_ite (keeps_stopImmediate h4) (keeps_stopOrderly h4)

theorem keeps_escalate {z} (hs : Keeps s₀ s) : Keeps s₀ (escalate s z) := keeps_stopImmediate (keeps_modZone hs)

theorem keeps_zoneSample {z} (hs : Keeps s₀ s) : Keeps s₀ (zoneSample s z) :=
  keeps_ite (keeps_modZone hs) (keeps_ite (keeps_ite (keeps_stopBegin (keeps_modZone hs)) (keeps_zoneEnter
    (keeps_modZone (keeps_modZone hs)))) (keeps_ite (keeps_escalate (keeps_modZone hs)) (keeps_modZone hs)))

theorem keeps_zonesAfresh (hs : Keeps s₀ s) : Keeps s₀ (zonesAfresh s) :=
  keeps_ite hs (keeps_gatesLift (keeps_forAll hs (fun _ _ hs => keeps_zoneSample hs)))

theorem keeps_chainCancel {p} (hs : Keeps s₀ s) : Keeps s₀ (chainCancel s p) := keeps_bakeFaultEnd (keeps_send hs)

theorem keeps_fsRewrite {k} (hs : Keeps s₀ s) : Keeps s₀ (fsRewrite s k) := keeps_ite hs (hs.same rfl rfl rfl rfl)

theorem keeps_fsRewriteAll (hs : Keeps s₀ s) : Keeps s₀ (fsRewriteAll s) :=
  keeps_foldl (fun _ _ hs => keeps_fsRewrite hs) hs

theorem keeps_bakeOne {id v} (hs : Keeps s₀ s) : Keeps s₀ (bakeOne s id v) :=
  keeps_ite (((((((keeps_ite (keeps_forAll hs (fun _ _ hs => keeps_holdMod hs)) hs)).same rfl rfl rfl
    rfl)).same rfl rfl rfl rfl)).same rfl rfl rfl rfl) (keeps_onLoad (((((((keeps_ite (keeps_forAll hs (fun _ _
    hs => keeps_holdMod hs)) hs)).same rfl rfl rfl rfl)).same rfl rfl rfl rfl)).same rfl rfl rfl rfl))

theorem keeps_bakeTray {tray} (hs : Keeps s₀ s) : Keeps s₀ (bakeTray s tray) :=
  keeps_foldl (fun _ _ hs => keeps_bakeOne hs) hs

theorem keeps_calRestoreLoad {b} (hs : Keeps s₀ s) : Keeps s₀ (calRestoreLoad s b) := by
  unfold calRestoreLoad
  dsimp only
  split
  · exact hs
  · exact keeps_forAll (keeps_modCal hs) (fun _ _ hs => keeps_modChan hs)

theorem keeps_substNote {b} (hs : Keeps s₀ s) : Keeps s₀ (substNote s b) := keeps_ite (keeps_modFc hs) hs

theorem keeps_shadowOf {i o} (hs : Keeps s₀ s) : Keeps s₀ (shadowOf s i o) := by
  unfold shadowOf
  dsimp only
  exact keeps_modChan hs

theorem keeps_handoverStart {b k} (hs : Keeps s₀ s) : Keeps s₀ (handoverStart s b k) :=
  keeps_substNote (keeps_shadowOf (keeps_modBerth (keeps_holdMod hs)))

theorem keeps_calDone {b n} (hs : Keeps s₀ s) : Keeps s₀ (calDone s b n) := keeps_modCal hs

theorem keeps_calLoadOne {b c items} (hs : Keeps s₀ s) : Keeps s₀ (calLoadOne s b c items) :=
  keeps_calDone (keeps_modCal (keeps_modChan hs))

theorem keeps_calLoad {b} (hs : Keeps s₀ s) : Keeps s₀ (calLoad s b) :=
  keeps_ite (keeps_calDone (keeps_modCal (keeps_modCal (keeps_foldl (fun _ _ hs => keeps_calLoadOne hs) hs))))
    (keeps_modCal (keeps_foldl (fun _ _ hs => keeps_calLoadOne hs) hs))

theorem keeps_calNext {b} (hs : Keeps s₀ s) : Keeps s₀ (calNext s b) := by
  unfold calNext
  refine keeps_ite (keeps_spareMeasure hs) ?_
  split
  · exact keeps_calTail hs
  · exact keeps_calPositions hs

theorem keeps_releaseStart {b} (hs : Keeps s₀ s) : Keeps s₀ (releaseStart s b) :=
  keeps_substNote (keeps_shadowOf (keeps_modBerth (keeps_holdMod hs)))

theorem keeps_calStrobeBerth {i b} (hs : Keeps s₀ s) : Keeps s₀ (calStrobeBerth i s b) := by
  unfold calStrobeBerth
  dsimp only
  split
  · exact hs
  · refine keeps_ite hs ?_
    split
    · exact keeps_handoverStart (keeps_calLoad (keeps_modCal (keeps_modCal hs)))
    · exact keeps_ite (keeps_calNext (keeps_modBerth (keeps_calLoad (keeps_modCal hs)))) (keeps_ite
        (keeps_calNext (keeps_calLoad (keeps_modCal hs))) (keeps_ite (keeps_releaseStart (keeps_modCal
        (keeps_calLoad (keeps_modCal hs)))) (keeps_ite (keeps_ite (keeps_modCal (keeps_releaseStart
        (keeps_modCal (keeps_calLoad (keeps_modCal hs))))) (keeps_calPositions (keeps_releaseStart
        (keeps_modCal (keeps_calLoad (keeps_modCal hs)))))) (keeps_calNext (keeps_calLoad (keeps_modCal hs))))))
    · exact keeps_releaseStart (keeps_modCal hs)
    · exact keeps_modCal hs

theorem keeps_calStrobe {i} (hs : Keeps s₀ s) : Keeps s₀ (calStrobe s i) :=
  keeps_forAll (keeps_forAll hs (fun _ _ hs => keeps_calRestoreLoad hs)) (fun _ _ hs => keeps_calStrobeBerth hs)

theorem keeps_strobe {p} (hs : Keeps s₀ s) : Keeps s₀ (strobe s p) := by
  unfold strobe
  extract_lets s1 par s2 s3 par' s4 tray s5 par'' s6 s7
  have h1 : Keeps s₀ s1 := keeps_forAll hs fun _ _ hs => keeps_catchUp hs
  clear_value s1
  have h2 : Keeps s₀ s2 := h1.same rfl rfl rfl rfl
  have h4 : Keeps s₀ s4 := (keeps_bakeTray h2).same rfl rfl rfl rfl
  have h5 : Keeps s₀ s5 := keeps_ite h2 (keeps_setTray h4)
  have h6 : Keeps s₀ s6 := h5.same rfl rfl rfl rfl
  have h7 : Keeps s₀ s7 := by
    dsimp only [s7]
    split
    · exact keeps_count h6
    · exact h6
  exact keeps_calReschedule (keeps_calStrobe (keeps_ite (keeps_chainUnalign h7) h7))

theorem keeps_pendStrobe {loaded} (hs : Keeps s₀ s) : Keeps s₀ (pendStrobe loaded s) := by
  unfold pendStrobe
  split
  · exact hs
  · next p _ =>
    extract_lets s1 c s2
    generalize c = c
    have h1 : Keeps s₀ s1 := keeps_reach hs
    have h2 : Keeps s₀ s2 := keeps_fsRewriteAll (keeps_strobe h1)
    refine keeps_ite (keeps_ite (keeps_chainCancel h1) (keeps_bakeDrop h1)) (keeps_ite ?_
      (keeps_bakeFaultEnd (h1.same rfl rfl rfl rfl)))
    split
    · exact keeps_completeOk h2
    · exact h2

theorem keeps_execChainBakeDecision (hs : Keeps s₀ s) : KeepsNext s₀ (execChainBakeDecision s) := by
  unfold execChainBakeDecision
  dsimp only
  refine next ?_
  split
  · exact hs
  · exact keeps_ite (keeps_ite ((keeps_send hs).same rfl rfl rfl rfl) (keeps_chainCancel (keeps_reach hs))) hs

theorem keeps_copyDown {x} (hs : Keeps s₀ s) : Keeps s₀ (copyDown s x) := keeps_send hs

theorem keeps_upSignal {x} (hs : Keeps s₀ s) : Keeps s₀ (upSignal s x) := keeps_send hs

theorem keeps_readyUp (hs : Keeps s₀ s) : Keeps s₀ (readyUp s) := by
  unfold readyUp
  split
  · exact keeps_ite (keeps_upSignal hs) hs
  · exact hs

theorem keeps_execBakeArm {i36 tray} (hs : Keeps s₀ s) : KeepsNext s₀ (execBakeArm i36 tray s) := by
  unfold execBakeArm
  extract_lets i s1 cal par s2
  have h1 : Keeps s₀ s1 := keeps_copyDown hs
  clear_value s1
  have h2 : Keeps s₀ s2 := keeps_ite (h1.same rfl rfl rfl rfl) h1
  exact next (keeps_ite hs (keeps_ite (keeps_readyUp (h2.same rfl rfl rfl rfl))
    (keeps_ite (keeps_calReadyAgain h2) h2)))

theorem keeps_execBakeReady {p i36} (hs : Keeps s₀ s) : KeepsNext s₀ (execBakeReady p i36 s) := by
  unfold execBakeReady
  dsimp only
  refine next ?_
  split
  · exact keeps_ite hs (keeps_ite (keeps_ite hs (keeps_readyUp (hs.same rfl rfl rfl rfl))) (keeps_ite hs
      (hs.same rfl rfl rfl rfl)))
  · exact hs

theorem keeps_execBakeGo {i36} (hs : Keeps s₀ s) : KeepsNext s₀ (execBakeGo i36 s) := by
  unfold execBakeGo
  extract_lets s1
  have h1 : Keeps s₀ s1 := keeps_copyDown hs
  clear_value s1
  refine next (keeps_ite hs ?_)
  split
  · exact keeps_ite (h1.same rfl rfl rfl rfl) h1
  · exact h1

theorem keeps_execBakeCancel {i36} (hs : Keeps s₀ s) : KeepsNext s₀ (execBakeCancel i36 s) := by
  unfold execBakeCancel
  dsimp only
  refine next (keeps_ite hs ?_)
  split
  · exact keeps_ite (keeps_bakeDrop (keeps_copyDown hs)) (keeps_copyDown hs)
  · exact keeps_copyDown hs

theorem keeps_tokenLate (hs : Keeps s₀ s) : Keeps s₀ (tokenLate s) :=
  keeps_foldl (fun _ _ hs => keeps_completeV hs) (keeps_forAll hs (fun _ _ hs => keeps_count (keeps_modQuay hs
    fun _ => rfl)))

theorem keeps_lineHold {l d} (hs : Keeps s₀ s) : Keeps s₀ (lineHold s l d) :=
  keeps_ite (keeps_count hs) (hs.same rfl rfl rfl rfl)

theorem keeps_lineRaised {l d} (hs : Keeps s₀ s) : Keeps s₀ (lineRaised s l d) :=
  keeps_ite (keeps_count hs) (keeps_lineHold (keeps_ite (keeps_send (hs.same rfl rfl rfl rfl)) (hs.same rfl rfl
    rfl rfl)))

theorem keeps_acqEvent {b n} (hs : Keeps s₀ s) : Keeps s₀ (acqEvent s b n) := keeps_modAcq hs

theorem keeps_tmuArmEvent {b a} (hs : Keeps s₀ s) : Keeps s₀ (tmuArmEvent s b a) :=
  keeps_ite (keeps_modTmu hs) (keeps_ite (keeps_count hs) hs)

theorem keeps_lineDeliver {l d} (hs : Keeps s₀ s) : Keeps s₀ (lineDeliver s l d) :=
  keeps_forAll hs (fun _ _ hs => keeps_ite (keeps_tmuArmEvent (keeps_ite (keeps_acqEvent hs) hs)) (keeps_ite
    (keeps_acqEvent hs) hs))

theorem keeps_execTrigDeliveryInstant {line} (hs : Keeps s₀ s) :
    KeepsNext s₀ (execTrigDeliveryInstant line s) := by
  unfold execTrigDeliveryInstant
  refine next ?_
  split
  · next d _ => exact keeps_lineDeliver ((keeps_reach (i := d) hs).same rfl rfl rfl rfl)
  · exact hs

theorem keeps_execOven {ok} (hs : Keeps s₀ s) : KeepsNext s₀ (execOven ok s) := by
  unfold execOven
  extract_lets chain s1
  have h1 : Keeps s₀ s1 := keeps_copyDown (hs.same rfl rfl rfl rfl)
  exact next (keeps_ite hs (keeps_ite (keeps_ovenLost h1) (keeps_ite (h1.same rfl rfl rfl rfl) h1)))

theorem keeps_tideCorrect {c} (hs : Keeps s₀ s) : Keeps s₀ (tideCorrect s c) := hs.same rfl rfl rfl rfl

theorem keeps_alignAgain (hs : Keeps s₀ s) : Keeps s₀ (alignAgain s) := by
  unfold alignAgain
  dsimp only
  split
  · exact keeps_ite hs (keeps_alignSettle (keeps_measStart (keeps_forwardAll hs)))
  · exact hs

theorem keeps_execTideCorrectionApply (hs : Keeps s₀ s) : KeepsNext s₀ (execTideCorrectionApply s) := by
  unfold execTideCorrectionApply
  refine next ?_
  split
  · extract_lets s1 chain s2
    have h1 : Keeps s₀ s1 := keeps_reach hs
    clear_value s1
    have h2 : Keeps s₀ s2 := keeps_ite (h1.same rfl rfl rfl rfl) (keeps_tideCorrect h1)
    exact keeps_ite h2 (keeps_alignAgain h2)
  · exact hs

theorem keeps_execTideTrackMeasure {theta} (hs : Keeps s₀ s) : KeepsNext s₀ (execTideTrackMeasure theta s) :=
  next (keeps_ite (keeps_ite (keeps_chainUnalign (keeps_ite (keeps_count (hs.same rfl rfl rfl rfl)) (hs.same
    rfl rfl rfl rfl))) (keeps_ite (keeps_count (hs.same rfl rfl rfl rfl)) (hs.same rfl rfl rfl rfl))) hs)

theorem keeps_execTideTrackStep (hs : Keeps s₀ s) : KeepsNext s₀ (execTideTrackStep s) :=
  next (keeps_ite ((keeps_reach (i := s.chain.stepAt) hs).same rfl rfl rfl rfl) hs)

theorem keeps_enumArrive {q topology x y leg} (hs : Keeps s₀ s) : Keeps s₀ (enumArrive s q topology x y leg) :=
    by
  unfold enumArrive
  dsimp only
  refine keeps_ite hs ?_
  split
  · exact hs
  · exact keeps_send (keeps_ite (keeps_send (keeps_setRoles (hs.same rfl rfl rfl rfl))) (keeps_setRoles
      (hs.same rfl rfl rfl rfl)))

theorem keeps_enumReported {body r} (hs : Keeps s₀ s) : Keeps s₀ (enumReported s body r) := by
  unfold enumReported
  refine keeps_ite (keeps_send hs) ?_
  split
  · exact keeps_enumSettle (keeps_putCmd hs)
  · exact hs

theorem keeps_deviceUnaligned {i} (hs : Keeps s₀ s) : Keeps s₀ (deviceUnaligned s i) := hs.same rfl rfl rfl rfl

theorem keeps_parkAll {cause wait} (hs : Keeps s₀ s) : Keeps s₀ (parkAll s cause wait) :=
  keeps_deviceParked (keeps_forAll hs (fun _ _ hs => keeps_parkOne hs))

theorem keeps_indexAssigned {x y i excluded} (hs : Keeps s₀ s) : Keeps s₀ (indexAssigned s x y i excluded) :=
  keeps_ite hs (keeps_ite (keeps_ite (keeps_parkAll (hs.same rfl rfl rfl rfl)) (hs.same rfl rfl rfl rfl))
    (keeps_ite (keeps_send hs) ((keeps_send hs).same rfl rfl rfl rfl)))

theorem keeps_noteTheta {i theta cross} (hs : Keeps s₀ s) : Keeps s₀ (noteTheta s i theta cross) := by
  unfold noteTheta
  refine keeps_ite (keeps_send hs) ?_
  split
  · exact keeps_putCmd hs
  · exact hs

theorem keeps_exchangeDone {p exchange t1 t2} (hs : Keeps s₀ s) : Keeps s₀ (exchangeDone s p exchange t1 t2) :=
    by
  unfold exchangeDone
  dsimp only
  split
  · exact hs
  · refine keeps_ite hs (keeps_ite (keeps_send (keeps_setMeas hs)) ?_)
    split
    · exact keeps_alignSettle (keeps_noteTheta (keeps_setMeas hs))
    · exact keeps_alignSettle (keeps_setMeas hs)

theorem keeps_lossPark (hs : Keeps s₀ s) : Keeps s₀ (lossPark s) := keeps_parkAll (keeps_parkInterrupt hs)

theorem keeps_followerThermal (hs : Keeps s₀ s) : Keeps s₀ (followerThermal s) := keeps_ite (keeps_causeEvent hs) hs

theorem keeps_arrive {h op} (hs : Keeps s₀ s) : Keeps s₀ (arrive s h op) := by
  unfold arrive
  dsimp only
  split
  · exact keeps_answerRejected hs
  · exact keeps_tryStart (keeps_enter hs)

theorem keeps_finishForwarded {c status gen stamp data} (hs : Keeps s₀ s) : Keeps s₀ (finishForwarded s c
    status gen stamp data) :=
  keeps_postOrdered (keeps_noteTrays hs)

theorem keeps_refSelectResume (hs : Keeps s₀ s) : Keeps s₀ (refSelectResume s) := by
  unfold refSelectResume
  split
  · exact hs
  · split
    · exact keeps_complete hs
    · split
      · exact keeps_refSelectGo hs
      · exact hs

theorem keeps_replyArrive {tag i status gen stamp data} (hs : Keeps s₀ s) : Keeps s₀ (replyArrive s tag i
    status gen stamp data) := by
  unfold replyArrive
  dsimp only
  split
  · exact hs
  · split
    · exact keeps_ite hs (keeps_uploadSettle (keeps_putCmd hs))
    · exact keeps_ite (keeps_finishForwarded hs) (keeps_alignSettle (keeps_refSelectResume (keeps_partReply
        hs)))

theorem keeps_stagePart {bytes} (hs : Keeps s₀ s) : Keeps s₀ (stagePart s bytes) :=
  ((keeps_foldl (fun _ _ hs => keeps_holdWrite hs) hs)).same rfl rfl rfl rfl

theorem keeps_partArrive {i bytes} (hs : Keeps s₀ s) : Keeps s₀ (partArrive s i bytes) := by
  unfold partArrive
  dsimp only
  split
  · split
    · exact keeps_uploadSettle (keeps_putCmd (keeps_stagePart hs))
    · exact hs
  · split
    · exact keeps_putCmd hs
    · exact hs

theorem keeps_snapArrive {tag t} (hs : Keeps s₀ s) : Keeps s₀ (snapArrive s tag t) := by
  unfold snapArrive
  split
  · exact keeps_putCmd hs
  · exact hs

theorem keeps_bcastArrive {a bytes last} (hs : Keeps s₀ s) : Keeps s₀ (bcastArrive s a bytes last) :=
  keeps_ite (keeps_send (keeps_ite (((keeps_ite (keeps_send hs) (keeps_holdWrite (keeps_send hs)))).same rfl
    rfl rfl rfl) (keeps_count (((keeps_ite (keeps_send hs) (keeps_holdWrite (keeps_send hs)))).same rfl rfl rfl
    rfl)))) (((keeps_ite (keeps_send hs) (keeps_holdWrite (keeps_send hs)))).same rfl rfl rfl rfl)

theorem keeps_bcastCrcArrive {i crc wrote} (hs : Keeps s₀ s) : Keeps s₀ (bcastCrcArrive s i crc wrote) := by
  unfold bcastCrcArrive
  dsimp only
  refine keeps_ite (keeps_send hs) ?_
  split
  · split
    · exact keeps_bcastSettle (keeps_putCmd hs)
    · exact hs
  · exact hs

theorem keeps_deliver {p body} (hs : Keeps s₀ s) : Keeps s₀ (deliver s p body) := by
  unfold deliver
  dsimp only
  split
  · exact keeps_enumArrive hs
  · exact keeps_enumReported hs
  · exact keeps_ite (keeps_send (hs.same rfl rfl rfl rfl)) hs
  · exact keeps_ite hs (keeps_ite (hs.same rfl rfl rfl rfl) (keeps_send hs))
  · exact keeps_ite (keeps_send hs) (keeps_deviceUnaligned hs)
  · exact keeps_indexAssigned hs
  · exact keeps_exchangeDone hs
  · exact keeps_ite hs (keeps_ite (hs.same rfl rfl rfl rfl) (keeps_send hs))
  · exact keeps_alignSettle (keeps_noteTheta hs)
  · exact keeps_ite (keeps_lossPark (keeps_send hs)) hs
  · exact keeps_ite (keeps_send hs) (keeps_followerThermal hs)
  · exact keeps_ite (keeps_send (hs.same rfl rfl rfl rfl)) hs
  · exact keeps_ite hs (keeps_ite (keeps_arrive hs) (keeps_send hs))
  · exact keeps_ite (keeps_send hs) (keeps_replyArrive hs)
  · exact keeps_ite (keeps_send hs) (keeps_partArrive hs)
  · exact hs
  · exact keeps_ite (keeps_snapArrive (keeps_send hs)) hs
  · exact keeps_ite (keeps_send hs) (keeps_partArrive hs)
  · exact keeps_ite (keeps_bcastArrive hs) hs
  · exact keeps_bcastCrcArrive hs

theorem keeps_grantFree (hs : Keeps s₀ s) : Keeps s₀ (grantFree s) :=
  keeps_foldl (fun _ _ hs => keeps_sendRaw hs) (hs.same rfl rfl rfl rfl)

theorem keeps_receive {p b} (hs : Keeps s₀ s) : Keeps s₀ (receive s p b) :=
  keeps_grantFree ((keeps_deliver hs).same rfl rfl rfl rfl)

theorem keeps_execFrameReceive {p seq crcOk body} (hs : Keeps s₀ s) : KeepsNext s₀ (execFrameReceive p seq
    crcOk body s) :=
  next (keeps_ite hs (keeps_ite (keeps_sendRaw (keeps_count hs)) (keeps_ite (keeps_receive (keeps_sendRaw
    (keeps_modPort hs))) (keeps_ite (keeps_sendRaw hs) hs))))

theorem keeps_linkFall {p} (hs : Keeps s₀ s) : Keeps s₀ (linkFall s p) :=
  keeps_ite (keeps_ite (keeps_refLoss ((keeps_portDown hs).same rfl rfl rfl rfl)) ((keeps_portDown hs).same rfl
    rfl rfl rfl)) (keeps_portDown hs)

theorem keeps_execLinkBlock {p use} (hs : Keeps s₀ s) : KeepsNext s₀ (execLinkBlock p use s) := by
  unfold execLinkBlock
  dsimp only
  refine next (keeps_ite hs ?_)
  split
  · exact keeps_ite hs (keeps_grantFree (keeps_portSend (keeps_modPort hs)))
  · exact keeps_ite hs (keeps_ite (keeps_linkFall hs) (keeps_foldl (fun _ _ hs => keeps_sendRaw hs)
      (keeps_count (keeps_modPort hs))))
  · exact keeps_grantFree (keeps_portSend (keeps_modPort hs))

theorem keeps_laneLoss {l} (hs : Keeps s₀ s) : Keeps s₀ (laneLoss s l) :=
  keeps_ite (keeps_linkFall hs) (keeps_laneTrain (keeps_laneLeave hs))

theorem keeps_execAlignMarker {l seq mismatches} (hs : Keeps s₀ s) : KeepsNext s₀ (execAlignMarker l seq
    mismatches s) :=
  next (keeps_ite (keeps_ite (keeps_laneLoss (keeps_modLane (keeps_modPort hs))) (keeps_modLane (keeps_modPort
    hs))) (keeps_ite (keeps_modLane hs) hs))

theorem keeps_portEnter {p} (hs : Keeps s₀ s) : Keeps s₀ (portEnter s p) := by
  unfold portEnter
  dsimp only
  exact keeps_modPort hs

theorem keeps_execLaneDetectAttempt {l} (hs : Keeps s₀ s) : KeepsNext s₀ (execLaneDetectAttempt l s) := by
  unfold execLaneDetectAttempt
  dsimp only
  refine next (keeps_ite ?_ hs)
  split
  · exact keeps_modLane (keeps_ite (keeps_portEnter hs) hs)
  · exact keeps_modLane hs
  · exact hs

theorem keeps_portTraining {p} (hs : Keeps s₀ s) : Keeps s₀ (portTraining s p) := keeps_modPort hs

theorem keeps_execLaneReceiverDetected {l} (hs : Keeps s₀ s) : KeepsNext s₀ (execLaneReceiverDetected l s) := by
  unfold execLaneReceiverDetected
  extract_lets s1
  have h1 : Keeps s₀ s1 := keeps_portTraining (keeps_laneTrain hs)
  clear_value s1
  exact next (keeps_ite (keeps_ite (h1.same rfl rfl rfl rfl) h1) hs)

theorem keeps_portRestart {p rate cause} (hs : Keeps s₀ s) : Keeps s₀ (portRestart s p rate cause) :=
  keeps_ite (keeps_forAll (keeps_portTraining (keeps_modPort hs)) (fun _ _ hs => keeps_laneTrain hs))
    (keeps_forAll (keeps_portEnter (keeps_modPort hs)) (fun _ _ hs => keeps_ite hs (keeps_ite (keeps_modLane
    hs) (keeps_modLane hs))))

theorem keeps_slipReply {l locked} (hs : Keeps s₀ s) : Keeps s₀ (slipReply s l locked) := by
  unfold slipReply
  split
  · exact keeps_completeOk (keeps_reach hs)
  · exact hs

theorem keeps_execBlockLockAchieved {l} (hs : Keeps s₀ s) : KeepsNext s₀ (execBlockLockAchieved l s) := by
  unfold execBlockLockAchieved
  refine next ?_
  split
  · exact keeps_modLane hs
  · exact keeps_slipReply (keeps_modLane hs)
  · exact hs

theorem keeps_execBlockLockTimeout {l} (hs : Keeps s₀ s) : KeepsNext s₀ (execBlockLockTimeout l s) := by
  unfold execBlockLockTimeout
  refine next ?_
  split
  · exact keeps_ite (keeps_laneTrain hs) (keeps_modLane hs)
  · exact keeps_slipReply hs

theorem keeps_capSend {p} (hs : Keeps s₀ s) : Keeps s₀ (capSend s p) :=
  keeps_ite (keeps_sendRaw (keeps_modPort hs)) hs

theorem keeps_execCapabilityFrame {p isPx6410 pilot laneMask rate} (hs : Keeps s₀ s) : KeepsNext s₀
    (execCapabilityFrame p isPx6410 pilot laneMask rate s) :=
  next (keeps_ite hs (keeps_ite (keeps_modPort hs) (keeps_ite (keeps_modPort hs) (keeps_ite (keeps_portRestart
    hs) (keeps_portSettle (keeps_modPort (keeps_forAll hs (fun _ _ hs => keeps_modLane hs))))))))

theorem keeps_testOver {l} (hs : Keeps s₀ s) : Keeps s₀ (testOver s l) :=
  keeps_ite (keeps_modLane hs) (keeps_laneTrain hs)

theorem keeps_execLaneTestEnd {l errors locked} (hs : Keeps s₀ s) : KeepsNext s₀ (execLaneTestEnd l errors
    locked s) := by
  unfold execLaneTestEnd
  refine next ?_
  split
  · exact keeps_completeOk (keeps_testOver (keeps_reach hs))
  · exact keeps_ite (keeps_testOver hs) hs

theorem keeps_startDone {q gated} (hs : Keeps s₀ s) : Keeps s₀ (startDone s q gated) := by
  unfold startDone
  dsimp only
  split
  · exact hs
  · split
    · refine keeps_ite ?_ (keeps_putCmd hs)
      split
      · exact keeps_completeV hs
      · exact keeps_completeOk hs
    · exact hs

theorem keeps_lwClear {m cs} (hs : Keeps s₀ s) : Keeps s₀ (lwClear s m cs) :=
  keeps_forAll hs (fun _ _ hs => keeps_modChan (keeps_holdMod hs))

theorem keeps_raiseLines {kind e p} (hs : Keeps s₀ s) : Keeps s₀ (raiseLines s kind e p) :=
  keeps_ite hs (keeps_forAll hs (fun _ _ hs => keeps_ite (keeps_ite (keeps_send hs) (keeps_lineRaised hs)) hs))

theorem keeps_mark {q lines index sPos} (hs : Keeps s₀ s) : Keeps s₀ (mark s q lines index sPos) :=
  keeps_ite hs (keeps_forAll (keeps_raiseLines hs) (fun _ _ hs => keeps_ite (keeps_tmuArmEvent (keeps_modAcq
    hs)) (keeps_modAcq hs)))

theorem keeps_markStart {q} (hs : Keeps s₀ s) : Keeps s₀ (markStart s q) := keeps_ite (keeps_mark hs) hs

theorem keeps_lwDac {m c d v} (hs : Keeps s₀ s) : Keeps s₀ (lwDac s m c d v) := by
  unfold lwDac
  dsimp only
  exact keeps_modChan (keeps_holdMod (keeps_ite hs (keeps_count hs)))

theorem keeps_lwApply {q m k} (hs : Keeps s₀ s) : Keeps s₀ (lwApply s q m k) :=
  keeps_forAll hs (fun _ _ hs => keeps_forAll hs (fun _ _ hs => keeps_lwDac hs))

theorem keeps_lwStart {q bank n} (hs : Keeps s₀ s) : Keeps s₀ (lwStart s q bank n) :=
  keeps_lwApply (keeps_modQuay hs fun _ => rfl)

theorem keeps_lwEnter {q g} (hs : Keeps s₀ s) : Keeps s₀ (lwEnter s q g) :=
  keeps_ite (keeps_lwStart (keeps_lwClear hs)) (keeps_ite (keeps_count (keeps_modQuay (keeps_lwClear hs) fun _
    => rfl)) (keeps_modQuay (keeps_lwClear hs) fun _ => rfl))

theorem keeps_enterNow {q g} (hs : Keeps s₀ s) : Keeps s₀ (enterNow s q g) :=
  keeps_ite (keeps_starveAt (keeps_modQuay hs fun _ => rfl)) (keeps_ite (keeps_count (keeps_burstEnd hs))
    (keeps_ite (keeps_starveAt (keeps_modQuay hs fun _ => rfl)) (keeps_markStart (keeps_lwEnter (keeps_modQuay
    hs fun _ => rfl)))))

theorem keeps_burstBegin {q i} (hs : Keeps s₀ s) : Keeps s₀ (burstBegin s q i) :=
  keeps_enterNow (keeps_ite (keeps_forAll (keeps_modQuay (keeps_forAll hs (fun _ _ hs => keeps_modFc (keeps_ite
    (keeps_modBerth hs) hs))) fun _ => rfl) (fun _ _ hs => keeps_modChan hs)) (keeps_lwClear (keeps_forAll
    (keeps_modQuay (keeps_forAll hs (fun _ _ hs => keeps_modFc (keeps_ite (keeps_modBerth hs) hs))) fun _ =>
    rfl) (fun _ _ hs => keeps_modChan hs))))

theorem keeps_execBurstStart {q} (hs : Keeps s₀ s) : KeepsNext s₀ (execBurstStart q s) := by
  unfold execBurstStart
  dsimp only
  refine next ?_
  split
  · exact keeps_ite (keeps_ite (keeps_startDone (keeps_modQuay (keeps_count (keeps_reach hs)) fun _ => rfl))
      (keeps_startDone (keeps_burstBegin (keeps_reach hs)))) hs
  · exact hs

theorem keeps_execSuccessorCommit {q} (hs : Keeps s₀ s) : KeepsNext s₀ (execSuccessorCommit q s) := by
  unfold execSuccessorCommit
  dsimp only
  refine next (keeps_ite ?_ hs)
  split
  · exact keeps_modQuay (keeps_reach hs) fun _ => rfl
  · exact hs

theorem keeps_pauseStart {q n} (hs : Keeps s₀ s) : Keeps s₀ (pauseStart s q n) := keeps_modQuay hs fun _ => rfl

theorem keeps_enterDiverged {q g played} (hs : Keeps s₀ s) : Keeps s₀ (enterDiverged s q g played) :=
  keeps_ite (keeps_ite (keeps_pauseStart (keeps_modQuay (keeps_modQuay hs fun _ => rfl) fun _ => rfl))
    (keeps_enterNow (keeps_modQuay hs fun _ => rfl))) (keeps_enterNow (keeps_modQuay hs fun _ => rfl))

theorem keeps_jumpTake {q played} (hs : Keeps s₀ s) : Keeps s₀ (jumpTake s q played) := by
  unfold jumpTake
  dsimp only
  split
  · exact hs
  · refine keeps_enterDiverged ?_
    split
    · exact keeps_completeOk (keeps_modQuay hs fun _ => rfl)
    · exact keeps_modQuay hs fun _ => rfl

theorem keeps_lwPass {q} (hs : Keeps s₀ s) : Keeps s₀ (lwPass s q) := keeps_ite (keeps_lwStart hs) hs

theorem keeps_nextPass {q} (hs : Keeps s₀ s) : Keeps s₀ (nextPass s q) :=
  keeps_markStart (keeps_lwPass (keeps_modQuay hs fun _ => rfl))

theorem keeps_afterEntry {q} (hs : Keeps s₀ s) : Keeps s₀ (afterEntry s q) := by
  unfold afterEntry
  dsimp only
  split
  · exact keeps_ite (keeps_haltAt hs) (keeps_enterNow (keeps_modQuay hs fun _ => rfl))
  · split
    · exact keeps_haltAt hs
    · exact keeps_enterNow (keeps_modQuay hs fun _ => rfl)
  · exact keeps_ite (keeps_burstEnd hs) (keeps_enterNow hs)

theorem keeps_passEnd {q} (hs : Keeps s₀ s) : Keeps s₀ (passEnd s q) := by
  unfold passEnd
  dsimp only
  split
  · exact keeps_haltAt hs
  · exact keeps_ite (keeps_jumpTake hs) (keeps_ite (keeps_pauseStart hs) (keeps_ite (keeps_nextPass hs)
      (keeps_ite (keeps_afterEntry hs) (keeps_pauseStart hs))))

theorem keeps_markEnd {q} (hs : Keeps s₀ s) : Keeps s₀ (markEnd s q) := keeps_ite (keeps_mark hs) hs

theorem keeps_passDone {q} (hs : Keeps s₀ s) : Keeps s₀ (passDone s q) :=
  keeps_markEnd (keeps_modQuay hs fun _ => rfl)

theorem keeps_decide_ {q played} (hs : Keeps s₀ s) : Keeps s₀ (decide_ s q played) := by
  unfold decide_
  dsimp only
  split
  · exact keeps_ite (keeps_enterDiverged hs) (keeps_afterEntry hs)
  · exact keeps_ite (keeps_afterEntry hs) (keeps_enterDiverged hs)
  · exact keeps_ite (keeps_ite (keeps_burstEnd hs) (keeps_enterDiverged hs)) (keeps_ite (keeps_nextPass hs)
      (keeps_ite (keeps_haltAt (keeps_count hs)) (keeps_enterNow (keeps_count hs))))
  · exact keeps_afterEntry hs

theorem keeps_execDecisionPauseEnd {q} (hs : Keeps s₀ s) : KeepsNext s₀ (execDecisionPauseEnd q s) := by
  unfold execDecisionPauseEnd
  dsimp only
  refine next ?_
  split
  · refine keeps_ite ?_ hs
    split
    · exact keeps_haltAt (keeps_reach (keeps_modQuay (keeps_advanceQ hs) fun _ => rfl))
    · exact keeps_ite (keeps_jumpTake (keeps_reach (keeps_modQuay (keeps_advanceQ hs) fun _ => rfl)))
        (keeps_decide_ (keeps_reach (keeps_modQuay (keeps_advanceQ hs) fun _ => rfl)))
  · exact hs

theorem keeps_playGranules {q g} (hs : Keeps s₀ s) : Keeps s₀ (playGranules s q g) :=
  keeps_ite (keeps_passDone (keeps_playVectors hs)) (keeps_playVectors hs)

theorem keeps_execHaltTaken {q} (hs : Keeps s₀ s) : KeepsNext s₀ (execHaltTaken q s) := by
  unfold execHaltTaken
  dsimp only
  refine next ?_
  split
  · refine keeps_ite ?_ hs
    split
    · exact keeps_ite (keeps_haltAt (keeps_playGranules hs)) (keeps_playGranules hs)
    · exact hs
  · exact hs

theorem keeps_execJumpTaken {q} (hs : Keeps s₀ s) : KeepsNext s₀ (execJumpTaken q s) := by
  unfold execJumpTaken
  dsimp only
  refine next ?_
  split
  · refine keeps_ite ?_ hs
    split
    · refine keeps_ite ?_ (keeps_playGranules hs)
      split
      · exact keeps_haltAt (keeps_reach (keeps_playGranules hs))
      · exact keeps_jumpTake (keeps_reach (keeps_playGranules hs))
    · exact hs
  · exact hs

theorem keeps_execStreamPrefillDone {q} (hs : Keeps s₀ s) : KeepsNext s₀ (execStreamPrefillDone q s) := by
  unfold execStreamPrefillDone
  dsimp only
  refine next ?_
  split
  · exact hs
  · split
    · exact keeps_ite (keeps_ite (keeps_armAll hs) (keeps_putCmd hs)) hs
    · exact hs

theorem keeps_fifoHolds {q n} (hs : Keeps s₀ s) : Keeps s₀ (fifoHolds s q n) := keeps_modQuay hs fun _ => rfl

theorem keeps_streamBad {q} (hs : Keeps s₀ s) : Keeps s₀ (streamBad s q) := by
  unfold streamBad
  dsimp only
  split
  · exact keeps_eccNote (hs.same rfl rfl rfl rfl)
  · exact keeps_count hs

theorem keeps_execStreamReadComplete {q bytes bad} (hs : Keeps s₀ s) : KeepsNext s₀ (execStreamReadComplete q
    bytes bad s) :=
  next (keeps_ite (keeps_catchUp hs) (keeps_ite (keeps_modQuay (keeps_fifoHolds (keeps_streamBad
    (keeps_fifoHolds (keeps_catchUp hs)))) fun _ => rfl) (keeps_ite (keeps_count (keeps_fifoHolds
    (keeps_catchUp hs))) (keeps_fifoHolds (keeps_catchUp hs)))))

theorem keeps_windowNote {b index rs} (hs : Keeps s₀ s) : Keeps s₀ (windowNote s b index rs) := by
  unfold windowNote
  dsimp only
  exact keeps_modQuay hs fun _ => rfl

theorem keeps_maskOne {b r} (hs : Keeps s₀ s) : Keeps s₀ (maskOne b s r) :=
  keeps_setChan (keeps_ite (keeps_modFc hs) hs)

theorem keeps_noteFails {b index matchWait} (hs : Keeps s₀ s) : Keeps s₀ (noteFails s b index matchWait) :=
  keeps_modQuay hs fun _ => rfl

theorem keeps_failOne {b index r} (hs : Keeps s₀ s) : Keeps s₀ (failOne b index s r) :=
  keeps_setChan (keeps_ite (keeps_modFc hs) hs)

theorem keeps_logEntry {b e} (hs : Keeps s₀ s) : Keeps s₀ (logEntry s b e) :=
  keeps_ite (keeps_count (keeps_modFc hs)) (keeps_ite (keeps_count (keeps_modFc hs)) (keeps_modFc hs))

theorem keeps_failVector {b index seg pass rs} (hs : Keeps s₀ s) : Keeps s₀ (failVector s b index seg pass rs)
    := by
  unfold failVector
  dsimp only
  split
  · exact keeps_logEntry (keeps_modFc (keeps_foldl (fun _ _ hs => keeps_failOne hs) hs))
  · exact keeps_ite (keeps_logEntry (keeps_modFc (keeps_foldl (fun _ _ hs => keeps_failOne hs) hs)))
      (keeps_modFc (keeps_foldl (fun _ _ hs => keeps_failOne hs) hs))
  · exact keeps_modFc (keeps_foldl (fun _ _ hs => keeps_failOne hs) hs)

theorem keeps_captureEntry {b e} (hs : Keeps s₀ s) : Keeps s₀ (captureEntry s b e) :=
  keeps_ite (keeps_count (keeps_modFc hs)) (keeps_modFc hs)

theorem keeps_execCompareResult {b index seg pass matchWait results} (hs : Keeps s₀ s) : KeepsNext s₀
    (execCompareResult b index seg pass matchWait results s) :=
  next (keeps_ite (keeps_ite (keeps_ite (keeps_ite (keeps_foldl (fun _ _ hs => keeps_maskOne hs)
    (keeps_windowNote hs)) (keeps_noteFails (keeps_foldl (fun _ _ hs => keeps_maskOne hs) (keeps_windowNote
    hs)))) (keeps_failVector (keeps_ite (keeps_foldl (fun _ _ hs => keeps_maskOne hs) (keeps_windowNote hs))
    (keeps_noteFails (keeps_foldl (fun _ _ hs => keeps_maskOne hs) (keeps_windowNote hs))))))
    (keeps_captureEntry (keeps_ite (keeps_ite (keeps_foldl (fun _ _ hs => keeps_maskOne hs) (keeps_windowNote
    hs)) (keeps_noteFails (keeps_foldl (fun _ _ hs => keeps_maskOne hs) (keeps_windowNote hs))))
    (keeps_failVector (keeps_ite (keeps_foldl (fun _ _ hs => keeps_maskOne hs) (keeps_windowNote hs))
    (keeps_noteFails (keeps_foldl (fun _ _ hs => keeps_maskOne hs) (keeps_windowNote hs)))))))) hs)

theorem keeps_takeOutcome {q b} (hs : Keeps s₀ s) : Keeps s₀ (takeOutcome s q b) := by
  unfold takeOutcome
  dsimp only
  exact keeps_modFc hs

theorem keeps_takeSite {q b armed} (hs : Keeps s₀ s) : Keeps s₀ (takeSite s q b armed) :=
  keeps_ite hs (keeps_modFc hs)

theorem keeps_spillEntries {base size first es} (hs : Keeps s₀ s) :
    Keeps s₀ (spillEntries s base size first es) := by
  induction es generalizing s first with
  | nil => exact hs
  | cons e rest ih => exact ih (keeps_holdWrite hs)

theorem keeps_spillLog {b n} (hs : Keeps s₀ s) : Keeps s₀ (spillLog s b n) :=
  keeps_ite (keeps_countN (keeps_modFc hs)) (keeps_countN (keeps_spillEntries (keeps_modFc hs)))

theorem keeps_execResultDone {q} (hs : Keeps s₀ s) : KeepsNext s₀ (execResultDone q s) :=
  next (keeps_ite (keeps_modQuay (keeps_forAll (keeps_forAll (keeps_forAll (keeps_reach hs) (fun _ _ hs =>
    keeps_takeOutcome (keeps_modFc hs))) (fun _ _ hs => keeps_takeSite hs)) (fun _ _ hs => keeps_ite
    (keeps_spillLog hs) hs)) fun _ => rfl) hs)

theorem keeps_spillCapture {b n} (hs : Keeps s₀ s) : Keeps s₀ (spillCapture s b n) :=
  keeps_ite (keeps_countN (keeps_modFc hs)) (keeps_spillEntries (keeps_modFc hs))

theorem keeps_execResultSnapshot (hs : Keeps s₀ s) : KeepsNext s₀ (execResultSnapshot s) := by
  unfold execResultSnapshot
  refine next ?_
  split
  · exact hs
  · split
    · exact keeps_uploadTake (keeps_reach hs)
    · exact hs

theorem keeps_execResultPartTimeout (hs : Keeps s₀ s) : KeepsNext s₀ (execResultPartTimeout s) := by
  unfold execResultPartTimeout
  dsimp only
  refine next ?_
  split
  · exact hs
  · split
    · exact keeps_completeV (keeps_ite (keeps_writeResult (keeps_reach hs)) (keeps_reach hs))
    · exact hs

theorem keeps_setWing {w x} (hs : Keeps s₀ s) : Keeps s₀ (setWing s w x) := hs.same rfl rfl rfl rfl

theorem keeps_modWing {w f} (hs : Keeps s₀ s) : Keeps s₀ (modWing s w f) := keeps_setWing hs

theorem keeps_countFront {sc i f m} (hs : Keeps s₀ s) : Keeps s₀ (countFront s sc i f m) :=
  keeps_ite (keeps_modWing hs) (keeps_count hs)

theorem keeps_calFault {b} (hs : Keeps s₀ s) : Keeps s₀ (calFault s b) :=
  keeps_ite hs (keeps_ite (keeps_modCal hs) (keeps_modCal (keeps_ite (keeps_modBerth hs) hs)))

theorem keeps_berthFault {b src inst group} (hs : Keeps s₀ s) : Keeps s₀ (berthFault s b src inst group) := by
  unfold berthFault
  extract_lets x running s1 s2 s3
  have h1 : Keeps s₀ s1 := keeps_ite (keeps_haltRequest hs) (keeps_leaveArmed hs)
  have h2 : Keeps s₀ s2 := keeps_modBerth h1
  have h3 : Keeps s₀ s3 := keeps_causeEvent (h2.same rfl rfl rfl rfl)
  exact keeps_ite hs (keeps_parkBerth (keeps_calFault h3))

theorem keeps_berthsFault {bs src inst v group} (hs : Keeps s₀ s) : Keeps s₀ (berthsFault s bs src inst v group) :=
  keeps_forAll (keeps_deferredEnd (keeps_interrupt hs)) (fun _ _ hs => keeps_berthFault hs)

theorem keeps_execShortLimitEvent {c} (hs : Keeps s₀ s) : KeepsNext s₀ (execShortLimitEvent c s) :=
  next (keeps_ite (keeps_catchUp hs) (keeps_ite (keeps_berthsFault (keeps_modChan (keeps_countFront
    (keeps_catchUp hs)))) (keeps_modChan (keeps_countFront (keeps_catchUp hs)))))

theorem keeps_tmuHandover {b k} (hs : Keeps s₀ s) : Keeps s₀ (tmuHandover s b k) := keeps_ite (keeps_modTmu hs) hs

theorem keeps_acqHandover {b k} (hs : Keeps s₀ s) : Keeps s₀ (acqHandover s b k) := keeps_modAcq hs

theorem keeps_execSubstCompareMove {b} (hs : Keeps s₀ s) : KeepsNext s₀ (execSubstCompareMove b s) := by
  unfold execSubstCompareMove
  dsimp only
  refine next (keeps_ite ?_ hs)
  split
  · exact keeps_tmuHandover (keeps_acqHandover (keeps_modBerth (keeps_reach hs)))
  · exact hs

theorem keeps_freeze {c} (hs : Keeps s₀ s) : Keeps s₀ (freeze s c) := keeps_freezeMembers hs

theorem keeps_calEndRelief {b v} (hs : Keeps s₀ s) : Keeps s₀ (calEndRelief s b v) :=
  keeps_completeAll (keeps_modCal hs)

theorem keeps_calHandedOver {b} (hs : Keeps s₀ s) : Keeps s₀ (calHandedOver s b) :=
  keeps_ite (keeps_calEndRelief (keeps_modBerth hs)) (keeps_ite (keeps_calReady (keeps_modBerth hs))
    (keeps_modBerth hs))

theorem keeps_ownMode {c} (hs : Keeps s₀ s) : Keeps s₀ (ownMode s c) := keeps_ite hs (keeps_setMode hs)

theorem keeps_calReleased {b} (hs : Keeps s₀ s) : Keeps s₀ (calReleased s b) :=
  keeps_ite (keeps_calEndRelief (keeps_modBerth hs)) (keeps_ite (keeps_calEndUndone (keeps_modBerth hs))
    (keeps_ite (keeps_calNext (keeps_modBerth hs)) (keeps_modBerth hs)))

theorem keeps_execSubstSwitch {b} (hs : Keeps s₀ s) : KeepsNext s₀ (execSubstSwitch b s) := by
  unfold execSubstSwitch
  dsimp only
  refine next ?_
  split
  · exact hs
  · exact keeps_ite (keeps_ite (keeps_calHandedOver (keeps_count (keeps_modBerth (keeps_modChan (keeps_ite
      (keeps_freeze (keeps_modChan (keeps_holdMod (keeps_reach hs)))) (keeps_modChan (keeps_holdMod
      (keeps_reach hs)))))))) (keeps_ownMode (keeps_calReleased (keeps_count (keeps_modBerth (keeps_modChan
      (keeps_ite (keeps_freeze (keeps_modChan (keeps_holdMod (keeps_reach hs)))) (keeps_modChan (keeps_holdMod
      (keeps_reach hs)))))))))) hs

theorem keeps_parkFinish {b} (hs : Keeps s₀ s) : Keeps s₀ (parkFinish s b) := by
  unfold parkFinish
  dsimp only
  split
  · exact hs
  · exact keeps_ite hs (keeps_settle (keeps_offAdvance (keeps_foldl (fun _ _ hs => keeps_offOrderly hs)
      (keeps_modBerth (keeps_forAll hs (fun _ _ hs => keeps_parkApply hs))))))

theorem keeps_freeBerth {b} (hs : Keeps s₀ s) : Keeps s₀ (freeBerth s b) := keeps_loadFreed (hs.same rfl rfl rfl rfl)

theorem keeps_pathLeave {b} (hs : Keeps s₀ s) : Keeps s₀ (pathLeave s b) :=
  keeps_calNext (keeps_calSkip (keeps_modBerth hs))

theorem keeps_calUnparked {b} (hs : Keeps s₀ s) : Keeps s₀ (calUnparked s b) :=
  keeps_ite hs (keeps_ite (keeps_pathLeave hs) (keeps_ite (keeps_calNext (keeps_calSkip (keeps_modCal
    (keeps_calSwitchBack hs)))) hs))

theorem keeps_unparkChan {c} (hs : Keeps s₀ s) : Keeps s₀ (unparkChan s c) :=
  keeps_setMode (keeps_modChan (keeps_holdMod hs))

theorem keeps_unparkBerth {b} (hs : Keeps s₀ s) : Keeps s₀ (unparkBerth s b) :=
  keeps_ite (keeps_calUnparked (keeps_forAll (keeps_modBerth (keeps_freeBerth (keeps_parkFinish hs))) (fun _ _
    hs => keeps_unparkChan hs))) hs

theorem keeps_execUnparkInstant (hs : Keeps s₀ s) : KeepsNext s₀ (execUnparkInstant s) := by
  unfold execUnparkInstant
  dsimp only
  refine next ?_
  split
  · exact hs
  · exact keeps_completeOk (keeps_ite (((keeps_forAll (keeps_reach hs) (fun _ _ hs => keeps_unparkBerth
      hs))).same rfl rfl rfl rfl) (keeps_forAll (keeps_reach hs) (fun _ _ hs => keeps_unparkBerth hs)))

theorem keeps_execParkModeApply {b} (hs : Keeps s₀ s) : KeepsNext s₀ (execParkModeApply b s) := by
  unfold execParkModeApply
  refine next ?_
  split
  · split
    · exact keeps_parkFinish (keeps_reach hs)
    · exact hs
  · exact hs

theorem keeps_execOrderlyParkDeadline {b} (hs : Keeps s₀ s) : KeepsNext s₀ (execOrderlyParkDeadline b s) := by
  unfold execOrderlyParkDeadline
  refine next ?_
  split
  · split
    · exact keeps_parkBegin (keeps_reach hs)
    · exact hs
  · exact hs

theorem keeps_rangeStep {c from_ at_} (hs : Keeps s₀ s) : Keeps s₀ (rangeStep s c from_ at_) := by
  unfold rangeStep
  split
  · exact keeps_ite (keeps_modChan (keeps_reach hs)) hs
  · exact hs

theorem keeps_execRangeSwEnd {c} (hs : Keeps s₀ s) : KeepsNext s₀ (execRangeSwEnd c s) := by
  unfold execRangeSwEnd
  dsimp only
  refine next ?_
  split
  · exact keeps_ite (keeps_modChan (keeps_reach hs)) hs
  · exact hs

theorem keeps_ppmuFinish {c r} (hs : Keeps s₀ s) : Keeps s₀ (ppmuFinish s c r) := by
  unfold ppmuFinish
  dsimp only
  split
  · exact keeps_modChan hs
  · split
    · exact keeps_ite (keeps_putCmd (keeps_modChan hs)) (keeps_ite (keeps_complete (keeps_modChan hs))
        (keeps_complete (keeps_modChan hs)))
    · exact keeps_modChan hs

theorem keeps_execPpmuSample {c value} (hs : Keeps s₀ s) : KeepsNext s₀ (execPpmuSample c value s) := by
  unfold execPpmuSample
  dsimp only
  refine next ?_
  split
  · exact hs
  · exact keeps_ite hs (keeps_ite (keeps_ppmuFinish hs) (keeps_modChan hs))

theorem keeps_recordEnd {b} (hs : Keeps s₀ s) : Keeps s₀ (recordEnd s b) := keeps_modAcq hs

theorem keeps_postSample {b sum m} (hs : Keeps s₀ s) : Keeps s₀ (postSample s b sum m) :=
  keeps_ite hs (keeps_ite (keeps_modAcq (keeps_ite (keeps_count (keeps_modAcq hs)) hs)) (keeps_ite
    (keeps_modAcq (keeps_modAcq (keeps_ite (keeps_count (keeps_modAcq hs)) hs))) (keeps_modAcq (keeps_modAcq
    (keeps_ite (keeps_count (keeps_modAcq hs)) hs)))))

theorem keeps_missTrigger {b} (hs : Keeps s₀ s) : Keeps s₀ (missTrigger s b) := keeps_count (keeps_modAcq hs)

theorem keeps_baseSample {b sum events clip marker} (hs : Keeps s₀ s) : Keeps s₀ (baseSample s b sum events
    clip marker) := by
  unfold baseSample
  dsimp only
  refine keeps_ite hs ?_
  split
  · exact keeps_ite (keeps_modAcq (keeps_modAcq (keeps_reach hs))) (keeps_recordEnd (keeps_postSample
      (keeps_raiseLines (keeps_modAcq (keeps_modAcq (keeps_reach hs))))))
  · exact keeps_recordEnd (keeps_postSample (keeps_modAcq (keeps_reach hs)))
  · exact keeps_ite (keeps_modAcq (keeps_reach hs)) (keeps_missTrigger (keeps_modAcq (keeps_reach hs)))

theorem keeps_acqSpillOne {b} (hs : Keeps s₀ s) : Keeps s₀ (acqSpillOne s b) := by
  unfold acqSpillOne
  dsimp only
  split
  · exact keeps_ite (keeps_modAcq hs) hs
  · exact keeps_ite hs (keeps_ite (keeps_modAcq (keeps_countN (keeps_modAcq hs))) (keeps_modAcq
      (keeps_holdWrite (keeps_countN (keeps_modAcq hs)))))

theorem keeps_tmuFlushTo {b k} (hs : Keeps s₀ s) : Keeps s₀ (tmuFlushTo s b k) :=
  keeps_foldl (fun _ _ hs => keeps_tmuTake hs) (keeps_modTmu hs)

theorem keeps_tmuEdgeAt {b input edge t} (hs : Keeps s₀ s) : Keeps s₀ (tmuEdgeAt s b input edge t) :=
  keeps_tmuFlushTo (keeps_modTmu hs)

theorem keeps_windowOpen {b} (hs : Keeps s₀ s) : Keeps s₀ (windowOpen s b) := keeps_modTmu hs

theorem keeps_execTmuWindowOpen {b} (hs : Keeps s₀ s) : KeepsNext s₀ (execTmuWindowOpen b s) := by
  unfold execTmuWindowOpen
  dsimp only
  refine next ?_
  split
  · exact keeps_ite (keeps_windowOpen (keeps_reach hs)) hs
  · exact hs

theorem keeps_execTmuWindowClose {b} (hs : Keeps s₀ s) : KeepsNext s₀ (execTmuWindowClose b s) := by
  unfold execTmuWindowClose
  dsimp only
  refine next ?_
  split
  · exact keeps_ite (keeps_windowClose (keeps_reach hs)) hs
  · exact hs

theorem keeps_tokenGate {g} (hs : Keeps s₀ s) : Keeps s₀ (tokenGate s g) := keeps_ite (keeps_tokenEmit hs) hs

theorem keeps_execGateEdge {g rising} (hs : Keeps s₀ s) : KeepsNext s₀ (execGateEdge g rising s) :=
  next (keeps_ite (keeps_tokenGate (keeps_raiseLines (keeps_forAll hs (fun _ _ hs => keeps_ite
    (keeps_tmuArmEvent (keeps_ite (keeps_acqEvent hs) hs)) (keeps_ite (keeps_acqEvent hs) hs)))))
    (keeps_raiseLines (keeps_forAll hs (fun _ _ hs => keeps_ite (keeps_tmuArmEvent (keeps_ite (keeps_acqEvent
    hs) hs)) (keeps_ite (keeps_acqEvent hs) hs)))))

theorem keeps_setPhase {b n f} (hs : Keeps s₀ s) : Keeps s₀ (setPhase s b n f) := keeps_modSp hs

theorem keeps_pulseEnd {b n off} (hs : Keeps s₀ s) : Keeps s₀ (pulseEnd s b n off) := by
  unfold pulseEnd
  dsimp only
  exact keeps_setPhase (keeps_reach hs)

theorem keeps_sensed {b vout} (hs : Keeps s₀ s) : Keeps s₀ (sensed s b vout) := keeps_modSp hs

theorem keeps_gangFault {b src} (hs : Keeps s₀ s) : Keeps s₀ (gangFault s b src) := keeps_berthsFault hs

theorem keeps_action2 {b src} (hs : Keeps s₀ s) : Keeps s₀ (action2 s b src) :=
  keeps_settle (keeps_offAdvance (keeps_gangFault (keeps_offNow (keeps_rampCut hs))))

theorem keeps_stageSwitch {b vout} (hs : Keeps s₀ s) : Keeps s₀ (stageSwitch s b vout) :=
  keeps_modSp (keeps_modSp (keeps_sensed hs))

theorem keeps_execStageReady {b vout fltLow} (hs : Keeps s₀ s) : KeepsNext s₀ (execStageReady b vout fltLow s)
    := by
  unfold execStageReady
  dsimp only
  refine next ?_
  split
  · exact keeps_ite (keeps_action2 (keeps_sensed (keeps_reach hs))) (keeps_stageSwitch (keeps_sensed
      (keeps_reach hs)))
  · exact hs

theorem keeps_rampZero {b} (hs : Keeps s₀ s) : Keeps s₀ (rampZero s b) := keeps_modSp (keeps_pwmAll hs)

theorem keeps_armUv {b} (hs : Keeps s₀ s) : Keeps s₀ (armUv s b) := keeps_modSp hs

theorem keeps_offResume {b} (hs : Keeps s₀ s) : Keeps s₀ (offResume s b) :=
  keeps_ite (keeps_offRamp (keeps_modSp hs)) hs

theorem keeps_sequenceGood (hs : Keeps s₀ s) : Keeps s₀ (sequenceGood s) := by
  unfold sequenceGood
  dsimp only
  refine keeps_foldl (fun _ _ hs => ?_) hs
  split
  · exact keeps_putCmd hs
  · exact hs

theorem keeps_rampReply {b undo} (hs : Keeps s₀ s) : Keeps s₀ (rampReply s b undo) := by
  unfold rampReply
  dsimp only
  split
  · split
    · exact keeps_completeV hs
    · exact keeps_completeOk hs
  · split
    · exact hs
    · split
      · exact keeps_sequenceSettle (keeps_putCmd hs)
      · exact keeps_undoNext (keeps_putCmd hs)
      · exact hs

theorem keeps_rampCommit {b} (hs : Keeps s₀ s) : Keeps s₀ (rampCommit s b) :=
  keeps_settle (keeps_offAdvance (keeps_offResume (keeps_sequenceGood (keeps_rampReply (keeps_noteGood
    (keeps_ite (keeps_armUv (keeps_modSp hs)) (keeps_modSp hs)))))))

theorem keeps_execRampTargetReached {b vout} (hs : Keeps s₀ s) : KeepsNext s₀ (execRampTargetReached b vout s) :=
  next (keeps_ite (keeps_ite (keeps_rampZero (keeps_sensed (keeps_modSp (keeps_reach hs)))) (keeps_rampCommit
    (keeps_sensed (keeps_modSp (keeps_reach hs))))) hs)

theorem keeps_enterOff {b} (hs : Keeps s₀ s) : Keeps s₀ (enterOff s b) := keeps_modSp hs

theorem keeps_enFall {b vout} (hs : Keeps s₀ s) : Keeps s₀ (enFall s b vout) :=
  keeps_ite (keeps_modSp (keeps_sensed hs)) (keeps_settle (keeps_offAdvance (keeps_rampReply (keeps_enterOff
    (keeps_goodEnd (keeps_sensed hs))))))

theorem keeps_execEnFallDelay {b vout} (hs : Keeps s₀ s) : KeepsNext s₀ (execEnFallDelay b vout s) := by
  unfold execEnFallDelay
  refine next ?_
  split
  · exact keeps_enFall (keeps_reach hs)
  · exact hs

theorem keeps_offGroupBegin {plans} (hs : Keeps s₀ s) : Keeps s₀ (offGroupBegin s plans) := by
  induction plans with
  | nil => exact hs
  | cons p rest ih =>
    unfold offGroupBegin
    dsimp only
    split
    · exact (keeps_forAll ih fun _ _ hs => keeps_offRamp hs).same rfl rfl rfl rfl
    · exact ih

theorem keeps_execOffGroupStart (hs : Keeps s₀ s) : KeepsNext s₀ (execOffGroupStart s) := by
  unfold execOffGroupStart
  dsimp only
  refine next ?_
  split
  · exact hs
  · exact keeps_settle (keeps_offAdvance (keeps_offGroupBegin (keeps_reach (hs.same rfl rfl rfl rfl))))

theorem keeps_sequenceStart {c} (hs : Keeps s₀ s) : Keeps s₀ (sequenceStart s c) := by
  unfold sequenceStart
  dsimp only
  split
  · exact keeps_ite (keeps_putCmd hs) (keeps_ite (keeps_putCmd hs) (keeps_putCmd (keeps_rampCommand hs)))
  · exact hs

theorem keeps_execSpSeqEntryStart (hs : Keeps s₀ s) : KeepsNext s₀ (execSpSeqEntryStart s) := by
  unfold execSpSeqEntryStart
  dsimp only
  refine next ?_
  split
  · exact hs
  · split
    · exact hs
    · split
      · exact keeps_sequenceSettle (keeps_sequenceStart (keeps_reach hs))
      · exact keeps_sequenceStart (keeps_reach hs)

theorem keeps_monLive {b m level trip} (hs : Keeps s₀ s) : Keeps s₀ (monLive s b m level trip) :=
  keeps_sequenceGood (keeps_noteGood (keeps_modSp (keeps_ite (keeps_countFront hs) hs)))

theorem keeps_execMonitorBlankingEnd {b m level} (hs : Keeps s₀ s) : KeepsNext s₀ (execMonitorBlankingEnd b m
    level s) := by
  unfold execMonitorBlankingEnd
  dsimp only
  refine next ?_
  split
  · exact keeps_ite (keeps_monLive (keeps_reach hs)) (keeps_modSp (keeps_reach hs))
  · exact hs

theorem keeps_cutOff {b} (hs : Keeps s₀ s) : Keeps s₀ (cutOff s b) :=
  keeps_settle (keeps_offAdvance (keeps_offNow hs))

theorem keeps_spFaulted {b} (hs : Keeps s₀ s) : Keeps s₀ (spFaulted s b) :=
  keeps_modSp (keeps_pwmAll (keeps_goodEnd hs))

theorem keeps_hiccupCount {b m} (hs : Keeps s₀ s) : Keeps s₀ (hiccupCount s b m) := by
  unfold hiccupCount
  dsimp only
  exact keeps_modSp (keeps_countFront (keeps_rampCut (keeps_goodEnd hs)))

theorem keeps_hiccup {b m} (hs : Keeps s₀ s) : Keeps s₀ (hiccup s b m) :=
  keeps_ite hs (keeps_ite (keeps_action2 (keeps_goodEnd hs)) (keeps_ite (keeps_settle (keeps_offAdvance
    (keeps_offNow (keeps_hiccupCount hs)))) (keeps_modSp (keeps_pwmAll (keeps_hiccupCount hs)))))

theorem keeps_monAct {b m} (hs : Keeps s₀ s) : Keeps s₀ (monAct s b m) := by
  unfold monAct
  split
  · exact hs
  · exact keeps_cutOff (keeps_rampCut hs)
  · exact keeps_action2 hs
  · split
    · exact keeps_settle (keeps_offAdvance (keeps_gangFault (keeps_spFaulted (keeps_rampCut hs))))
    · exact keeps_hiccup hs

theorem keeps_actTaken {b act rank src} (hs : Keeps s₀ s) : Keeps s₀ (actTaken s b act rank src) := by
  unfold actTaken
  extract_lets again quiet s1
  have h1 : Keeps s₀ s1 := keeps_modSp hs
  exact keeps_ite (keeps_forAll (h1.same rfl rfl rfl rfl) fun _ _ hs => keeps_modBerth hs) h1

theorem keeps_monAction {b m} (hs : Keeps s₀ s) : Keeps s₀ (monAction s b m) :=
  keeps_ite hs (keeps_monAct (keeps_actTaken hs))

theorem keeps_filtersDone {b ms} (hs : Keeps s₀ s) : Keeps s₀ (filtersDone s b ms) :=
  keeps_foldl (fun _ _ hs => keeps_modSp hs) hs

theorem keeps_execMonitorFilterExpiry {b m} (hs : Keeps s₀ s) : KeepsNext s₀ (execMonitorFilterExpiry b m s) :=
    by
  unfold execMonitorFilterExpiry
  dsimp only
  refine next ?_
  split
  · exact keeps_monAction (keeps_filtersDone (keeps_reach hs))
  · exact hs

theorem keeps_flagAct {b src rank} (hs : Keeps s₀ s) : Keeps s₀ (flagAct s b src rank) :=
  keeps_ite (keeps_monAction (keeps_filtersDone hs)) (keeps_ite (keeps_action2 (keeps_actTaken
    (keeps_filtersDone hs))) (keeps_filtersDone hs))

theorem keeps_execHiccupRestart {b} (hs : Keeps s₀ s) : KeepsNext s₀ (execHiccupRestart b s) := by
  unfold execHiccupRestart
  refine next ?_
  split
  · exact keeps_startFromOff (keeps_reach hs)
  · exact hs

theorem keeps_measureService {b failed item} (hs : Keeps s₀ s) : Keeps s₀ (measureService s b failed item) :=
  keeps_ite (keeps_ite (keeps_count (keeps_calDone (keeps_modCal (keeps_modCal hs)))) (keeps_modCal
    (keeps_modCal hs))) hs

theorem keeps_measureServices {b failed} (hs : Keeps s₀ s) : Keeps s₀ (measureServices s b failed) :=
  keeps_forAll hs (fun _ _ hs => keeps_measureService hs)

theorem keeps_calLimits {b c items failed} (hs : Keeps s₀ s) : Keeps s₀ (calLimits s b c items failed) :=
  keeps_countN (keeps_modCal (keeps_modChan hs))

theorem keeps_calSpareDone {b failed} (hs : Keeps s₀ s) : Keeps s₀ (calSpareDone s b failed) :=
  keeps_ite (keeps_ite (keeps_calEndRelief (keeps_modBerth (keeps_modCal (keeps_calLimits hs))))
    (keeps_calReady (keeps_modCal (keeps_modBerth (keeps_modCal (keeps_calLimits hs)))))) (keeps_calPositions
    (keeps_modBerth (keeps_modCal (keeps_calLimits hs))))

theorem keeps_calPathDone {b failed} (hs : Keeps s₀ s) : Keeps s₀ (calPathDone s b failed) :=
  keeps_calNext (keeps_modCal (keeps_modCal (keeps_modBerth (keeps_calLimits hs))))

theorem keeps_calPosDone {b failed} (hs : Keeps s₀ s) : Keeps s₀ (calPosDone s b failed) :=
  keeps_ite (keeps_ite (keeps_calEndRelief (keeps_calLimits (keeps_calSwitchBack hs))) (keeps_calReady
    (keeps_modCal (keeps_calLimits (keeps_calSwitchBack hs))))) (keeps_ite (keeps_calReady (keeps_modCal
    (keeps_forAll (keeps_calSkip (keeps_calLimits (keeps_calSwitchBack hs))) (fun _ _ hs => keeps_calSkip
    hs)))) (keeps_calReady (keeps_modCal (keeps_calLimits (keeps_calSwitchBack hs)))))

theorem keeps_execCalMeasureDone {b failed} (hs : Keeps s₀ s) : KeepsNext s₀ (execCalMeasureDone b failed s) :=
  next (keeps_ite hs (keeps_ite (keeps_calSpareDone (keeps_measureServices hs)) (keeps_ite (keeps_calNext
    (keeps_measureServices hs)) (keeps_ite (keeps_ite (keeps_calPathDone (keeps_measureServices hs))
    (keeps_pathLeave (keeps_measureServices hs))) (keeps_ite (keeps_calPosDone (keeps_measureServices hs))
    (keeps_measureServices hs))))))

theorem keeps_execCalRideTimeout {b} (hs : Keeps s₀ s) : KeepsNext s₀ (execCalRideTimeout b s) := by
  unfold execCalRideTimeout
  refine next ?_
  split
  · extract_lets s1
    have h1 : Keeps s₀ s1 := keeps_reach hs
    exact keeps_ite (h1.same rfl rfl rfl rfl) hs
  · exact hs

theorem keeps_takeSample {i} (hs : Keeps s₀ s) : Keeps s₀ (takeSample s i) := keeps_setSensor hs

theorem keeps_stuckTest {i} (hs : Keeps s₀ s) : Keeps s₀ (stuckTest s i) := by
  unfold stuckTest
  dsimp only
  split
  · exact keeps_ite (keeps_setSensor hs) (keeps_ite (keeps_setSensor hs) hs)
  · exact keeps_setSensor hs
  · exact keeps_ite (keeps_setSensor hs) hs

theorem keeps_calDrift {b} (hs : Keeps s₀ s) : Keeps s₀ (calDrift s b) := by
  unfold calDrift
  split
  · exact keeps_forAll hs (fun _ _ hs => keeps_modChan hs)
  · exact hs

theorem keeps_execThermalSample {samples} (hs : Keeps s₀ s) : KeepsNext s₀ (execThermalSample samples s) :=
  next (keeps_ite (keeps_forAll (keeps_foldl (fun _ _ hs => keeps_takeSample hs) hs) (fun _ _ hs =>
    keeps_stuckTest hs)) (keeps_gatesLift (keeps_forAll (keeps_forAll (keeps_forAll (keeps_foldl (fun _ _ hs =>
    keeps_takeSample hs) hs) (fun _ _ hs => keeps_stuckTest hs)) (fun _ _ hs => keeps_zoneSample hs)) (fun _ _
    hs => keeps_calDrift hs))))

theorem keeps_switchover (hs : Keeps s₀ s) : Keeps s₀ (switchover s) :=
  keeps_ite (keeps_ite (keeps_modClk hs) (keeps_ite hs (keeps_count (keeps_modClk hs)))) hs

theorem keeps_execCoastMinExpiry (hs : Keeps s₀ s) : KeepsNext s₀ (execCoastMinExpiry s) := by
  unfold execCoastMinExpiry
  refine next ?_
  split
  · exact keeps_ite (keeps_switchover (keeps_modClk (keeps_reach hs))) hs
  · exact hs

theorem keeps_execCoastLongTimeout (hs : Keeps s₀ s) : KeepsNext s₀ (execCoastLongTimeout s) := by
  unfold execCoastLongTimeout
  refine next ?_
  split
  · extract_lets s1 s2 s3
    have h1 : Keeps s₀ s1 := keeps_modClk (keeps_reach hs)
    have h2 : Keeps s₀ s2 := keeps_forAll h1 fun _ _ hs => keeps_ite (keeps_portDown hs) hs
    have h3 : Keeps s₀ s3 := keeps_forAll h2 fun _ _ hs => keeps_modLane hs
    clear_value s3
    exact keeps_ite (h3.same rfl rfl rfl rfl) hs
  · exact hs

theorem keeps_coastReturn (hs : Keeps s₀ s) : Keeps s₀ (coastReturn s) := hs.same rfl rfl rfl rfl

theorem keeps_execFallbackTimeout (hs : Keeps s₀ s) : KeepsNext s₀ (execFallbackTimeout s) := by
  unfold execFallbackTimeout
  refine next ?_
  split
  · exact keeps_ite (keeps_deviceFault (keeps_modClk (keeps_reach hs))) hs
  · exact hs

theorem keeps_refSelectDone {c} (hs : Keeps s₀ s) : Keeps s₀ (refSelectDone s c) := by
  unfold refSelectDone
  dsimp only
  split
  · exact keeps_ite (keeps_completeOk (keeps_ite (keeps_chainUnalign (keeps_ite (keeps_modClk (keeps_modClk
      (keeps_coastReturn hs))) (keeps_ovenLost (keeps_modClk (keeps_modClk (keeps_coastReturn hs))))))
      (keeps_ite (keeps_modClk (keeps_modClk (keeps_coastReturn hs))) (keeps_ovenLost (keeps_modClk
      (keeps_modClk (keeps_coastReturn hs))))))) (keeps_completeV (keeps_modClk (keeps_coastReturn hs)))
  · exact hs

theorem keeps_execRelockDone (hs : Keeps s₀ s) : KeepsNext s₀ (execRelockDone s) := by
  unfold execRelockDone
  refine next (keeps_ite ?_ hs)
  split
  · exact keeps_refSelectDone hs
  · exact keeps_count (keeps_modClk (keeps_coastReturn hs))

theorem keeps_execPllLock (hs : Keeps s₀ s) : KeepsNext s₀ (execPllLock s) :=
  next (keeps_ite (hs.same rfl rfl rfl rfl) hs)

theorem keeps_setAsleep {k i v} (hs : Keeps s₀ s) : Keeps s₀ (setAsleep s k i v) := keeps_modClk hs

theorem keeps_resetDone {c flushed} (hs : Keeps s₀ s) : Keeps s₀ (resetDone s c flushed) := by
  unfold resetDone
  dsimp only
  split
  · exact keeps_completeOk (keeps_count (hs.same rfl rfl rfl rfl))
  · exact keeps_count (hs.same rfl rfl rfl rfl)

theorem keeps_lateCross {w} (hs : Keeps s₀ s) : Keeps s₀ (lateCross s w) :=
  keeps_foldl (fun _ _ hs => keeps_countN hs) (keeps_modWing hs)

theorem keeps_execD2dLinkRetrained {w} (hs : Keeps s₀ s) : KeepsNext s₀ (execD2dLinkRetrained w s) := by
  unfold execD2dLinkRetrained
  refine next ?_
  split
  · exact keeps_ite (keeps_resetDone (keeps_lateCross (keeps_modWing hs))) hs
  · exact hs

theorem keeps_execD2dRetrainTimeout {w} (hs : Keeps s₀ s) : KeepsNext s₀ (execD2dRetrainTimeout w s) := by
  unfold execD2dRetrainTimeout
  dsimp only
  refine next ?_
  split
  · exact keeps_completeV ((keeps_modWing (keeps_reach hs)).same rfl rfl rfl rfl)
  · exact hs

theorem keeps_flushCount {w deck front reads device} (hs : Keeps s₀ s) : Keeps s₀ (flushCount s w deck front
    reads device) :=
  keeps_countN (keeps_countN (keeps_countN (keeps_countN hs)))

theorem keeps_execResetIndication {w deck front reads device} (hs : Keeps s₀ s) : KeepsNext s₀
    (execResetIndication w deck front reads device s) := by
  unfold execResetIndication
  dsimp only
  refine next ?_
  split
  · exact keeps_putCmd (keeps_ite (keeps_modWing (keeps_flushCount hs)) (keeps_flushCount hs))
  · exact keeps_ite (keeps_flushCount hs) hs

theorem keeps_execResetAcknowledge (hs : Keeps s₀ s) : KeepsNext s₀ (execResetAcknowledge s) := by
  unfold execResetAcknowledge
  refine next ?_
  split
  · split
    · exact keeps_ite (keeps_modWing hs) (keeps_resetDone hs)
    · exact hs
  · exact hs

theorem keeps_execTpTransactionStart {p} (hs : Keeps s₀ s) : KeepsNext s₀ (execTpTransactionStart p s) := by
  unfold execTpTransactionStart
  dsimp only
  refine next ?_
  split
  · refine keeps_ite hs ?_
    split
    · exact hs
    · split
      · exact keeps_putCmd (keeps_modTp hs)
      · exact hs
  · exact hs

theorem keeps_execTpReadyHigh {p din} (hs : Keeps s₀ s) : KeepsNext s₀ (execTpReadyHigh p din s) := by
  unfold execTpReadyHigh
  dsimp only
  refine next ?_
  split
  · exact keeps_ite (keeps_modTp hs) hs
  · exact hs

theorem keeps_execTpReadyTimeout {p} (hs : Keeps s₀ s) : KeepsNext s₀ (execTpReadyTimeout p s) := by
  unfold execTpReadyTimeout
  dsimp only
  refine next ?_
  split
  · exact keeps_ite (keeps_modTp hs) hs
  · exact hs

theorem keeps_tpEnd {p edges error c status data result} (hs : Keeps s₀ s) : Keeps s₀ (tpEnd s p edges error c
    status data result) :=
  keeps_complete (keeps_modTp (keeps_ite (keeps_count hs) (keeps_count (keeps_count hs))))

theorem keeps_execTpSelBreak {p} (hs : Keeps s₀ s) : KeepsNext s₀ (execTpSelBreak p s) := by
  unfold execTpSelBreak
  refine next ?_
  split
  · exact keeps_tpEnd (hs.same rfl rfl rfl rfl)
  · exact hs

theorem keeps_execTpStatusByte {p status} (hs : Keeps s₀ s) : KeepsNext s₀ (execTpStatusByte p status s) := by
  unfold execTpStatusByte
  dsimp only
  refine next ?_
  split
  · exact keeps_ite (keeps_modTp hs) hs
  · exact hs

theorem keeps_execTpTransactionEnd {p edges} (hs : Keeps s₀ s) : KeepsNext s₀ (execTpTransactionEnd p edges s)
    := by
  unfold execTpTransactionEnd
  dsimp only
  refine next ?_
  split
  · exact keeps_ite (keeps_tpEnd hs) (keeps_ite (keeps_tpEnd hs) (keeps_ite hs (keeps_ite (keeps_tpEnd hs)
      (keeps_tpEnd hs))))
  · exact hs

theorem keeps_execReplyHoldExpiry (hs : Keeps s₀ s) : KeepsNext s₀ (execReplyHoldExpiry s) := by
  unfold execReplyHoldExpiry
  refine next ?_
  split
  · exact keeps_dropLate (keeps_reach hs)
  · exact hs

theorem keeps_hostLinkLost (hs : Keeps s₀ s) : Keeps s₀ (hostLinkLost s) :=
  keeps_ite hs (((keeps_foldl (fun _ _ hs => keeps_dropHeld hs) (keeps_count hs))).same rfl rfl rfl rfl)

theorem keeps_execMsixUnmask {vector} (hs : Keeps s₀ s) : KeepsNext s₀ (execMsixUnmask vector s) := by
  unfold execMsixUnmask
  dsimp only
  refine next (keeps_ite ?_ hs)
  split
  · exact keeps_msixFlush (keeps_setMsix hs)
  · exact keeps_msixFlush (hs.same rfl rfl rfl rfl)

theorem keeps_segFill {q bank off bytes} (hs : Keeps s₀ s) : Keeps s₀ (segFill s q bank off bytes) :=
  keeps_quayWrite hs fun h => memWriteBytes_wf _ _ _ h

theorem keeps_segFillAll {qs bank off bytes} (hs : Keeps s₀ s) : Keeps s₀ (segFillAll s qs bank off bytes) :=
  keeps_forAll hs (fun _ _ hs => keeps_segFill hs)

theorem keeps_segReadDone {c data} (hs : Keeps s₀ s) : Keeps s₀ (segReadDone s c data) := by
  unfold segReadDone
  split
  · dsimp only
    refine keeps_ite ?_ (keeps_completeOk (keeps_segFillAll hs))
    split <;> rename_i hres <;> have hread := congrArg Prod.fst hres <;> subst hread
    · exact keeps_completeV (keeps_holdRead hs)
    · exact keeps_completeOk (keeps_segFillAll (keeps_holdRead hs))
  · exact hs

theorem keeps_execHostReadCompletion {tag data} (hs : Keeps s₀ s) : KeepsNext s₀ (execHostReadCompletion tag
    data s) := by
  unfold execHostReadCompletion
  refine next ?_
  split
  · split
    · exact keeps_bcastGo hs
    · exact keeps_segReadDone hs
  · exact hs

theorem keeps_readFailed {read src} (hs : Keeps s₀ s) : Keeps s₀ (readFailed s read src) := by
  unfold readFailed
  dsimp only
  split
  · exact keeps_ite (keeps_countDiscard (keeps_setSq hs)) hs
  · split
    · exact keeps_cancel hs
    · exact hs

theorem keeps_coldState (hs : Keeps s₀ s) : Keeps s₀ (coldState s) :=
  hs.write rfl fun ⟨_, hh, _⟩ => ⟨memWf_freeMem _, hh, fun _ => rfl⟩

theorem keeps_modBoot {f} (hs : Keeps s₀ s) : Keeps s₀ (modBoot s f) := hs.same rfl rfl rfl rfl

theorem keeps_execAonSupplyLoss (hs : Keeps s₀ s) : KeepsNext s₀ (execAonSupplyLoss s) :=
  next (hs.write rfl fun ⟨_, hh, _⟩ => ⟨memWf_freeMem _, hh, fun _ => rfl⟩)

theorem keeps_stepNote (hs : Keeps s₀ s) : Keeps s₀ (stepNote s) := keeps_modBoot hs

theorem keeps_flashMark {n} (hs : Keeps s₀ s) : Keeps s₀ (flashMark s n) := keeps_stepNote (keeps_modBoot hs)

theorem keeps_bootPatch {b} (hs : Keeps s₀ s) : Keeps s₀ (bootPatch s b) := by
  unfold bootPatch
  split
  · exact keeps_mcOffered hs
  · exact keeps_patchEngines (keeps_mcOffered hs)

theorem keeps_configDefault {result} (hs : Keeps s₀ s) : Keeps s₀ (configDefault s result) := keeps_modBoot hs

theorem keeps_configRead {e} (hs : Keeps s₀ s) : Keeps s₀ (configRead s e) := by
  unfold configRead
  dsimp only
  split
  · exact keeps_configDefault hs
  · exact keeps_configDefault hs
  · exact keeps_ite (keeps_modBoot (hs.same rfl rfl rfl rfl)) (keeps_configDefault hs)

theorem keeps_parkRefuse {result} (hs : Keeps s₀ s) : Keeps s₀ (parkRefuse s result) := keeps_modBoot hs

theorem keeps_parkUse {t} (hs : Keeps s₀ s) : Keeps s₀ (parkUse s t) := keeps_modBoot hs

theorem keeps_parkTableRead {e} (hs : Keeps s₀ s) : Keeps s₀ (parkTableRead s e) := by
  unfold parkTableRead
  dsimp only
  refine keeps_ite (keeps_parkRefuse hs) ?_
  split
  · exact keeps_parkRefuse hs
  · exact keeps_parkRefuse hs
  · exact keeps_ite (keeps_parkRefuse hs) (keeps_ite (keeps_parkUse hs) (keeps_parkRefuse hs))

theorem keeps_corrRead {e} (hs : Keeps s₀ s) : Keeps s₀ (corrRead s e) := by
  unfold corrRead
  dsimp only
  split
  · exact keeps_modBoot hs
  · exact keeps_modBoot hs
  · exact keeps_ite (keeps_modBoot hs) (keeps_ite (keeps_modBoot hs) (keeps_modBoot hs))

theorem keeps_contentRead {n e} (hs : Keeps s₀ s) : Keeps s₀ (contentRead s n e) := by
  unfold contentRead
  split
  · split
    · exact keeps_bootPatch hs
    · exact hs
  · exact keeps_configRead hs
  · exact keeps_parkTableRead hs
  · exact keeps_corrRead hs

theorem keeps_directoriesRead {sfdp a b} (hs : Keeps s₀ s) : Keeps s₀ (directoriesRead s sfdp a b) :=
  keeps_ite (keeps_flashMark (keeps_modBoot hs)) (keeps_forAll (keeps_flashMark (keeps_modBoot hs)) (fun _ _ hs
    => keeps_ite hs (keeps_flashMark (keeps_contentRead hs))))

theorem keeps_contentCome {n bytes} (hs : Keeps s₀ s) : Keeps s₀ (contentCome s n bytes) :=
  keeps_ite (keeps_flashMark (keeps_contentRead hs)) hs

theorem keeps_execFlashContentRead {content} (hs : Keeps s₀ s) : KeepsNext s₀ (execFlashContentRead content s)
    := by
  unfold execFlashContentRead
  refine next ?_
  split
  · exact keeps_ite (keeps_directoriesRead hs) hs
  · exact keeps_contentCome hs
  · exact keeps_contentCome hs
  · exact keeps_contentCome hs
  · exact keeps_contentCome hs

theorem keeps_execQuayPowerUpDone {q} (hs : Keeps s₀ s) : KeepsNext s₀ (execQuayPowerUpDone q s) :=
  next (keeps_ite (keeps_stepNote (keeps_modBoot (keeps_forAll hs (fun _ _ hs => keeps_ite (keeps_blankAll
    (keeps_modBerth hs)) (keeps_modBerth hs))))) hs)

theorem keeps_corrLoad (hs : Keeps s₀ s) : Keeps s₀ (corrLoad s) := by
  unfold corrLoad
  dsimp only
  refine keeps_ite hs (keeps_modBoot (keeps_forAll (keeps_restoreImage hs) (fun _ _ hs => ?_)))
  split
  · exact keeps_forAll (keeps_modCal hs) (fun _ _ hs => keeps_modChan hs)
  · exact hs

theorem keeps_execParkLoad (hs : Keeps s₀ s) : KeepsNext s₀ (execParkLoad s) :=
  next (keeps_ite (keeps_modBoot (keeps_corrLoad (keeps_forAll (keeps_forAll hs (fun _ _ hs => keeps_ite
    (keeps_modBerth (keeps_parkHard (keeps_berthOn hs))) (keeps_berthOn hs))) (fun _ _ hs => keeps_parkTemp
    hs)))) hs)

theorem keeps_smbAnswer {n v} (hs : Keeps s₀ s) : Keeps s₀ (smbAnswer s n v) :=
  keeps_ite (keeps_readOut hs) (keeps_readOut hs)

theorem keeps_smbThermal {n v} (hs : Keeps s₀ s) : Keeps s₀ (smbThermal s n v) :=
  keeps_ite (keeps_readOut hs) (keeps_smbAnswer hs)

theorem keeps_execRedirectPauseEnd {q} (hs : Keeps s₀ s) : KeepsNext s₀ (execRedirectPauseEnd q s) := by
  unfold execRedirectPauseEnd
  dsimp only
  refine next ?_
  split
  · refine keeps_ite ?_ hs
    split
    · exact keeps_haltAt (keeps_reach (keeps_modQuay (keeps_advanceQ hs) fun _ => rfl))
    · exact keeps_ite (keeps_jumpTake (keeps_reach (keeps_modQuay (keeps_advanceQ hs) fun _ => rfl)))
        (keeps_enterNow (keeps_reach (keeps_modQuay (keeps_advanceQ hs) fun _ => rfl)))
  · exact hs

theorem keeps_execRefPresentChange {ref present} (hs : Keeps s₀ s) :
    KeepsNext s₀ (execRefPresentChange ref present s) := by
  unfold execRefPresentChange
  extract_lets s1 boot s2
  have h1 : Keeps s₀ s1 := keeps_modClk hs
  have h2 : Keeps s₀ s2 := keeps_ite (h1.same rfl rfl rfl rfl) h1
  exact next (keeps_ite (keeps_hostLinkLost h2) h2)

theorem keeps_execRailValid {r} (hs : Keeps s₀ s) : KeepsNext s₀ (execRailValid r s) := by
  unfold execRailValid
  refine next ?_
  split <;> exact keeps_modBoot hs

theorem keeps_freqEnd (hs : Keeps s₀ s) : Keeps s₀ (freqEnd s) := by
  unfold freqEnd
  refine keeps_foldl (fun _ _ hs => ?_) hs
  split
  · exact keeps_freqReply hs
  · exact hs

theorem keeps_idle (hs : Keeps s₀ s) : Keeps s₀ (idle s) := keeps_ite (keeps_freqEnd (hs.same rfl rfl rfl rfl)) hs

/-- Every row keeps the queue and the canonical form of the memories. -/
theorem keeps_exec (i : Instr) (hs : Keeps s₀ s) : KeepsNext s₀ (exec i s) := by
  cases i with
  | nop => exact next (keeps_takeSlot hs)
  | identify => exact next (keeps_takeSlot hs)
  | getState => exact next (keeps_takeSlot hs)
  | park => exact next (keeps_takeSlot hs)
  | unpark => exact next (keeps_takeSlot hs)
  | berthPower => exact next (keeps_takeSlot hs)
  | clearFault => exact next (keeps_takeSlot hs)
  | abort => exact next (keeps_takeSlot hs)
  | resetScope => exact next (keeps_takeSlot hs)
  | stage => exact next (keeps_takeSlot hs)
  | proof => exact next (keeps_takeSlot hs)
  | bake => exact next (keeps_takeSlot hs)
  | read => exact next (keeps_takeSlot hs)
  | trayClear => exact next (keeps_takeSlot hs)
  | trayStatus => exact next (keeps_takeSlot hs)
  | ackWrite => exact next (keeps_takeSlot hs)
  | segLoad => exact next (keeps_takeSlot hs)
  | arm => exact next (keeps_takeSlot hs)
  | start => exact next (keeps_takeSlot hs)
  | halt => exact next (keeps_takeSlot hs)
  | jump => exact next (keeps_takeSlot hs)
  | disarm => exact next (keeps_takeSlot hs)
  | clearHalt => exact next (keeps_takeSlot hs)
  | seqStatus => exact next (keeps_takeSlot hs)
  | ppmuMeasure => exact next (keeps_takeSlot hs)
  | acqArm => exact next (keeps_takeSlot hs)
  | acqRead => exact next (keeps_takeSlot hs)
  | tmuArm => exact next (keeps_takeSlot hs)
  | tmuRead => exact next (keeps_takeSlot hs)
  | resultUpload => exact next (keeps_takeSlot hs)
  | failLogRead => exact next (keeps_takeSlot hs)
  | spRamp => exact next (keeps_takeSlot hs)
  | spSequence => exact next (keeps_takeSlot hs)
  | spOff => exact next (keeps_takeSlot hs)
  | spStatus => exact next (keeps_takeSlot hs)
  | chainEnum => exact next (keeps_takeSlot hs)
  | chainStatus => exact next (keeps_takeSlot hs)
  | laneTest => exact next (keeps_takeSlot hs)
  | laneBitslip => exact next (keeps_takeSlot hs)
  | bcastLoad => exact next (keeps_takeSlot hs)
  | tideAlign => exact next (keeps_takeSlot hs)
  | calRun => exact next (keeps_takeSlot hs)
  | calSave => exact next (keeps_takeSlot hs)
  | calRestore => exact next (keeps_takeSlot hs)
  | relieve => exact next (keeps_takeSlot hs)
  | unrelieve => exact next (keeps_takeSlot hs)
  | calStatus => exact next (keeps_takeSlot hs)
  | refSelect => exact next (keeps_takeSlot hs)
  | freqMeasure => exact next (keeps_takeSlot hs)
  | thermRead => exact next (keeps_takeSlot hs)
  | thermClear => exact next (keeps_takeSlot hs)
  | clockMode => exact next (keeps_takeSlot hs)
  | tpXfer => exact next (keeps_takeSlot hs)
  | tpStatus => exact next (keeps_takeSlot hs)
  | mcPatchLoad => exact next (keeps_takeSlot hs)
  | mcVersion => exact next (keeps_takeSlot hs)
  | fuseRead => exact next (keeps_takeSlot hs)
  | sqTailDoorbell => exact next (keeps_onBar hs (fun _ hs => keeps_noteDiscard (keeps_tailDoorbell hs)))
  | rqHeadDoorbell => exact next (keeps_onBar hs (fun _ hs => keeps_noteDiscard (keeps_headDoorbell hs)))
  | sqRingEnable => exact next (keeps_onBar hs (fun _ hs => keeps_noteDiscard (keeps_sqDesc hs)))
  | sqRingDisable => exact next (keeps_onBar hs (fun _ hs => keeps_noteDiscard (keeps_sqDesc hs)))
  | rqRingEnable => exact next (keeps_onBar hs (fun _ hs => keeps_noteDiscard (keeps_rqDesc hs)))
  | rqRingDisable => exact next (keeps_onBar hs (fun _ hs => keeps_noteDiscard (keeps_rqDesc hs)))
  | ackMirrorWrite => exact next_ite (nextFault) (next (keeps_onBar hs (fun _ hs => keeps_noteDiscard
      (keeps_iteFst (keeps_bar0Word hs) hs))))
  | counterLowRead => exact next_ite (nextFault) (next (keeps_onBar hs (fun _ hs => keeps_bar0Read hs)))
  | bar0Write => exact next_ite (nextFault) (next (keeps_onBar hs (fun _ hs => keeps_ite (keeps_countDiscard
      hs) (keeps_bar0Access hs))))
  | bar2Write => exact next_ite (nextFault) (next (keeps_onBar hs (fun _ hs => keeps_ite (keeps_count hs)
      (keeps_ite hs (keeps_holdWrite hs)))))
  | bar2Read => exact keeps_execBar2Read hs
  | configRequest => exact keeps_execConfigRequest hs
  | slotFetchComplete => exact next (keeps_ite hs (keeps_takeBytes hs))
  | fetchResume => exact next (keeps_ite (keeps_takeBytes hs) hs)
  | commandDispatch => exact keeps_execCommandDispatch hs
  | deferredCommandStart => exact keeps_execDeferredCommandStart hs
  | replyCoalesceTimeout => exact next (keeps_ite hs (keeps_msixRaise (keeps_setRq (keeps_reach hs))))
  | nopMicroword => exact next (keeps_micro hs (fun _ _ hs => hs))
  | mov => exact next (keeps_microCtx hs)
  | ldi => exact next (keeps_microCtx hs)
  | ldh => exact next (keeps_microCtx hs)
  | add => exact next (keeps_microCtx hs)
  | addi => exact next (keeps_microCtx hs)
  | sub => exact next (keeps_microCtx hs)
  | and => exact next (keeps_logic hs)
  | or => exact next (keeps_logic hs)
  | xor => exact next (keeps_logic hs)
  | shl => exact next (keeps_microCtx hs)
  | shr => exact next (keeps_microCtx hs)
  | cmp => exact next (keeps_microCtx hs)
  | cmpi => exact next (keeps_microCtx hs)
  | jmp => exact next (keeps_microCtx hs)
  | br => exact next (keeps_microCtx hs)
  | call => exact next (keeps_micro hs (fun _ _ hs => keeps_ite (keeps_engineFault hs) (keeps_setCtx hs)))
  | ret => exact keeps_execRet hs
  | switch => exact next (keeps_microCtx hs)
  | frd => exact keeps_execFrd hs
  | fwr => exact next (keeps_micro hs (fun _ _ hs => hs.same rfl rfl rfl rfl))
  | trd => exact keeps_execTrd hs
  | twr => exact keeps_execTwr hs
  | shw => exact next (keeps_micro hs (fun _ _ hs => hs.same rfl rfl rfl rfl))
  | hrd => exact keeps_execHrd hs
  | hwr => exact next (keeps_microCtx hs)
  | pst => exact keeps_execPst hs
  | wait => exact keeps_execWait hs
  | waitWake => exact keeps_execWaitWake hs
  | waitTimeout => exact keeps_execWaitTimeout hs
  | poll => exact next (keeps_microSafe hs (fun _ hs => keeps_takePending (keeps_safePoint hs)))
  | commit => exact keeps_execCommit hs
  | endc => exact next (keeps_microCtx hs)
  | prog => exact next (keeps_microCtx hs)
  | tide => exact next (keeps_microCtx hs)
  | tarm => exact next (keeps_micro hs (fun _ _ hs => keeps_armPending (hs.same rfl rfl rfl rfl)))
  | sig => exact next (keeps_micro hs (fun _ _ hs => keeps_send hs))
  | fwd => exact keeps_execFwd hs
  | evt => exact keeps_execEvt hs
  | fault => exact next (keeps_ite (keeps_engineFault hs) hs)
  | engineRestart => exact next (keeps_ite (keeps_setEng hs) hs)
  | bakeStrobe => exact next (keeps_zonesAfresh (keeps_pendStrobe hs))
  | chainBakeDecision => exact keeps_execChainBakeDecision hs
  | bakeArm => exact keeps_execBakeArm hs
  | bakeReady => exact keeps_execBakeReady hs
  | bakeGo => exact keeps_execBakeGo hs
  | bakeCancel => exact keeps_execBakeCancel hs
  | token => exact next (keeps_ite hs (keeps_ite (keeps_tokenStart (keeps_copyDown hs)) (keeps_tokenLate
      (keeps_copyDown hs))))
  | tokenDeadline => exact next (keeps_ite (keeps_tokenLate hs) hs)
  | trigRaise => exact next (keeps_ite (keeps_upSignal hs) (keeps_ite (keeps_lineRaised hs) hs))
  | trigDeliver => exact next (keeps_ite (keeps_lineHold (keeps_copyDown hs)) hs)
  | trigDeliveryInstant => exact keeps_execTrigDeliveryInstant hs
  | oven => exact keeps_execOven hs
  | ovenTimeout => exact next (keeps_ite (keeps_ovenLost (keeps_reach hs)) hs)
  | tidePing => exact next (keeps_ite (keeps_send (keeps_send hs)) hs)
  | tidePong => exact next (keeps_ite (keeps_setMeas hs) hs)
  | lost => exact next (keeps_ite (keeps_upSignal hs) (keeps_ite (keeps_chainLost hs) hs))
  | tideCorrectionApply => exact keeps_execTideCorrectionApply hs
  | tideTrackMeasure => exact keeps_execTideTrackMeasure hs
  | tideTrackStep => exact keeps_execTideTrackStep hs
  | frameReceive => exact keeps_execFrameReceive hs
  | enumFrame => exact next (keeps_ite hs (keeps_enumArrive hs))
  | linkBlock => exact keeps_execLinkBlock hs
  | alignMarker => exact keeps_execAlignMarker hs
  | trainBlock => exact next (keeps_ite (keeps_modLane hs) (keeps_ite (keeps_sendRaw (keeps_modLane (hs.same
      rfl rfl rfl rfl))) hs))
  | adaptWindowEnd => exact next (keeps_ite (keeps_ite (keeps_count (keeps_modLane hs)) (keeps_ite
      (keeps_modLane hs) hs)) hs)
  | laneDetectAttempt => exact keeps_execLaneDetectAttempt hs
  | laneReceiverDetected => exact keeps_execLaneReceiverDetected hs
  | trainTimeout => exact next (keeps_ite hs (keeps_ite (keeps_forAll hs (fun _ _ hs => keeps_modLane hs))
      (keeps_portRestart hs)))
  | bitLockAchieved => exact next (keeps_ite (keeps_modLane hs) hs)
  | bitLockTimeout => exact next (keeps_ite (keeps_laneTrain hs) hs)
  | blockLockAchieved => exact keeps_execBlockLockAchieved hs
  | blockLockTimeout => exact keeps_execBlockLockTimeout hs
  | deskewMatch => exact next (keeps_ite (keeps_ite (keeps_portSettle (keeps_modLane hs)) (keeps_capSend
      (keeps_modLane hs))) hs)
  | deskewTimeout => exact next (keeps_ite (keeps_capSend (keeps_modLane hs)) hs)
  | capabilityFrame => exact keeps_execCapabilityFrame hs
  | capabilityTimeout => exact next (keeps_ite (keeps_portRestart hs) hs)
  | laneLost => exact next (keeps_ite (keeps_laneLoss hs) hs)
  | laneTestEnd => exact keeps_execLaneTestEnd hs
  | linkDown => exact next (keeps_ite (keeps_linkFall hs) hs)
  | burstStart => exact keeps_execBurstStart hs
  | successorCommit => exact keeps_execSuccessorCommit hs
  | segmentPassEnd => exact next (keeps_ite (keeps_ite (keeps_passEnd (keeps_passDone (keeps_reach
      (keeps_playOn hs)))) (keeps_playOn hs)) hs)
  | decisionPauseEnd => exact keeps_execDecisionPauseEnd hs
  | haltTaken => exact keeps_execHaltTaken hs
  | jumpTaken => exact keeps_execJumpTaken hs
  | starve => exact next (keeps_ite (keeps_playOn hs) hs)
  | starveHalt => exact next (keeps_ite (keeps_haltAt (keeps_advanceQ hs)) hs)
  | streamPrefillDone => exact keeps_execStreamPrefillDone hs
  | streamReadComplete => exact keeps_execStreamReadComplete hs
  | compareResult => exact keeps_execCompareResult hs
  | resultDone => exact keeps_execResultDone hs
  | failLogSpill => exact next (keeps_ite (keeps_spillLog hs) hs)
  | captureSpill => exact next (keeps_spillCapture hs)
  | resultSnapshot => exact keeps_execResultSnapshot hs
  | resultPartTimeout => exact keeps_execResultPartTimeout hs
  | shortLimitEvent => exact keeps_execShortLimitEvent hs
  | substOverlap => exact next (keeps_ite (keeps_modBerth (keeps_modChan (keeps_modChan (keeps_catchUp
      (keeps_reach hs))))) hs)
  | substCompareMove => exact keeps_execSubstCompareMove hs
  | substSwitch => exact keeps_execSubstSwitch hs
  | lwSample => exact next (keeps_ite (keeps_modQuay (keeps_lwApply (keeps_reach hs)) fun _ => rfl) hs)
  | unparkInstant => exact keeps_execUnparkInstant hs
  | parkModeApply => exact keeps_execParkModeApply hs
  | orderlyParkDeadline => exact keeps_execOrderlyParkDeadline hs
  | rangeSwRegulationMove => exact next (keeps_rangeStep hs)
  | rangeSwOldDisconnect => exact next (keeps_rangeStep hs)
  | rangeSwEnd => exact keeps_execRangeSwEnd hs
  | ppmuClampEntry => exact next (keeps_ite (keeps_countFront (keeps_modChan hs)) hs)
  | ppmuSample => exact keeps_execPpmuSample hs
  | acqBaseSample => exact next (keeps_baseSample hs)
  | acqRecordClose => exact next (keeps_ite (keeps_acqCloseWhole hs) hs)
  | acqRearmEnd => exact next (keeps_ite (keeps_modAcq hs) hs)
  | acqSpill => exact next (keeps_acqSpillOne hs)
  | tmuEdge => exact next (keeps_ite (keeps_tmuEdgeAt (keeps_reach hs)) hs)
  | tmuArmingEvent => exact next (keeps_ite (keeps_tmuArmEvent hs) hs)
  | tmuWindowOpen => exact keeps_execTmuWindowOpen hs
  | tmuWindowClose => exact keeps_execTmuWindowClose hs
  | gateEdge => exact keeps_execGateEdge hs
  | ovenRdyRise => exact next (keeps_ite hs (hs.same rfl rfl rfl rfl))
  | ovenRdyFall => exact next (keeps_ite (keeps_ite (keeps_count (hs.same rfl rfl rfl rfl)) (keeps_ovenLost
      (keeps_count (hs.same rfl rfl rfl rfl)))) hs)
  | ovenQualified => exact next (keeps_ite (((keeps_ite (keeps_send (keeps_reach hs)) (keeps_reach hs))).same
      rfl rfl rfl rfl) hs)
  | peakComparatorTrip => exact next (keeps_ite (keeps_ite (keeps_modSp (keeps_countFront (keeps_pulseEnd hs)))
      (keeps_pulseEnd hs)) hs)
  | maxDutyTimeout => exact next (keeps_ite (keeps_pulseEnd hs) hs)
  | zeroCurrentDetect => exact next (keeps_ite (keeps_setPhase hs) hs)
  | stageReady => exact keeps_execStageReady hs
  | rampStep => exact next (keeps_ite (keeps_modSp (keeps_reach hs)) hs)
  | rampTargetReached => exact keeps_execRampTargetReached hs
  | enFallDelay => exact keeps_execEnFallDelay hs
  | offGroupStart => exact keeps_execOffGroupStart hs
  | spSeqEntryStart => exact keeps_execSpSeqEntryStart hs
  | monitorLevelChange => exact next (keeps_ite (keeps_monLive hs) hs)
  | monitorBlankingEnd => exact keeps_execMonitorBlankingEnd hs
  | monitorFilterExpiry => exact keeps_execMonitorFilterExpiry hs
  | stageFaultFlag => exact next (keeps_ite (keeps_flagAct (keeps_countFront hs)) hs)
  | openSenseDetect => exact next (keeps_ite (keeps_flagAct (keeps_countFront hs)) hs)
  | hiccupRestart => exact keeps_execHiccupRestart hs
  | holdStackDown => exact next (keeps_ite hs (keeps_ite (keeps_deviceFault (keeps_interrupt (hs.same rfl rfl
      rfl rfl))) (keeps_interrupt (hs.same rfl rfl rfl rfl))))
  | calAutoTrigger => exact next (keeps_ite (keeps_calStart (keeps_count hs)) hs)
  | calMeasureDone => exact keeps_execCalMeasureDone hs
  | calRideTimeout => exact keeps_execCalRideTimeout hs
  | calServiceRetry => exact next (keeps_ite (keeps_measureServices (hs.same rfl rfl rfl rfl)) hs)
  | thermalSample => exact keeps_execThermalSample hs
  | followerThermalReport => exact next (keeps_followerThermal hs)
  | refLossDeclared => exact next (keeps_ite (keeps_refLoss hs) hs)
  | coastMinExpiry => exact keeps_execCoastMinExpiry hs
  | coastLongTimeout => exact keeps_execCoastLongTimeout hs
  | fallbackLocked => exact next (keeps_ite (keeps_count (keeps_modClk (keeps_coastReturn hs))) hs)
  | fallbackTimeout => exact keeps_execFallbackTimeout hs
  | refQualified => exact next (keeps_ite (keeps_ite (keeps_modClk (keeps_modClk hs)) (keeps_modClk hs)) hs)
  | relockDone => exact keeps_execRelockDone hs
  | pllLock => exact keeps_execPllLock hs
  | hkSettled => exact next (keeps_ite (keeps_switchover (keeps_modClk hs)) hs)
  | trimMeasurement => exact next (keeps_ite (keeps_ite (keeps_modClk (keeps_ite (keeps_count hs) hs))
      (keeps_switchover (keeps_modClk (keeps_ite (keeps_count hs) hs)))) hs)
  | domainSleep => exact next (keeps_ite (keeps_ite (keeps_ite (keeps_setAsleep hs) hs) (keeps_ite
      (keeps_setAsleep hs) hs)) hs)
  | domainWake => exact next (keeps_ite (keeps_setAsleep hs) hs)
  | d2dLinkLoss => exact next (keeps_ite hs (keeps_berthsFault (keeps_count (keeps_modWing hs))))
  | d2dLinkRetrained => exact keeps_execD2dLinkRetrained hs
  | d2dRetrainTimeout => exact keeps_execD2dRetrainTimeout hs
  | resetIndication => exact keeps_execResetIndication hs
  | resetAcknowledge => exact keeps_execResetAcknowledge hs
  | tpTransactionStart => exact keeps_execTpTransactionStart hs
  | tpReadyHigh => exact keeps_execTpReadyHigh hs
  | tpReadyTimeout => exact keeps_execTpReadyTimeout hs
  | tpSelBreak => exact keeps_execTpSelBreak hs
  | tpStatusByte => exact keeps_execTpStatusByte hs
  | tpTransactionEnd => exact keeps_execTpTransactionEnd hs
  | fastStatusRewrite => exact next (keeps_fsRewrite hs)
  | busMasterEnableClear => exact next (keeps_ite (keeps_setBusMaster hs) hs)
  | busMasterEnableSet => exact next (keeps_ite (keeps_setBusMaster hs) hs)
  | replyHoldExpiry => exact keeps_execReplyHoldExpiry hs
  | d3hotEntry => exact next (keeps_ite (hs.same rfl rfl rfl rfl) hs)
  | d0Return => exact next (keeps_ite (keeps_flushHeld (hs.same rfl rfl rfl rfl)) hs)
  | hostLinkDown => exact next (keeps_hostLinkLost hs)
  | msixUnmask => exact keeps_execMsixUnmask hs
  | aspmL1Entry => exact next (keeps_ite (hs.same rfl rfl rfl rfl) hs)
  | aspmL1Exit => exact next (keeps_wakeLink hs)
  | hostReadCompletion => exact keeps_execHostReadCompletion hs
  | poisonedCompletion => exact next (keeps_readFailed hs)
  | completionTimeout => exact next (keeps_readFailed hs)
  | urCaCompletion => exact next (keeps_readFailed hs)
  | fatalLinkError => exact next (keeps_ite (keeps_count hs) hs)
  | correctableLinkError => exact next (keeps_ite (keeps_count hs) hs)
  | perstNAssert => exact next ((keeps_hostLinkLost hs).same rfl rfl rfl rfl)
  | perstNRelease => exact next (hs.same rfl rfl rfl rfl)
  | rstNFall => exact next (keeps_ite hs (keeps_modBoot (keeps_ite (keeps_count hs) (keeps_coldState
      (keeps_count hs)))))
  | strapCapture => exact next (keeps_ite (keeps_modClk (keeps_modBoot (hs.same rfl rfl rfl rfl))) hs)
  | aonPowerUp => exact next (keeps_ite hs (keeps_modBoot hs))
  | aonSupplyLoss => exact keeps_execAonSupplyLoss hs
  | railFault => exact next (keeps_ite hs (keeps_modBoot (keeps_ite (keeps_count hs) (keeps_coldState
      (keeps_count hs)))))
  | trstNAssert => exact next (keeps_modBoot hs)
  | flashContentRead => exact keeps_execFlashContentRead hs
  | holdTrainingDone => exact next (keeps_ite (hs.same rfl rfl rfl rfl) hs)
  | quayPowerUpDone => exact keeps_execQuayPowerUpDone hs
  | parkLoad => exact keeps_execParkLoad hs
  | bootComplete => exact next (keeps_ite (keeps_ite (keeps_deviceFault (keeps_modBoot (hs.same rfl rfl rfl
      rfl))) (keeps_modBoot (hs.same rfl rfl rfl rfl))) hs)
  | smbZoneTemp => exact next (keeps_smbThermal hs)
  | smbHottest => exact next (keeps_smbThermal hs)
  | smbWarnMask => exact next (keeps_smbThermal hs)
  | smbThrottleMask => exact next (keeps_smbThermal hs)
  | smbStopMask => exact next (keeps_smbThermal hs)
  | smbBadSensors => exact next (keeps_smbThermal hs)
  | smbRunState => exact next (keeps_smbAnswer hs)
  | smbPowerEstimate => exact next (keeps_smbAnswer hs)
  | smbRailStatus => exact next (keeps_smbAnswer hs)
  | smbRailFaults => exact next (keeps_smbAnswer hs)
  | smbRstEvents => exact next (keeps_smbAnswer hs)
  | smbLastFault => exact next (keeps_smbAnswer hs)
  | smbAddressResolution => exact next (keeps_ite (keeps_readOut (hs.same rfl rfl rfl rfl)) (keeps_readOut hs))
  | smbValueUpdate => exact next (keeps_ite (hs.same rfl rfl rfl rfl) hs)
  | pwmCycleEdge => exact next (keeps_ite (keeps_ite (keeps_reach hs) (keeps_setPhase (keeps_reach hs))) hs)
  | redirectPauseEnd => exact keeps_execRedirectPauseEnd hs
  | hostLinkUp => exact next (keeps_ite (hs.same rfl rfl rfl rfl) hs)
  | refPresentChange => exact keeps_execRefPresentChange hs
  | bootReferenceQualified => exact next (keeps_ite (keeps_stepNote (keeps_modBoot (keeps_modClk hs))) hs)
  | railValid => exact keeps_execRailValid hs
  | fusesReadDone => exact next (keeps_ite (keeps_stepNote (keeps_modBoot hs)) hs)
  | signalBad => exact next (keeps_count hs)
  | blockErr => exact next (keeps_count hs)

/-- Settles O3. -/
theorem execLeavesQueue : Obligations.ExecLeavesQueue := by
  unfold Obligations.ExecLeavesQueue
  intro i s t h
  exact (keeps_exec i (keeps_refl s) t h).pending

/-- A step takes the command at the front of the queue, and its row keeps the memories; on an empty queue time
passes. -/
theorem memoriesWf_step {t : State} (hwf : memoriesWf s) (h : step s = .next t) : memoriesWf t := by
  unfold step at h
  split at h
  · exact (next (keeps_idle (keeps_refl s)) t h).memories hwf
  · exact (keeps_exec _ (keeps_refl _) t h).memories hwf

/-- Settles O4. -/
theorem stepKeepsMemories : Obligations.StepKeepsMemories := by
  unfold Obligations.StepKeepsMemories
  intro s t
  exact memoriesWf_step

/-! ### No row stops but at an access past a window (log 40) -/

/-- A row completes, or it stops and its access is not well formed. -/
def Answers (i : Instr) (s : State) : Prop :=
  (∃ t, exec i s = .next t) ∨ i.wf = false ∧ ∃ f, exec i s = .fault f

theorem answers_of_guard {i : Instr} {c : Prop} [Decidable c] {t : State} (hc : c → i.wf = false)
    (hexec : exec i s = if c then .fault .noSuchAddress else .next t) : Answers i s := by
  by_cases h : c
  · exact .inr ⟨hc h, _, hexec.trans (if_pos h)⟩
  · exact .inl ⟨_, hexec.trans (if_neg h)⟩

theorem exec_answers (i : Instr) (s : State) : Answers i s := by
  cases i
  case ackMirrorWrite => exact answers_of_guard (fun h => decide_eq_false (Nat.not_lt.2 h)) rfl
  case counterLowRead r =>
    refine answers_of_guard (fun h => decide_eq_false ?_) rfl
    rcases (Bool.or_eq_true _ _).mp h with h | h
    · exact fun hin => Nat.not_le.2 (of_decide_eq_true h) hin.2
    · exact fun hin => Nat.not_lt.2 (of_decide_eq_true h) hin.1
  case bar0Write => exact answers_of_guard (fun h => decide_eq_false (Nat.not_le.2 h)) rfl
  case bar2Write => exact answers_of_guard (fun h => decide_eq_false (Nat.not_le.2 h)) rfl
  case bar2Read => exact answers_of_guard (fun h => decide_eq_false (Nat.not_le.2 h)) rfl
  case configRequest =>
    refine answers_of_guard (fun h => ?_) rfl
    simp only [Instr.wf, Bool.and_eq_false_iff, decide_eq_false_iff_not]
    omega
  all_goals exact .inl ⟨_, rfl⟩

/-- Settles O2. -/
theorem wellFormedCompletes : Obligations.WellFormedCompletes := by
  unfold Obligations.WellFormedCompletes
  refine ⟨fun i s hwf => ?_, fun i s f hf => ?_, fun i s r hr => ?_⟩
  · obtain hnext | ⟨hnot, _⟩ := exec_answers i s
    · exact hnext
    · exact absurd (hwf.symm.trans hnot) (by decide)
  · obtain ⟨t, ht⟩ | ⟨hnot, _⟩ := exec_answers i s
    · exact nomatch hf.symm.trans ht
    · exact hnot
  · obtain ⟨t, ht⟩ | ⟨_, f, hf⟩ := exec_answers i s
    · exact nomatch hr.symm.trans ht
    · exact nomatch hr.symm.trans hf

end Sys2Proof.Keeping
end

section
/-! Frames and LINK blocks of a chain port (R353, R355, R356). -/

namespace Sys2Proof.PortFrames

open Sys2Proof Sys2Proof.Machine

/-- With nothing in its queue a port sends nothing. -/
theorem portAt_portSend_idle {s : State} {p : Nat} (hidle : (portAt s p).queue = []) :
    portAt (portSend s p) p = portAt s p := by
  have hdrain : drainPort (activeLanes s p).length (portAt s p).queue.length (portAt s p) = (portAt s p, []) := by
    rw [hidle]
    rfl
  rw [portSend, hdrain]
  exact portAt_setPort _ _ _

theorem portAt_sendRaw (s : State) (x : Sent) (p : Nat) : portAt (sendRaw s x) p = portAt s p := rfl

/-- Freed credit leaves every port as it was. -/
theorem portAt_grantFree (s : State) (p : Nat) : portAt (grantFree s) p = portAt s p := by
  unfold grantFree
  dsimp only
  generalize s.chain.grants.filter (fun g => !copyWaits s g.2.2.2) = freed
  have hsame : ∀ u : State,
      portAt (freed.foldl (fun s g => sendRaw s (.credit g.1 g.2.1 g.2.2.1)) u) p = portAt u p := by
    induction freed with
    | nil => exact fun _ => rfl
    | cons g rest ih => exact fun u => (ih _).trans (portAt_sendRaw u _ p)
  exact hsame _

/-- A port that is not up takes neither frames nor LINK blocks. -/
theorem port_down_takes_nothing {s : State} {p : Fin 4} (hdown : (portAt s p).state < 2) (seq : BitVec 16) (crc : Bool)
    (body : FrameBody) (use : LinkUse) (topology : Fin 4) (x y leg : Nat) :
    exec (.frameReceive p seq crc body) s = .next s ∧ exec (.linkBlock p use) s = .next s ∧
      exec (.enumFrame p topology x y leg) s = .next s :=
  ⟨congrArg Host.Outcome.next (if_pos hdown), congrArg Host.Outcome.next (if_pos hdown),
    congrArg Host.Outcome.next (if_pos hdown)⟩

/-- An acknowledgement of a frame that does not wait changes nothing. -/
theorem exec_ack_unknown {s : State} {p : Fin 4} {seq : BitVec 16}
    (hnone : replayFrom (portAt s p.val).replay seq.toNat = []) :
    exec (.linkBlock p (.ack seq)) s = .next s ∧ exec (.linkBlock p (.nak seq)) s = .next s := by
  constructor
  · change execLinkBlock p (.ack seq) s = _
    simp only [execLinkBlock, hnone, if_true, ite_self]
  · change execLinkBlock p (.nak seq) s = _
    simp only [execLinkBlock, hnone, if_true, ite_self]

section up

variable {s : State} {p : Fin 4} (hup : 2 ≤ (portAt s p.val).state)
include hup

theorem exec_frameReceive (seq : BitVec 16) (body : FrameBody) : exec (.frameReceive p seq true body) s =
    .next (if seq.toNat = (portAt s p.val).rxSeq then
      receive (sendRaw (setPort s p.val { portAt s p.val with rxSeq := ((portAt s p.val).rxSeq + 1) % 65536 })
        (.ackFrame p.val seq.toNat)) p.val body
    else if ((portAt s p.val).rxSeq + 65536 - seq.toNat) % 65536 < 32768 then sendRaw s (.ackFrame p.val seq.toNat)
    else s) :=
  congrArg Host.Outcome.next (if_neg (Nat.not_lt.2 hup))

theorem exec_frameReceive_bad (seq : BitVec 16) (body : FrameBody) : exec (.frameReceive p seq false body) s =
    .next (sendRaw (count s 6 0 0x83 (4 * p.val + 1)) (.nakFrame p.val seq.toNat)) :=
  congrArg Host.Outcome.next (if_neg (Nat.not_lt.2 hup))

theorem exec_enumFrame (topology : Fin 4) (x y leg : Nat) :
    exec (.enumFrame p topology x y leg) s = .next (enumArrive s p.val topology.val x y leg) :=
  congrArg Host.Outcome.next (if_neg (Nat.not_lt.2 hup))

/-- An acknowledgement of a frame that waits for it frees the buffer up to that frame. -/
theorem exec_ack {seq : BitVec 16} {f : Nat × FrameBody} {rest : List (Nat × FrameBody)}
    (hwaits : replayFrom (portAt s p.val).replay seq.toNat = f :: rest) : exec (.linkBlock p (.ack seq)) s =
      .next (grantFree (portSend (setPort s p.val { portAt s p.val with replay := rest, replays := 0 }) p.val)) := by
  change execLinkBlock p (.ack seq) s = _
  simp only [execLinkBlock, Nat.not_lt.2 hup, if_false, hwaits, reduceCtorEq, List.drop_one, List.tail_cons]
  rfl

/-- A negative acknowledgement repeats the frames from its own on, for the 17th time it takes the link down. -/
theorem exec_nak {seq : BitVec 16} {f : Nat × FrameBody} {rest : List (Nat × FrameBody)}
    (hwaits : replayFrom (portAt s p.val).replay seq.toNat = f :: rest) :
    let n := if (portAt s p.val).nakSeq = seq.toNat then (portAt s p.val).replays else 0
    exec (.linkBlock p (.nak seq)) s = .next (if 16 ≤ n then linkFall s p.val
      else (f :: rest).foldl (fun u e => sendRaw u (.frame (some p.val) e.2))
        (count (setPort s p.val { portAt s p.val with replays := n + 1, nakSeq := seq.toNat }) 6 0 0x83
          (4 * p.val + 2))) := by
  intro n
  change execLinkBlock p (.nak seq) s = _
  simp only [execLinkBlock, Nat.not_lt.2 hup, if_false, hwaits, reduceCtorEq]
  rfl

theorem exec_credit (c : Fin 4) (n : Nat) : exec (.linkBlock p (.credit c n)) s =
    .next (grantFree (portSend (setPort s p.val { portAt s p.val with
      credits := tabSet (portAt s p.val).credits c (Nat.min 16384 (creditOf (portAt s p.val) c.val + n)) }) p.val)) :=
  congrArg Host.Outcome.next (if_neg (Nat.not_lt.2 hup))

end up

/-- Settles O39. -/
theorem framesAndLinkBlocks : Obligations.FramesAndLinkBlocks := by
  unfold Obligations.FramesAndLinkBlocks
  refine ⟨fun s p seq crc body use topology x y leg hdown => port_down_takes_nothing hdown ..,
    fun s p seq body hup => ⟨exec_frameReceive_bad hup seq body, fun hnext => ?_, fun hnot hold => ?_,
      exec_enumFrame hup, fun f rest hwaits => ⟨exec_ack hup hwaits, fun hfew => ?_, fun hmany => ?_⟩,
      exec_ack_unknown, fun c n => ⟨_, exec_credit hup c n, ?_, fun hidle => ?_⟩⟩⟩
  · rw [exec_frameReceive hup, if_pos hnext]
  · rw [exec_frameReceive hup, if_neg hnot, if_pos hold]
  · exact (exec_nak hup hwaits).trans (congrArg _ (if_neg (Nat.not_le.2 hfew)))
  · exact (exec_nak hup hwaits).trans (congrArg _ (if_pos hmany))
  · rw [portAt_setPort]
    exact tabGet_tabSet_same _ _ _ _
  · rw [portAt_grantFree, portAt_portSend_idle]
    rw [portAt_setPort]
    exact hidle

end Sys2Proof.PortFrames
end

section
/-! Chain lanes: what the model's operations on lanes and ports leave of a lane, the stages of the bring-up (R342 to
R347, R370), and the events of a lane in TRAIN, in ACTIVE and after a test (R335 to R349). -/

namespace Sys2Proof.ChainLanes

open Sys2Proof Sys2Proof.Machine

/-! ### Lanes and ports after the model's operations -/

@[simp] theorem laneAt_modLane (s : State) (l : Nat) (f : Lane → Lane) :
    laneAt (modLane s l f) l = f (laneAt s l) := laneAt_setLane _ _ _

theorem laneAt_modLane_other (s : State) {l k : Nat} (f : Lane → Lane) (h : k ≠ l) :
    laneAt (modLane s l f) k = laneAt s k := laneAt_setLane_other _ _ _ _ h

@[simp] theorem portAt_modLane (s : State) (l p : Nat) (f : Lane → Lane) : portAt (modLane s l f) p = portAt s p := rfl

@[simp] theorem portAt_modPort (s : State) (p : Nat) (f : Port → Port) :
    portAt (modPort s p f) p = f (portAt s p) := portAt_setPort _ _ _

@[simp] theorem laneAt_modPort (s : State) (p l : Nat) (f : Port → Port) : laneAt (modPort s p f) l = laneAt s l := rfl

@[simp] theorem laneAt_sendRaw (s : State) (x : Sent) (l : Nat) : laneAt (sendRaw s x) l = laneAt s l := rfl

@[simp] theorem laneAt_portSettle (s : State) (p l : Nat) : laneAt (portSettle s p) l = laneAt s l := rfl

@[simp] theorem laneAt_portEnter (s : State) (p l : Nat) : laneAt (portEnter s p) l = laneAt s l := rfl

@[simp] theorem laneAt_portTraining (s : State) (p l : Nat) : laneAt (portTraining s p) l = laneAt s l := rfl

@[simp] theorem laneAt_capSend (s : State) (p l : Nat) : laneAt (capSend s p) l = laneAt s l := by
  unfold capSend
  dsimp only
  split <;> rfl

@[simp] theorem portAt_laneTrain (s : State) (l cause p : Nat) : portAt (laneTrain s l cause) p = portAt s p := rfl

/-- A lane that goes back to TRAIN, with its cause, the rate of its port and the preset codes. -/
theorem laneAt_laneTrain (s : State) (l cause : Nat) :
    (laneAt (laneTrain s l cause) l).state = .train ∧ (laneAt (laneTrain s l cause) l).cause = cause ∧
      (laneAt (laneTrain s l cause) l).rate = (portAt s (portOfLane l)).rate ∧
      (laneAt (laneTrain s l cause) l).preCode = txPre s l ∧
      (laneAt (laneTrain s l cause) l).postCode = txPost s l := by
  rw [laneTrain, laneAt_modLane]
  exact ⟨rfl, rfl, rfl, rfl, rfl⟩

/-- What one visit brings about and every visit keeps holds after the visits. -/
theorem forAll_establishes {P : State → Prop} {f : State → Nat → State} {k : Nat} (hvisit : ∀ s, P (f s k))
    (hkeeps : ∀ s j, P s → P (f s j)) {xs : List Nat} (hk : k ∈ xs) (s : State) : P (forAll s xs f) := by
  induction xs generalizing s with
  | nil => exact absurd hk List.not_mem_nil
  | cons j rest ih =>
    rcases List.mem_cons.1 hk with rfl | hrest
    · exact forAll_keeps P f hkeeps _ rest (hvisit s)
    · exact ih hrest _

/-- Lanes that all take one change: each of them has it, however often it is visited. -/
theorem laneAt_forAll_of_mem {P : Lane → Prop} {f : Lane → Lane} (hf : ∀ x, P (f x)) {ls : List Nat} {k : Nat}
    (hk : k ∈ ls) (s : State) : P (laneAt (forAll s ls fun s l => modLane s l f) k) := by
  refine forAll_establishes (P := fun t => P (laneAt t k)) (fun t => ?_) (fun t j ht => ?_) hk s
  · rw [laneAt_modLane]
    exact hf _
  · by_cases hj : k = j
    · subst hj
      rw [laneAt_modLane]
      exact hf _
    · rw [laneAt_modLane_other _ _ hj]
      exact ht

/-- What does not look at the chain is as before. -/
theorem same_forAll_modLane {α : Type} (g : State → α) (hg : ∀ s c, g { s with chain := c } = g s) (s : State)
    (ls : List Nat) (f : Lane → Lane) : g (forAll s ls fun s l => modLane s l f) = g s :=
  forAll_same g (fun s l => modLane s l f) (fun s _ => hg s _) s ls

/-! ### Bring-up (R342 to R347, R370) -/

/-- The state in which a lane tries to enter DETECT: the first of its port latches the port's control word. -/
def latched (s : State) (l : Nat) : State :=
  if (lanesOfPort (portOfLane l)).all fun k => (laneAt s k).state = .off then portEnter s (portOfLane l) else s

@[simp] theorem laneAt_latched (s : State) (l k : Nat) : laneAt (latched s l) k = laneAt s k := by
  unfold latched
  split <;> rfl

section attempt

variable {s : State} {l : Fin 48} (henabled : laneEnabled (latched s l) l = true) (hclocked : laneClocked s l = true)
  (hmay : mayTrain s (portOfLane l) = true)
include henabled hclocked hmay

/-- A lane that is off enters DETECT at the rate of its port. -/
theorem exec_laneDetectAttempt_off (hoff : (laneAt s l).state = .off) : exec (.laneDetectAttempt l) s =
    .next (modLane (latched s l) l fun x => { x with
      state := .detect, cause := 0, rate := (portAt (latched s l) (portOfLane l)).rate }) := by
  have hall : (laneEnabled (latched s l) l && laneClocked s l && mayTrain s (portOfLane l)) = true := by
    rw [henabled, hclocked, hmay]
    rfl
  refine congrArg Host.Outcome.next ((if_pos hall).trans ?_)
  rw [hoff]
  rfl

theorem exec_laneDetectAttempt_detect (hdetect : (laneAt s l).state = .detect) : exec (.laneDetectAttempt l) s =
    .next (setLane s l { laneAt s l with cause := 0 }) := by
  have hall : (laneEnabled (latched s l) l && laneClocked s l && mayTrain s (portOfLane l)) = true := by
    rw [henabled, hclocked, hmay]
    rfl
  refine congrArg Host.Outcome.next ((if_pos hall).trans ?_)
  rw [hdetect]
  rfl

end attempt

/-- What the reference of a follower's port may change leaves lanes and ports alone. -/
theorem exec_laneReceiverDetected {s : State} {l : Fin 48} (hdetect : (laneAt s l).state = .detect) :
    ∃ t, exec (.laneReceiverDetected l) s = .next t ∧ (∀ k, laneAt t k = laneAt (laneTrain s l 0) k) ∧
      ∀ p, portAt t p = portAt (portTraining (laneTrain s l 0) (portOfLane l)) p := by
  refine ⟨_, congrArg Host.Outcome.next (if_pos hdetect), fun k => ?_, fun p => ?_⟩
  · dsimp only
    split <;> rfl
  · dsimp only
    split <;> rfl

theorem portState_portTraining (s : State) (p : Nat) : (portAt (portTraining s p) p).state =
    if 2 ≤ (portAt s p).state then (portAt s p).state else 1 := by
  rw [portTraining, portAt_modPort]
  split
  · rfl
  · rfl

/-- A lane that matches enters CAPABILITY, or rejoins a port that has active lanes. -/
theorem exec_deskewMatch {s : State} {l : Fin 48} (hdeskew : (laneAt s l).state = .deskew) (skew : Fin 65) :
    ∃ t, exec (.deskewMatch l skew) s = .next t ∧ (laneAt t l).skew = skew.val ∧ (laneAt t l).markerSeen = true ∧
      (laneAt t l).state = if 2 ≤ (portAt s (portOfLane l)).state then .active else .capability := by
  refine ⟨_, congrArg Host.Outcome.next (if_pos hdeskew), ?_⟩
  by_cases hup : 2 ≤ (portAt s (portOfLane l)).state
  · simp [hup]
  · simp [hup]

theorem exec_deskewTimeout {s : State} {l : Fin 48} (hdeskew : (laneAt s l).state = .deskew) :
    ∃ t, exec (.deskewTimeout l) s = .next t ∧ laneAt t l = { laneAt s l with state := .failed, cause := 4 } :=
  ⟨_, congrArg Host.Outcome.next (if_pos hdeskew), (laneAt_capSend _ _ _).trans (laneAt_modLane _ _ _)⟩

section timeout

variable {s : State} {p : Fin 4} (hany : (lanesOfPort p).any (fun k => (laneAt s k).state = .train) = true)
include hany

theorem lanesInTrain_ne_nil : (lanesOfPort p).filter (fun k => decide ((laneAt s k).state = .train)) ≠ [] := by
  obtain ⟨k, hk, htrain⟩ := List.any_eq_true.1 hany
  exact List.ne_nil_of_mem (List.mem_filter.2 ⟨hk, htrain⟩)

theorem exec_trainTimeout : exec (.trainTimeout p) s = .next (if portMoves s p then
      forAll s ((lanesOfPort p).filter fun k => (laneAt s k).state = .train) fun s l =>
        modLane s l fun x => { x with state := .failed, cause := 1 }
    else portRestart s p ((portAt s p).rate + 1) 1) :=
  congrArg Host.Outcome.next (if_neg (lanesInTrain_ne_nil hany))

end timeout

/-! ### Capability (R345) -/

section capability

variable {s : State} {p : Fin 4} (hcap : capLanes s p ≠ []) (hmoves : portMoves s p = true)
include hcap hmoves

theorem exec_capabilityFrame (known pilot : Bool) (mask : BitVec 12) (rate : Fin 3) :
    exec (.capabilityFrame p known pilot mask rate) s = .next (
      if !known then modPort s p fun x => { x with capCause := 2 }
      else if pilot && isPilot s then modPort s p fun x => { x with capCause := 1 }
      else if mask.toNat ≠ trainedMask s p && rate.val ≠ (portAt s p).rate then portRestart s p (portAt s p).rate 0
      else portSettle (modPort (forAll s (capLanes s p) fun s l =>
        modLane s l fun x => { x with state := .active, cause := 0 }) p fun x => { x with capCause := 0 }) p) := by
  refine congrArg Host.Outcome.next (if_neg ?_)
  rw [hmoves]
  simpa using hcap

end capability

/-- Settles O40. -/
theorem laneBringUp : Obligations.LaneBringUp := by
  unfold Obligations.LaneBringUp
  intro s l x p s'
  refine ⟨fun hen hclk hmay => ⟨fun hoff => ?_, exec_laneDetectAttempt_detect hen hclk hmay⟩, fun hdetect => ?_,
    fun hbit => ⟨congrArg Host.Outcome.next (if_pos hbit), congrArg Host.Outcome.next (if_pos hbit)⟩,
    fun hblock => ?_, fun hslip => ?_, fun hdeskew => ⟨exec_deskewTimeout hdeskew, exec_deskewMatch hdeskew⟩,
    fun cause => ?_, fun p hany => ⟨fun hmoves => ?_, fun hstuck => ?_⟩,
    fun p hcap => ⟨fun hmoves => ?_, fun hfree => ?_⟩⟩
  · refine ⟨_, exec_laneDetectAttempt_off hen hclk hmay hoff, ?_⟩
    rw [laneAt_modLane]
    exact ⟨rfl, rfl, rfl, rfl⟩
  · obtain ⟨t, hnext, hlane, hport⟩ := exec_laneReceiverDetected hdetect
    obtain ⟨hstate, -, -, hpre, hpost⟩ := laneAt_laneTrain s l 0
    refine ⟨t, hnext, ?_⟩
    rw [hlane, hport, portState_portTraining]
    exact ⟨hstate, hpre, hpost, rfl⟩
  · refine ⟨?_, fun hretried => ?_, fun hfirst => ?_⟩
    all_goals refine congrArg Host.Outcome.next ?_
    · rw [hblock]
      rfl
    · rw [hblock]
      exact if_pos hretried
    · rw [hblock]
      exact if_neg (by rw [hfirst]; decide)
  · constructor
    all_goals refine congrArg Host.Outcome.next ?_; rw [hslip]
    · rfl
  · obtain ⟨hstate, hcause, hrate, -, -⟩ := laneAt_laneTrain s l cause
    exact ⟨hstate, hcause, hrate⟩
  · rw [exec_trainTimeout hany, if_pos hmoves]
    refine ⟨_, rfl, ?_, ?_, fun k hk htrain => ?_⟩
    · exact same_forAll_modLane State.quay (fun _ _ => rfl) _ _ _
    · exact same_forAll_modLane State.berth (fun _ _ => rfl) _ _ _
    · exact laneAt_forAll_of_mem (P := fun x => x.state = .failed ∧ x.cause = 1) (fun _ => ⟨rfl, rfl⟩)
        (List.mem_filter.2 ⟨hk, decide_eq_true htrain⟩) s
  · rw [exec_trainTimeout hany, if_neg (by rw [hstuck]; decide)]
  · refine ⟨fun pilot mask rate => exec_capabilityFrame hcap hmoves .., fun hpilot mask rate => ?_,
      fun pilot mask rate hother => ?_⟩
    · rw [exec_capabilityFrame hcap hmoves, hpilot]
      rfl
    · have hnot : ¬(pilot && isPilot s) = true := by
        rcases hother with rfl | hfollower
        · simp
        · simp [hfollower]
      refine ⟨fun hfits => ?_, fun hmask hrate => ?_⟩
      · have hkept : ¬(mask.toNat ≠ trainedMask s p && decide (rate.val ≠ (portAt s p).rate)) = true := by
          rcases hfits with hmask | hrate
          · simp [hmask]
          · simp [hrate]
        refine ⟨_, (exec_capabilityFrame hcap hmoves ..).trans
          (congrArg _ ((if_neg (by decide)).trans ((if_neg hnot).trans (if_neg hkept)))), fun k hk => ?_⟩
        rw [laneAt_portSettle, laneAt_modPort]
        exact laneAt_forAll_of_mem (P := fun x => x.state = .active) (fun _ => rfl) hk s
      · exact (exec_capabilityFrame hcap hmoves ..).trans (congrArg _ ((if_neg (by decide)).trans
          ((if_neg hnot).trans (if_pos (by simp [hmask, hrate])))))
  · exact congrArg Host.Outcome.next (if_pos (by simp [hcap, hfree]))

/-! ### A lane in TRAIN and in ACTIVE, and after a test (R335 to R349) -/

theorem exec_trainBlock_unlocked {s : State} {l : Fin 48} (htrain : (laneAt s l).state = .train)
    (hunlocked : rootLocked s = false) (a b c d : Fin 4) (rx g ready : Bool) :
    exec (.trainBlock l a b c d rx g ready) s = .next (setLane s l { laneAt s l with refGood := g }) :=
  congrArg Host.Outcome.next (if_pos (by simp [htrain, hunlocked]))

/-- Once the root has locked the lane answers with a TRAIN block, and leaves TRAIN with both receivers ready. -/
theorem exec_trainBlock_locked {s : State} {l : Fin 48} (htrain : (laneAt s l).state = .train)
    (hlocked : rootLocked s = true) (a b c d : Fin 4) (rx g ready : Bool) :
    ∃ t w, exec (.trainBlock l a b c d rx g ready) s = .next t ∧
      (laneAt t l).state = (if rx && ready then .bitLock else .train) ∧ (laneAt t l).rxReady = rx ∧
      (laneAt t l).refGood = g ∧ t.out.sent = s.out.sent ++ [.train l.val w] := by
  refine ⟨_, _, congrArg Host.Outcome.next ((if_neg (by simp [hlocked])).trans (if_pos htrain)), ?_, ?_, ?_, rfl⟩
  all_goals
    rw [laneAt_sendRaw, laneAt_modLane]

section window

variable {s : State} {l : Fin 48} (hactive : laneActive s l = true) {idle : Nat}
include hactive

theorem exec_adaptWindowEnd : exec (.adaptWindowEnd l idle) s = .next (
      if 3686 < idle && !(laneAt s l).frozen then
        count (setLane s l { laneAt s l with frozen := true }) 6 0 0x82 (4 * l.val + 3)
      else if idle ≤ 2048 && (laneAt s l).frozen then setLane s l { laneAt s l with frozen := false }
      else s) :=
  congrArg Host.Outcome.next (if_pos hactive)

theorem exec_adaptWindowEnd_freezes (hidle : 3686 < idle) (hfree : (laneAt s l).frozen = false) :
    exec (.adaptWindowEnd l idle) s =
      .next (count (setLane s l { laneAt s l with frozen := true }) 6 0 0x82 (4 * l.val + 3)) := by
  rw [exec_adaptWindowEnd hactive]
  exact congrArg _ (if_pos (by simp [hidle, hfree]))

theorem exec_adaptWindowEnd_adapts (hidle : idle ≤ 2048) (hfrozen : (laneAt s l).frozen = true) :
    exec (.adaptWindowEnd l idle) s = .next (setLane s l { laneAt s l with frozen := false }) := by
  rw [exec_adaptWindowEnd hactive]
  exact congrArg _ ((if_neg (by simp [hfrozen])).trans (if_pos (by simp [hidle, hfrozen])))

theorem exec_adaptWindowEnd_stays (hlow : idle ≤ 3686 ∨ (laneAt s l).frozen = true)
    (hhigh : 2048 < idle ∨ (laneAt s l).frozen = false) : exec (.adaptWindowEnd l idle) s = .next s := by
  rw [exec_adaptWindowEnd hactive]
  cases hfrozen : (laneAt s l).frozen with
  | false => exact congrArg _ ((if_neg (by simpa [hfrozen] using hlow)).trans (if_neg (by simp)))
  | true => exact congrArg _ ((if_neg (by simp)).trans (if_neg (by simpa [hfrozen] using hhigh)))

end window

/-- The state in which the marker of an active lane has been taken. -/
def marked (s : State) (l seq m : Nat) : State :=
  modLane (modPort s (portOfLane l) fun x => { x with markerSeq := seq }) l fun x => { x with
    markerSeen := true, bips := (m :: x.bips).take 4 }

theorem laneAt_marked (s : State) (l seq m : Nat) : laneAt (marked s l seq m) l =
    { laneAt s l with markerSeen := true, bips := (m :: (laneAt s l).bips).take 4 } := laneAt_modLane _ _ _

theorem markerSeq_marked (s : State) (l seq m : Nat) : (portAt (marked s l seq m) (portOfLane l)).markerSeq = seq := by
  rw [marked, portAt_modLane, portAt_modPort]

theorem exec_alignMarker {s : State} {l : Fin 48} (hactive : laneActive s l = true) (seq : BitVec 16) (m : Fin 17) :
    exec (.alignMarker l seq m) s = .next (
      if 16 ≤ ((m.val :: (laneAt s l).bips).take 4).sum then laneLoss (marked s l seq.toNat m) l
      else marked s l seq.toNat m) := by
  refine congrArg Host.Outcome.next ((if_pos hactive).trans ?_)
  change (if 16 ≤ (laneAt (marked s l seq.toNat m) l).bips.sum then _ else _) = _
  rw [laneAt_marked]
  rfl

/-- The end of a test: the lane retrains, or is off while zone 22 is stopped. -/
theorem state_testOver (s : State) (l : Nat) :
    (laneAt (testOver s l) l).state = if 3 ≤ (zoneAt s 22).state then .off else .train := by
  unfold testOver
  split
  · rw [laneAt_modLane]
  · exact (laneAt_laneTrain s l 8).1

theorem laneLoss_last {s : State} {l : Nat} (hlast : activeLanes s (portOfLane l) = [l]) :
    laneLoss s l = linkFall s (portOfLane l) := if_pos hlast

theorem laneAt_laneLoss {s : State} {l : Nat} (hothers : activeLanes s (portOfLane l) ≠ [l]) :
    (laneAt (laneLoss s l) l).state = .train ∧ (laneAt (laneLoss s l) l).cause = 7 := by
  rw [laneLoss, if_neg hothers]
  obtain ⟨hstate, hcause, -⟩ := laneAt_laneTrain (laneLeave s l .train 7) l 7
  exact ⟨hstate, hcause⟩

theorem exec_laneTestEnd_running {s : State} {l : Fin 48} {c : Cmd} (hcmd : testCmd s l = some c) (errors : BitVec 64)
    (locked : Bool) : exec (.laneTestEnd l errors locked) s =
      .next (completeOk (testOver (reach s (c.started + 800 * testTime c)) l) c
        [(16, 8, errors.toNat + testInjected c (laneAt s l).rate), (24, 1, if locked then 1 else 0)]) := by
  change execLaneTestEnd l errors locked s = _
  rw [execLaneTestEnd, hcmd]
  rfl

theorem exec_laneTestEnd_none {s : State} {l : Fin 48} (hnone : testCmd s l = none) (htest : (laneAt s l).state = .test)
    (errors : BitVec 64) (locked : Bool) : exec (.laneTestEnd l errors locked) s = .next (testOver s l) := by
  change execLaneTestEnd l errors locked s = _
  rw [execLaneTestEnd, hnone]
  exact congrArg _ (if_pos htest)

/-- Settles O41. -/
theorem laneEvents : Obligations.LaneEvents := by
  unfold Obligations.LaneEvents
  intro s l x
  refine ⟨fun htrain a b c d rx g ready => ⟨fun hlocked => exec_trainBlock_locked htrain hlocked ..,
      fun hunlocked => exec_trainBlock_unlocked htrain hunlocked ..⟩,
    fun hactive => ⟨fun idle => exec_adaptWindowEnd_freezes hactive, fun idle => exec_adaptWindowEnd_adapts hactive,
      fun idle => exec_adaptWindowEnd_stays hactive, congrArg Host.Outcome.next (if_pos hactive), fun seq m => ?_⟩,
    laneLoss_last, laneAt_laneLoss, fun p hup => congrArg Host.Outcome.next (if_pos hup), rfl, rfl,
    fun errors locked => ⟨fun c hcmd => exec_laneTestEnd_running hcmd errors locked,
      fun hnone htest => exec_laneTestEnd_none hnone htest errors locked⟩, state_testOver s l⟩
  have hstate : (laneAt s l).state = .active := of_decide_eq_true hactive
  refine ⟨marked s l seq.toNat m, ?_, ?_, markerSeq_marked .., ?_, rfl, fun hfew => ?_, fun hmany => ?_⟩
  · rw [laneAt_marked]
  · rw [laneAt_marked]
  · rw [laneAt_marked]
    exact hstate
  · exact (exec_alignMarker hactive seq m).trans (congrArg _ (if_neg (Nat.not_le.2 hfew)))
  · exact (exec_alignMarker hactive seq m).trans (congrArg _ (if_pos hmany))

end Sys2Proof.ChainLanes
end

section
/-! Trim, presence and gated domains of the clocks (R463 to R474). -/

namespace Sys2Proof.ClockDomains

open Sys2Proof Sys2Proof.Machine HostSideRows

/-! ### Trim (R463, R466) -/

/-- A switchover of the trim keeps what the trim measures, and counts in no field but its own. -/
theorem switchover_keeps (s : State) : (switchover s).clk.hkSettled = s.clk.hkSettled ∧
    (switchover s).clk.trimError = s.clk.trimError ∧ (switchover s).clk.trimCode = s.clk.trimCode ∧
    (switchover s).clk.trimLock = s.clk.trimLock ∧
    ackOf (switchover s) (pid 6 0 0xB1 5) = ackOf s (pid 6 0 0xB1 5) := by
  unfold switchover
  split
  · split
    · exact ⟨rfl, rfl, rfl, rfl, rfl⟩
    · split
      · exact ⟨rfl, rfl, rfl, rfl, rfl⟩
      · exact ⟨rfl, rfl, rfl, rfl, ackOf_count_other _ _ _ _ _ _ (by decide)⟩
  · exact ⟨rfl, rfl, rfl, rfl, rfl⟩

theorem exec_hkSettled {s : State} (haon : s.boot.aonOn = true) :
    ∃ t, exec .hkSettled s = .next t ∧ t.clk.hkSettled = true := by
  cases hsettled : s.clk.hkSettled with
  | false => exact ⟨_, congrArg Host.Outcome.next (if_pos (by simp [haon, hsettled])), (switchover_keeps _).1⟩
  | true => exact ⟨_, congrArg Host.Outcome.next (if_neg (by simp [hsettled])), hsettled⟩

/-- The state that a measurement of the trim leaves before a switchover. -/
def trimmed (s : State) (ppm : Int) : State :=
  let good := if ppm.natAbs ≤ 100 then s.clk.trimGood + 1 else 0
  { (if 1000 < ppm.natAbs ∧ s.clk.trimLock = true then count s 6 0 0xB1 5 else s) with clk := { s.clk with
    trimCode := max (-2000) (min 2000 (s.clk.trimCode - nearest ppm 25)), trimError := ppm
    trimGood := good, trimLock := if 1000 < ppm.natAbs then false else s.clk.trimLock || decide (4 ≤ good) } }

theorem exec_trimMeasurement {s : State} (hruns : trimRuns s = true) (ppm : Int) :
    exec (.trimMeasurement ppm) s = .next (if (trimmed s ppm).clk.trimLock = s.clk.trimLock then trimmed s ppm
      else switchover (trimmed s ppm)) := by
  change execTrimMeasurement ppm s = _
  unfold execTrimMeasurement trimmed
  rw [if_pos hruns]
  by_cases hfar : 1000 < ppm.natAbs
  · cases s.clk.trimLock
    · simp [hfar, modClk]
    · simp [hfar, modClk]
  · simp [hfar, modClk]

/-- What the row of a measurement leaves, whether a switchover follows or not. -/
theorem exec_trimMeasurement_keeps {s : State} (hruns : trimRuns s = true) (ppm : Int) :
    ∃ t, exec (.trimMeasurement ppm) s = .next t ∧ t.clk.trimError = (trimmed s ppm).clk.trimError ∧
      t.clk.trimCode = (trimmed s ppm).clk.trimCode ∧ t.clk.trimLock = (trimmed s ppm).clk.trimLock ∧
      ackOf t (pid 6 0 0xB1 5) = ackOf (trimmed s ppm) (pid 6 0 0xB1 5) := by
  refine ⟨_, exec_trimMeasurement hruns ppm, ?_⟩
  split
  · exact ⟨rfl, rfl, rfl, rfl⟩
  · exact (switchover_keeps _).2

theorem trimCode_trimmed (s : State) (ppm : Int) :
    -2000 ≤ (trimmed s ppm).clk.trimCode ∧ (trimmed s ppm).clk.trimCode ≤ 2000 := by
  change -2000 ≤ max (-2000) (min 2000 _) ∧ max (-2000) (min 2000 _) ≤ 2000
  omega

theorem trimLock_trimmed {s : State} {ppm : Int} (hfar : 1000 < ppm.natAbs) : (trimmed s ppm).clk.trimLock = false :=
  if_pos hfar

theorem ackOf_trimmed {s : State} {ppm : Int} (hfar : 1000 < ppm.natAbs) (hlock : s.clk.trimLock = true) :
    ackOf (trimmed s ppm) (pid 6 0 0xB1 5) = ackBump (ackOf s (pid 6 0 0xB1 5)) := by
  refine Eq.trans ?_ (ackOf_count_same s 6 0 0xB1 5)
  rw [trimmed, if_pos ⟨hfar, hlock⟩]
  rfl

/-! ### Presence (R465) -/

/-- Presence of a reference is the bit of its ball. -/
theorem natBit_setPresent (x : Clk) (r : Fin 3) (on : Bool) : natBit (setPresent x r on).refPresent r = on := by
  change (x.refPresent &&& (7 ^^^ 2 ^ r.val) ||| flag on r).testBit r = on
  have hkept : (7 ^^^ 2 ^ r.val).testBit r = false := by
    have hball : ∀ r : Fin 3, (7 : Nat).testBit r = true := by decide
    simp [hball r]
  cases on <;> simp [hkept, flag]

/-- The host link that falls leaves the clocks and the boot alone. -/
theorem clk_boot_hostLinkLost (s : State) :
    (hostLinkLost s).clk = s.clk ∧ (hostLinkLost s).boot = s.boot ∧ (hostLinkLost s).host.linkUp = false := by
  cases hup : s.host.linkUp with
  | false =>
    have hsame : hostLinkLost s = s := if_pos (by simp [hup])
    rw [hsame]
    exact ⟨rfl, rfl, hup⟩
  | true =>
    have hends : onlyEnds s (s.host.heldReplies.foldl dropHeld (count s 6 0 0xD1 2)) :=
      onlyEnds_trans (t := count s 6 0 0xD1 2) rfl (onlyEnds_foldl _ onlyEnds_dropHeld _ _)
    have hclk := congrArg State.clk hends
    have hboot := congrArg State.boot hends
    rw [hostLinkLost_up hup]
    exact ⟨hclk, hboot, rfl⟩

/-- The state in which the presence of a reference has been noted. -/
def presenceNoted (s : State) (r : Nat) (on : Bool) : State :=
  let u := modClk s fun x => setPresent x r on
  if r = u.clk.refSel && !on && u.clk.refState = .none then
    { u with boot := { u.boot with refQualified := false } } else u

theorem exec_refPresentChange (s : State) (r : Fin 3) (on : Bool) : exec (.refPresentChange r on) s =
    .next (if r.val = 0 && !on then hostLinkLost (presenceNoted s r on) else presenceNoted s r on) := rfl

theorem presenceNoted_keeps (s : State) (r : Nat) (on : Bool) :
    (presenceNoted s r on).clk = setPresent s.clk r on ∧ (presenceNoted s r on).host = s.host := by
  unfold presenceNoted
  dsimp only
  split <;> exact ⟨rfl, rfl⟩

/-- The selected reference that goes before any lock has to qualify again. -/
theorem presenceNoted_unqualified {s : State} {r : Nat} (hsel : r = s.clk.refSel) (hnone : s.clk.refState = .none) :
    (presenceNoted s r false).boot.refQualified = false := by
  have hgone : (decide (r = (modClk s fun x => setPresent x r false).clk.refSel) && !false &&
      decide ((modClk s fun x => setPresent x r false).clk.refState = .none)) = true := by
    simp [modClk, setPresent, hsel, hnone]
  exact congrArg (fun u : State => u.boot.refQualified) (if_pos hgone)

/-! ### Gated domains (R469, R470) -/

theorem exec_domainSleep {s : State} {k : Fin 9} {i : Fin 64} (hmay : mayGate s k i = true) (deep : Bool) :
    exec (.domainSleep k i deep) s = .next (
      if deep then (if deepEn s k i && deepCond s k i then setAsleep s k i 2 else s)
      else if sleepCond s k i && sleepState s k i = 0 then setAsleep s k i 1 else s) :=
  congrArg Host.Outcome.next (if_pos hmay)

theorem exec_domainWake {s : State} {k : Fin 9} {i : Fin 64} (hcount : i.val < domainCount k)
    (hends : mayGate s k i = false ∨ sleepCond s k i = false) :
    exec (.domainWake k i) s = .next (setAsleep s k i 0) := by
  refine congrArg Host.Outcome.next (if_pos ?_)
  rcases hends with hmay | hcond
  · simp [hcount, hmay]
  · simp [hcount, hcond]

/-- Settles O55. -/
theorem clockDomainEvents : Obligations.ClockDomainEvents := by
  unfold Obligations.ClockDomainEvents
  refine fun s => ⟨exec_hkSettled, fun ppm hruns => ?_, fun r on => ?_, fun k i hmay =>
    ⟨fun hcond hawake => ?_, fun hen hcond => ?_⟩, fun k i => exec_domainWake⟩
  · obtain ⟨t, hnext, herror, hcode, hlock, hack⟩ := exec_trimMeasurement_keeps hruns ppm
    obtain ⟨hlow, hhigh⟩ := trimCode_trimmed s ppm
    exact ⟨t, hnext, herror, hcode ▸ hlow, hcode ▸ hhigh, fun hfar => hlock.trans (trimLock_trimmed hfar),
      fun hfar hlocked => hack.trans (ackOf_trimmed hfar hlocked)⟩
  · refine ⟨_, exec_refPresentChange s r on, ?_⟩
    obtain ⟨hclk, hhost⟩ := presenceNoted_keeps s r on
    have hball : natBit (presenceNoted s r on).clk.refPresent r = on := hclk ▸ natBit_setPresent s.clk r on
    split
    · next hlost =>
      obtain ⟨hclk', hboot', hdown⟩ := clk_boot_hostLinkLost (presenceNoted s r on)
      obtain ⟨hzero, -⟩ : r.val = 0 ∧ on = false := by simpa using hlost
      refine ⟨by rw [hclk']; exact hball, fun _ _ => hdown, fun hother => absurd (Fin.ext hzero) hother,
        fun hsel hoff hnone => ?_⟩
      rw [hboot', hoff]
      exact presenceNoted_unqualified hsel hnone
    · next hkept =>
      refine ⟨hball, fun hzero hoff => absurd ?_ hkept, fun _ => hhost, fun hsel hoff hnone => ?_⟩
      · simp [hzero, hoff]
      · rw [hoff]
        exact presenceNoted_unqualified hsel hnone
  · simp [exec_domainSleep hmay, hcond, hawake]
  · simp [exec_domainSleep hmay, hen, hcond]

end Sys2Proof.ClockDomains
end

section
/-! Start-up: the falls into COLD, the strap capture, the boot steps and the end of BOOTING (R548 to R568). -/

namespace Sys2Proof.BootSteps

open Sys2Proof Sys2Proof.Machine Standing

/-! ### Falls into COLD (R548, R551, R554) -/

/-- A count that has just been written survives every filter that keeps its field. -/
theorem tabFind_filter_tabSet {α : Type} {p : Nat × α → Bool} {k : Nat} {v : α} (hp : p (k, v) = true) (t : Tab α) :
    tabFind ((tabSet t k v).filter p) k = some v := by
  induction t with
  | nil => simp [tabSet, hp, tabFind]
  | cons e t ih =>
    obtain ⟨j, w⟩ := e
    unfold tabSet
    split
    · simp [hp, tabFind]
    · next hj =>
      split
      · simp [hp, tabFind]
      · next hk =>
        have hne : ¬j = k := fun h => hj h.symm
        cases hw : p (j, w) with
        | false => simpa [hw] using ih
        | true => simpa [hw, tabFind, hne, hk] using ih

/-- The device after an event of the always-on domain that counts in a field of it and takes the device to COLD. -/
def fallen (s : State) (m : Nat) : State :=
  if s.cold then count s 6 0 0xD9 m else coldState (count s 6 0 0xD9 m)

theorem cold_fallen (s : State) (m : Nat) : (fallen s m).cold = true := by
  unfold fallen
  split
  · assumption
  · rfl

theorem fallen_of_warm {s : State} (m : Nat) (hwarm : s.cold = false) :
    (fallen s m).par = {} ∧ (fallen s m).inflight = [] ∧ (fallen s m).tideOn = false := by
  rw [fallen, if_neg (by simp [hwarm])]
  exact ⟨rfl, rfl, rfl⟩

/-- Counts of the always-on domain stand through the fall. -/
theorem ackOf_fallen (s : State) {m : Nat} (hkept : idFam (pid 6 0 0xD9 m) = 0xD9) :
    ackOf (fallen s m) (pid 6 0 0xD9 m) = ackBump (ackOf s (pid 6 0 0xD9 m)) := by
  unfold fallen
  split
  · exact ackOf_count_same _ _ _ _ _
  · have halways : alwaysOnFam (idFam (BitVec.ofNat 32 (pid 6 0 0xD9 m).toNat)) = true := by
      rw [BitVec.ofNat_toNat, BitVec.setWidth_eq, hkept]
      rfl
    exact congrArg (Option.getD · {}) (tabFind_filter_tabSet
      (p := fun e => alwaysOnFam (idFam (BitVec.ofNat 32 e.1))) halways s.acks)

theorem exec_rstNFall {s : State} (hhigh : s.boot.rst = false) (haon : s.boot.aonOn = true) :
    exec .rstNFall s =
      .next (modBoot (fallen s 4) fun x => { x with rst := true, straps := none, strapConflicts := 0 }) :=
  congrArg Host.Outcome.next (if_neg (by simp [hhigh, haon]))

theorem exec_railFault {s : State} (r : Rail) (haon : s.boot.aonOn = true) : exec (.railFault r) s =
    .next (modBoot (fallen s 5) fun x => { x with
      railsBad := Nat.lor x.railsBad (2 ^ railNo r), straps := none, strapConflicts := 0
      railVdda := if r = .vddaFe then false else x.railVdda }) :=
  congrArg Host.Outcome.next (if_neg (by simp [haon]))

theorem natBit_lor_pow (x n : Nat) : natBit (Nat.lor x (2 ^ n)) n = true := by
  change (x ||| 2 ^ n).testBit n = true
  simp

theorem natBit_lor_keeps {x n : Nat} (y : Nat) (h : natBit x n = true) : natBit (Nat.lor x y) n = true := by
  change (x ||| y).testBit n = true
  rw [Nat.testBit_or, show x.testBit n = true from h, Bool.true_or]

theorem natBit_land_off (x : Nat) : natBit (Nat.land x 0x1D) 1 = false := by
  change (x &&& 0x1D).testBit 1 = false
  have hoff : (0x1D : Nat).testBit 1 = false := by decide
  rw [Nat.testBit_and, hoff, Bool.and_false]

theorem exec_strapCapture (x : Straps) {s : State} (hcold : s.cold = true) (haon : s.boot.aonOn = true)
    (hhk : s.clk.hkSettled = true) (hrails : s.boot.railsBad = 0 ∨ s.boot.rst = true) :
    ∃ t, exec (.strapCapture x) s = .next t ∧ t.cold = false ∧ t.booted = false ∧ t.boot.straps = some x ∧
      t.boot.strapConflicts = conflictsOf x ∧ t.clk.refSel = strapRef x := by
  refine ⟨_, congrArg Host.Outcome.next (if_pos ?_), rfl, rfl, rfl, rfl, rfl⟩
  rcases hrails with h | h
  · simp [hcold, haon, hhk, h]
  · simp [hcold, haon, hhk, h]

/-! ### The boot flash (R556 to R563) -/

/-- What the directories have shown. -/
def shown (s : State) : Nat × Bool × Nat × List DirEntry :=
  (s.boot.flashRead, s.boot.flashFound, s.boot.dirUsed, s.boot.dir)

theorem flashRead_flashMark (s : State) (n : Nat) : (flashMark s n).boot.flashRead = Nat.lor s.boot.flashRead (2 ^ n) :=
  rfl

theorem flashMark_keeps (s : State) (n : Nat) : (flashMark s n).boot.configResult = s.boot.configResult ∧
    (flashMark s n).boot.corrResult = s.boot.corrResult := ⟨rfl, rfl⟩

theorem natBit_flashMark (s : State) (n : Nat) : natBit (flashMark s n).boot.flashRead n = true := natBit_lor_pow _ n

theorem shown_parkTableRead_none (s : State) : shown (parkTableRead s none) = shown s := by
  unfold parkTableRead
  split <;> rfl

/-- A content that the flash does not hold changes nothing that the directories have shown. -/
theorem shown_contentRead_none (s : State) (n : Nat) : shown (contentRead s n none) = shown s := by
  unfold contentRead
  split
  · rfl
  · rfl
  · exact shown_parkTableRead_none s
  · rfl

/-- What the directories have shown stands while the contents without an entry are marked as read. -/
def showsFirst (found : Bool) (used : Nat) (dir : List DirEntry) (s : State) : Prop :=
  natBit s.boot.flashRead 0 = true ∧ s.boot.flashFound = found ∧ s.boot.dirUsed = used ∧ s.boot.dir = dir

theorem showsFirst_marked {found : Bool} {used : Nat} {dir : List DirEntry} {s : State} (n : Nat)
    (h : showsFirst found used dir s) : showsFirst found used dir (flashMark (contentRead s n none) n) := by
  obtain ⟨hread, hfound, hused, hdir⟩ := h
  have hsame := shown_contentRead_none s n
  have hflash : (contentRead s n none).boot.flashRead = s.boot.flashRead := congrArg (·.1) hsame
  refine ⟨?_, (congrArg (·.2.1) hsame).trans hfound, (congrArg (·.2.2.1) hsame).trans hused,
    (congrArg (·.2.2.2) hsame).trans hdir⟩
  rw [flashRead_flashMark, hflash]
  exact natBit_lor_keeps _ hread

/-- The copy of the directory that is used, if the flash names its size. -/
def picked (sfdp : Bool) (a b : List Byte) : Nat × List Byte := if sfdp then dirPick a b else (0, [])

theorem directoriesRead_shows (s : State) (sfdp : Bool) (a b : List Byte) :
    showsFirst sfdp (picked sfdp a b).1 (dirEntries (picked sfdp a b).2) (directoriesRead s sfdp a b) := by
  unfold directoriesRead
  extract_lets p es u
  have hu : showsFirst sfdp (picked sfdp a b).1 (dirEntries (picked sfdp a b).2) u :=
    ⟨natBit_flashMark _ 0, rfl, rfl, rfl⟩
  split
  · exact hu
  · refine forAll_keeps _ _ (fun t n ht => ?_) _ _ hu
    split
    · exact ht
    · exact showsFirst_marked n ht

theorem configResult_contentRead (s : State) (e : Option (Bool × List Byte)) :
    (contentRead s 2 e).boot.configResult = match e with
      | none => 0
      | some (false, _) => 2
      | some (true, c) => if configOk c then 1 else 3 := by
  change (configRead s e).boot.configResult = _
  match e with
  | none => rfl
  | some (false, _) => rfl
  | some (true, c) =>
    unfold configRead
    dsimp only
    split <;> rfl

/-- The park table is in use where it was taken, and only there. -/
theorem parkResult_contentRead (s : State) (e : Option (Bool × List Byte)) :
    (contentRead s 3 e).boot.parkSrcUsed = true ↔ (contentRead s 3 e).boot.parkResult = 1 := by
  have hrefuse (n : Nat) (hn : n ≠ 1) :
      (parkRefuse s n).boot.parkSrcUsed = true ↔ (parkRefuse s n).boot.parkResult = 1 :=
    ⟨fun h => absurd h Bool.false_ne_true, fun h => absurd h hn⟩
  change (parkTableRead s e).boot.parkSrcUsed = true ↔ (parkTableRead s e).boot.parkResult = 1
  unfold parkTableRead
  split
  · exact hrefuse 0 (by decide)
  · split
    · exact hrefuse 0 (by decide)
    · exact hrefuse 2 (by decide)
    · split
      · exact hrefuse 3 (by decide)
      · dsimp only
        split
        · exact ⟨fun _ => rfl, fun _ => rfl⟩
        · exact hrefuse 4 (by decide)

theorem corrResult_contentRead (s : State) (e : Option (Bool × List Byte)) :
    (contentRead s 4 e).boot.corrResult = match e with
      | none => 0
      | some (false, _) => 2
      | some (true, c) => if imageOk 6 0 c then 1 else if leAt c 8 8 ≠ Config.serial.toNat then 4 else 3 := by
  change (corrRead s e).boot.corrResult = _
  match e with
  | none => rfl
  | some (false, _) => rfl
  | some (true, c) =>
    unfold corrRead
    dsimp only
    split
    · rfl
    · split <;> rfl

theorem contentCome_wanted {s : State} {n : Nat} (hwants : flashWants s n = true) (bytes : List Byte) :
    contentCome s n bytes = flashMark (contentRead s n (entryOf s n bytes)) n := if_pos hwants

/-! ### Berth power, the park load, the end of BOOTING (R564, R565, R568) -/

/-- A visit of a berth's supplies leaves run states and power as they are. -/
theorem berth_blankAll (s : State) (k b : Nat) : (berthAt (blankAll s k) b).run = (berthAt s b).run ∧
    (berthAt (blankAll s k) b).powered = (berthAt s b).powered := by
  have hsp (t : State) (f : Sp → Sp) : (berthAt (modSp t k f) b).run = (berthAt t b).run ∧
      (berthAt (modSp t k f) b).powered = (berthAt t b).powered := by
    by_cases hb : b = k
    · subst hb
      rw [modSp, berthAt_modBerth]
      exact ⟨rfl, rfl⟩
    · rw [modSp, berthAt_modBerth_other _ _ hb]
      exact ⟨rfl, rfl⟩
  have hstart (t : State) (m : Mon) : (berthAt (blankStart t k m) b).run = (berthAt t b).run ∧
      (berthAt (blankStart t k m) b).powered = (berthAt t b).powered := by
    unfold blankStart
    split
    · exact hsp _ _
    · exact ⟨rfl, rfl⟩
  obtain ⟨hrun₁, hpow₁⟩ := hstart s .ov
  obtain ⟨hrun₂, hpow₂⟩ := hstart (blankStart s k .ov) .uv
  obtain ⟨hrun₃, hpow₃⟩ := hstart (blankStart (blankStart s k .ov) k .uv) .oc
  exact ⟨hrun₃.trans (hrun₂.trans hrun₁), hpow₃.trans (hpow₂.trans hpow₁)⟩

/-- A berth of a quay that comes up. -/
def berthUp (s : State) (b : Nat) : State :=
  let u := modBerth s b fun x => { x with powered := true }
  if leaderOf u b = b then blankAll u b else u

theorem powered_berthUp (s : State) (k b : Nat) : (berthAt (berthUp s k) b).powered =
    if b = k then true else (berthAt s b).powered := by
  have hset : (berthAt (modBerth s k fun x => { x with powered := true }) b).powered =
      if b = k then true else (berthAt s b).powered := by
    split
    · next hb => rw [hb, berthAt_modBerth]
    · next hb => rw [berthAt_modBerth_other _ _ hb]
  unfold berthUp
  dsimp only
  split
  · exact (berth_blankAll _ _ _).2.trans hset
  · exact hset

/-- A berth that the park load visits. -/
def berthParked (s : State) (b : Nat) : State :=
  if (stoppedZone s b).isSome then modBerth (parkHard (berthOn s b) b) b fun x => { x with park := none }
  else berthOn s b

theorem run_berthOn (s : State) (k b : Nat) : (berthAt (berthOn s k) b).run =
    if b = k then .parked else (berthAt s b).run := by
  unfold berthOn
  extract_lets entered u v
  have hu : (berthAt u b).run = (berthAt s b).run :=
    (stands_eq_iff.1 (stands_forAll _ (fun _ c => (stands_parkStart _ c).trans (stands_modChan _ _ _)) s _)).1 b
  have hv : (berthAt v b).run = if b = k then .parked else (berthAt s b).run := by
    split
    · next hb => rw [hb, berthAt_modBerth]
    · next hb => rw [berthAt_modBerth_other _ _ hb, hu]
  split
  · exact (berth_blankAll _ _ _).1.trans hv
  · exact hv

theorem run_parkHard (s : State) (k b : Nat) : (berthAt (parkHard s k) b).run = (berthAt s b).run := by
  have hstarts := stands_forAll _ stands_parkStart s (chansOfBerth k)
  have happly (t : State) (c : Nat) : stands (parkApply t true c) = stands t := rfl
  exact (stands_eq_iff.1 ((stands_forAll _ happly _ _).trans hstarts)).1 b

theorem run_berthParked (s : State) (k b : Nat) : (berthAt (berthParked s k) b).run =
    if b = k then .parked else (berthAt s b).run := by
  unfold berthParked
  split
  · have hstands := stands_modBerth (parkHard (berthOn s k) k) k (fun x => { x with park := none }) rfl
    rw [(stands_eq_iff.1 hstands).1 b, run_parkHard, run_berthOn]
  · exact run_berthOn s k b

theorem stands_parkTemp (s : State) (b : Nat) : stands (parkTemp s b) = stands s := by
  unfold parkTemp
  split
  · exact stands_modCal _ _ _
  · rfl

/-- The corrections of an image change no run state. -/
theorem stands_corrLoad (s : State) : stands (corrLoad s) = stands s := by
  unfold corrLoad
  split
  · rfl
  · extract_lets u v
    have hu : stands u = stands s := stands_foldl _ (fun _ _ => stands_modCal _ _ _) s _
    have hv : stands v = stands u := by
      refine stands_forAll _ (fun t b => ?_) u _
      split
      · exact (stands_forAll _ (fun _ _ => stands_modChan _ _ _) _ _).trans (stands_modCal _ _ _)
      · rfl
    clear_value u v
    exact hv.trans hu

/-- Booting and unparking stand through an entry of FAULT. -/
theorem blind_booted : CommandEnds.BlindToCancels fun s => (s.booted, s.unparked) where
  host _ _ := rfl
  chain _ _ := rfl
  out _ _ := rfl
  inflight _ _ := rfl
  unposted _ _ := rfl
  quay _ _ := rfl
  ctx _ _ _ _ _ := rfl
  dropped _ := rfl
  aborted _ _ := rfl
  chan _ _ := rfl
  berth _ _ := rfl
  par _ _ := rfl
  tp _ _ := rfl
  bakeEnd _ _ _ := rfl

theorem booted_deviceFault (s : State) (src inst : Nat) :
    ((deviceFault s src inst).booted, (deviceFault s src inst).unparked) = (s.booted, s.unparked) := by
  refine EngineFaults.same_deviceFault blind_booted s src inst ?_
  unfold devFaultEnter
  split
  · rfl
  · have hcause (t : State) : ((causeEvent t 0).booted, (causeEvent t 0).unparked) = (t.booted, t.unparked) := by
      change ((vec0 (count t 6 0 0xD1 7) 0).booted, (vec0 (count t 6 0 0xD1 7) 0).unparked) = _
      rw [Microwords.vec0_only]
      rfl
    exact hcause _

/-- The state in which BOOTING has ended. -/
def bootEnded (s : State) : State :=
  modBoot { s with booted := true, unparked := false, freeCtr := s.freeCtr + 1 } fun x => { x with
    step := 10, reload := false
    bootTime := if x.reload then x.bootTime else (Config.freeWord (s.freeCtr + 1 - 1)).toNat }

section boot

variable {s : State} (hboot : booting s = true)
include hboot

theorem exec_quayPowerUpDone {q : Fin 16} (hreload : s.boot.reload = false) (h3 : step3Done s = true)
    (h6 : step6Done s = true) (hflash : flashSkipped s = false) (hturn : s.boot.quaysUp ≤ q.val)
    (hnone : ∀ b, b < 64 → s.boot.quaysUp ≤ quayOfBerth b → quayOfBerth b < q.val → bootMask s b = false) :
    exec (.quayPowerUpDone q) s = .next (stepNote (modBoot
      (forAll s ((berthsOfQuay q).filter (bootMask s)) berthUp) fun x => { x with quaysUp := q.val + 1 })) := by
  refine congrArg Host.Outcome.next (if_pos ?_)
  have hall : (List.range 64).all (fun b => decide (quayOfBerth b < s.boot.quaysUp) || decide (q.val ≤ quayOfBerth b) ||
      !bootMask s b) = true := by
    rw [List.all_eq_true]
    intro b hb
    by_cases hlow : quayOfBerth b < s.boot.quaysUp
    · simp [hlow]
    · by_cases hhigh : q.val ≤ quayOfBerth b
      · simp [hhigh]
      · simp [hnone b (List.mem_range.1 hb) (Nat.not_lt.1 hlow) (Nat.not_le.1 hhigh)]
  simp [hboot, hreload, h3, h6, hflash, hturn, hall]

theorem exec_parkLoad (h3 : step3Done s = true) (hloaded : s.boot.parkLoaded = false) (hfuses : s.boot.fusesRead = true)
    (hturn : if s.boot.reload = true then step6Done s = true else step7Done s = true ∧ flashGot s 4 = true) :
    exec .parkLoad s = .next (modBoot (corrLoad (forAll (forAll s
      ((List.range 64).filter fun b => (berthAt s b).powered)
      berthParked) ((List.range 64).filter fun b => (berthAt s b).powered) parkTemp))
      fun x => { x with parkLoaded := true, step := 9 }) := by
  refine congrArg Host.Outcome.next (if_pos ?_)
  cases hreload : s.boot.reload with
  | true => simp_all
  | false => simp_all

theorem exec_bootComplete (hloaded : s.boot.parkLoaded = true) (htrained : s.hold.trained = true)
    (hhk : s.clk.hkSettled = true) (hlocked : s.clk.refState = .locked) : exec .bootComplete s =
      .next (if s.hold.stackDown = 3 then deviceFault (bootEnded s) 0x41 0 else bootEnded s) :=
  congrArg Host.Outcome.next (if_pos (by simp [hboot, hloaded, htrained, hhk, hlocked]))

end boot

/-- Settles O57. -/
theorem startUp : Obligations.StartUp := by
  unfold Obligations.StartUp
  intro s
  refine ⟨fun hhigh haon => ?_, fun x => exec_strapCapture x,
    fun hoff => congrArg Host.Outcome.next (if_neg (by simp [hoff])),
    ⟨_, rfl, rfl, rfl, rfl, rfl, rfl, rfl⟩, fun r haon => ?_, ⟨_, rfl, rfl, rfl⟩, ⟨_, rfl, rfl, natBit_land_off _⟩, rfl,
    fun hboot => ?_⟩
  · refine ⟨_, exec_rstNFall hhigh haon, cold_fallen s 4, rfl, rfl, ackOf_fallen s (by decide), fallen_of_warm 4⟩
  · refine ⟨_, exec_railFault r haon, cold_fallen s 5, rfl, natBit_lor_pow _ _, ackOf_fallen s (by decide)⟩
  · refine ⟨fun hnone hunq hgood => ?_, fun hfuses => ?_, fun sfdp a b hwants => ?_, fun bytes =>
      ⟨fun hwants => ?_, fun hwants => ?_, fun hwants => ?_, fun hwants => ?_⟩, fun f h3 huntrained => ?_,
      fun q hreload h3 h6 hflash hturn hskip => ?_, fun h3 hloaded hfuses hturn => ?_,
      fun hloaded htrained hhk hlocked hnone => ?_⟩
    · exact ⟨_, congrArg Host.Outcome.next (if_pos (by simp [hboot, hnone, hunq, hgood])), rfl⟩
    · exact ⟨_, congrArg Host.Outcome.next (if_pos (by simp [hboot, hfuses])), rfl⟩
    · obtain ⟨hread, hfound, hused, hdir⟩ := directoriesRead_shows s sfdp a b
      refine ⟨_, congrArg Host.Outcome.next (if_pos hwants), hread, hfound, ?_⟩
      rintro rfl
      exact ⟨hused, hdir⟩
    · exact ⟨_, congrArg Host.Outcome.next (contentCome_wanted hwants bytes), natBit_flashMark (contentRead s 1 _) 1⟩
    · obtain ⟨hconfig, -⟩ := flashMark_keeps (contentRead s 2 (entryOf s 2 bytes)) 2
      exact ⟨_, congrArg Host.Outcome.next (contentCome_wanted hwants bytes), natBit_flashMark (contentRead s 2 _) 2,
        hconfig.trans (configResult_contentRead s _)⟩
    · exact ⟨_, congrArg Host.Outcome.next (contentCome_wanted hwants bytes), natBit_flashMark (contentRead s 3 _) 3,
        parkResult_contentRead s _⟩
    · obtain ⟨-, hcorr⟩ := flashMark_keeps (contentRead s 4 (entryOf s 4 bytes)) 4
      exact ⟨_, congrArg Host.Outcome.next (contentCome_wanted hwants bytes), natBit_flashMark (contentRead s 4 _) 4,
        hcorr.trans (corrResult_contentRead s _)⟩
    · exact ⟨_, congrArg Host.Outcome.next (if_pos (by simp [hboot, h3, huntrained])), rfl, rfl⟩
    · refine ⟨_, exec_quayPowerUpDone hboot hreload h3 h6 hflash hturn hskip, rfl, fun b hb hmask => ?_⟩
      refine ChainLanes.forAll_establishes (P := fun t => (berthAt t b).powered = true) (fun t => ?_) (fun t k ht => ?_)
        (List.mem_filter.2 ⟨hb, hmask⟩) s
      · rw [powered_berthUp, if_pos rfl]
      · rw [powered_berthUp, ht, ite_self]
    · refine ⟨_, exec_parkLoad hboot h3 hloaded hfuses hturn, rfl, fun b hb hpowered => ?_⟩
      let bs := (List.range 64).filter fun b => (berthAt s b).powered
      have hstands : stands (corrLoad (forAll (forAll s bs berthParked) bs parkTemp)) =
          stands (forAll s bs berthParked) :=
        (stands_corrLoad _).trans (stands_forAll _ stands_parkTemp _ _)
      refine ((stands_eq_iff.1 hstands).1 b).trans ?_
      refine ChainLanes.forAll_establishes (P := fun t => (berthAt t b).run = .parked) (fun t => ?_) (fun t k ht => ?_)
        (List.mem_filter.2 ⟨List.mem_range.2 hb, hpowered⟩) s
      · rw [run_berthParked, if_pos rfl]
      · rw [run_berthParked, ht, ite_self]
    · refine ⟨_, exec_bootComplete hboot hloaded htrained hhk hlocked, ?_⟩
      split
      · have hkept := booted_deviceFault (bootEnded s) 0x41 0
        exact ⟨congrArg Prod.fst hkept, congrArg Prod.snd hkept,
          (References.deviceFault_spec (s := bootEnded s) _ _ hnone).1⟩
      · exact ⟨rfl, rfl, hnone⟩

end Sys2Proof.BootSteps
end

section
/-! Calibration runs: their automatic triggers, the measurements of a step, and the calibration bake (R382 to R387,
R390). -/

namespace Sys2Proof.CalibrationRuns

open Sys2Proof Sys2Proof.Machine

/-! ### What a measurement of the services leaves alone -/

/-- The part of a state on which the end of a step turns, and what a service that is tried again does not touch. -/
structure View where
  run : BRun
  seqPhase : Nat
  target : Nat
  curPos : Nat
  par : Par
  tide : Nat
  freeCtr : Nat

def view (b : Nat) (s : State) : View where
  run := (berthAt s b).run
  seqPhase := (berthAt s b).seqPhase
  target := (berthAt s b).target
  curPos := (calAt s b).curPos
  par := s.par
  tide := s.tide
  freeCtr := s.freeCtr

theorem view_modCal {s : State} {b k : Nat} {f : Cal → Cal} (hf : ∀ x, (f x).curPos = x.curPos) :
    view b (modCal s k f) = view b s := by
  by_cases hb : b = k
  · subst hb
    have hown : berthAt (modCal s b f) b = { berthAt s b with cal := f (calAt s b) } := Standing.berthAt_modBerth _ _ _
    have hpos : (calAt (modCal s b f) b).curPos = (calAt s b).curPos := by
      rw [calAt, hown]
      exact hf _
    rw [view, hpos, hown]
    rfl
  · have hother : berthAt (modCal s k f) b = berthAt s b := Standing.berthAt_modBerth_other _ _ hb
    rw [view, calAt, hother]
    rfl

theorem view_count (s : State) (b sc i f m : Nat) : view b (count s sc i f m) = view b s := rfl

theorem view_measureService (s : State) (b k failed item : Nat) :
    view b (measureService s k failed item) = view b s := by
  unfold measureService
  split
  · dsimp only
    split
    · rw [view_count, calDone, view_modCal, view_modCal, view_modCal]
      all_goals exact fun _ => rfl
    · rw [view_modCal, view_modCal]
      all_goals exact fun _ => rfl
  · rfl

theorem view_measureServices (s : State) (b failed : Nat) : view b (measureServices s b failed) = view b s :=
  forAll_same (view b) _ (fun t n => view_measureService t b b failed n) s _

theorem inPath_congr {s t : State} {b : Nat} (h : view b t = view b s) : inPath t b = inPath s b := by
  have hphase : (berthAt t b).seqPhase = (berthAt s b).seqPhase := congrArg View.seqPhase h
  have htarget : (berthAt t b).target = (berthAt s b).target := congrArg View.target h
  have hpos : (calAt t b).curPos = (calAt s b).curPos := congrArg View.curPos h
  rw [inPath, hphase, htarget, hpos, inPath]

/-! ### The rows -/

/-- The items that an automatic trigger measures: while channel measurements are suspended the services alone. -/
def autoItems (s : State) (b : Nat) : Nat :=
  if autoSuspended s b then Nat.land (liveF s 3 b 0x90 0 1 11) 0x700 else liveF s 3 b 0x90 0 1 11

/-- The number by which a run records its trigger. -/
def autoSource (why : CalTrigger) : Nat :=
  match why with
  | .temperature => 2
  | .period => 3

theorem exec_calAutoTrigger {s : State} {b : Fin 64} {why : CalTrigger} (hon : liveF s 3 b 0x90 0 0 1 = 1)
    (hoff : (berthAt s b).run ≠ .off) (hfault : (berthAt s b).run ≠ .fault) (hidle : calBusy s b = false)
    (hitems : autoItems s b ≠ 0) (hlocked : s.clk.refState = .locked) (hdue : autoDue s b why = true)
    (hfree : patchHolds s s.nextOrd (wingOfBerth b) = false) :
    exec (.calAutoTrigger b why) s = .next (calStart (count s 3 b 0x92 7) b (autoItems s b)
      (autoSource why) (List.range 16)) := by
  have hall : (liveF s 3 b 0x90 0 0 1 = 1 && (berthAt s b).run ≠ .off && (berthAt s b).run ≠ .fault && !calBusy s b &&
      autoItems s b ≠ 0 && s.clk.refState = .locked && autoDue s b why &&
      !patchHolds s s.nextOrd (wingOfBerth b)) = true := by
    simp [hon, hoff, hfault, hidle, hitems, hlocked, hdue, hfree]
  refine congrArg Host.Outcome.next ((if_pos hall).trans ?_)
  cases why <;> rfl

/-- The measurements of a step lead to the end of that step. -/
theorem exec_calMeasureDone {s : State} {b : Fin 64} (hstep : (calAt s b).step = 1) (failed : BitVec 11) :
    exec (.calMeasureDone b failed) s = .next (
      if (calAt s b).runState = 1 then calSpareDone (measureServices s b failed.toNat) b failed.toNat
      else if (calAt s b).runState = 3 then calNext (measureServices s b failed.toNat) b
      else if inPath s b then
        if (berthAt s b).run = .parked then calPathDone (measureServices s b failed.toNat) b failed.toNat
        else pathLeave (measureServices s b failed.toNat) b
      else if (calAt s b).curPos < 16 && ((calAt s b).inPlace || (berthAt s b).seqPhase = 3) then
        calPosDone (measureServices s b failed.toNat) b failed.toNat
      else measureServices s b failed.toNat) := by
  have hkept := view_measureServices s b failed.toNat
  have hrun : (berthAt (measureServices s b failed.toNat) b).run = (berthAt s b).run := congrArg View.run hkept
  have hphase : (berthAt (measureServices s b failed.toNat) b).seqPhase = (berthAt s b).seqPhase :=
    congrArg View.seqPhase hkept
  change execCalMeasureDone b failed s = _
  unfold execCalMeasureDone
  dsimp only
  rw [if_neg (not_not.2 hstep), hrun, hphase, inPath_congr hkept]

theorem exec_calRideTimeout {s : State} {b : Fin 64} {r : Nat} (hready : (calAt s b).readyAt = some r)
    (hnone : s.par.pendBake = none) (hride : liveF s 3 b 0x90 0 12 2 = 1) :
    let u := reach s (r + 800 * liveF s 3 b 0x90 2 0 16)
    exec (.calRideTimeout b) s =
      .next { u with par := { u.par with pendBake := some { instant := u.tide + 1600, tray := 0, cal := some b.val } } } := by
  intro u
  change execCalRideTimeout b s = _
  unfold execCalRideTimeout
  rw [hready, hnone]
  exact congrArg Host.Outcome.next (if_pos hride)

/-- Settles O52. -/
theorem calibrationEvents : Obligations.CalibrationEvents := by
  unfold Obligations.CalibrationEvents
  intro s b
  refine ⟨fun why => ?_, fun failed hstep => ?_, fun r hready hnone hride =>
    ⟨_, exec_calRideTimeout hready hnone hride, rfl, rfl, rfl⟩, fun hbusy hservices => ?_⟩
  · intro items hon hoff hfault hidle hitems hlocked hdue hfree
    refine (exec_calAutoTrigger hon hoff hfault hidle hitems hlocked hdue hfree).trans ?_
    cases why <;> rfl
  · intro u
    refine ⟨fun hspare => ?_, fun hservice => ?_, fun hpath hin => ?_, fun hpos hout hlow hplace => ?_⟩
    all_goals rw [exec_calMeasureDone hstep]
    · rw [if_pos hspare]
    · rw [if_neg (by rw [hservice]; decide), if_pos hservice]
    · rw [if_neg (by rw [hpath]; decide), if_neg (by rw [hpath]; decide), if_pos hin]
    · rw [if_neg (by rw [hpos]; decide), if_neg (by rw [hpos]; decide), if_neg (by rw [hout]; decide), if_pos]
      rcases hplace with h | h
      · simp [hlow, h]
      · simp [hlow, h]
  · have hkept := view_measureServices { s with freeCtr := s.freeCtr + 1 } b
      (Nat.land (Config.freeWord s.freeCtr).toNat 0x700)
    exact ⟨_, congrArg Host.Outcome.next (if_pos (by simp [hbusy, hservices])), congrArg View.freeCtr hkept,
      congrArg View.par hkept, congrArg View.tide hkept⟩

end Sys2Proof.CalibrationRuns
end
